-- ==== Sys2Proof/Word.lean ====
section
/-! DEFINITION. Sys2Proof/Word.lean: the word types of the block and the type of a sparse table. -/

namespace Sys2Proof

/-- A 64-bit word of a register pair, a command packet or a line (R9, R10). -/
abbrev W64 := BitVec 64

/-- The 64 bytes of a line: byte k in bits 8k + 7 .. 8k, word i in bits 64i + 63 .. 64i,
chunk i in bits 128i + 127 .. 128i (R9). -/
abbrev Line := BitVec 512

/-- A line address, PA[51:6] (R30). -/
abbrev LAddr := BitVec 46

/-- An agent ID (R61). -/
abbrev Aid := BitVec 11

/-- A sparse table: key and value pairs, keys strictly rising. An unlisted key reads as the
default that the reader of the table names. -/
abbrev Tbl (α : Type) := List (Nat × α)

end Sys2Proof
end

