-- ==== Sys2Proof/Syntax.lean ====
section
/-! DEFINITION. Sys2Proof/Syntax.lean: the commands of the block, one constructor for each row of
spec/opcode_table.json, and the plain types of their operands. The table gives the rows no bits and
no operands; the operands are the model's choice (log 5). -/

namespace Sys2Proof

/-- The two register windows (R349). -/
inductive Window where
  | hostp | mgmtp
  deriving DecidableEq, Repr

/-- The six queues of the hub, in the order of their codes 0 to 5 (R357). -/
inductive QCode where
  | hcq | mcq | hrq | mrq | evq | loft
  deriving DecidableEq, Repr

/-- A readable queue of a window: its reply queue, EVQ or LOFT (R373). -/
inductive QSel where
  | rpl | evq | loft
  deriving DecidableEq, Repr

/-- The fields of Q_FLUSH (R378). -/
inductive FlushSel where
  | cmdq | rplq | evq | loft
  deriving DecidableEq, Repr

/-- The 64-bit registers whose low half latches the high half (R529). -/
inductive HalfReg where
  | admitMask | ferrAddr | ferrPtc | slicemask
  deriving DecidableEq, Repr

/-- The virtual channels, in the order of their codes 0 to 6 (R262). -/
inductive VC where
  | req | snp | rsp | dat | gt | mgt | err
  deriving DecidableEq, Repr

/-- What the link-level check of a router finds in a packet it takes (R263). -/
inductive LinkErr where
  | none | corrected | datWord | control
  deriving DecidableEq, Repr

/-- The causes of a slice loss (R447, R454). -/
inductive FatalCause where
  | power | tracker | ctrlStore | engineHang | internal | forced | injected
  deriving DecidableEq, Repr

/-- Where an ingress point sends a waiting request: a slice of its instance, or, for a peer home,
the ridge unit of a ridge port (R34, R252). -/
inductive Dest where
  | slice (s : Nat)
  | ridge (r : Nat)
  deriving DecidableEq, Repr

/-- The arrays that salvage reads through the salvage path (R457). -/
inductive SalvArray where
  | tracker | buffers | snoopFilter | tags | data
  deriving DecidableEq, Repr

/-- What one read of the salvage path returns (R457). -/
inductive SalvRead where
  | ok | uncorrectable | noWord
  deriving DecidableEq, Repr

/-- One sample of the strap pins (R354, R480). -/
structure StrapSample where
  boot : BitVec 2
  clkmode : BitVec 2
  cfgsrc : Bool
  id : BitVec 4
  testmode : Bool
  deriving DecidableEq, Repr

/-- The kinds of package-wide change, each with a generation count (R315). Membership and
time-source changes are one kind. -/
inductive GenKind where
  | region | bundle | batten | epoch | partition | member
  deriving DecidableEq, Repr

/-- What a package-wide change carries (R315). -/
inductive GenPayload where
  | region (entries : List (W64 × W64))
  | bundle (map : Tbl (BitVec 6))
  | batten
  | epoch (ms : Nat)
  | block (words : List W64) (digest : BitVec 384)
  | members (mask : BitVec 8)
  | timeSource (inst : BitVec 3)
  deriving DecidableEq, Repr

/-- A package-wide change as PREP carries it: its issuer, its activation tick T and its content. -/
structure GenChange where
  kind : GenKind
  issuer : BitVec 3
  tick : Nat
  payload : GenPayload
  deriving DecidableEq, Repr

/-- A join record (R313), as the hub of the peer sends it. `flushOk` says that the sender's end
meets the rejoin conditions of R311. -/
structure JoinRec where
  inst : BitVec 3
  hwver : BitVec 8
  newcomer : Bool
  members : BitVec 8
  agents : List (Aid × BitVec 7)
  regions : List (W64 × W64)
  rgen : BitVec 16
  map0 : Tbl (BitVec 6)
  map1 : Tbl (BitVec 6)
  curgen : Bool
  parts : Tbl (BitVec 4)
  gtMask : BitVec 16
  maskGen : Nat
  epochMs : Nat
  epochNew : Option Nat := none
  master : BitVec 3
  timeSrc : BitVec 3
  roleOfSender : BitVec 2
  batten : Tbl (BitVec 8)
  gens : List Nat
  flushOk : Bool
  accept : Bool
  deriving DecidableEq, Repr

/-- One access of the DBG port (R352, R353): TRST_N, the IDCODE and BYPASS registers, the read-only
identification instrument, or an instrument of the IEEE 1687 network behind the debug lock. -/
inductive TapAccess where
  | trst
  | idcode
  | bypass (tdi : Bool)
  | ident
  | instrument (n : Nat) (write : Bool) (v : W64)
  deriving DecidableEq, Repr

/-- The commands of the block: one constructor for each row of spec/opcode_table.json. A `c` names
a hub command in progress, `s` a slice, `p` a CA port, `m` a memory port, `r` a ridge port, `n` a
router, `i` an ingress point (a CA port, or 128 + a ridge port), `e` a tracker entry. -/
inductive Instr where
  /-- ECHO (R381). -/
  | echo (c : Nat)
  /-- IDENTIFY (R387). -/
  | identify (c : Nat)
  /-- MEASURE_READ (R388). -/
  | measureRead (c : Nat)
  /-- SLICE_STATE (R389). -/
  | sliceState (c : Nat)
  /-- SLICE_POWER_UP (R390). -/
  | slicePowerUp (c : Nat)
  /-- SLICE_POWER_DOWN (R390). -/
  | slicePowerDown (c : Nat)
  /-- SLICE_RESET_ASSERT (R391). -/
  | sliceResetAssert (c : Nat)
  /-- SLICE_RESET_RELEASE (R391). -/
  | sliceResetRelease (c : Nat)
  /-- PORT_STATE (R392). -/
  | portState (c : Nat)
  /-- PORT_RESET_CA_ASSERT (R394). -/
  | portResetCaAssert (c : Nat)
  /-- PORT_RESET_CA_RELEASE (R394). -/
  | portResetCaRelease (c : Nat)
  /-- PORT_RESET_MEM_ASSERT (R394). -/
  | portResetMemAssert (c : Nat)
  /-- PORT_RESET_MEM_RELEASE (R394). -/
  | portResetMemRelease (c : Nat)
  /-- HC_INVALIDATE_ALL (R229). -/
  | hcInvalidateAll (c : Nat)
  /-- HC_ENABLE (R228). -/
  | hcEnable (c : Nat)
  /-- HC_DISABLE (R229). -/
  | hcDisable (c : Nat)
  /-- INVAL_RANGE (R232). -/
  | invalRange (c : Nat)
  /-- FLUSH_RANGE (R232). -/
  | flushRange (c : Nat)
  /-- WAY_LOCK (R231). -/
  | wayLock (c : Nat)
  /-- WAY_UNLOCK (R231). -/
  | wayUnlock (c : Nat)
  /-- LINE_QUERY (R398). -/
  | lineQuery (c : Nat)
  /-- FLUSH_LINE (R399). -/
  | flushLine (c : Nat)
  /-- SHINGLE_QUERY (R400). -/
  | shingleQuery (c : Nat)
  /-- SHINGLE_MOVE (R54). -/
  | shingleMove (c : Nat)
  /-- BUNDLE_MAP_READ (R401). -/
  | bundleMapRead (c : Nat)
  /-- POLICY_SET (R198). -/
  | policySet (c : Nat)
  /-- POLICY_READ (R402). -/
  | policyRead (c : Nat)
  /-- CALIBRATE_NOW (R173). -/
  | calibrateNow (c : Nat)
  /-- BATTEN_LOAD (R275). -/
  | battenLoad (c : Nat)
  /-- BATTEN_COMMIT (R276). -/
  | battenCommit (c : Nat)
  /-- ROUTER_DRAIN (R283). -/
  | routerDrain (c : Nat)
  /-- PROBE_SET (R284). -/
  | probeSet (c : Nat)
  /-- RIDGE_STATE (R405). -/
  | ridgeState (c : Nat)
  /-- RIDGE_TRAIN_TRAIN (R306). -/
  | ridgeTrainTrain (c : Nat)
  /-- RIDGE_TRAIN_QUIESCE (R306). -/
  | ridgeTrainQuiesce (c : Nat)
  /-- RIDGE_TRAIN_JOIN (R306). -/
  | ridgeTrainJoin (c : Nat)
  /-- RIDGE_TRAIN_OFF (R306). -/
  | ridgeTrainOff (c : Nat)
  /-- PTC_STATUS (R407). -/
  | ptcStatus (c : Nat)
  /-- PROT_PROPOSE_STAGE (R408). -/
  | protProposeStage (c : Nat)
  /-- PROT_PROPOSE (R409). -/
  | protPropose (c : Nat)
  /-- PROT_STATUS (R410). -/
  | protStatus (c : Nat)
  /-- PROT_WITHDRAW (R410). -/
  | protWithdraw (c : Nat)
  /-- UCODE_STAGE (R411). -/
  | ucodeStage (c : Nat)
  /-- UCODE_ACTIVATE (R412). -/
  | ucodeActivate (c : Nat)
  /-- ERR_SEVERITY_SET_THRESHOLD (R413). -/
  | errSeveritySetThreshold (c : Nat)
  /-- ERR_SEVERITY_SET (R413). -/
  | errSeveritySet (c : Nat)
  /-- ERR_LOG_READ (R414). -/
  | errLogRead (c : Nat)
  /-- FERR_CLEAR (R415). -/
  | ferrClear (c : Nat)
  /-- REMAP_LOAD (R416). -/
  | remapLoad (c : Nat)
  /-- REMAP_READ (R416). -/
  | remapRead (c : Nat)
  /-- SALVAGE_STATUS (R417). -/
  | salvageStatus (c : Nat)
  /-- AGENT_FLUSH_NOTE (R418). -/
  | agentFlushNote (c : Nat)
  /-- SCRUB_CONFIG (R419). -/
  | scrubConfig (c : Nat)
  /-- PERF_CONFIG (R420). -/
  | perfConfig (c : Nat)
  /-- FACTORY_INJECT (R476). -/
  | factoryInject (c : Nat)
  /-- CMD_DATA_HI (R364). -/
  | cmdDataHi (w : Window) (v : BitVec 32) (priv : Bool)
  /-- CMD_END_HI (R364). -/
  | cmdEndHi (w : Window) (v : BitVec 32) (priv : Bool)
  /-- KCP_TAKE (R370). -/
  | kcpTake (w : Window)
  /-- FORWARDED_REPLY (R385). -/
  | forwardedReply (c : Nat) (status : BitVec 8) (detail : BitVec 24) (words : List (BitVec 64))
  /-- FORWARD_TIMEOUT (R385). -/
  | forwardTimeout (c : Nat)
  /-- CMD_TRUNCATE (R380). -/
  | cmdTruncate (w : Window)
  /-- QUEUE_POP (R373). -/
  | queuePop (w : Window) (q : QSel) (priv : Bool)
  /-- Q_FLUSH_CMDQ (R378). -/
  | qFlushCmdq (w : Window) (priv : Bool)
  /-- Q_FLUSH_RPLQ (R378). -/
  | qFlushRplq (w : Window) (priv : Bool)
  /-- Q_FLUSH_EVQ (R378). -/
  | qFlushEvq (w : Window) (priv : Bool)
  /-- Q_FLUSH_LOFT (R378). -/
  | qFlushLoft (w : Window) (priv : Bool)
  /-- FLUSH_COMPLETE (R379). -/
  | flushComplete (w : Window) (f : FlushSel)
  /-- QOWNER_WRITE (R372). -/
  | qownerWrite (w : Window) (v : BitVec 32) (priv : Bool)
  /-- QUEUE_OWNER_SWITCH (R372). -/
  | queueOwnerSwitch (q : QCode)
  /-- QUOTA_WRITE (R369). -/
  | quotaWrite (w : Window) (q : QCode) (v : BitVec 32) (priv : Bool)
  /-- ERR_OUT_PULSE_END (R356). -/
  | errOutPulseEnd
  /-- ERRPIN_WRITE (R534). -/
  | errpinWrite (w : Window) (v : BitVec 32) (priv : Bool)
  /-- REGION_COMMIT (R36). -/
  | regionCommit (w : Window) (v : BitVec 32) (peersQuiesced : Bool) (priv : Bool)
  /-- REGION_TABLE_ACTIVATE (R38). -/
  | regionTableActivate
  /-- PERF_CAPTURE (R522). -/
  | perfCapture (w : Window) (user : Bool) (priv : Bool)
  /-- PERFCTL_WRITE (R525). -/
  | perfctlWrite (w : Window) (v : BitVec 32) (priv : Bool)
  /-- SNP_TIMEOUT_WRITE (R452). -/
  | snpTimeoutWrite (w : Window) (v : BitVec 32) (priv : Bool)
  /-- HALF_LATCH_READ (R529). -/
  | halfLatchRead (w : Window) (r : HalfReg) (priv : Bool)
  /-- BOOT_PUSH_HI (R498). -/
  | bootPushHi (w : Window) (v : BitVec 32)
  /-- BOOTCTL_DONE (R498). -/
  | bootctlDone (w : Window)
  /-- BOOTCTL_RESTART (R498). -/
  | bootctlRestart (w : Window)
  /-- REGISTER_WRITE (R11). -/
  | registerWrite (w : Window) (off : BitVec 16) (v : BitVec 32) (priv : Bool)
  /-- POR_TAKEN (R478). -/
  | porTaken
  /-- RESET_N_TAKEN (R479). -/
  | resetNTaken
  /-- RESET_RELEASE (R480). -/
  | resetRelease (samples : List StrapSample) (ohm1 : Nat) (ohm2 : Nat) (fieldFuse : Bool)
  /-- MP_ABORT_FALL (R496). -/
  | mpAbortFall
  /-- FUSE_SEGMENT (R492). -/
  | fuseSegment (seg : BitVec 8) (payload : List (BitVec 32)) (crc : BitVec 32)
  /-- BRINGUP_STEP_DONE (R496). -/
  | bringupStepDone
  /-- BOOT_IMAGE_FROM_PEER (R497). -/
  | bootImageFromPeer (r : Nat) (words : List (BitVec 64))
  /-- SLICE_DOMAIN_GOOD (R505). -/
  | sliceDomainGood (s : Nat)
  /-- SLICE_POWER_TIMEOUT (R505). -/
  | slicePowerTimeout (s : Nat)
  /-- SLICE_POWER_OFF_DONE (R506). -/
  | slicePowerOffDone (s : Nat)
  /-- CAP_ACTIVE_RISE (R332). -/
  | capActiveRise (p : Nat)
  /-- ADV (R333). -/
  | adv (p : Nat) (msg : BitVec 128)
  /-- ADV_CHECK (R334). -/
  | advCheck (p : Nat)
  /-- ADVACK (R335). -/
  | advack (p : Nat)
  /-- CAP_ACTIVE_FALL (R337). `p`: a CA port of this instance, or, from 128 on, port `p % 128` of instance `p / 128 - 1`, whose hub has told
  that it quiesces; this instance's slices then send that port its markers (R290). -/
  | capActiveFall (p : Nat)
  /-- PORT_QUIESCE_COMPLETE (R337). -/
  | portQuiesceComplete (p : Nat)
  /-- PORT_RELEASE_SCAN_DONE (R338). -/
  | portReleaseScanDone (p : Nat)
  /-- AGENT_TABLE_UPDATE (R291). -/
  | agentTableUpdate (src : BitVec 3) (aid : BitVec 11) (valid : Bool) (cap : BitVec 7)
  /-- CA_REQUEST (R32). -/
  | caRequest (p : Nat) (msg : BitVec 128)
  /-- CA_DATI_CHUNK (R328). One beat: two header lanes and two data lanes (R326). -/
  | caDatiChunk (p : Nat) (hdr : BitVec 160) (data : BitVec 256)
  /-- CA_RSPI_MESSAGE (R329). -/
  | caRspiMessage (p : Nat) (msg : BitVec 128)
  /-- INGRESS_SEND (R247). -/
  | ingressSend (i : Nat) (d : Dest)
  /-- CREDIT_ARRIVE (R246). -/
  | creditArrive (i : Nat)
  /-- CREDIT_IDLE_RETURN (R250). -/
  | creditIdleReturn (i : Nat) (s : Nat) (grant : Bool)
  /-- SLICE_INPUT_REQUEST (R103). -/
  | sliceInputRequest (s : Nat) (gt : Bool)
  /-- TXN_ACTIVATE (R104). -/
  | txnActivate (s : Nat) (e : Nat)
  /-- CHAIN_HEAD_ACTIVATE (R105). -/
  | chainHeadActivate (s : Nat) (l : BitVec 46)
  /-- ADMISSION_RELEASE (R125). -/
  | admissionRelease (s : Nat) (set : Nat)
  /-- BUFFER_ACQUIRE (R244). -/
  | bufferAcquire (s : Nat)
  /-- SF_WAY_RESERVE (R159). -/
  | sfWayReserve (s : Nat) (e : Nat)
  /-- SNOOP_ISSUE (R145). -/
  | snoopIssue (s : Nat) (e : Nat)
  /-- SNOOP_DELIVER (R251). -/
  | snoopDeliver (p : Nat) (aid : BitVec 11)
  /-- SNOOP_RESPONSE (R74). -/
  | snoopResponse (s : Nat) (gt : Bool)
  /-- HOME_DAT (R84). -/
  | homeDat (s : Nat) (gt : Bool)
  /-- CMPACK (R83). -/
  | cmpack (s : Nat) (gt : Bool)
  /-- WRITEBACK_ARRIVE (R112). -/
  | writebackArrive (s : Nat) (gt : Bool)
  /-- ATOMIC_OPERATE (R88). -/
  | atomicOperate (s : Nat) (e : Nat)
  /-- PLACEMENT (R215). -/
  | placement (s : Nat) (e : Nat)
  /-- MIRROR_UPDATE (R224). -/
  | mirrorUpdate (s : Nat)
  /-- MIRROR_UPDATE_ACK (R224). -/
  | mirrorUpdateAck (s : Nat)
  /-- MIRROR_REFRESH (R225). -/
  | mirrorRefresh (s : Nat) (set : Nat)
  /-- TXN_CLOSE (R104). -/
  | txnClose (s : Nat) (e : Nat)
  /-- MEM_CMD_PRESENT (R340). -/
  | memCmdPresent (m : Nat) (write : Bool)
  /-- MEM_CREDIT_RETURN (R340). -/
  | memCreditReturn (m : Nat) (write : Bool)
  /-- MEM_READ_CHUNK (R341). -/
  | memReadChunk (m : Nat) (tag : BitVec 8) (valid : BitVec 4) (data : BitVec 512) (poison : BitVec 4) (err : Bool)
  /-- MEM_WRITE_ACK (R342). -/
  | memWriteAck (m : Nat) (tag : BitVec 8) (err : Bool)
  /-- MEM_TIMEOUT (R344). -/
  | memTimeout (m : Nat)
  /-- MEM_SR_ENTER (R345). -/
  | memSrEnter (m : Nat)
  /-- MEM_SR_EXIT (R345). -/
  | memSrExit (m : Nat)
  /-- MEM_WAKE_RAISE (R346). -/
  | memWakeRaise (m : Nat)
  /-- MEM_WAKE_DEADLINE (R346). -/
  | memWakeDeadline (m : Nat)
  /-- SNOOP_TIMEOUT_CHECK (R127). -/
  | snoopTimeoutCheck
  /-- UNREACHABLE_NOTICE (R128). -/
  | unreachableNotice (aid : BitVec 11) (cmpAck : Bool)
  /-- ROUTER_PACKET (R269). -/
  | routerPacket (n : Nat) (o : Nat) (dataLane : Bool) (err : LinkErr)
  /-- LOFT_RECORD (R285). -/
  | loftRecord (n : Nat)
  /-- BATTEN_SWITCH (R276). -/
  | battenSwitch
  /-- ROUTER_DRAIN_EMPTY (R283). -/
  | routerDrainEmpty
  /-- FENCE_MARKER (R49). -/
  | fenceMarker (s : Nat) (vc : VC)
  /-- HOME_MAP_FLIP (R44). -/
  | homeMapFlip
  /-- FLIP_COPY_ACK (R538). -/
  | flipCopyAck
  /-- MOVE_PREPARE_DONE (R49). -/
  | movePrepareDone (sh : Nat)
  /-- MOVE_DRAIN_DONE (R49). -/
  | moveDrainDone (sh : Nat)
  /-- SF_ENTRY_INSTALL (R52). -/
  | sfEntryInstall (s : Nat)
  /-- MOVE_COPY_DONE (R53). -/
  | moveCopyDone (sh : Nat)
  /-- MOVE_DECISION_DEADLINE (R53). -/
  | moveDecisionDeadline (sh : Nat)
  /-- EPOCH_BOUNDARY (R171). `early`: the calibration master's CALIBRATE_NOW has ended the period (R173). -/
  | epochBoundary (early : Bool)
  /-- CALIBRATION_DECISIONS (R171). -/
  | calibrationDecisions
  /-- REGROUP_COMPUTE_DONE (R181). `more`: the samples that the other instances have sent, each with its HCNT and holders (R172). -/
  | regroupComputeDone (more : List (Nat × List (BitVec 11)))
  /-- REGROUP_TIMEOUT (R182). -/
  | regroupTimeout
  /-- REGROUP_MAP_WRITTEN (R184). -/
  | regroupMapWritten
  /-- GEN_FLIP (R184). -/
  | genFlip
  /-- GEN_SWEEP_SET (R152). -/
  | genSweepSet (s : Nat) (set : Nat)
  /-- REGROUP_DONE (R185): the next report that the old generation is free. -/
  | regroupDone
  /-- FORCED_REGROUP (R187). -/
  | forcedRegroup
  /-- GATING_POWER_DOWN (R194). -/
  | gatingPowerDown (pair : Nat)
  /-- GATING_SWITCH_OPEN (R194). -/
  | gatingSwitchOpen
  /-- GATING_POWER_UP (R195). -/
  | gatingPowerUp (pair : Nat)
  /-- SF_SCRUB_VISIT (R169). -/
  | sfScrubVisit (s : Nat)
  /-- HC_SCRUB_VISIT (R235). -/
  | hcScrubVisit (s : Nat)
  /-- OPEN_LINE_RESOLVE (R167). -/
  | openLineResolve (s : Nat) (e : Nat)
  /-- NRU_AGEING_WALK (R219). -/
  | nruAgeingWalk (s : Nat)
  /-- FLIT_RECEIVE (R303). -/
  | flitReceive (r : Nat) (flit : BitVec 1024)
  /-- NAK_RECEIVE (R303). -/
  | nakReceive (r : Nat)
  /-- REPLAY_TIMEOUT (R303). -/
  | replayTimeout (r : Nat)
  /-- LINK_RETRAIN_ENTER (R304). -/
  | linkRetrainEnter (r : Nat) (lossOfLink : Bool)
  /-- PHY_TRAINED (R306). -/
  | phyTrained (r : Nat) (rate : BitVec 3)
  /-- TRAIN_TIMEOUT (R406). -/
  | trainTimeout (r : Nat)
  /-- RETRAIN_SUCCESS (R307). -/
  | retrainSuccess (r : Nat) (peerAck : BitVec 10) (peerGens : List Nat)
  /-- RETRAIN_TIMEOUT (R307). -/
  | retrainTimeout (r : Nat)
  /-- LINK_FAIL (R308). -/
  | linkFail (r : Nat)
  /-- TIME_RECORD (R320). -/
  | timeRecord (r : Nat)
  /-- TIME_RECORD_SEND (R300). -/
  | timeRecordSend (r : Nat)
  /-- CAL_WINDOW_END (R321). -/
  | calWindowEnd (r : Nat)
  /-- CAL_RECORD (R321). -/
  | calRecord (r : Nat)
  /-- TIME_CORRECTION (R321). -/
  | timeCorrection
  /-- PTC_SYNC_FRAME (R318). -/
  | ptcSyncFrame (frame : BitVec 74)
  /-- JOIN_RECORD (R313). -/
  | joinRecord (r : Nat) (rec : JoinRec)
  /-- GEN_PREP (R315). -/
  | genPrep (chg : GenChange)
  /-- GEN_ACK (R315). -/
  | genAck (k : GenKind) (src : BitVec 3) (ok : Bool)
  /-- GEN_ACK_DEADLINE (R315). -/
  | genAckDeadline (k : GenKind)
  /-- GEN_ARM (R315). -/
  | genArm (k : GenKind) (issuer : BitVec 3)
  /-- GEN_ABORT (R315). -/
  | genAbort (k : GenKind) (issuer : BitVec 3)
  /-- GEN_APPLY (R315). -/
  | genApply (k : GenKind)
  /-- GEN_LOST (R315). -/
  | genLost (k : GenKind)
  /-- TIME_SOURCE_CHANGE (R319). -/
  | timeSourceChange (newSrc : BitVec 3)
  /-- PROT_EXPIRE (R432). -/
  | protExpire
  /-- PROT_RETRY (R434). -/
  | protRetry
  /-- PARTITION_TRANSITION_START (R438). -/
  | partitionTransitionStart
  /-- PARTITION_SWEEP_REPORT (R440). -/
  | partitionSweepReport (src : BitVec 3)
  /-- PARTITION_ACTIVATE (R440). -/
  | partitionActivate
  /-- ENGINE_HANG (R454). -/
  | engineHang (s : Nat) (engine : BitVec 4) (thread : BitVec 2)
  /-- SLICE_FATAL (R454). -/
  | sliceFatal (s : Nat) (cause : FatalCause)
  /-- WRAPPER_PACKET (R456). -/
  | wrapperPacket (s : Nat) (vc : VC)
  /-- SALVAGE_RECORD (R458). -/
  | salvageRecord (s : Nat)
  /-- SALVAGE_READ (R457). -/
  | salvageRead (s : Nat) (a : SalvArray) (addr : Nat) (r : SalvRead)
  /-- MIRROR_READ_DONE (R469). -/
  | mirrorReadDone (s : Nat)
  /-- SHINGLE_REHOME (R463). -/
  | shingleRehome (s : Nat)
  /-- LINE_RESOLUTION (R464). -/
  | lineResolution (s : Nat)
  /-- SALVAGE_DECISION (R466). -/
  | salvageDecision (s : Nat)
  /-- OPEN_EAVES_WB_MARK (R467). -/
  | openEavesWbMark (shingles : List (BitVec 12)) (src : BitVec 3)
  /-- OPEN_EAVES_EXIT (R472). -/
  | openEavesExit (sh : Nat)
  /-- VDD_RISE (R488). -/
  | vddRise
  /-- BANK_PASS_DONE (R229). -/
  | bankPassDone (c : Nat)
  /-- RANGE_SCAN_DONE (R232). -/
  | rangeScanDone (c : Nat)
  /-- WAY_LOCK_DONE (R397). -/
  | wayLockDone (c : Nat)
  /-- SLICE_RESET_INIT_DONE (R391). -/
  | sliceResetInitDone (s : Nat)
  /-- UCODE_SLICE_SWITCH (R412). -/
  | ucodeSliceSwitch
  /-- WRITE_THROUGH_SCAN_DONE (R226). -/
  | writeThroughScanDone (s : Nat)
  /-- LINK_FAIL_SCAN_DONE (R309). -/
  | linkFailScanDone (s : Nat) (r : Nat)
  /-- PARTITION_SWEEP_DONE (R439). -/
  | partitionSweepDone (s : Nat)
  /-- FORWARDED_COMMAND (R385). -/
  | forwardedCommand (src : BitVec 3) (ref : Nat) (header : BitVec 64) (params : List (BitVec 64))
  /-- AGENT_FLUSH_NOTE_RECEIVE (R418). -/
  | agentFlushNoteReceive (src : BitVec 3) (aids : List (BitVec 11))
  /-- AGENT_TABLE_CLEAR_ACK (R336). -/
  | agentTableClearAck (p : Nat) (src : BitVec 3)
  /-- CELL_POOL_REBUILD_DONE (R377). -/
  | cellPoolRebuildDone
  /-- FLIT_TRANSMIT (R302). -/
  | flitTransmit (r : Nat)
  /-- TAP_ACCESS (R353). -/
  | tapAccess (acc : TapAccess)
  deriving DecidableEq, Repr

end Sys2Proof
end

