-- ==== Sys2Proof/Config.lean ====
section
/-! DEFINITION. Sys2Proof/Config.lean: what the spec leaves open or to the integrator, as constants with
no body: nothing can be proved of their values. -/

namespace Sys2Proof

/-- FREE VALUE (R431, log 7): the nonce that the protection commit engine draws from its own entropy
source, the n-th time. -/
opaque Config.freeNonce : Nat → BitVec 64

/-- FREE VALUE (R162, R165, log 8): the valid content words, other than the true one, that lie at
distance 2 from a stored snoop-filter word with zero syndrome. The SEC-DED matrix is not in the spec. -/
opaque Config.otherCandidates : BitVec 115 → List (BitVec 115)

/-- IMPLEMENTATION (R352): the integrator's manufacturer code in IDCODE. -/
opaque Config.manufacturer : BitVec 11

/-- FREE VALUE (R353, log 9): what an unlocked instrument of the IEEE 1687 network returns, the n-th time. -/
opaque Config.instrument : Nat → Nat → BitVec 64

/-- IMPLEMENTATION (R482, R497): the boot image in the image ROM of the integration shell. -/
opaque Config.romImage : List (BitVec 64)

/-- What the header of a boot or microcode image says. -/
inductive ImageCheck where
  | good       -- header and size check
  | badImage   -- a header or size check fails (R499 IMAGE)
  | badConfig  -- built for another configuration or hardware version (R499 CONFIG)
  deriving DecidableEq, Repr, Inhabited

/-- FREE VALUE (R497, R412, log 10): the layout of an image header is not in the spec. -/
opaque Config.imageCheck : List (BitVec 64) → ImageCheck

/-- FREE VALUE (R412, log 10): whether the header of a staged microcode image matches the configuration. -/
opaque Config.ucodeCheck : List (BitVec 64) → Bool

/-- FREE VALUE (R441, log 10): the version in the firmware header of a boot image. -/
opaque Config.fwVersion : List (BitVec 64) → BitVec 32

/-- FREE VALUE (R441, log 10): the version in the microcode header of an image. -/
opaque Config.ucVersion : List (BitVec 64) → BitVec 32

/-- FREE VALUE (R497, log 10): the firmware part and the microcode part of a boot image. -/
opaque Config.fwPart : List (BitVec 64) → List (BitVec 64)

/-- FREE VALUE (R497, log 10): the microcode part of a boot image. -/
opaque Config.ucPart : List (BitVec 64) → List (BitVec 64)

/-- FREE VALUE (R447, log 19): the VALUE field of a MISC event for which the spec gives none, and its CODE for
GEN_LOST. By source and code. -/
opaque Config.miscValue : Nat → Nat → Nat

/-- FREE VALUE (log 19): the cell index of a CELL_POOL or CELL_CE event that is not about one cell (R377, R366). -/
opaque Config.listCell : Nat → Nat

/-- FREE VALUE (log 20): how many ticks beyond the least that the spec asks for the block waits, the n-th time
(R38, R184, R435, R440). -/
opaque Config.freeDelay : Nat → Nat

/-- IMPLEMENTATION (R18, R20, log 2): the frequency of CCLK in MHz during a tick of the package time counter, which the integrator may
change; the model takes it into the range of R18. -/
opaque Config.cclk : Nat → Nat

/-- FREE VALUE (R136, log 8): the check bits of a snoop-filter entry. The SEC-DED matrix is not in the spec. -/
opaque Config.sfCheck : BitVec 115 → BitVec 8

/-- FREE VALUE (R262, log 8): the check bits of a mesh header. The SEC-DED matrix is not in the spec. -/
opaque Config.headerCheck : BitVec 56 → BitVec 8

/-- FREE VALUE (R285, log 27): the 128 bits of a control message whose layout is not in the spec, the n-th time. -/
opaque Config.controlBits : Nat → BitVec 128

/-- FREE VALUE (R268, log 12): the length, in body flits, of the n-th MGT or ERR packet, whose layout is not in the spec; the model
takes it modulo 33. -/
opaque Config.hubBody : Nat → Nat

/-- FREE VALUE (R263, log 27): the content of a snoop-filter entry whose word on the mesh cannot be corrected, the n-th time. -/
opaque Config.lostEntry : Nat → BitVec 115

/-- IMPLEMENTATION (R337, log 23): the powered slices of a peer instance, whose fence markers a quiescing port awaits. -/
opaque Config.peerSlices : Nat → List Nat

/-- IMPLEMENTATION (R172, log 14): whether a summary of another instance names a link of its own that was failed or retraining at a boundary. By
the boundary. -/
opaque Config.peerLinksBad : Nat → Bool

/-- FREE VALUE (R189, log 28): the spurious share, in percent, of a slice whose sample table is empty. By slice and epoch boundary. -/
opaque Config.emptyShare : Nat → Nat → Nat

/-- IMPLEMENTATION (R353, log 9): whether an instrument of the DBG network is the router scan. -/
opaque Config.routerScan : Nat → Bool

/-- FREE VALUE (R236, R491, log 101): the spare-row records of the payload of a segment, whose layout is not in the spec: the array and the row
that each replaces. -/
opaque Config.spareRows : List (BitVec 32) → List (Nat × Nat)

/-- FREE VALUE (R290, log 89): whether, by a tick of the package time counter, the oldest fence marker that a slice has sent over a link has left
the peer's incoming snoop buffer, which is the peer's own state. -/
opaque Config.markLeft : Nat → Bool

end Sys2Proof
end

