-- ==== Sys2Proof/Machine/State.lean ====
section
/-! DEFINITION. Sys2Proof/Machine/State.lean: everything the spec gives one instance of the block, as
plain data, and its value at reset. -/

namespace Sys2Proof.Machine

/-- Why a step stops with a fault: no command of the block does. What another party does against an obligation of the manual leaves the
block running (R4, log 15). -/
inductive Fault where
  deriving DecidableEq, Repr

/-- Why a step is refused. -/
inductive Refusal where
  /-- The command has no meaning in the model yet. Raised by Dispatch only. Safe. -/
  | notModelled (mnemonic : String)
  /-- A write to an instrument of the unlocked IEEE 1687 network: R353 names array test access, router
  scan and sequencer debug but gives no layout and no effect. Raised by TAP_ACCESS. Safe. -/
  | debugInstrument
  deriving DecidableEq, Repr

/-- The four configurations (R12). -/
inductive Gh where
  | gh16 | gh32 | gh48 | gh64
  deriving DecidableEq, Repr

/-- The requests of R63. -/
inductive ReqOp where
  | rdShared | rdUnique | makeUnique | rdNoSnoop | cleanShared
  | wrLine | wrPartial | evict | wbDirty | wbOwned
  | atomAdd | atomSwap | atomCas | atomAnd | atomOr
  deriving DecidableEq, Repr

/-- The snoops of R65. -/
inductive SnpOp where
  | shared | unique | inv | clean
  deriving DecidableEq, Repr

/-- The snoop responses of R66. -/
inductive RspOp where
  | rspI | rspS | rspIWb | rspSWb | rspIFwd | rspSFwd | rspO
  deriving DecidableEq, Repr

/-- The granted states of R67. -/
inductive Grant where
  | i | s | e | m | o
  deriving DecidableEq, Repr

/-- Which credit a message was sent with (R241, R243, R245). -/
inductive CredKind where
  | none | gt | any | shared | wb | grant
  deriving DecidableEq, Repr

/-- A request message (R62). -/
structure Req where
  op : ReqOp := .rdNoSnoop
  aid : Aid := 0
  txid : BitVec 12 := 0
  laddr : LAddr := 0
  cidx : BitVec 2 := 0
  widx : BitVec 3 := 0
  stream : Bool := false
  deriving DecidableEq, Repr

/-- Line data being collected: the bytes, which chunks have arrived, and whether any was poisoned (R71). -/
structure LineBuf where
  data : Line := 0
  got : BitVec 4 := 0
  poison : Bool := false
  deriving DecidableEq, Repr

/-- The data of a request that an endpoint has received, chunk by chunk (R69, KIND 10). -/
structure ReqData where
  aid : Aid
  txid : BitVec 12
  d : LineBuf := {}
  be : BitVec 64 := 0
  deriving DecidableEq, Repr

/-- One entry of the sample table (R177). -/
structure Sample where
  laddr : LAddr
  hcnt : Nat
  ssize : Nat
  holders : List Aid
  deriving DecidableEq, Repr

/-- What the block sends to the hub of a peer instance over MGT. -/
inductive MgtMsg where
  | agent (aid : Aid) (valid : Bool) (cap : BitVec 7)
  | agentAck (valid : Bool)
  | unreach (aid : Aid) (cmpAck : Bool)
  | fwdCmd (ref : Nat) (header : W64) (params : List W64)
  | fwdReply (ref : Nat) (status : BitVec 8) (detail : BitVec 24) (words : List W64)
  | prep (chg : GenChange)
  | answer (k : GenKind) (ok : Bool)
  | arm (k : GenKind) (issuer : BitVec 3)
  | abort (k : GenKind) (issuer : BitVec 3)
  | join (rec : JoinRec)
  | flushNote (aids : List Aid)
  | flushAck
  | sweepReport
  | bundleMap (map : Tbl (BitVec 6))
  | activateAt (tick : Nat)
  | forceRegroup
  | genFree
  | summary (sent spur : Tbl (BitVec 32)) (samples : List Sample) (linkBad : Bool)
  | calibrate
  | image (words : List W64)
  | openList (shingles : List Nat) (tick : Nat)
  | quiescing (cap : Nat)
  | release (cap : Nat)
  | released (cap : Nat)
  deriving DecidableEq, Repr

/-- What an MGT or ERR packet carries; the spec lays none of it out (R264, R268, R289, log 12). -/
inductive HubMsg where
  | peer (dst : BitVec 3) (body : Nat)   -- towards the hub of a peer; `body`: its body flits, of 128 bits each
  | fromPeer                             -- a packet of a peer's hub, from the ridge unit to the hub
  | own                                  -- a notice of a unit to the hub of its own instance
  | trace (w0 w1 w2 : W64)               -- a trace record of a probe (R285)
  | write                                -- table entries that the hub writes at a unit (R44, R184)
  | report                               -- an error report (R264)
  | entries (sh : Nat) (ents : List (Nat × BitVec 115))   -- salvaged snoop-filter entries for a slice, one a body flit (R16, R460)
  deriving DecidableEq, Repr

/-- A message inside the mesh or on a ridge link. The data of a request follow it as chunks of KIND 10 (R69; log 11). -/
inductive Msg where
  | req (q : Req) (src : Nat) (cred wbCred : CredKind)
  | snp (op : SnpOp) (aid : Aid) (htid : BitVec 20) (laddr : LAddr) (cidx : BitVec 2)
      (raid : Aid) (rtxid : BitVec 12)
  | rsp (op : RspOp) (aid : Aid) (htid : BitVec 20) (pd wbp : Bool)
  | cmpAck (aid : Aid) (htid : BitVec 20)
  | cmp (aid : Aid) (txid : BitVec 12) (htid : BitVec 20) (g : Grant) (data : Bool) (result : W64)
  | cmpErr (aid : Aid) (txid : BitVec 12) (htid : BitVec 20) (reason : BitVec 8)
  | wbAck (aid : Aid) (txid : BitVec 12) (htid : BitVec 20) (superseded : Bool)
  | dat (kind : BitVec 2) (aid : Aid) (txid : BitVec 12) (htid : BitVec 20) (cidx : BitVec 2)
      (last poison : Bool) (be : BitVec 16) (d : BitVec 128)
  | credit (slice : Nat) (k : CredKind) (n : Nat)
  | creditBack (src : Nat) (k : CredKind)
  | mirrorSet (hset : Nat) (slot : BitVec 5) (ltag : BitVec 35) (txn : Nat)
  | mirrorClr (hset : Nat) (slot : BitVec 5) (ltag : BitVec 35)
  | mirrorAck (txn : Nat)
  | marker (src : Nat)
  | snpMarker (inst : BitVec 3) (slice : Nat) (cap : Nat)
  | sfCopy (sh : Nat) (ents : List (Nat × BitVec 115))
  | hub (m : HubMsg)
  deriving DecidableEq, Repr

/-- A packet in the mesh: its message under the header fields of R262. Nodes are slice IDs, ports the
codes of R259. `beat`: the data beat of the CA port that brought it, whose credit returns when it enters the mesh (R327). An MGT or ERR
packet is one or more flits, each a `Pkt` with HEAD on the first and TAIL on the last (R268). -/
structure Pkt where
  vc : VC
  dnode : Nat
  dport : Nat
  snode : Nat
  sport : Nat
  gtc : Nat := 0
  head : Bool := true
  tail : Bool := true
  beat : Option Nat := none
  msg : Msg
  deriving DecidableEq, Repr

/-- A snoop-filter entry as stored, without its check bits (R136). -/
structure SfEnt where
  tag : BitVec 34 := 0
  st : BitVec 3 := 0
  own : Aid := 0
  mode : BitVec 2 := 0
  gen : Bool := false
  payload : W64 := 0
  deriving DecidableEq, Repr

/-- A home-cache tag word without its check bits (R203). -/
structure HcTag where
  ltag : BitVec 35 := 0
  hst : BitVec 3 := 0
  fmt : BitVec 2 := 0
  hh : Bool := false
  age : Bool := false
  sfl : Bool := false
  deriving DecidableEq, Repr

/-- A home-cache control word without its check bits (R222). -/
structure HcCtl where
  lock : BitVec 16 := 0
  nru : BitVec 16 := 0
  rot : BitVec 4 := 0
  dcnt : BitVec 5 := 0
  deriving DecidableEq, Repr

/-- A mirror entry without its check bits (R223). -/
structure MirEnt where
  v : Bool := false
  slot : BitVec 5 := 0
  ltag : BitVec 35 := 0
  deriving DecidableEq, Repr

/-- A stored array word whose check bits no longer match it: the array of R236, the word address and which of its
two lowest bits are inverted. The SEC-DED matrix is not in the spec (R162, log 8), so the error itself is held beside
the true content. -/
structure ArrErr where
  array : Nat
  addr : Nat
  flip : BitVec 2
  deriving DecidableEq, Repr

/-- A field-repair remap entry (R238). -/
structure Remap where
  array : BitVec 3
  waddr : BitVec 20
  slice : BitVec 6
  deriving DecidableEq, Repr

/-- A performance counter: value, overflow, event and enable (R513, R515). -/
structure Ctr where
  val : BitVec 48 := 0
  ovf : Bool := false
  ev : BitVec 8 := 0
  en : Bool := false
  deriving DecidableEq, Repr

/-- A snoop that a transaction still has to issue. `attr`: bundle-attributed (R155); `fine`: to a FINE
pointer (R174); `own`: to the owner. -/
structure SnpTodo where
  aid : Aid
  op : SnpOp
  own : Bool := false
  fine : Bool := false
  attr : Bool := false
  deriving DecidableEq, Repr

/-- A snoop that has left the slice through ingress point `via`, with the tick and the timeout it left under (R127, R452). -/
structure SnpOut where
  snp : SnpTodo
  via : Nat
  start : Nat
  limit : Nat
  deriving DecidableEq, Repr

/-- A snoop response as the transaction has it. `lost`: no chunks follow, the line is poisoned or comes from an
absorbed writeback (R129). -/
structure Resp where
  aid : Aid
  op : RspOp
  pd : Bool := false
  wbp : Bool := false
  own : Bool := false
  lost : Bool := false
  deriving DecidableEq, Repr

/-- A writeback-class message held at its slice, in a writeback-share entry `e` (R109). `arr`: its place in the order of arrival (R113). -/
structure WbMsg where
  e : Nat
  arr : Nat := 0
  q : Req
  d : LineBuf
  src : Nat
  cred : CredKind
  gtc : Nat := 0
  isGt : Bool := false
  deriving DecidableEq, Repr

/-- What a tracker or escape entry works for: a request, a writeback, or a home-initiated flow (R106): `mirrorTag` poisons the line of a
lost tag, `recover` the Dirty line whose data the scrubber found lost (R234). -/
inductive TKind where
  | req
  | wb
  | backInv
  | openRes
  | lineRes
  | flushLine
  | linkClean
  | mirrorTag
  | recover
  deriving DecidableEq, Repr

/-- How far a transaction has come. -/
inductive TPhase where
  | chained      -- waits on its line's conflict chain (R105)
  | admission    -- waits on its set's admission list (R125)
  | ready        -- active, lookup not yet done
  | bufWait      -- active, looked up, waits for its data buffers (R244)
  | running      -- active, looked up, holds its buffers
  deriving DecidableEq, Repr

/-- The memory read of a transaction. -/
inductive RdSt where
  | none | queued | done
  deriving DecidableEq, Repr

/-- Where the line that a transaction delivers or works on comes from (R74): HC/M, forwarded, or the snoop response. -/
inductive Use where
  | undecided | nothing | home | fwd | rsp
  deriving DecidableEq, Repr

/-- What a transaction has to place (R78, R82, R129): a clean fill, dirty data, poison, or, for CleanShared, the
write of a line that stays resident. -/
inductive What where
  | nothing | fill | dirty | poison | clean
  deriving DecidableEq, Repr

/-- How far a placement has come (R82). -/
inductive PlSt where
  | none | due | busy | done
  deriving DecidableEq, Repr

/-- A tracker entry or escape entry: one transaction or home flow of a slice (R239, R109). `ran`: the CCLK cycle in which its thread last
moved it on (R454); `found`: the ACC code of what found the way of an OPEN resolution (R448); `again`: it has left a chain or the deferred
writebacks, and its lookup takes a slot of its own (R511). -/
structure Txn where
  e : Nat
  kind : TKind := .req
  q : Req := {}
  src : Nat := 0
  isGt : Bool := false
  gtc : Nat := 0
  cred : CredKind := .none
  wbCred : CredKind := .none
  phase : TPhase := .chained
  arr : Nat := 0
  act : Nat := 0
  ran : Nat := 0
  counted : Bool := false
  ent : SfEnt := {}
  way : Option Nat := Option.none
  fresh : Bool := false
  placed : Bool := false
  hh : Bool := false
  bufs : Nat := 0
  todo : List SnpTodo := []
  outs : List SnpOut := []
  resps : List Resp := []
  second : List Aid := []
  disc : Bool := false
  holders : List Aid := []
  ssize : Nat := 0
  eaves : Bool := false
  snooped : Bool := false
  settled : Bool := false
  wdata : LineBuf := {}
  be : BitVec 64 := 0
  rspd : LineBuf := {}
  nchunk : Nat := 0
  line : LineBuf := {}
  use : Use := .undecided
  rd : RdSt := .none
  specu : Bool := false
  spec : LineBuf := {}
  sent : BitVec 4 := 0
  data : Bool := false
  grant : Grant := .i
  cmpSent : Bool := false
  failed : Bool := false
  ackFrom : Option Nat := Option.none
  ackLimit : Nat := 0
  what : What := .nothing
  pdata : LineBuf := {}
  phh : Bool := false
  partialW : Bool := false
  place : PlSt := .none
  writes : Nat := 0
  mirror : Bool := false
  result : W64 := 0
  operated : Bool := false
  absorbed : List WbMsg := []
  cands : List LAddr := []
  npois : Nat := 0
  ncand : Nat := 0
  sway : Nat := 0
  outcome : BitVec 2 := 0
  cmd : Option Nat := Option.none
  found : Nat := 0
  again : Bool := false
  deriving DecidableEq, Repr

/-- A victim-share entry (R116). `poison`: its buffer was found uncorrectable (R453); `sent`: VB_SENT; `cmd`: the bank or range command
that wrote the line back. -/
structure Victim where
  e : Nat
  laddr : LAddr
  data : Line
  set : Nat
  slot : Nat
  poison : Bool := false
  sent : Bool := false
  cmd : Option Nat := none
  deriving DecidableEq, Repr

/-- The calibration counters of a slice (R174). -/
structure Calib where
  sent : Tbl (BitVec 32) := []
  spur : Tbl (BitVec 32) := []
  biTotal : BitVec 32 := 0
  biRefill : BitVec 32 := 0
  fineSnp : BitVec 32 := 0
  fineRspI : BitVec 32 := 0
  specSnp : Tbl (BitVec 32) := []
  specRspI : Tbl (BitVec 32) := []
  sfill : BitVec 32 := 0
  shit : BitVec 32 := 0
  samples : List Sample := []
  busy : Nat := 0
  back : Nat := 0
  span : Nat := 0
  deriving DecidableEq, Repr

/-- A record of the isolation wrapper (R455), with the class its answer travels in; `data`: its Cmp has left with DATA, for chunks of this
slice. -/
structure WRec where
  q : Req
  src : Nat
  htid : BitVec 20
  isGt : Bool := false
  gtc : Nat := 0
  snooped : Bool := false
  cmp : Bool := false
  data : Bool := false
  chunks : BitVec 4 := 0
  deriving DecidableEq, Repr

/-- States of a slice, in the order of their codes (R389). -/
inductive SlState where
  | on | off | poweringUp | poweringDown | reset | failed | disabled
  deriving DecidableEq, Repr

/-- States of a home-cache bank, in the order of their codes (R227, R389). -/
inductive BankSt where
  | off | ready | on | draining
  deriving DecidableEq, Repr

/-- The shared or data-grant pool of a slice: SH[i] per ingress point, the demand flags D[i] that are set, and the last one granted
(R249). -/
structure Pool where
  held : Tbl Nat := []
  demand : List Nat := []
  last : Nat := 0
  deriving DecidableEq, Repr

/-- The salvage of a lost slice (R457 to R472). `shs`: its shingles; `recs`, `txns`: the records of its wrapper and its
tracker as the salvage path finds it; `read`, `lostArrays`, `lostWords`: what the path has returned; `late`: writes that wait for
those of R461; `vict`: victims whose write is outstanding; `installs`, `copies`: entries to install, from the snoop filter and from completed records; `begun`: line
resolutions begun; `sentSh`, `toCopy`: shingles whose entries are on their way, and the entries not yet installed. `c0`: the cycle of the loss;
`mirLines`: the mirror's lines as they were read, when the slice that holds them is lost before they are used (R225, R469). -/
structure Salv where
  cause : FatalCause := .internal
  phase : Nat := 0
  t0 : Nat := 0
  t0ptc : W64 := 0
  c0 : Nat := 0
  mirLines : Option (List (LAddr × Nat)) := none
  fenced : Bool := false
  flipped : Bool := false
  shs : List Nat := []
  mirrorDone : Bool := false
  recs : List WRec := []
  txns : List Txn := []
  read : List (SalvArray × Nat) := []
  lostArrays : List SalvArray := []
  lostWords : List (SalvArray × Nat) := []
  late : List (LAddr × LineBuf × BitVec 64) := []
  vict : List LAddr := []
  poisons : List LAddr := []
  unsettled : List LAddr := []
  begun : List LAddr := []
  homes : List (Nat × Nat) := []
  openSh : List Nat := []
  installs : List (LAddr × SfEnt) := []
  copies : List (LAddr × SfEnt) := []
  sentSh : List Nat := []
  toCopy : List (Nat × LAddr) := []
  decided : Bool := false
  moved : Nat := 0
  written : Nat := 0
  poisoned : Nat := 0
  cmd : Option Nat := none
  deriving DecidableEq, Repr

/-- One slice (01, 13 R389). `thru`: resident Dirty lines whose data a memory write carries, with the number of that write (R541);
`marks`: fence markers for CA ports of peers, with true once sent, when each holds a snoop credit (R290); `copyIn`: snoop-filter entries that
have arrived and wait to be installed, in order of arrival, each with its shingle and word address (R52); `wdat`: request data that have arrived ahead of their request (R69); `sfWait`, `hcWait`: the cycle from
which a due scrubber visit has waited for an input without messages, and `genAt`: that of the sweep's next set (R20, R152); `slots`: issue slots taken
and not yet counted, with true for a wasted one (R512); `markCred`: markers sent, with the ridge point whose snoop credit each still holds (R290). -/
structure Slice where
  st : SlState := .off
  wrapper : Bool := false
  clamped : Bool := true
  segTick : Nat := 0
  since : Nat := 0
  bank : BankSt := .off
  hcinit : Bool := false
  wt226 : Bool := false
  wtScan : Bool := false
  lfsr : BitVec 16 := 0
  lfsrRun : Bool := false
  walkPos : Nat := 0
  walkFrom : Nat := 0
  thr : Nat := 5
  thrPin : Bool := false
  thrMin : Nat := 2
  thrMax : Nat := 5
  thrHist : Nat := 0
  sf : Tbl SfEnt := []
  sfNru : Tbl (BitVec 16) := []
  sfRot : Tbl (BitVec 4) := []
  sfParity : List Nat := []
  hcTag : Tbl HcTag := []
  hcData : Tbl W64 := []
  hcCtl : Tbl HcCtl := []
  mirror : Tbl MirEnt := []
  refresh : List Nat := []
  errs : List ArrErr := []
  remaps : List Remap := []
  hist : List (Nat × Nat) := []
  remapFull : BitVec 5 := 0
  txns : List Txn := []
  deferred : List WbMsg := []
  victims : List Victim := []
  thru : List (LAddr × Nat) := []
  nextWr : Nat := 1
  nextArr : Nat := 0
  bufUsed : Nat := 0
  shared : Pool := {}
  grants : Pool := {}
  snpCred : Tbl Nat := []
  calib : Calib := {}
  snap : Calib := {}
  recent : List LAddr := []
  sfInt : Nat := 2048
  sfPos : Nat := 0
  sfDue : Nat := 0
  hcInt : Nat := 1024
  hcPos : Nat := 0
  hcDue : Nat := 0
  sfWait : Option Nat := none
  hcWait : Option Nat := none
  genSweep : Bool := false
  genAt : Nat := 0
  partSweep : Bool := false
  ucVer : BitVec 32 := 0
  ucSwitch : Bool := false
  perf : Tbl Ctr := []
  slots : List Bool := []
  discards : Nat := 0
  salv : Option Salv := none
  exitSets : List (Nat × List Aid) := []
  marks : List (BitVec 3 × Nat × Bool) := []
  markCred : List (BitVec 3 × Nat × Nat) := []
  copyIn : List (Nat × Nat × BitVec 115) := []
  wdat : List ReqData := []
  deriving DecidableEq, Repr

/-- States of a CA port, in the order of their codes (R331). -/
inductive CaSt where
  | quiesced | bringup | active | quiescing | isolated
  deriving DecidableEq, Repr

/-- An ADV of the bring-up in progress and the result it will be answered with (R333, R334). -/
structure Adv where
  aid : Aid
  scred : BitVec 4
  nag : BitVec 5
  idx : BitVec 4
  badField : Bool
  deriving DecidableEq, Repr

/-- An agent of a port: its advertised snoop credits and those still free (R91, R251). -/
structure Agent where
  aid : Aid
  scred : Nat
  free : Nat
  deriving DecidableEq, Repr

/-- An entry of a request ingress buffer (R47). `part`: the requester's partition when taken;
`mark`: marked poisoned under R467; `home`: none for this instance, else the peer instance. -/
structure IngEntry where
  q : Req
  d : LineBuf := {}
  be : BitVec 64 := 0
  arr : Nat := 0
  isGt : Bool := false
  part : BitVec 4 := 0
  peer : Option (BitVec 3) := none
  mark : Bool := false
  deriving DecidableEq, Repr

/-- Credits an ingress point holds for one slice (R245), and for each shared credit and each data grant, the oldest first, the tick since
which it is held and no request has waited for that slice (R250). -/
structure SlCred where
  gt : Nat := 0
  any : Nat := 0
  shared : Nat := 0
  wb : Nat := 0
  grant : Nat := 0
  sharedFrom : List Nat := []
  grantFrom : List Nat := []
  deriving DecidableEq, Repr

/-- A snoop or fence marker in a snoop buffer, with the class it travels in (R251, R266). -/
structure SnpIn where
  m : Msg
  gt : Bool := false
  gtc : Nat := 0
  deriving DecidableEq, Repr

/-- A snoop that has been delivered to an agent: until its answer, and the chunks that come with it, have passed the port
(R266, R337). `due`: chunks that its answer brings, none before the answer. -/
structure SnpDel where
  aid : Aid
  htid : BitVec 20
  op : SnpOp
  raid : Aid
  rtxid : BitVec 12
  gt : Bool
  gtc : Nat
  due : Option Nat := none
  sent : Nat := 0
  deriving DecidableEq, Repr

/-- A caching-agent port and its adapter (11). `rspiCrd`, `datiCrd`: the credits given; `beats`: data beats taken; `datoAt`: the cycle in
which the last data beat left with lane 1 free (R70, R327). `dataDrop`: chunks still to come of requests that were answered at the
port, which are discarded (R64). `tableAcks`, `awaitPeers`: the peers whose acknowledgement of the table write, and of its clearing, is awaited
(R335, R336); `scansDue`: those whose scans are (R338); `acks`: the GT class at which each transaction was accepted, for its CmpAck (R440);
`stale`: transactions open from before a PORT_RESET (R504). -/
structure CaPort where
  st : CaSt := .quiesced
  enable : Bool := false
  active : Bool := false
  ready : Bool := false
  nag : BitVec 5 := 0
  advs : List Adv := []
  refused : Bool := false
  written : Bool := false
  abandoned : Bool := false
  tableAcks : BitVec 8 := 0
  awaitPeers : BitVec 8 := 0
  agents : List Agent := []
  reqCrd : Nat := 0
  rspiCrd : Nat := 0
  datiCrd : Nat := 0
  beats : Nat := 0
  datoAt : Option Nat := none
  ingress : List IngEntry := []
  dataDrop : List (Aid × BitVec 12 × BitVec 4) := []
  snpBuf : List SnpIn := []
  snpOut : List SnpDel := []
  cred : Tbl SlCred := []
  discards : BitVec 32 := 0
  markers : List (Nat × Nat) := []
  markersDue : List (Nat × Nat) := []
  relCmds : List Nat := []
  scansDue : BitVec 8 := 0
  stale : List (BitVec 20) := []
  acks : List (BitVec 20 × Bool × Nat) := []
  perf : Tbl Ctr := []
  deriving DecidableEq, Repr

/-- What a memory command works for, inside slice `slice`. -/
inductive MemFor where
  | txn (e : Nat)         -- read, placement write or write-back of a tracker or escape entry
  | victim (e : Nat)      -- a Dirty victim (R116)
  | through               -- write-back of the write-through scan (R226)
  | prep (sh : Nat)       -- PREPARE write of a move (R49)
  | poison                -- poison of a line with no transaction (R206)
  | salvage               -- write-back or poison of salvage (R461)
  | range (c : Nat)       -- write-back of a range command, which leaves the line resident or not (R232)
  deriving DecidableEq, Repr

/-- A memory command of a port: waiting to be presented, or accepted and outstanding (R340). `num`: the number under which its line waits
for it in `thru` (R541). -/
structure MemCmd where
  write : Bool
  partialW : Bool := false
  laddr : LAddr
  cidx : BitVec 2 := 0
  data : Line := 0
  be : BitVec 64 := BitVec.allOnes 64
  poison : Bool := false
  slice : Nat
  owner : MemFor
  num : Nat := 0
  tag : BitVec 8 := 0
  presented : Option Nat := none
  limit : Nat := 0
  got : BitVec 4 := 0
  heldFrom : Option Nat := none
  void : Bool := false
  deriving DecidableEq, Repr

/-- A memory port (R339 to R347). -/
structure MemPort where
  failed : Bool := false
  inReset : Bool := false
  sr : Bool := false
  srAt : Nat := 0
  wake : Bool := false
  wakeAt : Nat := 0
  abort : Bool := true
  abortFrom : Nat := 0
  timeout : Nat := 1000000
  wakeDelay : Nat := 0
  never : Bool := false
  heldFrom : Option Nat := none
  rdCred : Nat := 0
  wrCred : Nat := 0
  held : List MemCmd := []
  outst : List MemCmd := []
  discards : Nat := 0
  readUtil : Nat := 0
  deriving DecidableEq, Repr

/-- States of a ridge port, in the order of their codes (R305). -/
inductive LinkSt where
  | off | training | linked | joined | retraining | failed | duplicate
  deriving DecidableEq, Repr

/-- A packet waiting for transmission on a ridge link, or being received: its slots of 128 bits (R299). `buf`: the receive
buffer whose credits it needs, one for each slot, or one for the whole of a request (R301). -/
structure TxPkt where
  vc : VC
  gtc : Nat := 0
  buf : Option Nat := none
  slots : List (BitVec 128)
  deriving DecidableEq, Repr

/-- A proxy entry: a local request towards a peer home (R252). `stale`: it was open before a PORT_RESET of its port (R503, R504). -/
structure Proxy where
  q : Req
  port : Nat
  guar : Bool
  answered : Bool := false
  htid : BitVec 20 := 0
  stale : Bool := false
  deriving DecidableEq, Repr

/-- A ridge port and its unit (10). `proxyPool`: its shared proxy credits by CA port (R252). `txMgt`, `rxMgt`: the MGT packet under
way, whose slots go apart from the others; `mgtGap`: flits since the last MGT slot (R302). `batDue`: this instance has joined the package
and takes the link's batten schedules from the other end (R278). `snpOut`: peer snoops under its credits: the CA port, the agent and the transaction (R251). `wdat`, `held`: data
of local requests that have arrived at the unit, and requests that wait there for their data (R69, R264); `imageSent`: the boot image has been
offered to the peer (R497). -/
structure Ridge where
  st : LinkSt := .off
  peer : BitVec 3 := 0
  peerV : Bool := false
  rate : BitVec 3 := 0
  maxRate : BitVec 3 := 5
  refuse : BitVec 4 := 0
  crcErr : BitVec 32 := 0
  replays : BitVec 32 := 0
  discard : BitVec 32 := 0
  since : Nat := 0
  was : LinkSt := .joined
  joinWanted : Bool := false
  joinSent : Bool := false
  joinIn : Option JoinRec := none
  joinCmd : Option Nat := none
  trainCmd : Option Nat := none
  txSeq : BitVec 10 := 0
  replay : List (BitVec 10 × BitVec 1024 × Nat) := []
  replayFrom : Option (BitVec 10) := none
  stuckSeq : BitVec 10 := 0
  stuckN : Nat := 0
  rxSeq : BitVec 10 := 0
  ackV : Bool := false
  nakDue : Bool := false
  rxBad : Bool := false
  txGroup : Nat := 0
  txCred : Tbl Nat := []
  cret : Tbl Nat := []
  txQ : List TxPkt := []
  txCur : Option TxPkt := none
  txMgt : Option TxPkt := none
  mgtGap : Nat := 4
  txRr : Nat := 0
  rxCur : Option TxPkt := none
  rxMgt : Option TxPkt := none
  ctlIn : List (BitVec 128) := []
  ctlOut : List (BitVec 128) := []
  drop : List (Aid × BitVec 12) := []
  imageSent : Bool := false
  timeNext : Nat := 0
  ingress : List IngEntry := []
  cred : Tbl SlCred := []
  snpIn : List SnpIn := []
  proxies : List Proxy := []
  wdat : List ReqData := []
  held : List (Req × VC × Nat) := []
  proxyPool : Pool := {}
  batDue : Bool := false
  sum : Int := 0
  num : Nat := 0
  mIn : Option Int := none
  win : Option (BitVec 16) := none
  theta : Option Int := none
  lam : Int := 0
  align : BitVec 2 := 0
  okRun : Nat := 0
  badRun : Nat := 0
  noneRun : Nat := 0
  calSteps : Nat := 0
  bat : Tbl (BitVec 8) := []
  batSh : Tbl (BitVec 8) := []
  replayedIn : Option Nat := none
  failDue : Bool := false
  duePeer : BitVec 3 := 0
  scansDue : List Nat := []
  agentsDue : List Aid := []
  snpOut : List (Nat × Aid × BitVec 20) := []
  perf : Tbl Ctr := []
  deriving DecidableEq, Repr

/-- A router probe (R284 to R286). -/
structure Probe where
  w0 : W64 := 0
  w1 : W64 := 0
  w2 : W64 := 0
  hit : Ctr := {}
  drop : Ctr := {}
  ovf : Bool := false
  buf : List (W64 × W64 × W64) := []
  lastCycle : Option Nat := none
  deriving DecidableEq, Repr

/-- The mesh (09). Buffers are keyed by (node x 9 + port) x 7 + VC code. The first packets of a local input's list, as many as its
buffer has entries, are in the router; the rest wait at the sender for a credit (R264, R265). `worm`: the input whose MGT or ERR
packet holds an output's channel; `hubAt`: the cycle in which an output last gave a position to MGT or ERR (R268, R270).
`drainLeft`: packets of each local input that the drained router had accepted and still holds; `drainCmds`: the ROUTER_DRAIN commands that wait, each
with its tick (R283). -/
structure MeshSt where
  inBuf : Tbl (List Pkt) := []
  eject : Tbl (List Pkt) := []
  bat : Tbl (Tbl (BitVec 8)) := []
  batSh : Tbl (Tbl (BitVec 8)) := []
  rrVc : Tbl Nat := []
  rrIn : Tbl Nat := []
  used : Tbl (Nat × Nat) := []
  worm : Tbl Nat := []
  hubAt : Tbl Nat := []
  drained : Bool := false
  drainLeft : Tbl Nat := []
  drainCmds : List (Nat × Nat) := []
  probes : Tbl Probe := []
  discards : Tbl Nat := []
  deriving DecidableEq, Repr

/-- One cell of the pool (R366). Its NEXT is the cell after it in its list. -/
structure Cell where
  idx : Nat
  data : W64
  fin : Bool
  ptag : Bool
  par : BitVec 2
  deriving DecidableEq, Repr

/-- A whole packet waiting in a queue. `arr`: when it became whole; `grey`: a grey event (R368). -/
structure QPkt where
  prio : Nat
  arr : Nat
  cells : List Cell
  grey : Bool := false
  deriving DecidableEq, Repr

/-- A queue of the hub (R357, R369, R374). -/
structure Queue where
  waiting : List QPkt := []
  begun : Option (List Cell) := none
  quota : BitVec 15 := 0
  rej : Bool := false
  deriving DecidableEq, Repr

/-- A command packet being written (R364, R365, R380). -/
structure OpenPkt where
  hdr : W64 := 0
  count : Nat := 0
  cells : List Cell := []
  overrun : Bool := false
  noCells : Bool := false
  last : Nat := 0
  collect : Bool := false
  deriving DecidableEq, Repr

/-- A pending flush (R378, R379). -/
structure FlushSt where
  pkts : Nat := 0
  collected : Bool := false
  truncated : Bool := false
  deriving DecidableEq, Repr

/-- The performance read registers of a window or of the user page (R521, R522). -/
structure PerfWin where
  cls : BitVec 3 := 0
  unit : BitVec 7 := 0
  ctr : BitVec 4 := 0
  lo : BitVec 32 := 0
  hi : BitVec 32 := 0
  stamp : W64 := 0
  deriving DecidableEq, Repr

/-- What one window holds of its own (R364, R373, R378, R521, R529), and the answer to its last access (R349). -/
structure Win where
  cmdLo : BitVec 32 := 0
  opn : Option OpenPkt := none
  flushCmd : Option FlushSt := none
  flushRpl : Option FlushSt := none
  flushEvq : Option FlushSt := none
  flushLoft : Option FlushSt := none
  rplHi : BitVec 32 := 0
  rplTags : BitVec 3 := 0
  evqHi : BitVec 32 := 0
  evqTags : BitVec 3 := 0
  loftHi : BitVec 32 := 0
  loftTags : BitVec 3 := 0
  admitHi : BitVec 32 := 0
  faddrHi : BitVec 32 := 0
  fptcHi : BitVec 32 := 0
  smaskHi : BitVec 32 := 0
  perf : PerfWin := {}
  rdata : BitVec 32 := 0
  err : Bool := false
  deriving DecidableEq, Repr

/-- A hub command in progress (R370). `fwd`: forwarded at that tick (R385); `remote`: it came from
that instance with that reference. `lost`: slices of `units` that are gone, `lostBy` the source ID of the cause; `skipped`: the slice of
each line skipped; `away`: lines of the range homed at a slice that is gone (R386, R396). -/
structure Kcp where
  id : Nat
  win : Window := .mgmtp
  op : BitVec 7 := 0
  tag : BitVec 16 := 0
  prio : BitVec 2 := 0
  flags : BitVec 6 := 0
  target : BitVec 8 := 0xFF
  ps : List W64 := []
  running : Bool := false
  fwd : Option Nat := none
  remote : Option (BitVec 3 × Nat) := none
  units : List Nat := []
  lost : List Nat := []
  lostBy : Nat := 0
  revisit : List (Nat × LAddr) := []
  wfail : Bool := false
  skipped : List Nat := []
  away : Nat := 0
  aux : Nat := 0
  deriving DecidableEq, Repr

/-- A write or read of a queue that waits while the free list is rebuilt (R377). -/
inductive HubOp where
  | push (w : Window) (word : W64) (fin : Bool)
  | pop (w : Window) (q : QSel)
  | packet (q : QCode) (prio : Nat) (grey : Bool) (words : List W64)
  deriving DecidableEq, Repr

/-- The management hub's queues, windows and commands (12, 13). `badCells`: cells whose parity fails; `linkCe`: cells whose link word holds a
single-bit error; `linkBad`: a queue whose links hold an uncorrectable one (R366, R377). -/
structure HubSt where
  hcq : Queue := { quota := 1024 }
  mcq : Queue := { quota := 1024 }
  hrq : Queue := { quota := 2048 }
  mrq : Queue := { quota := 2048 }
  evq : Queue := { quota := 4096 }
  loft : Queue := { quota := 6144 }
  freeCells : List Nat := []
  nextCell : Nat := 0
  arr : Nat := 0
  linkBad : Option QCode := none
  rebuild : Option QCode := none
  waiting : List HubOp := []
  badCells : List Nat := []
  linkCe : List Nat := []
  host : Win := {}
  mgm : Win := {}
  user : PerfWin := {}
  inProg : List Kcp := []
  nextCmd : Nat := 0
  evqOwn : Bool := false
  loftOwn : Bool := false
  evqWant : Bool := false
  loftWant : Bool := false
  snpTo : BitVec 16 := 100
  perfUser : Bool := false
  deriving DecidableEq, Repr

/-- The first-error capture (R414, R448, R535). `cyc`: the CCLK cycle it was taken in, in which a worse error still replaces it. -/
structure Ferr where
  valid : Bool := false
  cyc : Option Nat := none
  addr : BitVec 52 := 0
  mtype : BitVec 2 := 0
  mid : BitVec 12 := 0
  acc : BitVec 4 := 0
  src : BitVec 6 := 0
  sev : BitVec 3 := 0
  inst : BitVec 3 := 0
  ptc : W64 := 0
  ovf : BitVec 32 := 0
  deriving DecidableEq, Repr

/-- A report of the salvage backlog: its detail word, and the count, event number and severity at which it was raised (R361, R468). -/
structure Report where
  word : W64
  ptc : W64
  eseq : BitVec 16
  sev : BitVec 3
  deriving DecidableEq, Repr

/-- Error reporting and the error pin (15, R356, R534). `raisedAt`, `mgmtAt`: the cycle in which an error last raised the pin, and that of the last
MGMTP write of ERRPIN (R530). -/
structure ErrSt where
  sev : Tbl (BitVec 3) := []
  thr : BitVec 3 := 3
  counts : Tbl (BitVec 16) := []
  eseq : BitVec 16 := 0
  loss : Bool := false
  evqDrop : BitVec 32 := 0
  loftDrop : BitVec 32 := 0
  ferr : Ferr := {}
  pin : Bool := false
  drive : Bool := false
  deferW : Bool := false
  pulseEnd : Option Nat := none
  lost : Bool := false
  backlog : List Report := []
  raisedAt : Option Nat := none
  mgmtAt : Option Nat := none
  deriving DecidableEq, Repr

/-- The steps of a shingle move, with the flips that carry FENCE and the decision (R49, R53). -/
inductive MoveStep where
  | prepare | fenceWait | drain | copy | unfenceWait | revertWait
  deriving DecidableEq, Repr

/-- A shingle move (R49 to R55). `begun`: it holds its home-flow entry at the old slice (R109, R110). -/
structure Move where
  sh : Nat
  old : Nat
  new : Nat
  step : MoveStep := .prepare
  begun : Bool := false
  tf : Nat := 0
  marks : List (Nat × VC) := []
  failed : Bool := false
  lostNew : Bool := false
  copied : List Nat := []
  toCopy : Nat := 0
  cmd : Option Nat := none
  gate : Bool := false
  retried : Bool := false
  deriving DecidableEq, Repr

/-- A home-map flip (R44). -/
structure Flip where
  chg : List (Nat × BitVec 8)
  tick : Nat
  flipped : Bool := false
  deriving DecidableEq, Repr

/-- A running commit of the region table (R35 to R38, R531). -/
structure Commit where
  tbl : Tbl (W64 × W64)
  tick : Nat
  deriving DecidableEq, Repr

/-- The package region table and the home map (02). -/
structure MapSt where
  stage : Tbl (W64 × W64) := []
  active : Tbl (W64 × W64) := []
  rgen : BitVec 16 := 0
  result : BitVec 2 := 0
  commit : Option Commit := none
  base : List Nat := List.range 64
  g0 : Tbl (BitVec 8) := []
  g1 : Tbl (BitVec 8) := []
  cur : Bool := false
  gen : BitVec 32 := 0
  flip : Option Flip := none
  waiting : List (Nat × BitVec 8) := []
  moves : List Move := []
  deriving DecidableEq, Repr

/-- The staging buffer of a window, or the microcode staging store (R408, R411). -/
structure Stage where
  words : Tbl W64 := []
  len : Nat := 0
  last : Bool := false
  deriving DecidableEq, Repr

/-- A pending proposal (R409, R432). -/
structure Pend where
  win : Window
  digest : BitVec 384
  deadline : Nat
  deriving DecidableEq, Repr

/-- How far a committed change block has come (R434 to R440). -/
inductive BlkPhase where
  | waiting | issued | sweeping | reported | regroup | named
  deriving DecidableEq, Repr

/-- A committed change block (R434): at the committing instance from its commit, at a member from its transition tick. `reports`:
the instances whose sweep is reported to the committing engine; `ta`: T_A, once
named, at a member once it has been told (R440). -/
structure Blk where
  words : List W64
  issuer : BitVec 3
  phase : BlkPhase := .waiting
  retryAt : Nat := 0
  ts : Nat := 0
  ta : Option Nat := none
  reports : BitVec 8 := 0
  deriving DecidableEq, Repr

/-- An entry of the measurement log (R388, R441). -/
structure MLog where
  comp : BitVec 8
  ver : BitVec 32
  digest : BitVec 384
  deriving DecidableEq, Repr

/-- Partitions, dual-party changes, measurement and microcode (14, R411, R412). -/
structure ProtSt where
  part : Tbl (BitVec 4) := []
  gtMask : BitVec 16 := 0
  shmask : Tbl (BitVec 16) := []
  newPart : Tbl (BitVec 4) := []
  newGt : BitVec 16 := 0
  newMask : Tbl (BitVec 16) := []
  maskGen : Nat := 0
  admitMask : W64 := BitVec.allOnes 64
  dbg : Bool := false
  uc : Option (BitVec 32 × BitVec 384) := none
  trans : Bool := false
  nonce : W64 := 0
  expNonce : Option W64 := none
  stH : Stage := {}
  stM : Stage := {}
  pend : Option Pend := none
  last : BitVec 4 := 0
  commits : BitVec 16 := 0
  blks : List Blk := []
  log : List MLog := []
  chain : BitVec 384 := 0
  ucSt : Stage := {}
  ucAct : Option (Nat × Nat × Nat) := none
  ucNew : BitVec 32 := 0
  deriving DecidableEq, Repr

/-- How far a regroup has come (R180 to R185). -/
inductive RgPhase where
  | idle | computing | written | named | sweeping
  deriving DecidableEq, Repr

/-- A gating action (R192 to R196). -/
structure Gating where
  pair : Nat
  up : Bool
  begun : Bool := false
  cmd : Option Nat := none
  deriving DecidableEq, Repr

/-- Live calibration and adaptive policies (06); `epochNew`: an EPOCH_LEN that takes effect at the first boundary of its own grid (R170);
`epochs`: the boundaries that have passed, `rgEpochs`: at the start of a computation, `movedAt`: when each AID was moved (R181);
`calCmds`: the CALIBRATE_NOWs that wait for the decisions, `calRuns`: those whose regroup is being computed (R403); `rgAwait`: the
instances that have still to acknowledge a new map (R184), or to report the old generation free (R185); `lateMaps`: the instances that joined between the write
of a new map and its flip and receive both generations after it (R186), the bundle map (R142), the replacement mode (R221). -/
structure PolSt where
  map0 : Tbl (BitVec 6) := []
  map1 : Tbl (BitVec 6) := []
  curgen : Bool := false
  otherFree : Bool := true
  rg : RgPhase := .idle
  rgFrom : Nat := 0
  rgForced : Bool := false
  rgSamples : List Sample := []
  rgMap : Tbl (BitVec 6) := []
  rgMoves : Nat := 0
  rgAwait : BitVec 8 := 0
  lateMaps : BitVec 8 := 0
  epochMs : Nat := 100
  epochNext : Nat := 100000000
  epochCmd : Option Nat := none
  epochNew : Option Nat := none
  epochs : Nat := 0
  rgEpochs : Nat := 0
  lastB : Nat := 0
  snapDue : Bool := false
  linkBad : Bool := false
  readSnap : Nat × Nat := (0, 0)
  readFrom : Nat := 0
  calCmds : List Nat := []
  calRuns : List Nat := []
  regroupPin : Bool := false
  maxMove : Nat := 128
  hold : Nat := 3
  gainMin : Nat := 16
  hyst : Nat := 10
  movedAt : Tbl Nat := []
  specBits : BitVec 128 := 0
  specPin : BitVec 128 := 0
  stream : Nat := 0
  streamPin : Bool := false
  streamMin : Nat := 0
  streamMax : Nat := 2
  gatePin : Bool := false
  gateVal : Nat := 32
  gateMin : Nat := 8
  gateMax : Nat := 32
  gating : Option Gating := none
  lowRun : Nat := 0
  decisions : Tbl (W64 × W64) := []
  hcEnable : Bool := false
  nru : Bool := false
  startFrom : Option Nat := none
  recovery : Bool := false
  deriving DecidableEq, Repr

/-- A package-wide change at its issuer (R315). -/
structure GenIss where
  chg : GenChange
  acks : BitVec 8 := 0
  deadline : Nat
  deriving DecidableEq, Repr

/-- A package-wide change held at a member (R315). -/
structure GenHold where
  chg : GenChange
  armed : Bool := false
  deriving DecidableEq, Repr

/-- Package membership, agent table and package-wide changes (10). `grow`: instances that have joined over links of this one and are not
members yet. -/
structure PkgSt where
  agents : Tbl (BitVec 3 × BitVec 7) := []
  unreach : List Aid := []
  members : BitVec 8 := 0
  timeSrc : BitVec 3 := 0
  gens : Tbl Nat := []
  issue : List GenIss := []
  hold : List GenHold := []
  battenCmd : Option Nat := none
  roles : Tbl (BitVec 2) := []
  configs : Tbl (BitVec 2) := []
  grow : BitVec 8 := 0
  deriving DecidableEq, Repr

/-- Package time and the core clock (R317 to R321, R18). -/
structure TimeSt where
  ptc : BitVec 64 := 0
  stepped : Int := 0
  loaded : Bool := false
  syncSeen : Bool := false
  syncBad : BitVec 8 := 0
  corrN : Nat := 0
  corrUp : Bool := false
  corrAt : Option W64 := none
  omit_ : Bool := false
  frac : Nat := 0
  cycles : Nat := 0
  deriving DecidableEq, Repr

/-- Where a trim segment stands since release (R492, R494). -/
inductive SegSt where
  | none | failedOnce | ok | disabled
  deriving DecidableEq, Repr

/-- Reset, straps, trim, bring-up (16) and the identification registers (R532). `shadow`: the trim and repair shadows as their segments
arrived, by segment; which of them are valid, and so applied, is in `segs` and `common` (R236, R492); `spares`: the row replacements of each
slice, as array and row (R236, log 101). -/
structure RstSt where
  inReset : Bool := true
  boot : BitVec 2 := 0
  clkmode : BitVec 2 := 0
  cfgsrc : Bool := false
  idstrap : BitVec 4 := 0
  testmode : Bool := false
  rcode : BitVec 4 := 0
  rsout : Bool := false
  code : BitVec 4 := 0
  field : Bool := false
  test : Bool := false
  role : BitVec 2 := 0
  bootSrc : BitVec 2 := 0
  cPor : Bool := true
  cPin : Bool := false
  cDirty : Bool := false
  cTrim : Bool := false
  dirty : BitVec 22 := 0
  dirtyV : Bool := false
  step : Nat := 1
  stepFrom : Nat := 0
  ready : Bool := false
  fail : BitVec 3 := 0
  passes : BitVec 8 := 0
  loading : Bool := false
  common : Bool := false
  passOn : Bool := false
  segs : Tbl SegSt := []
  shadow : Tbl (List (BitVec 32)) := []
  spares : Tbl (List (Nat × Nat)) := []
  loaded : Bool := false
  seenPass : List Nat := []
  sliceMask : W64 := 0
  fwVer : BitVec 32 := 0
  ucVer : BitVec 32 := 0
  fwRun : Bool := false
  bootLo : BitVec 32 := 0
  pushed : List W64 := []
  pushN : Nat := 0
  wait : Bool := false
  rej : Bool := false
  image : List W64 := []
  imageV : Bool := false
  deriving DecidableEq, Repr

/-- What the block drives at its ports (the model's record, log 13): completions, data and snoops at
CA ports, commands at memory ports, flits at ridge ports, MGT messages to peer hubs. -/
inductive Out where
  | rspo (p : Nat) (m : BitVec 128)
  | dato (p : Nat) (hdr : BitVec 160) (d : BitVec 256)
  | snp (p : Nat) (m : BitVec 128)
  | mrd (m : Nat) (laddr : LAddr) (cidx : BitVec 2) (tag : BitVec 8)
  | mwr (m : Nat) (partialW : Bool) (laddr : LAddr) (tag : BitVec 8) (data : Line) (be : BitVec 64) (poison : Bool)
  | flit (r : Nat) (f : BitVec 1024)
  | mgt (dst : BitVec 3) (m : MgtMsg)
  deriving DecidableEq, Repr

/-- The state of one instance of the block, and the commands that wait. -/
structure State where
  gh : Gh := .gh64
  inst : BitVec 3 := 0
  tmcap : Bool := false
  time : TimeSt := {}
  rst : RstSt := {}
  err : ErrSt := {}
  hub : HubSt := {}
  map : MapSt := {}
  prot : ProtSt := {}
  pol : PolSt := {}
  pkg : PkgSt := {}
  mesh : MeshSt := {}
  slices : Tbl Slice := []
  cas : Tbl CaPort := []
  mps : Tbl MemPort := []
  rdg : Tbl Ridge := []
  tdo : W64 := 0
  tapSel : Bool := true
  fresh : Nat := 0
  out : List Out := []
  pending : List Instr := []
  deriving DecidableEq, Repr

/-- The machine right after POR_N is taken, before release: every field at its Reset value (R11, R489),
the straps and the fuse not yet sampled, every table empty and so at its defaults. The nonce is a
free value (R431). -/
def State.reset : State := { prot := { nonce := Config.freeNonce 0 }, fresh := 1 }

end Sys2Proof.Machine
end

