-- ==== Sys2Proof/Machine/Table.lean ====
section
/-! DEFINITION. Sys2Proof/Machine/Table.lean: reading and writing a sparse table. -/

namespace Sys2Proof.Machine

/-- The value at key `k`; an unlisted key reads as `d k`. -/
def tget {α : Type} (d : Nat → α) : Tbl α → Nat → α
  | [], k => d k
  | (j, v) :: t, k => if k = j then v else tget d t k

/-- Lists `v` at key `k`, keeping the keys in rising order. -/
def tput {α : Type} (k : Nat) (v : α) : Tbl α → Tbl α
  | [] => [(k, v)]
  | (j, w) :: t =>
    if k = j then (k, v) :: t
    else if k < j then (k, v) :: (j, w) :: t
    else (j, w) :: tput k v t

/-- Takes key `k` off the table. -/
def tdel {α : Type} (k : Nat) (t : Tbl α) : Tbl α := t.filter (fun p => p.1 != k)

/-- Writes `v` at key `k`: the entry is listed only when it differs from the default. -/
def tset {α : Type} [DecidableEq α] (d : Nat → α) (k : Nat) (v : α) (t : Tbl α) : Tbl α :=
  if v = d k then tdel k t else tput k v t

/-- The keys of a table rise strictly. -/
def Sorted {α : Type} : Tbl α → Bool
  | [] => true
  | [_] => true
  | (a, _) :: (b, v) :: t => a < b && Sorted ((b, v) :: t)

/-- The canonical form of an array of words: strictly rising keys, no entry equal to the default. -/
def Canonical {α : Type} [DecidableEq α] (d : Nat → α) (t : Tbl α) : Bool :=
  Sorted t && t.all (fun p => decide (p.2 ≠ d p.1))

/-- Replaces the first element of a list that satisfies `p`. -/
def lmodify {α : Type} (p : α → Bool) (f : α → α) : List α → List α
  | [] => []
  | a :: l => if p a then f a :: l else a :: lmodify p f l

/-- Removes the first element of a list that satisfies `p`. -/
def lremove {α : Type} (p : α → Bool) : List α → List α
  | [] => []
  | a :: l => if p a then l else a :: lremove p l

/-- The least number below `n` that satisfies `p`. -/
def leastBelow (p : Nat → Bool) (n : Nat) : Option Nat := (List.range n).find? p

/-- A list in groups of `n`, the last one perhaps shorter; `fuel` bounds their number. -/
def groups {α : Type} (n : Nat) : Nat → List α → List (List α)
  | 0, _ => []
  | fuel + 1, l => if l.isEmpty then [] else l.take n :: groups n fuel (l.drop n)

/-- Sum of a list of numbers. -/
def lsum (l : List Nat) : Nat := l.foldl (· + ·) 0

/-- Greatest number of a list, zero for the empty list. -/
def lmax (l : List Nat) : Nat := l.foldl Nat.max 0

/-- Puts a number into a rising list, once. -/
def insertNat (a : Nat) : List Nat → List Nat
  | [] => [a]
  | b :: l => if a < b then a :: b :: l else if a = b then b :: l else b :: insertNat a l

/-- The numbers of a list in rising order, each once. -/
def ascending (l : List Nat) : List Nat := l.foldr insertNat []

end Sys2Proof.Machine
end

