-- ==== Sys2Proof/Machine/Operands.lean ====
section
/-! DEFINITION. Sys2Proof/Machine/Operands.lean: what the operands of commands name: the slices, ports and
routers of a configuration, and the places that an address maps to. -/

namespace Sys2Proof.Machine

/-- Columns of the mesh (R25). -/
def Gh.cols : Gh → Nat
  | .gh16 => 4
  | .gh32 | .gh48 | .gh64 => 8

/-- Rows of the mesh (R25). -/
def Gh.rows : Gh → Nat
  | .gh16 | .gh32 => 4
  | .gh48 => 6
  | .gh64 => 8

/-- Slices, which are also the routers (R13, R25). -/
def Gh.slices (g : Gh) : Nat := g.cols * g.rows

/-- CA ports: two on each router (R15). -/
def Gh.caPorts (g : Gh) : Nat := 2 * g.slices

/-- Memory ports (R25). -/
def Gh.memPorts : Gh → Nat
  | .gh16 => 8
  | .gh32 | .gh48 | .gh64 => 16

/-- Ridge ports (R25). -/
def Gh.ridgePorts : Gh → Nat
  | .gh16 | .gh32 => 4
  | .gh48 | .gh64 => 8

/-- The configuration code of IDENTIFY and ID_VER (R387). -/
def Gh.code : Gh → Nat
  | .gh16 => 0
  | .gh32 => 1
  | .gh48 => 2
  | .gh64 => 3

/-- The buddy of a slice (R14). -/
def buddy (s : Nat) : Nat := s ^^^ 1

/-- Router that carries memory port `m` (R15): MP0 on in the north row, the rest in the south row. -/
def Gh.memNode (g : Gh) (m : Nat) : Nat :=
  if m < g.cols then g.cols * (g.rows - 1) + m else m - g.cols

/-- Router that carries ridge port `n` (R15): the first half in the west column, the rest in the
east column, on the middle rows. -/
def Gh.ridgeNode (g : Gh) (n : Nat) : Nat :=
  let half := g.ridgePorts / 2
  let first := (g.rows - half) / 2
  if n < half then g.cols * (first + n) else g.cols * (first + (n - half)) + (g.cols - 1)

/-- Ridge port on router `k`, if it carries one (R15). -/
def Gh.ridgeAt (g : Gh) (k : Nat) : Option Nat := leastBelow (fun n => g.ridgeNode n == k) g.ridgePorts

/-- Memory port on router `k`, if it carries one (R15). -/
def Gh.memAt (g : Gh) (k : Nat) : Option Nat := leastBelow (fun m => g.memNode m == k) g.memPorts

/-- Port codes of a router (R259). -/
abbrev portN := 0
abbrev portE := 1
abbrev portS := 2
abbrev portW := 3
abbrev portSlice := 4
abbrev portCa0 := 5
abbrev portCa1 := 6
abbrev portEave := 7
abbrev portHub := 8

/-- Tracker entries kept as CA guarantees (R240): four for each CA port. -/
def Gh.caGuaranteed (g : Gh) : Nat := 4 * g.caPorts

/-- Tracker entries kept for ridge ports: 32 each (R240). -/
def Gh.ridgeGuaranteed (g : Gh) : Nat := 32 * g.ridgePorts

/-- The shared pool of a slice's tracker: what the reserves leave of 2,048 entries (R25). -/
def Gh.sharedPool (g : Gh) : Nat := 2048 - g.caGuaranteed - g.ridgeGuaranteed - 64

/-- Writeback-reserved data buffers of a slice: two for each CA port (R25). -/
def Gh.wbBuffers (g : Gh) : Nat := 2 * g.caPorts

/-- Shift of a granule encoding (R32). -/
def granShift (x : Nat) : Nat :=
  match x with
  | 0 => 8
  | 1 => 12
  | 2 => 16
  | 3 => 21
  | _ => 30

/-- Field [lo + n - 1 : lo] of a word, as a number. -/
def fld {w : Nat} (v : BitVec w) (lo n : Nat) : Nat := (v.toNat >>> lo) % 2 ^ n

/-- Bit `i` of a word. -/
def bit {w : Nat} (v : BitVec w) (i : Nat) : Bool := v.getLsbD i

/-- A word from fields given as (place of the lowest bit, value). -/
def pack (w : Nat) (l : List (Nat × Nat)) : BitVec w := BitVec.ofNat w (lsum (l.map (fun p => p.2 <<< p.1)))

/-- One for true. -/
def b2n (b : Bool) : Nat := if b then 1 else 0

/-- The shingle of a line (R41). -/
def shingleOf (l : LAddr) : Nat :=
  fld l 0 12 ^^^ fld l 12 12 ^^^ fld l 24 12 ^^^ fld l 36 10

/-- XOR of the 4-bit groups of a number below 2^52 (R32). -/
def fold4 (x : Nat) : Nat := (List.range 13).foldl (fun a i => a ^^^ ((x >>> (4 * i)) % 16)) 0

/-- Home instance and memory port that one region entry gives a physical address (R32). -/
def regionTarget (b : W64) (pa : Nat) : Nat × Nat :=
  let iSel := (pa >>> granShift (fld b 2 3)) % 2 ^ fld b 0 2
  let mSel := fold4 (pa >>> granShift (fld b 40 3)) % 2 ^ fld b 32 3
  (fld b (8 + 3 * iSel) 3, fld b 36 4 + mSel)

/-- Whether a region entry is in use and covers granule `g` (R32). -/
def regionMatch (e : W64 × W64) (g : Nat) : Bool :=
  bit e.1 63 && decide (fld e.1 0 22 ≤ g) && decide (g ≤ fld e.1 32 22)

/-- Home instance and memory port of a line under a region table; none: the address has no home (R32). -/
def homeOf (t : Tbl (W64 × W64)) (l : LAddr) : Option (Nat × Nat) :=
  match t.find? (fun e => regionMatch e.2 (l.toNat >>> 24)) with
  | some e => some (regionTarget e.2.2 (l.toNat <<< 6))
  | none => none

/-- State code of a shingle in a home-map entry: SLICE in [5:0], STATE in [7:6] (R43). -/
def hmSlice (e : BitVec 8) : Nat := fld e 0 6
def hmState (e : BitVec 8) : Nat := fld e 6 2
abbrev hmNormal := 0
abbrev hmFenced := 1
abbrev hmOpen := 2
def hmEntry (slice state : Nat) : BitVec 8 := pack 8 [(0, slice), (6, state)]

/-- Index into the list of enabled slices of the slice that a shingle is placed at (R42). -/
def placeIndex (n sh : Nat) : Nat :=
  let q := 4096 / n
  let m := 4096 % n
  if sh < m * (q + 1) then sh / (q + 1) else m + (sh - m * (q + 1)) / q

/-- The reset placement of a shingle over the enabled slices (R42). -/
def basePlace (base : List Nat) (sh : Nat) : BitVec 8 :=
  if base.isEmpty then 0 else hmEntry (base.getD (placeIndex base.length sh) 0) hmNormal

end Sys2Proof.Machine
end

