-- ==== Sys2Proof/Machine/Codec.lean ====
section
/-! DEFINITION. Sys2Proof/Machine/Codec.lean: the layouts of the messages at a CA port (R62, R63, R65, R66, R67, R69). -/

namespace Sys2Proof.Machine

/-! ### Requests -/

/-- The code of a request (R63). -/
def ReqOp.code : ReqOp → Nat
  | .rdShared => 0x01
  | .rdUnique => 0x02
  | .makeUnique => 0x03
  | .rdNoSnoop => 0x04
  | .cleanShared => 0x05
  | .wrLine => 0x08
  | .wrPartial => 0x09
  | .evict => 0x0C
  | .wbDirty => 0x0D
  | .wbOwned => 0x0E
  | .atomAdd => 0x10
  | .atomSwap => 0x11
  | .atomCas => 0x12
  | .atomAnd => 0x13
  | .atomOr => 0x14

/-- The request of a code (R63). -/
def reqOpOf (n : Nat) : Option ReqOp :=
  match n with
  | 0x01 => some .rdShared
  | 0x02 => some .rdUnique
  | 0x03 => some .makeUnique
  | 0x04 => some .rdNoSnoop
  | 0x05 => some .cleanShared
  | 0x08 => some .wrLine
  | 0x09 => some .wrPartial
  | 0x0C => some .evict
  | 0x0D => some .wbDirty
  | 0x0E => some .wbOwned
  | 0x10 => some .atomAdd
  | 0x11 => some .atomSwap
  | 0x12 => some .atomCas
  | 0x13 => some .atomAnd
  | 0x14 => some .atomOr
  | _ => none

/-- The atomics (R63). -/
def ReqOp.isAtomic : ReqOp → Bool
  | .atomAdd | .atomSwap | .atomCas | .atomAnd | .atomOr => true
  | .rdShared | .rdUnique | .makeUnique | .rdNoSnoop | .cleanShared | .wrLine | .wrPartial | .evict | .wbDirty | .wbOwned => false

/-- Writeback-class messages (R109). -/
def ReqOp.isWb : ReqOp → Bool
  | .evict | .wbDirty | .wbOwned => true
  | .rdShared | .rdUnique | .makeUnique | .rdNoSnoop | .cleanShared | .wrLine | .wrPartial
  | .atomAdd | .atomSwap | .atomCas | .atomAnd | .atomOr => false

/-- The chunks of data that follow a request (R63), as a mask of CIDX. -/
def ReqOp.chunks : ReqOp → BitVec 4
  | .wrLine | .wrPartial | .wbDirty | .wbOwned => 15
  | .atomAdd | .atomSwap | .atomCas | .atomAnd | .atomOr => 1
  | .rdShared | .rdUnique | .makeUnique | .rdNoSnoop | .cleanShared | .evict => 0

/-- Requests that spend a WB credit (R243). -/
def ReqOp.takesWb (o : ReqOp) : Bool := o.isWb || o.chunks != 0

/-- A request message (R62). -/
def Req.encode (q : Req) : BitVec 128 :=
  pack 128 [(0, q.op.code), (6, q.aid.toNat), (17, q.txid.toNat), (29, q.laddr.toNat), (75, q.cidx.toNat),
    (77, q.widx.toNat), (80, b2n q.stream)]

/-- Whether the request of a message is one the adapter takes: a known opcode, and WIDX zero but for an atomic (R64). -/
def reqSupported (m : BitVec 128) : Bool :=
  match reqOpOf (fld m 0 6) with
  | none => false
  | some op => op.isAtomic || fld m 77 3 == 0

/-- The request of a message; an unknown opcode leaves the operation of the default (R62). -/
def decodeReq (m : BitVec 128) : Req :=
  { op := (reqOpOf (fld m 0 6)).getD .rdNoSnoop
    aid := m.extractLsb' 6 11
    txid := m.extractLsb' 17 12
    laddr := m.extractLsb' 29 46
    cidx := m.extractLsb' 75 2
    widx := m.extractLsb' 77 3
    stream := m.getLsbD 80 }

/-! ### Snoops -/

def SnpOp.code : SnpOp → Nat
  | .shared => 0x20
  | .unique => 0x21
  | .inv => 0x22
  | .clean => 0x23

def snpOpOf (n : Nat) : Option SnpOp :=
  match n with
  | 0x20 => some .shared
  | 0x21 => some .unique
  | 0x22 => some .inv
  | 0x23 => some .clean
  | _ => none

/-- A snoop message (R65). -/
def encodeSnp (op : SnpOp) (aid : Aid) (htid : BitVec 20) (l : LAddr) (cidx : BitVec 2) (raid : Aid) (rtxid : BitVec 12) :
    BitVec 128 :=
  pack 128 [(0, op.code), (6, aid.toNat), (17, htid.toNat), (37, l.toNat), (83, cidx.toNat), (85, raid.toNat),
    (96, rtxid.toNat)]

/-- The snoop of a message (R65). -/
def decodeSnp (m : BitVec 128) : Option Msg :=
  (snpOpOf (fld m 0 6)).map (fun op =>
    .snp op (m.extractLsb' 6 11) (m.extractLsb' 17 20) (m.extractLsb' 37 46) (m.extractLsb' 83 2) (m.extractLsb' 85 11)
      (m.extractLsb' 96 12))

/-! ### Responses -/

def RspOp.code : RspOp → Nat
  | .rspI => 0x30
  | .rspS => 0x31
  | .rspIWb => 0x32
  | .rspSWb => 0x33
  | .rspIFwd => 0x34
  | .rspSFwd => 0x35
  | .rspO => 0x36

def rspOpOf (n : Nat) : Option RspOp :=
  match n with
  | 0x30 => some .rspI
  | 0x31 => some .rspS
  | 0x32 => some .rspIWb
  | 0x33 => some .rspSWb
  | 0x34 => some .rspIFwd
  | 0x35 => some .rspSFwd
  | 0x36 => some .rspO
  | _ => none

/-- A snoop response (R66). -/
def encodeRsp (op : RspOp) (aid : Aid) (htid : BitVec 20) (pd wbp : Bool) : BitVec 128 :=
  pack 128 [(0, op.code), (6, aid.toNat), (17, htid.toNat), (37, b2n pd), (38, b2n wbp)]

/-- A CmpAck (R66). -/
def encodeCmpAck (aid : Aid) (htid : BitVec 20) : BitVec 128 := pack 128 [(0, 0x38), (6, aid.toNat), (17, htid.toNat)]

/-- The snoop response or CmpAck of a message (R66). -/
def decodeRsp (m : BitVec 128) : Option Msg :=
  if fld m 0 6 = 0x38 then some (.cmpAck (m.extractLsb' 6 11) (m.extractLsb' 17 20))
  else (rspOpOf (fld m 0 6)).map (fun op =>
    .rsp op (m.extractLsb' 6 11) (m.extractLsb' 17 20) (m.getLsbD 37) (m.getLsbD 38))

/-! ### Completions -/

def Grant.code : Grant → Nat
  | .i => 0
  | .s => 1
  | .e => 2
  | .m => 3
  | .o => 4

def grantOf (n : Nat) : Option Grant :=
  match n with
  | 0 => some .i
  | 1 => some .s
  | 2 => some .e
  | 3 => some .m
  | 4 => some .o
  | _ => none

/-- Grants that a CmpAck must answer (R73, R83). -/
def Grant.acked : Grant → Bool
  | .e | .m | .o => true
  | .i | .s => false

/-- A Cmp (R67). -/
def encodeCmp (aid : Aid) (txid : BitVec 12) (htid : BitVec 20) (g : Grant) (data : Bool) (result : W64) : BitVec 128 :=
  pack 128 [(0, 0x3C), (6, aid.toNat), (17, txid.toNat), (29, htid.toNat), (49, g.code), (52, b2n data), (64, result.toNat)]

/-- A CmpErr (R67). -/
def encodeCmpErr (aid : Aid) (txid : BitVec 12) (htid : BitVec 20) (reason : BitVec 8) : BitVec 128 :=
  pack 128 [(0, 0x3D), (6, aid.toNat), (17, txid.toNat), (29, htid.toNat), (54, reason.toNat)]

/-- A WbAck (R67). -/
def encodeWbAck (aid : Aid) (txid : BitVec 12) (htid : BitVec 20) (superseded : Bool) : BitVec 128 :=
  pack 128 [(0, 0x3E), (6, aid.toNat), (17, txid.toNat), (29, htid.toNat), (53, b2n superseded)]

/-- The completion of a message (R67). -/
def decodeCmp (m : BitVec 128) : Option Msg :=
  let aid := m.extractLsb' 6 11
  let txid := m.extractLsb' 17 12
  let htid := m.extractLsb' 29 20
  if fld m 0 6 = 0x3C then (grantOf (fld m 49 3)).map (fun g => .cmp aid txid htid g (m.getLsbD 52) (m.extractLsb' 64 64))
  else if fld m 0 6 = 0x3D then some (.cmpErr aid txid htid (m.extractLsb' 54 8))
  else if fld m 0 6 = 0x3E then some (.wbAck aid txid htid (m.getLsbD 53))
  else none

/-! ### Dat -/

/-- A Dat lane header (R69). -/
def encodeDat (kind : BitVec 2) (aid : Aid) (txid : BitVec 12) (htid : BitVec 20) (cidx : BitVec 2) (last poison : Bool)
    (be : BitVec 16) : BitVec 80 :=
  pack 80 [(0, 1), (1, kind.toNat), (3, aid.toNat), (14, txid.toNat), (26, htid.toNat), (46, cidx.toNat), (48, b2n last),
    (49, b2n poison), (50, be.toNat)]

/-- The Dat of a lane; none when the lane carries no chunk (R69). -/
def decodeDat (h : BitVec 80) (d : BitVec 128) : Option Msg :=
  if h.getLsbD 0 then
    some (.dat (h.extractLsb' 1 2) (h.extractLsb' 3 11) (h.extractLsb' 14 12) (h.extractLsb' 26 20) (h.extractLsb' 46 2)
      (h.getLsbD 48) (h.getLsbD 49) (h.extractLsb' 50 16) d)
  else none

/-! ### Lines, chunks and reason codes -/

/-- Chunk `i` of a line (R9). -/
def chunkOf (d : Line) (i : Nat) : BitVec 128 := d.extractLsb' (128 * i) 128

/-- Word `i` of a line (R9). -/
def wordOf (d : Line) (i : Nat) : W64 := d.extractLsb' (64 * i) 64

/-- A line from its eight words. -/
def lineOfWords (l : List W64) : Line := BitVec.ofNat 512 (lsum ((List.range 8).map (fun i => (l.getD i 0).toNat <<< (64 * i))))

/-- Writes chunk `i` of a line. -/
def setChunk (d : Line) (i : Nat) (c : BitVec 128) : Line :=
  lineOfWords ((List.range 8).map (fun k =>
    if k = 2 * i then c.extractLsb' 0 64 else if k = 2 * i + 1 then c.extractLsb' 64 64 else wordOf d k))

/-- Writes word `i` of a line. -/
def setWord (d : Line) (i : Nat) (w : W64) : Line :=
  lineOfWords ((List.range 8).map (fun k => if k = i then w else wordOf d k))

/-- Takes a chunk into a line that is being collected (R71). -/
def LineBuf.take (b : LineBuf) (i : BitVec 2) (c : BitVec 128) (poison : Bool) : LineBuf :=
  { data := setChunk b.data i.toNat c, got := b.got ||| (1#4 <<< i.toNat), poison := b.poison || poison }

/-- A whole line that has been collected. -/
def LineBuf.whole (d : Line) (poison : Bool) : LineBuf := { data := d, got := 15, poison := poison }

/-- Whether all four chunks are there. -/
def LineBuf.full (b : LineBuf) : Bool := b.got == 15#4

/-- Takes a chunk of request data into the collection of its request (R69, R79). -/
def takeReqChunk (a : Aid) (t : BitVec 12) (i : BitVec 2) (poison : Bool) (be : BitVec 16) (c : BitVec 128) (l : List ReqData) : List ReqData :=
  let mine (x : ReqData) : Bool := x.aid == a && x.txid == t
  let l := if l.any mine then l else l ++ [{ aid := a, txid := t }]
  lmodify mine (fun x => { x with d := x.d.take i c poison, be := x.be ||| ((be.setWidth 64) <<< (16 * i.toNat)) }) l

/-- The data of a request, once all of them have been collected (R69). -/
def Req.dataIn (q : Req) (l : List ReqData) : Option ReqData :=
  if q.op.chunks = 0 then some { aid := q.aid, txid := q.txid }
  else l.find? (fun x => x.aid == q.aid && x.txid == q.txid && x.d.got &&& q.op.chunks == q.op.chunks)

/-- A collection without the data of a request. -/
def Req.dropData (q : Req) (l : List ReqData) : List ReqData := lremove (fun x => x.aid == q.aid && x.txid == q.txid) l

/-- Byte `i` of a line. -/
def byteOf (d : Line) (i : Nat) : BitVec 8 := d.extractLsb' (8 * i) 8

/-- The bytes of `new` where `be` is set, those of `old` elsewhere (R79). -/
def mergeBytes (be : BitVec 64) (new old : Line) : Line :=
  BitVec.ofNat 512 (lsum ((List.range 64).map (fun i =>
    (if be.getLsbD i then byteOf new i else byteOf old i).toNat <<< (8 * i))))

/-- Home transaction ID of entry `e` of slice `k` of instance `i` (R61). -/
def htidOf (i k e : Nat) : BitVec 20 := pack 20 [(0, e % 2048), (11, k % 64), (17, i % 8)]
def htidInst (h : BitVec 20) : Nat := fld h 17 3
def htidSlice (h : BitVec 20) : Nat := fld h 11 6
def htidEntry (h : BitVec 20) : Nat := fld h 0 11

/-- Reasons of a CmpErr (R68). -/
abbrev rsNoHome : BitVec 8 := 0x01
abbrev rsDenied : BitVec 8 := 0x02
abbrev rsPoisoned : BitVec 8 := 0x03
abbrev rsSliceLost : BitVec 8 := 0x04
abbrev rsLinkLost : BitVec 8 := 0x05
abbrev rsIsolated : BitVec 8 := 0x06
abbrev rsUnsupported : BitVec 8 := 0x07
abbrev rsMemFail : BitVec 8 := 0x08
abbrev rsSliceOff : BitVec 8 := 0x09
abbrev rsBadAid : BitVec 8 := 0x0A

end Sys2Proof.Machine
end

