-- ==== Sys2Proof/Machine/Ops.lean ====
section
/-! DEFINITION. Sys2Proof/Machine/Ops.lean: the named operations over the parts of the state: reaching a
slice, port or link, the cell pool and its queues, the arrays of a slice, and what the block sends. -/

namespace Sys2Proof.Machine

/-! ### Reaching a part of the state -/

/-- Package time, as a number of ticks. -/
def State.ptcNow (s : State) : Nat := s.time.ptc.toNat

/-- Ticks counted without the steps of the count: what deadlines are counted in, since a step shifts every pending deadline by
the same amount (R320). -/
def State.now (s : State) : Nat := ((s.time.ptc.toNat : Int) - s.time.stepped).toNat

/-- A slice that no command has changed yet: the LFSR starts from 0x5A5A XOR its slice ID (R218). -/
def Slice.init (k : Nat) : Slice := { lfsr := 0x5A5A#16 ^^^ BitVec.ofNat 16 k }

def State.slice (s : State) (k : Nat) : Slice := tget Slice.init s.slices k
def State.ca (s : State) (p : Nat) : CaPort := tget (fun _ => {}) s.cas p
def State.mp (s : State) (m : Nat) : MemPort := tget (fun _ => {}) s.mps m
def State.link (s : State) (r : Nat) : Ridge := tget (fun _ => {}) s.rdg r

def State.setSlice (s : State) (k : Nat) (v : Slice) : State := { s with slices := tput k v s.slices }
def State.setCa (s : State) (p : Nat) (v : CaPort) : State := { s with cas := tput p v s.cas }
def State.setMp (s : State) (m : Nat) (v : MemPort) : State := { s with mps := tput m v s.mps }
def State.setLink (s : State) (r : Nat) (v : Ridge) : State := { s with rdg := tput r v s.rdg }

def State.modSlice (s : State) (k : Nat) (f : Slice → Slice) : State := s.setSlice k (f (s.slice k))
def State.modCa (s : State) (p : Nat) (f : CaPort → CaPort) : State := s.setCa p (f (s.ca p))
def State.modMp (s : State) (m : Nat) (f : MemPort → MemPort) : State := s.setMp m (f (s.mp m))
def State.modLink (s : State) (r : Nat) (f : Ridge → Ridge) : State := s.setLink r (f (s.link r))

/-- Whether a slice answers what reaches it: powered, its wrapper open, its instance not lost (R451, R456, R505). -/
def State.works (s : State) (k : Nat) : Bool := !(s.slice k).wrapper && !(s.slice k).clamped && !s.err.lost

/-- Does `f` for each number of a list in turn. -/
def State.each (s : State) (l : List Nat) (f : State → Nat → State) : State := l.foldl f s

/-- Records what the block drives at a port (log 13). -/
def State.emit (s : State) (o : Out) : State := { s with out := s.out ++ [o] }

/-- Takes the next number for a free value (log 6). -/
def State.used (s : State) : State := { s with fresh := s.fresh + 1 }

/-- The number of this instance. -/
def State.self (s : State) : Nat := s.inst.toNat

/-- Whether instance `i` is in the package (R532). -/
def State.isMember (s : State) (i : Nat) : Bool := bit s.pkg.members i

/-- Whether the firmware step of bring-up is done, from when on every register reads its value (R500). -/
def State.regsLive (s : State) : Bool := decide (5 ≤ s.rst.step)

/-- The other members of the package. -/
def State.peers (s : State) : List Nat := (List.range 8).filter (fun i => s.isMember i && i != s.self)

/-- Whether a link is JOINED, or retrains since it was (R288, R292). -/
def Ridge.carries (l : Ridge) : Bool := decide (l.st = .joined) || (decide (l.st = .retraining) && decide (l.was = .joined))

/-- The ridge port whose JOINED link leads to instance `i`, the lowest one (R288, R289). -/
def State.routeTo (s : State) (i : Nat) : Option Nat :=
  leastBelow (fun r => decide ((s.link r).st = .joined) && (s.link r).peerV && (s.link r).peer.toNat == i) s.gh.ridgePorts

/-- The peer route PEER_PORT towards instance `i`: the ridge port whose link to it is LINKED, JOINED or RETRAINING (R288). -/
def State.peerPort (s : State) (i : Nat) : Option Nat :=
  leastBelow (fun r =>
    (decide ((s.link r).st = .linked) || (s.link r).carries || (decide ((s.link r).st = .retraining) && decide ((s.link r).was = .linked))) &&
      (s.link r).peerV && (s.link r).peer.toNat == i) s.gh.ridgePorts

/-- A mask without its lowest bit: the reports of several peers are taken in ascending order (log 14). -/
def dropLowest (m : BitVec 8) : BitVec 8 := m &&& (m - 1)

/-- The instance whose CA port an operand names: none below 128, where it is a port of this instance. -/
def peerOfPort (p : Nat) : Option (BitVec 3) := if p < 128 then none else some (BitVec.ofNat 3 (p / 128 - 1))

/-- The instances that this one is joined with: a link to them is JOINED or RETRAINING (R291, R335). -/
def State.joinedPeers (s : State) : List Nat :=
  (List.range 8).filter (fun i => i != s.inst.toNat && (List.range s.gh.ridgePorts).any (fun r =>
    (s.link r).carries && (s.link r).peerV && (s.link r).peer.toNat == i))

/-- Enabled slices: the slices that the trim loading left enabled (R494, R532). -/
def State.enabledSlices (s : State) : List Nat := (List.range s.gh.slices).filter (fun k => bit s.rst.sliceMask k)

/-! ### Memory of the block: lists of messages in the mesh -/

/-- Key of a buffer of router `node`, port `port`, channel `vc`. -/
def vcCode : VC → Nat
  | .req => 0
  | .snp => 1
  | .rsp => 2
  | .dat => 3
  | .gt => 4
  | .mgt => 5
  | .err => 6

def bufKey (node port : Nat) (vc : VC) : Nat := (node * 9 + port) * 7 + vcCode vc

/-- Appends a packet to the injection buffer of its source port. -/
def State.inject (s : State) (p : Pkt) : State :=
  let k := bufKey p.snode p.sport p.vc
  { s with mesh := { s.mesh with inBuf := tput k (tget (fun _ => []) s.mesh.inBuf k ++ [p]) s.mesh.inBuf } }

/-- Where a packet towards an ingress point goes: a CA port's router port, or the EAVE port of a
ridge unit (`i` = 128 + r). -/
def State.ingressAt (s : State) (i : Nat) : Nat × Nat :=
  if i < 128 then (i / 2, portCa0 + i % 2) else (s.gh.ridgeNode (i - 128), portEave)

/-- Sends a message from slice `k` to ingress point `i`. -/
def State.fromSlice (s : State) (k i : Nat) (vc : VC) (gtc : Nat) (m : Msg) : State :=
  let d := s.ingressAt i
  s.inject { vc := vc, dnode := d.1, dport := d.2, snode := k, sport := portSlice, gtc := gtc, msg := m }

/-- Sends a message from ingress point `i` to slice `k`. -/
def State.toSlice (s : State) (i k : Nat) (vc : VC) (gtc : Nat) (m : Msg) : State :=
  let d := s.ingressAt i
  s.inject { vc := vc, dnode := k, dport := portSlice, snode := d.1, sport := d.2, gtc := gtc, msg := m }

/-- Sends a message from slice `k` to slice `j`. -/
def State.sliceToSlice (s : State) (k j : Nat) (vc : VC) (m : Msg) : State :=
  s.inject { vc := vc, dnode := j, dport := portSlice, snode := k, sport := portSlice, msg := m }

/-- Puts an MGT or ERR packet with `body` body flits into the injection buffer of its source port, flit by flit (R268). -/
def State.injectHub (s : State) (vc : VC) (src dst : Nat × Nat) (body : Nat) (m : HubMsg) : State :=
  (List.range (body + 1)).foldl (fun s i =>
    s.inject { vc := vc, dnode := dst.1, dport := dst.2, snode := src.1, sport := src.2, head := i == 0, tail := i == body
               msg := .hub m }) s

/-- The body flits of the next MGT or ERR packet: free, at most 32 (R268, log 12). -/
def State.hubBody (s : State) : Nat := Config.hubBody s.fresh % 33

/-- The hub's port of the mesh (R16). -/
abbrev hubAt : Nat × Nat := (0, portHub)

/-- Sends an MGT or ERR packet within the instance (R16, R264). -/
def State.sendHub (s : State) (vc : VC) (src dst : Nat × Nat) (m : HubMsg) : State :=
  State.used (s.injectHub vc src dst s.hubBody m)

/-- Sends an MGT message from a unit to the hub of instance `dst`: over the mesh, and by the peer route when that is another
instance. With no peer route nothing is sent (R287 to R289, R305; log 12). -/
def State.sendMgtFrom (s : State) (src : Nat × Nat) (dst : Nat) (m : MgtMsg) : State :=
  let out := s.emit (.mgt (BitVec.ofNat 3 dst) m)
  if dst = s.inst.toNat then out.sendHub .mgt src hubAt .own
  else
    match s.peerPort dst with
    | none => s
    | some r => out.sendHub .mgt src (s.gh.ridgeNode r, portEave) (.peer (BitVec.ofNat 3 dst) s.hubBody)

/-- Sends an MGT message from the hub to the hub of instance `dst`. -/
def State.sendMgt (s : State) (dst : Nat) (m : MgtMsg) : State := s.sendMgtFrom hubAt dst m

/-- The packets that have arrived at a local port, oldest first. -/
def State.arrived (s : State) (node port : Nat) (vc : VC) : List Pkt :=
  tget (fun _ => []) s.mesh.eject (bufKey node port vc)

/-- Takes the oldest packet off an ejection buffer. -/
def State.dropArrived (s : State) (node port : Nat) (vc : VC) : State :=
  { s with mesh := { s.mesh with
      eject := tput (bufKey node port vc) (s.arrived node port vc).tail s.mesh.eject } }

/-! ### The cell pool and its queues (12) -/

def HubSt.queue (h : HubSt) : QCode → Queue
  | .hcq => h.hcq
  | .mcq => h.mcq
  | .hrq => h.hrq
  | .mrq => h.mrq
  | .evq => h.evq
  | .loft => h.loft

def HubSt.setQueue (h : HubSt) (q : QCode) (v : Queue) : HubSt :=
  match q with
  | .hcq => { h with hcq := v }
  | .mcq => { h with mcq := v }
  | .hrq => { h with hrq := v }
  | .mrq => { h with mrq := v }
  | .evq => { h with evq := v }
  | .loft => { h with loft := v }

/-- The code of a queue (R357). -/
def qCode : QCode → Nat
  | .hcq => 0
  | .mcq => 1
  | .hrq => 2
  | .mrq => 3
  | .evq => 4
  | .loft => 5

def HubSt.win (h : HubSt) : Window → Win
  | .hostp => h.host
  | .mgmtp => h.mgm

def HubSt.setWin (h : HubSt) (w : Window) (v : Win) : HubSt :=
  match w with
  | .hostp => { h with host := v }
  | .mgmtp => { h with mgm := v }

def State.win (s : State) (w : Window) : Win := s.hub.win w
def State.modWin (s : State) (w : Window) (f : Win → Win) : State :=
  { s with hub := s.hub.setWin w (f (s.hub.win w)) }

/-- The command queue and the reply queue of a window (R357). -/
def cmdqOf : Window → QCode
  | .hostp => .hcq
  | .mgmtp => .mcq
def rplqOf : Window → QCode
  | .hostp => .hrq
  | .mgmtp => .mrq

/-- The packet being written into a command queue; no other queue has one (R364). -/
def HubSt.openOf (h : HubSt) : QCode → Option OpenPkt
  | .hcq => h.host.opn
  | .mcq => h.mgm.opn
  | .hrq | .mrq | .evq | .loft => none

/-- Cells of the waiting packets of a queue. -/
def Queue.waitingCells (q : Queue) : Nat := lsum (q.waiting.map (fun p => p.cells.length))

/-- Cells of the unread rest of a begun packet. -/
def Queue.begunCells (q : Queue) : Nat :=
  match q.begun with
  | none => 0
  | some l => l.length

/-- Cells a queue holds: the WORDS field of its count register (R375). -/
def HubSt.cellsHeld (h : HubSt) (q : QCode) : Nat :=
  (h.queue q).waitingCells + (h.queue q).begunCells +
    (match h.openOf q with
     | none => 0
     | some o => o.cells.length)

/-- The queues in code order (R357). -/
def queueAt (k : Nat) : QCode :=
  match k with
  | 0 => .hcq
  | 1 => .mcq
  | 2 => .hrq
  | 3 => .mrq
  | 4 => .evq
  | _ => .loft

/-- Whether `n` more cells fit the quota of a queue (R367). -/
def HubSt.fits (h : HubSt) (q : QCode) (n : Nat) : Bool := decide (h.cellsHeld q + n ≤ (h.queue q).quota.toNat)

/-- Even parity over 32 bits (R366). -/
def parity32 (v : BitVec 32) : Bool := (List.range 32).foldl (fun a i => a != v.getLsbD i) false

/-- PAR of a word (R366). -/
def parOf (v : W64) : BitVec 2 :=
  pack 2 [(0, b2n (parity32 (v.extractLsb' 0 32))), (1, b2n (parity32 (v.extractLsb' 32 32)))]

/-- Takes a free cell: one that has been freed, else the lowest never used (log 17). -/
def HubSt.takeCell (h : HubSt) : Nat × HubSt :=
  match h.freeCells with
  | c :: l => (c, { h with freeCells := l })
  | [] => (h.nextCell, { h with nextCell := h.nextCell + 1 })

/-- Writes one word into a cell of the pool. -/
def HubSt.writeCell (h : HubSt) (v : W64) (fin : Bool) : Cell × HubSt :=
  let r := h.takeCell
  ({ idx := r.1, data := v, fin := fin, ptag := false, par := parOf v }, r.2)

/-- Writes the words of a packet, the end mark on the last. -/
def HubSt.writeWords (h : HubSt) : List W64 → List Cell × HubSt
  | [] => ([], h)
  | v :: l =>
    let a := h.writeCell v l.isEmpty
    let b := HubSt.writeWords a.2 l
    (a.1 :: b.1, b.2)

/-- Gives cells back to the pool. -/
def HubSt.release (h : HubSt) (l : List Cell) : HubSt :=
  { h with freeCells := l.map (fun c => c.idx) ++ h.freeCells,
           badCells := h.badCells.filter (fun i => !(l.any (fun c => c.idx == i)))
           linkCe := h.linkCe.filter (fun i => !(l.any (fun c => c.idx == i))) }

/-- Makes a whole packet of cells the youngest packet of a queue (R374). -/
def HubSt.enqueue (h : HubSt) (q : QCode) (prio : Nat) (grey : Bool) (cells : List Cell) : HubSt :=
  let v := h.queue q
  { h.setQueue q { v with waiting := v.waiting ++ [{ prio := prio, arr := h.arr, cells := cells, grey := grey }] } with
    arr := h.arr + 1 }

/-- Whether a queue is a reply queue. -/
def isReplyQueue : QCode → Bool
  | .hrq | .mrq => true
  | .hcq | .mcq | .evq | .loft => false

/-- Whether a packet of a queue waits to be written. -/
def HubSt.awaits (h : HubSt) (q : QCode) : Bool :=
  h.waiting.any (fun x => match x with
    | .packet p .. => decide (p = q)
    | .push .. | .pop .. => false)

/-- Writes a whole packet into a queue. During a rebuild of the free list the write waits (R377), and a reply waits while its queue may take no
such cells (R367, R369; log 100). -/
def HubSt.writePacket (h : HubSt) (q : QCode) (prio : Nat) (grey : Bool) (ws : List W64) : HubSt :=
  if h.rebuild.isSome || (isReplyQueue q && (!(h.fits q ws.length) || h.awaits q)) then
    { h with waiting := h.waiting ++ [.packet q prio grey ws] }
  else
    let r := h.writeWords ws
    r.2.enqueue q prio grey r.1

/-- The packet that a reader begins next: the highest priority, then the oldest (R374). -/
def bestPkt : List QPkt → Option QPkt
  | [] => none
  | p :: l =>
    match bestPkt l with
    | none => some p
    | some b => if b.prio > p.prio then some b else some p

/-- Takes a packet off the waiting list of a queue. -/
def Queue.without (q : Queue) (p : QPkt) : Queue := { q with waiting := lremove (fun x => x.arr == p.arr) q.waiting }

/-- Discards the waiting packets of a queue that nothing has begun (R379); answers how many. -/
def HubSt.discardWaiting (h : HubSt) (q : QCode) : Nat × HubSt :=
  let v := h.queue q
  (v.waiting.length,
   (h.setQueue q { v with waiting := [] }).release (v.waiting.flatMap (fun p => p.cells)))

/-! ### Replies -/

/-- Statuses (R362). -/
abbrev stOk := 0x00
abbrev stPartial := 0x01
abbrev stBadOpcode := 0x10
abbrev stLenExceeds := 0x11
abbrev stMalformed := 0x12
abbrev stBadParam := 0x13
abbrev stConflict := 0x20
abbrev stBusy := 0x21
abbrev stDenied := 0x30
abbrev stAwaiting := 0x31
abbrev stExpired := 0x32
abbrev stPoisoned := 0x40
abbrev stFailed := 0x41
abbrev stFlushed := 0x50

/-- A reply header (R359). -/
def replyHeader (op len tag status detail : Nat) : W64 :=
  pack 64 [(63, 1), (56, op % 128), (48, len % 256), (32, tag % 65536), (24, status % 256), (0, detail % 2 ^ 24)]

/-- Writes the reply of a command and takes the command out of progress (R370, R371). The reply of a
command forwarded from another instance goes back to it (R385). -/
def finish (k : Kcp) (status detail : Nat) (ws : List W64) (s : State) : State :=
  let h := { s.hub with inProg := lremove (fun x => x.id == k.id) s.hub.inProg }
  match k.remote with
  | some (i, ref) =>
    ({ s with hub := h }).sendMgt i.toNat (.fwdReply ref (BitVec.ofNat 8 status) (BitVec.ofNat 24 detail) ws)
  | none =>
    let rpl := replyHeader k.op.toNat ws.length k.tag.toNat status detail :: ws
    { s with hub := h.writePacket (rplqOf k.win) k.prio.toNat false rpl }

/-- The command in progress `c`, when it has opcode `op` and its own step has not run yet. -/
def State.newCmd (s : State) (c op : Nat) : Option Kcp :=
  s.hub.inProg.find? (fun k => k.id == c && k.op.toNat == op && !k.running && k.fwd.isNone)

/-- The command in progress `c`, whatever its state. -/
def State.cmd (s : State) (c : Nat) : Option Kcp := s.hub.inProg.find? (fun k => k.id == c)

/-- Runs the step of command `c` when it is in progress with opcode `op` and the words of it pass `form`;
otherwise nothing changes (log 1). -/
def runCmd (c op : Nat) (form : Kcp → Bool) (f : Kcp → State → State) (s : State) : State :=
  match s.newCmd c op with
  | none => s
  | some k => if form k then f k s else s

/-- Changes a command in progress. -/
def State.modCmd (s : State) (c : Nat) (f : Kcp → Kcp) : State :=
  { s with hub := { s.hub with inProg := lmodify (fun k => k.id == c) f s.hub.inProg } }

/-- Marks a command as running: a later step writes its reply. -/
def State.startCmd (s : State) (k : Kcp) (f : Kcp → Kcp) : State :=
  s.modCmd k.id (fun x => f { x with running := true })

/-- Ends command `c` if it is still in progress. -/
def State.endCmd (s : State) (c : Option Nat) (status detail : Nat) (ws : List W64) : State :=
  match c with
  | none => s
  | some i =>
    match s.cmd i with
    | none => s
    | some k => finish k status detail ws s

/-- A parameter word; a missing one reads zero. -/
def Kcp.par (k : Kcp) (i : Nat) : W64 := k.ps.getD i 0

/-- DETAIL of BAD_PARAM: failing word, lowest bit of the failing field (R383). -/
def badDetail (word lowBit : Nat) : Nat := word % 256 + (lowBit % 64) * 256

end Sys2Proof.Machine
end

