-- ==== Sys2Proof/Machine/LinkFmt.lean ====
section
/-! DEFINITION. Sys2Proof/Machine/LinkFmt.lean: how messages cross a ridge link: line packets, markers and flits (R290,
R297 to R301). -/

namespace Sys2Proof.Machine

/-! ### Packets (R290, R299) -/

/-- One chunk of a line packet: its index, LAST, POISON, byte enables and data. -/
structure LineChunk where
  cidx : BitVec 2
  last : Bool
  poison : Bool
  be : BitVec 16
  d : BitVec 128
  deriving DecidableEq, Repr

/-- The header slot of a line packet (R299). -/
def encodeLineHead (kind : BitVec 2) (aid : Aid) (txid : BitVec 12) (htid : BitVec 20) (cs : List LineChunk) : BitVec 128 :=
  let chd (j : Nat) (c : LineChunk) : Nat × Nat := (48 + 4 * j, c.cidx.toNat + 4 * b2n c.last + 8 * b2n c.poison)
  pack 128 ([(0, kind.toNat), (2, aid.toNat), (13, txid.toNat), (25, htid.toNat), (45, cs.length)] ++
    (cs.zipIdx.map (fun x => chd x.2 x.1)) ++ (cs.zipIdx.map (fun x => (64 + 16 * x.2, x.1.be.toNat))))

/-- The slots of a line packet (R299). -/
def lineSlots (kind : BitVec 2) (aid : Aid) (txid : BitVec 12) (htid : BitVec 20) (cs : List LineChunk) : List (BitVec 128) :=
  encodeLineHead kind aid txid htid cs :: cs.map (fun c => c.d)

/-- Number of chunk slots that a line packet header announces (R299). -/
def lineChunks (h : BitVec 128) : Nat := fld h 45 3

/-- The chunks of a line packet as Dat messages (R299). -/
def decodeLine (slots : List (BitVec 128)) : List Msg :=
  match slots with
  | [] => []
  | h :: ds =>
    (ds.take (lineChunks h)).zipIdx.map (fun x =>
      .dat (h.extractLsb' 0 2) (h.extractLsb' 2 11) (h.extractLsb' 13 12) (h.extractLsb' 25 20)
        (h.extractLsb' (48 + 4 * x.2) 2) (h.getLsbD (50 + 4 * x.2)) (h.getLsbD (51 + 4 * x.2))
        (h.extractLsb' (64 + 16 * x.2) 16) x.1)

/-- A fence marker of R337 as one SNP slot (R290). -/
def encodeMarker (cap : Nat) (inst : BitVec 3) (slice : Nat) : BitVec 128 :=
  pack 128 [(0, 0x2F), (6, cap % 128), (13, inst.toNat), (16, slice % 64)]

/-- The message of a packet of one slot, by its opcode (R62, R65, R66, R67, R290, R299). -/
def decodeSlot (m : BitVec 128) : Option Msg :=
  let o := fld m 0 6
  if o < 0x20 then (if (reqOpOf o).isSome then some (.req (decodeReq m) 0 .none .none) else none)
  else if o = 0x2F then some (.snpMarker (m.extractLsb' 13 3) (fld m 16 6) (fld m 6 7))
  else if o < 0x30 then decodeSnp m
  else if o < 0x3C then decodeRsp m
  else decodeCmp m

/-- The receive buffer of a kind of message: 0 requests, 2 RSP, 4 DAT, each with its GT reserve after it (R301; log 25). -/
def bufCode (base : Nat) (gt : Bool) : Nat := base + b2n gt

/-- The chunks of request data (R69, R328). -/
def requestChunks (q : Req) (d : LineBuf) (be : BitVec 64) : List LineChunk :=
  let l := (List.range 4).filter (fun i => q.op.chunks.getLsbD i)
  l.map (fun i => { cidx := BitVec.ofNat 2 i, last := some i == l.getLast?, poison := d.poison
                    be := if q.op == .wrPartial then be.extractLsb' (16 * i) 16 else 0xFFFF, d := chunkOf d.data i })

/-- The packets in which a message crosses a link; none for a message that never crosses one (R289, R299). DESIGN CHOICE (log 97): each chunk of data
that is not a request's crosses in a line packet of its own, with NCH = 1; R299 leaves the number open. -/
def packetsOf (vc : VC) (gtc : Nat) (m : Msg) : List TxPkt :=
  let gt := vc == .gt
  let rsp (b : BitVec 128) : List TxPkt := [{ vc := vc, gtc := gtc, buf := some (bufCode 2 gt), slots := [b] }]
  match m with
  | .req q .. => [{ vc := vc, gtc := gtc, buf := some (bufCode 0 gt), slots := [q.encode] }]
  | .snp op aid htid l cidx raid rtxid => [{ vc := vc, gtc := gtc, slots := [encodeSnp op aid htid l cidx raid rtxid] }]
  | .rsp op aid htid pd wbp => rsp (encodeRsp op aid htid pd wbp)
  | .cmpAck aid htid => rsp (encodeCmpAck aid htid)
  | .cmp aid txid htid g data result => rsp (encodeCmp aid txid htid g data result)
  | .cmpErr aid txid htid reason => rsp (encodeCmpErr aid txid htid reason)
  | .wbAck aid txid htid superseded => rsp (encodeWbAck aid txid htid superseded)
  | .dat kind aid txid htid cidx last poison be d =>
    [{ vc := vc, gtc := gtc, buf := some (bufCode 4 gt)
       slots := lineSlots kind aid txid htid [{ cidx := cidx, last := last, poison := poison, be := be, d := d }] }]
  | .snpMarker inst slice cap => [{ vc := vc, gtc := gtc, slots := [encodeMarker cap inst slice] }]
  | .credit .. | .creditBack .. | .mirrorSet .. | .mirrorClr .. | .mirrorAck .. | .marker .. | .sfCopy .. | .hub _ => []

/-- The packets in which a request crosses a link: the request, then the line of its data (R299). -/
def requestPackets (vc : VC) (gtc : Nat) (q : Req) (d : LineBuf) (be : BitVec 64) : List TxPkt :=
  packetsOf vc gtc (.req q 0 .none .none) ++
    (if q.op.chunks = 0 then [] else [{ vc := vc, gtc := gtc, slots := lineSlots 2 q.aid q.txid 0 (requestChunks q d be) }])

/-! ### Flits (R297, R298, R300) -/

/-- A flit without its CRC. `half`: STAMP or CRET. -/
structure Flit where
  ftype : BitVec 2
  gstart : Bool
  ackv : Bool
  seq : BitVec 10
  ackseq : BitVec 10
  half : BitVec 16
  desc : List (BitVec 8)
  slots : List (BitVec 128)
  deriving DecidableEq, Repr

/-- The layout of a flit below its CRC (R297). -/
def Flit.body (f : Flit) : BitVec 992 :=
  pack 992 ([(0, f.ftype.toNat), (2, b2n f.gstart), (3, b2n f.ackv), (4, f.seq.toNat), (14, f.ackseq.toNat), (24, f.half.toNat)] ++
    (f.desc.zipIdx.map (fun x => (40 + 8 * x.2, x.1.toNat))) ++ (f.slots.zipIdx.map (fun x => (96 + 128 * x.2, x.1.toNat))))

/-- The fields of a flit (R297). -/
def decodeFlit (v : BitVec 1024) : Flit :=
  { ftype := v.extractLsb' 0 2, gstart := v.getLsbD 2, ackv := v.getLsbD 3, seq := v.extractLsb' 4 10
    ackseq := v.extractLsb' 14 10, half := v.extractLsb' 24 16
    desc := (List.range 7).map (fun i => v.extractLsb' (40 + 8 * i) 8)
    slots := (List.range 7).map (fun i => v.extractLsb' (96 + 128 * i) 128) }

/-- The virtual channel of a descriptor; none for an empty slot or a reserved code (R298). -/
def descVc (d : BitVec 8) : Option VC :=
  match fld d 0 3 with
  | 0 => some .req
  | 1 => some .snp
  | 2 => some .rsp
  | 3 => some .dat
  | 4 => some .gt
  | 5 => some .mgt
  | _ => none

/-- A slot descriptor (R298). -/
def encodeDesc (vc : VC) (gtc : Nat) (first : Bool) : BitVec 8 :=
  pack 8 [(0, vcCode vc), (3, if vc = .gt then gtc % 16 else 0), (7, b2n first)]

/-- The descriptor of an empty slot (R298). -/
abbrev emptyDesc : BitVec 8 := 7

/-- A credit return in a flit (R297). -/
def encodeCret (code count : Nat) : BitVec 16 := pack 16 [(0, code % 8), (3, count % 256)]

end Sys2Proof.Machine
end

