-- ==== Sys2Proof/Machine/Flags.lean ====
section
/-! DEFINITION. Sys2Proof/Machine/Flags.lean: the error and status flags: event packets, counts, the
first-error capture and the ERR_OUT pin. -/

namespace Sys2Proof.Machine

/-- The default severity of an error source (R446). -/
def sevDefault (src : Nat) : BitVec 3 :=
  if src ∈ [0x08, 0x0A, 0x0F, 0x1F, 0x24, 0x26, 0x2B] then 0
  else if src ∈ [0x01, 0x02, 0x04, 0x05, 0x07, 0x09, 0x15, 0x1A, 0x1B, 0x1D, 0x1E, 0x20, 0x25, 0x27, 0x2A] then 1
  else if src ∈ [0x0C, 0x0D, 0x13, 0x19, 0x1C, 0x21, 0x29] then 3
  else if src = 0x22 then 4
  else 2

/-- The detail of an event, one constructor for each format of R447. -/
inductive Detail where
  | line (l : LAddr) (slice : Nat) (aid : Aid)
  | array (arr waddr slice kind : Nat)
  | opn (slice set way ncand npois : Nat)
  | slc (slice cause phase opensh engine thread : Nat)
  | port (id reason : Nat) (aid : Aid) (peer : Nat) (peerV : Bool)
  | router (node port vc snode sport : Nat)
  | queue (q cell : Nat)
  | prot (outcome win count : Nat)
  | misc (code value : Nat)
  | policy (w : W64)
  deriving DecidableEq, Repr

/-- Word 2 of an event packet (R447). -/
def Detail.word : Detail → W64
  | .line l sl a => pack 64 [(0, l.toNat), (46, sl % 64), (52, a.toNat)]
  | .array a w sl k => pack 64 [(0, a % 16), (4, w % 2 ^ 20), (24, sl % 64), (30, k % 4)]
  | .opn sl st w nc np => pack 64 [(0, sl % 64), (6, st % 4096), (18, w % 16), (22, nc % 64), (28, np % 64)]
  | .slc sl c ph os e t => pack 64 [(0, sl % 64), (8, c % 16), (12, ph % 8), (16, os % 8192), (32, e % 16), (36, t % 4)]
  | .port i r a p v => pack 64 [(0, i % 256), (8, r % 256), (16, a.toNat), (27, p % 8), (30, b2n v)]
  | .router n p v sn sp => pack 64 [(0, n % 64), (6, p % 16), (10, v % 8), (13, sn % 64), (19, sp % 16)]
  | .queue q c => pack 64 [(0, q % 8), (3, c % 2 ^ 14)]
  | .prot o w c => pack 64 [(0, o % 16), (4, w % 2), (16, c % 65536)]
  | .misc c v => pack 64 [(0, c % 256), (8, v % 2 ^ 56)]
  | .policy w => w

/-- An event about to be raised: its source, its detail, and the access type of R448. -/
structure Ev where
  src : Nat
  detail : Detail
  acc : Nat
  deriving DecidableEq, Repr

/-- The severity of a source now (R413). -/
def State.sevOf (s : State) (src : Nat) : BitVec 3 := tget sevDefault s.err.sev src

/-- Priority of an event packet (R361). -/
def sevPrio (v : BitVec 3) : Nat := Nat.min v.toNat 3

/-- Word 0 of an event packet (R361). -/
def evHeader (eseq : BitVec 16) (sev : BitVec 3) (loss : Bool) (src : Nat) (inst : BitVec 3) : W64 :=
  pack 64 [(63, 1), (56, 0x7F), (48, 2), (32, eseq.toNat), (29, sev.toNat), (28, b2n loss), (18, src % 64), (15, inst.toNat)]

/-- Adds `n`, saturating at all ones. -/
def satAdd {w : Nat} (v : BitVec w) (n : Nat) : BitVec w := BitVec.ofNat w (Nat.min (v.toNat + n) (2 ^ w - 1))

/-- Counts `n` dropped or discarded events (R368, R376). -/
def ErrSt.dropEvents (e : ErrSt) (n : Nat) : ErrSt :=
  if n = 0 then e else { e with evqDrop := satAdd e.evqDrop n, loss := true }

/-- Discards the oldest waiting grey events until three cells fit; `fuel` bounds the search (R368). -/
def makeRoom (h : HubSt) (e : ErrSt) : Nat → HubSt × ErrSt
  | 0 => (h, e)
  | fuel + 1 =>
    if h.fits .evq 3 then (h, e)
    else
      match h.evq.waiting.find? (fun p => p.grey) with
      | none => (h, e)
      | some p =>
        makeRoom ((h.setQueue .evq (h.evq.without p)).release p.cells) (e.dropEvents 1) fuel

/-- Writes an event packet into EVQ, or drops it (R361, R368). -/
def admitEvent (ev : Ev) (s : State) : State :=
  let sev := s.sevOf ev.src
  let grey := decide (sev = 0)
  let r := if grey then (s.hub, s.err) else makeRoom s.hub s.err s.hub.evq.waiting.length
  if r.1.fits .evq 3 then
    { s with
      hub := r.1.writePacket .evq (sevPrio sev) grey
        [evHeader s.err.eseq sev r.2.loss ev.src s.inst, s.time.ptc, ev.detail.word],
      err := { r.2 with loss := false, eseq := s.err.eseq + 1 } }
  else { s with hub := r.1, err := { r.2.dropEvents 1 with eseq := s.err.eseq + 1 } }

/-- Counts an event of a source, saturating (R449). -/
def countEvent (src : Nat) (e : ErrSt) : ErrSt :=
  { e with counts := tput src (satAdd (tget (fun _ => 0) e.counts src) 1) e.counts }

/-- The master of a capture: type and number (R448). -/
def Detail.master : Detail → BitVec 2 × Nat
  | .line _ _ a => if a = 0x7FF#11 then (0, 0) else (1, a.toNat)
  | .port i _ _ _ _ => (2, i)
  | .slc sl c _ _ e _ => if c = 4 then (3, sl * 16 + e) else (0, 0)
  | .array .. | .opn .. | .router .. | .queue .. | .prot .. | .misc .. | .policy _ => (0, 0)

/-- The address of a capture (R448). -/
def Detail.addr : Detail → BitVec 52
  | .line l _ _ => BitVec.ofNat 52 (l.toNat * 64)
  | .array .. | .opn .. | .slc .. | .port .. | .router .. | .queue .. | .prot .. | .misc .. | .policy _ => 0

/-- Whether an error replaces the capture held: it is raised in the same CCLK cycle and has a higher severity, or the same one and
a lower source ID (R448). -/
def State.replaces (s : State) (ev : Ev) : Bool :=
  let f := s.err.ferr
  decide (f.cyc = some s.time.cycles) &&
    (decide (f.sev.toNat < (s.sevOf ev.src).toNat) || (decide (f.sev = s.sevOf ev.src) && decide (ev.src < f.src.toNat)))

/-- The capture that an error leaves (R448). -/
def State.captured (s : State) (ev : Ev) (ovf : BitVec 32) : Ferr :=
  { valid := true, cyc := some s.time.cycles, addr := ev.detail.addr, mtype := ev.detail.master.1
    mid := BitVec.ofNat 12 ev.detail.master.2, acc := BitVec.ofNat 4 ev.acc, src := BitVec.ofNat 6 ev.src, sev := s.sevOf ev.src
    inst := s.inst, ptc := s.time.ptc, ovf := ovf }

/-- Takes part in the first-error capture: the first error is captured, the worst of its cycle; every other error counts in OVF
(R448). -/
def capture (ev : Ev) (s : State) : State :=
  let f := s.err.ferr
  let ovf := if f.valid then satAdd f.ovf 1 else f.ovf
  let g := if !f.valid || s.replaces ev then s.captured ev ovf else { f with ovf := ovf }
  { s with err := { s.err with ferr := g } }

/-- Raises ERR_OUT: drive bit set, minimum pulse of 1,000 ticks started, no deferred write (R356, R534). -/
def raisePin (s : State) : State :=
  { s with err := { s.err with pin := true, drive := true, deferW := false, pulseEnd := some (s.now + 1000), raisedAt := some s.time.cycles } }

/-- What an error does beyond its event packet: capture and pin (R448, R450). -/
def errorReaction (ev : Ev) (s : State) : State :=
  let sev := s.sevOf ev.src
  if sev = 0 then s
  else
    let s := capture ev s
    if s.err.thr.toNat ≤ sev.toNat then raisePin s else s

/-- The unit that an event comes from, as a port of the mesh; none: the hub itself. A router reports through its slice's port
(R264, R268, log 12). -/
def Gh.reporter (g : Gh) : Detail → Option (Nat × Nat)
  | .line _ k _ => if k < g.slices then some (k, portSlice) else none
  | .array _ _ k _ | .opn k .. | .slc k .. | .router k .. => some (k, portSlice)
  | .port i .. =>
    if i < 128 then some (i / 2, portCa0 + i % 2)
    else if i < 144 then some (g.memNode (i - 128), portEave)
    else some (g.ridgeNode (i - 144), portEave)
  | .queue .. | .prot .. | .misc .. | .policy _ => none

/-- The error report of an event travels to the hub on ERR. What the hub does with it is part of the step that raises the event
(R264, R445, log 12). -/
def sendReport (ev : Ev) (s : State) : State :=
  match s.gh.reporter ev.detail with
  | some src => s.sendHub .err src hubAt .report
  | none => s

/-- Raises an event (R445). -/
def raise (ev : Ev) (s : State) : State :=
  sendReport ev (errorReaction ev { admitEvent ev s with err := countEvent ev.src (admitEvent ev s).err })

/-- Whether `a` is captured before `b` when both are raised in one cycle: higher severity, then the
lower source ID (R448). -/
def evBefore (s : State) (a b : Ev) : Bool :=
  decide ((s.sevOf a.src).toNat > (s.sevOf b.src).toNat) ||
    (decide (s.sevOf a.src = s.sevOf b.src) && decide (a.src ≤ b.src))

/-- Puts an event into a list in the order of capture. -/
def evInsert (s : State) (a : Ev) : List Ev → List Ev
  | [] => [a]
  | b :: l => if evBefore s a b then a :: b :: l else b :: evInsert s a l

/-- Raises the events of one step: they fall in one cycle, so the capture takes the first in the
order of R448. -/
def raiseAll (evs : List Ev) (s : State) : State :=
  (evs.foldl (fun l e => evInsert s e l) []).foldl (fun st e => raise e st) s

/-- Writes the oldest report of the backlog, as it was raised, when EVQ has room for it (R361, R468). -/
def drainOne (s : State) : State :=
  match s.err.backlog with
  | [] => s
  | x :: rest =>
    if s.hub.rebuild.isNone && s.hub.fits .evq 3 then
      { s with
        hub := s.hub.writePacket .evq (sevPrio x.sev) (decide (x.sev = 0)) [evHeader x.eseq x.sev s.err.loss 0x0E s.inst, x.ptc, x.word],
        err := { s.err with backlog := rest, loss := false } }
    else s

/-- Writes the reports that wait, as far as EVQ has room (R468). -/
def drainBacklog (s : State) : State := (List.range s.err.backlog.length).foldl (fun s _ => drainOne s) s

/-- Whether an event finds room in EVQ now, once waiting grey events have made room for it (R368, R377). -/
def State.evqRoom (s : State) : Bool :=
  s.hub.rebuild.isNone &&
    (if s.sevOf 0x0E = 0 then s.hub.fits .evq 3 else (makeRoom s.hub s.err s.hub.evq.waiting.length).1.fits .evq 3)

/-- Raises SALVAGE_POISON for a line that salvage poisons or reports: when EVQ lacks room the report waits in the backlog, and
only a full backlog drops it (R468). -/
def reportPoison (ev : Ev) (s : State) : State :=
  let t :=
    if s.err.backlog.isEmpty && s.evqRoom then admitEvent ev s
    else if s.err.backlog.length < 36864 then
      let x : Report := { word := ev.detail.word, ptc := s.time.ptc, eseq := s.err.eseq, sev := s.sevOf 0x0E }
      { s with err := { s.err with backlog := s.err.backlog ++ [x], eseq := s.err.eseq + 1 } }
    else { s with err := { s.err.dropEvents 1 with eseq := s.err.eseq + 1 } }
  sendReport ev (errorReaction ev { t with err := countEvent ev.src t.err })

/-- Access types (R414). -/
abbrev accRead := 0
abbrev accWrite := 1
abbrev accSnoop := 2
abbrev accScrub := 3
abbrev accCmd := 4
abbrev accLink := 5
abbrev accInt := 6

/-- Access type of a LINE event with a request behind it (R448). -/
def ReqOp.acc : ReqOp → Nat
  | .rdShared | .rdUnique | .makeUnique | .rdNoSnoop | .cleanShared => accRead
  | .wrLine | .wrPartial | .evict | .wbDirty | .wbOwned | .atomAdd | .atomSwap | .atomCas | .atomAnd | .atomOr => accWrite

/-- An AID or a slice that a LINE detail names as none (R447). -/
abbrev noAid : Aid := 0x7FF#11
abbrev noSlice := 0x3F

/-! ### Policy events (R199) -/

/-- Reports a decision under a policy (R199, R402). -/
def policyEvent (pid code tgt reason old new : Nat) (s : State) : State :=
  let w : W64 := pack 64 [(0, pid), (8, code), (16, tgt % 256), (24, reason), (32, old % 65536), (48, new % 65536)]
  let s := { s with pol := { s.pol with decisions := tput pid (w, s.time.ptc) s.pol.decisions } }
  raise { src := 0x26, detail := .policy w, acc := accInt } s

end Sys2Proof.Machine
end

