-- ==== Sys2Proof/Machine/Command.lean ====
section
/-! DEFINITION. Sys2Proof/Machine/Command.lean: the command summary table (R381), the checks the hub makes
before it runs a command (R382), and the counters of R513. -/

namespace Sys2Proof.Machine

/-! ### Performance counters -/

/-- Adds `n` to a counter, modulo 2^48; a carry sets the sticky overflow bit (R514). -/
def Ctr.add (c : Ctr) (n : Nat) : Ctr :=
  { c with val := BitVec.ofNat 48 (c.val.toNat + n), ovf := c.ovf || decide (c.val.toNat + n ≥ 2 ^ 48) }

/-- Adds `n` to every programmable counter that counts event `ev` (R514, R515). -/
def bumpEvent (ev n : Nat) (t : Tbl Ctr) : Tbl Ctr :=
  t.map (fun p => if p.1 < 8 && p.2.en && p.2.ev.toNat == ev && ev != 0 then (p.1, p.2.add n) else p)

/-- Adds `n` to the fixed counter `c` (R513). -/
def bumpFixed (c n : Nat) (t : Tbl Ctr) : Tbl Ctr := tput c ((tget (fun _ => {}) t c).add n) t

/-- A slice counts `n` of event `ev` (R518). -/
def Slice.count (ev n : Nat) (v : Slice) : Slice := { v with perf := bumpEvent ev n v.perf }

/-- The input stage of a slice takes a message: one slot, WASTED or RETIRED, which is counted with the cycle that it takes (R509 to R512). -/
def Slice.slot (wasted : Bool) (v : Slice) : Slice := { v with slots := v.slots ++ [wasted] }

/-- A CA port counts `n` of event `ev` (R519). -/
def CaPort.count (ev n : Nat) (v : CaPort) : CaPort := { v with perf := bumpEvent ev n v.perf }

/-- A ridge unit counts `n` of event `ev` (R520). -/
def Ridge.count (ev n : Nat) (v : Ridge) : Ridge := { v with perf := bumpEvent ev n v.perf }

/-- Events that a slice has (R518), FIXED_CLR included (R515). -/
def sliceEvent (e : Nat) : Bool :=
  decide (e ≤ 0x09) || (decide (0x10 ≤ e) && decide (e ≤ 0x18)) || (decide (0x20 ≤ e) && decide (e ≤ 0x28)) ||
  (decide (0x30 ≤ e) && decide (e ≤ 0x38)) || (decide (0x40 ≤ e) && decide (e ≤ 0x44)) || e == 0x51 || e == 0xFF

/-! ### The command summary -/

/-- The opcodes of the command set (R381); FACTORY_INJECT only in factory test mode (R421). -/
def State.inCommandSet (s : State) (op : Nat) : Bool :=
  (op ∈ [0x01, 0x02, 0x03, 0x10, 0x11, 0x12, 0x18, 0x19, 0x20, 0x21, 0x22, 0x23, 0x24, 0x25, 0x26, 0x27, 0x28,
    0x30, 0x31, 0x38, 0x39, 0x3A, 0x3B, 0x40, 0x41, 0x42, 0x43, 0x48, 0x49, 0x4A, 0x50, 0x51, 0x52, 0x58, 0x59,
    0x60, 0x61, 0x62, 0x63, 0x64, 0x65, 0x66, 0x67, 0x70]) || (op == 0x7E && s.rst.test)

/-- Commands that only MGMTP may issue (R381). -/
def mgmtpOnly (op : Nat) : Bool := op ∈ [0x12, 0x42, 0x49, 0x60, 0x63, 0x67, 0x7E]

/-- The exclusive class of a command (R384): B 1, P 2, L 3, U 4, none 0. -/
def cmdClass (op : Nat) : Nat :=
  if op ∈ [0x20, 0x21, 0x22, 0x23, 0x24, 0x25, 0x26, 0x63] then 1
  else if op ∈ [0x11, 0x12] then 2
  else if op = 0x49 then 3
  else if op ∈ [0x58, 0x59] then 4
  else 0

/-- Commands whose class in FLAGS[1:0] selects the unit (R382). -/
def byFlagsClass (op : Nat) : Bool := op ∈ [0x18, 0x19, 0x70]

def Kcp.flag (k : Kcp) (i : Nat) : Bool := k.flags.getLsbD i
def Kcp.uclass (k : Kcp) : Nat := fld k.flags 0 2
def Kcp.tgt (k : Kcp) : Nat := k.target.toNat
def Kcp.opc (k : Kcp) : Nat := k.op.toNat

/-- Whether FLAGS[1:0] names a unit class (R392, R420). -/
def classOk (k : Kcp) : Bool := if k.opc = 0x70 then k.uclass != 3 else decide (k.uclass < 2)

/-- Check 2: whether TARGET is accepted (R381, R392, R402, R404). -/
def targetOk (g : Gh) (k : Kcp) : Bool :=
  let t := k.tgt
  let sl := decide (t < g.slices)
  let all := t == 0xFF
  match k.opc with
  | 0x10 | 0x20 | 0x21 | 0x22 | 0x25 | 0x26 | 0x43 | 0x63 | 0x65 | 0x67 => sl || all
  | 0x12 | 0x64 => sl
  | 0x18 | 0x19 => if k.uclass = 0 then decide (t < g.caPorts) else decide (t < g.memPorts)
  | 0x70 =>
    all || (if k.uclass = 0 then sl else if k.uclass = 1 then decide (t < g.caPorts) else decide (t < g.ridgePorts))
  | 0x39 | 0x3A =>
    match fld (k.par 0) 0 8 with
    | 3 => sl || all
    | 4 => decide (t < 128) || all
    | _ => all
  | 0x40 => sl || all || (decide (0x80 ≤ t) && decide (t < 0x80 + g.ridgePorts))
  | 0x48 | 0x49 => decide (t < g.ridgePorts)
  | _ => all

/-- Check 3: whether LEN is inside the command's LEN column, for the form that FLAGS selects (R381). -/
def lenOk (k : Kcp) : Bool :=
  let n := k.ps.length
  match k.opc with
  | 0x01 => decide (n ≤ 64)
  | 0x03 | 0x11 | 0x12 | 0x19 | 0x25 | 0x26 | 0x27 | 0x28 | 0x30 | 0x31 | 0x38 | 0x3A | 0x41 | 0x49 | 0x62 | 0x67 => n == 1
  | 0x18 => decide (n ≤ 1)
  | 0x23 | 0x24 | 0x7E => n == 2
  | 0x39 => if fld (k.par 0) 0 8 = 2 then n == 2 else n == 1 || n == 2
  | 0x40 => n == 9
  | 0x43 => n == 3
  | 0x50 => if k.flag 0 then decide (2 ≤ n) && decide (n ≤ 64) else n == 7
  | 0x58 => decide (2 ≤ n) && decide (n ≤ 64)
  | 0x60 => if k.flag 0 then n == 1 else decide (1 ≤ n) && decide (n ≤ 64)
  | 0x63 | 0x66 | 0x70 => decide (1 ≤ n) && decide (n ≤ 64)
  | _ => n == 0

/-- The FLAGS bits a command defines (check 4 of R382). -/
def flagMask (op : Nat) : BitVec 6 :=
  match op with
  | 0x18 | 0x19 | 0x70 => 3
  | 0x23 | 0x50 | 0x60 | 0x61 => 1
  | _ => 0

/-- The first failing word of a list, numbered from `i`, by a test that answers the failing bit. -/
def firstBad (f : W64 → Option Nat) : Nat → List W64 → Option (Nat × Nat)
  | _, [] => none
  | i, w :: l =>
    match f w with
    | some b => some (i, b)
    | none => firstBad f (i + 1) l

/-- `some v` when a test fails. -/
def failIf (c : Bool) (v : Nat × Nat) : Option (Nat × Nat) := if c then some v else none

/-- The first of two failures. -/
def orElse {α : Type} (a b : Option α) : Option α :=
  match a with
  | some x => some x
  | none => b

/-- Values outside the policy table (R197, R402). -/
def policyBad (g : Gh) (k : Kcp) : Option (Nat × Nat) :=
  let w := k.par 0
  let out (lo hi : Nat) : Option (Nat × Nat) :=
    let bad (x : Nat) : Bool := decide (x < lo) || decide (hi < x)
    orElse (failIf (bad (fld w 16 16)) (1, 16))
      (orElse (failIf (bad (fld w 32 16)) (1, 32)) (failIf (bad (fld w 48 16)) (1, 48)))
  match fld w 0 8 with
  | 1 => failIf (decide (fld w 16 16 < 10) || decide (1000 < fld w 16 16)) (1, 16)
  | 2 => orElse (failIf (fld (k.par 1) 0 8 == 0 || decide (128 < fld (k.par 1) 0 8)) (2, 0))
      (failIf (decide (100 < fld (k.par 1) 32 7)) (2, 32))
  | 3 => out 2 5
  | 4 => failIf (decide (1 < fld w 16 16)) (1, 16)
  | 5 => out 0 2
  | 6 => out 1 (g.slices / 2)
  | _ => some (1, 0)

/-- Words of an array of the repair table in one slice (R133, R200, R222, R223, R236). -/
def arrayWords (a : Nat) : Nat :=
  match a with
  | 0 => 65536
  | 1 => 65536
  | 2 => 262144
  | 3 => 2048
  | 4 => 32768
  | _ => 0

/-- The first field of a remap entry that is out of range or reserved (R238, R416). -/
def remapBad (g : Gh) (target : Nat) (e : BitVec 32) : Option Nat :=
  if !(bit e 0) then none
  else if fld e 1 3 > 4 then some 1
  else if fld e 6 20 ≥ arrayWords (fld e 1 3) then some 6
  else if fld e 26 6 ≥ g.slices ∨ (target ≠ 0xFF ∧ fld e 26 6 ≠ target) then some 26
  else none

/-- Whether a scrub interval is accepted (R419). -/
def scrubOk (v : Nat) : Bool :=
  v == 0 || (v % 256 == 0 && decide (256 ≤ v) && decide (v ≤ 1048576))

/-- Check 5: the first parameter word that fails and the lowest bit of its failing field (R382, R383). -/
def badParam (g : Gh) (k : Kcp) : Option (Nat × Nat) :=
  let w := k.par 0
  match k.opc with
  | 0x03 => failIf (decide (35 < fld w 16 8)) (1, 16)
  | 0x11 => failIf (decide (g.slices / 2 ≤ fld w 0 5)) (1, 0)
  | 0x18 =>
    if k.ps.isEmpty || k.uclass == 0 then none
    else orElse (failIf (bit w 0 && (decide (fld w 4 24 < 10000) || decide (10000000 < fld w 4 24))) (1, 4))
      (failIf (bit w 1 && decide (1000000 < fld w 32 20)) (1, 32))
  | 0x23 | 0x24 =>
    failIf (decide (fld (k.par 1) 0 40 ≠ 2 ^ 40 - 1) && decide (2 ^ 46 < fld w 0 46 + fld (k.par 1) 0 40)) (2, 0)
  | 0x25 | 0x26 => failIf (decide (fld w 32 11 < fld w 16 11)) (1, 32)
  | 0x31 => failIf (decide (g.slices ≤ fld w 16 6)) (1, 16)
  | 0x38 => failIf (decide (2048 < fld w 16 11 + fld w 32 12)) (1, 32)
  | 0x39 => policyBad g k
  | 0x3A => failIf (fld w 0 8 == 0 || decide (6 < fld w 0 8)) (1, 0)
  | 0x40 => failIf (decide (k.tgt < g.slices) && decide (3 < fld w 0 4)) (1, 0)
  | 0x49 => failIf (fld w 0 2 == 0 && decide (5 < fld w 4 3)) (1, 4)
  | 0x50 => failIf (k.flag 0 && decide (4096 < fld w 0 12 + (k.ps.length - 1))) (1, 0)
  | 0x58 => failIf (decide (32768 < fld w 0 16 + (k.ps.length - 1))) (1, 0)
  | 0x60 =>
    if k.flag 0 then failIf (decide (4 < fld w 0 3)) (1, 0)
    else firstBad (fun v => if fld v 0 6 = 0 ∨ fld v 0 6 > 0x2C then some 0 else if fld v 8 3 > 4 then some 8 else none) 1 k.ps
  | 0x63 => firstBad (fun v =>
      match remapBad g k.tgt (v.extractLsb' 0 32) with
      | some b => some b
      | none => (remapBad g k.tgt (v.extractLsb' 32 32)).map (fun b => b + 32)) 1 k.ps
  | 0x67 => orElse (failIf (!scrubOk (fld w 0 32)) (1, 0)) (failIf (!scrubOk (fld w 32 32)) (1, 32))
  | 0x70 => firstBad (fun v =>
      if k.uclass = 0 then (if sliceEvent (fld v 8 8) then none else some 8)
      else if fld v 0 3 > 3 then some 0
      else if fld v 8 8 > (if k.uclass = 1 then 0x0D else 0x0B) then some 8
      else none) 1 k.ps
  | 0x7E => orElse (failIf (fld w 0 6 == 0 || decide (0x2C < fld w 0 6)) (1, 0)) (failIf (fld w 8 2 == 3) (1, 8))
  | _ => none

/-- The command of the same exclusive class that is in progress, if any (R384). -/
def State.classBusy (s : State) (op : Nat) : Option Kcp :=
  if cmdClass op = 0 then none
  else s.hub.inProg.find? (fun x => cmdClass x.opc == cmdClass op && x.remote.isNone)

/-- Checks 1 to 6 of R382: the status and DETAIL of the first that fails. -/
def commandCheck (k : Kcp) (s : State) : Option (Nat × Nat) :=
  if mgmtpOnly k.opc && decide (k.win = .hostp) then some (stDenied, 0x000001)
  else if byFlagsClass k.opc && !classOk k then some (stBadParam, badDetail 0 24)
  else if !targetOk s.gh k then some (stBadParam, badDetail 0 16)
  else if !lenOk k then some (stBadParam, badDetail 0 48)
  else if k.flags &&& ~~~ (flagMask k.opc) ≠ 0 then some (stBadParam, badDetail 0 24)
  else
    match badParam s.gh k with
    | some (w, b) => some (stBadParam, badDetail w b)
    | none =>
      match s.classBusy k.opc with
      | some x => some (stBusy, 0x20 + x.opc * 256)
      | none => none

/-! ### Forwarding -/

/-- Sends command `k` to instance `i`, where it runs; the reply comes back under its number (R385).
When the instance cannot be reached the command ends with `unreach`. -/
def forward (k : Kcp) (i : Nat) (unreach : Nat × Nat) (s : State) : State :=
  match s.routeTo i with
  | none => finish k unreach.1 unreach.2 [] s
  | some _ =>
    (s.startCmd k (fun x => { x with fwd := some s.now })).sendMgt i
      (.fwdCmd k.id
        (pack 64 [(63, 1), (56, k.opc), (48, k.ps.length), (32, k.tag.toNat), (30, k.prio.toNat), (24, k.flags.toNat),
          (16, k.tgt)]) k.ps)

/-- Runs `f` at instance `i`: here, or there by forwarding with FAILED 0x2 when it cannot be reached (R385). -/
def runAt (i : Nat) (f : Kcp → State → State) (k : Kcp) (s : State) : State :=
  if i = s.self || k.remote.isSome then f k s else forward k i (stFailed, 2) s

end Sys2Proof.Machine
end

