-- ==== Sys2Proof/Machine/GenOps.lean ====
section
/-! DEFINITION. Sys2Proof/Machine/GenOps.lean: issuing a package-wide change under the generation protocol (R315),
and naming changes of the home map by flips (R44, R538). -/

namespace Sys2Proof.Machine

/-! ### The generation protocol -/

/-- Index of the count of a kind of change. -/
def kindCode : GenKind → Nat
  | .region => 0
  | .bundle => 1
  | .batten => 2
  | .epoch => 3
  | .partition => 4
  | .member => 5

/-- How many changes of a kind this instance has applied (R315). -/
def State.genCount (s : State) (k : GenKind) : Nat := tget (fun _ => 0) s.pkg.gens (kindCode k)

/-- Increments the generation count of a kind (R315). -/
def State.bumpGen (s : State) (k : GenKind) : State :=
  { s with pkg := { s.pkg with gens := tput (kindCode k) (s.genCount k + 1) s.pkg.gens } }

/-- The change of a kind held here, if any. -/
def State.holdOf (s : State) (k : GenKind) : Option GenHold := s.pkg.hold.find? (fun h => decide (h.chg.kind = k))

/-- Whether a change held here is to be applied now: it is armed and its tick has come (R315, R316). -/
def State.isDue (s : State) (h : GenHold) : Bool := h.armed && decide (h.chg.tick ≤ s.ptcNow)

/-- The change of a kind that is to be applied now. -/
def State.dueHold (s : State) (k : GenKind) : Option GenHold := s.pkg.hold.find? (fun h => decide (h.chg.kind = k) && s.isDue h)

/-- The change of a kind whose tick is to come: at most one, since of two that overlap one goes (R315). -/
def State.pendingHold (s : State) (k : GenKind) : Option GenHold := s.pkg.hold.find? (fun h => decide (h.chg.kind = k) && !(s.isDue h))

/-- The change of a kind and an issuer whose tick is to come. -/
def State.holdFrom (s : State) (k : GenKind) (i : BitVec 3) : Option GenHold :=
  s.pkg.hold.find? (fun h => decide (h.chg.kind = k) && !(s.isDue h) && h.chg.issuer == i)

/-- Discards a change held here. -/
def State.dropHold (s : State) (c : GenChange) : State :=
  { s with pkg := { s.pkg with hold := s.pkg.hold.filter (fun h => decide (h.chg ≠ c)) } }

/-- Takes the change of a kind that is being applied off. -/
def State.dropDue (s : State) (k : GenKind) : State :=
  { s with pkg := { s.pkg with hold := lremove (fun h => decide (h.chg.kind = k) && s.isDue h) s.pkg.hold } }

/-- Sends a message to every other member. -/
def State.toPeers (s : State) (m : MgtMsg) : State := s.peers.foldl (fun s i => s.sendMgt i m) s

/-- Sends a message to every joined instance (R291, R337, R338). -/
def State.toJoined (s : State) (m : MgtMsg) : State := s.joinedPeers.foldl (fun s i => s.sendMgt i m) s

/-- The other members that take part in a change: a membership change reaches the new members too, a time-source change not the
source that has left (R315, R319). -/
def State.changePeers (s : State) (c : GenChange) : List Nat :=
  match c.payload with
  | .members mask => (List.range 8).filter (fun i => bit mask i && i != s.self)
  | .timeSource _ => s.peers.filter (fun i => i != s.pkg.timeSrc.toNat)
  | .region _ | .bundle _ | .batten | .epoch _ | .block .. => s.peers

/-- Issues a package-wide change: PREP to every other member; with no other member it is armed at once (R315). -/
def genIssue (c : GenChange) (deadline : Nat) (s : State) : State :=
  let dests := s.changePeers c
  if dests.isEmpty then
    { s with pkg := { s.pkg with hold := s.pkg.hold ++ [{ chg := c, armed := true }] } }
  else
    let p : PkgSt := { s.pkg with hold := s.pkg.hold ++ [{ chg := c }],
                                  issue := s.pkg.issue ++ [{ chg := c, deadline := deadline }] }
    dests.foldl (fun s i => s.sendMgt i (.prep c)) { s with pkg := p }

/-- A tick of package time at least `least` ahead; the spec fixes only the least (log 20). -/
def State.ahead (s : State) (least : Nat) : Nat := s.ptcNow + least + Config.freeDelay s.fresh

/-! ### The home map -/

/-- The entry of a shingle in one generation of the home map (R43). -/
def MapSt.entryIn (m : MapSt) (g1 : Bool) (sh : Nat) : BitVec 8 := tget (basePlace m.base) (if g1 then m.g1 else m.g0) sh

/-- The entry of a shingle in force (R43). -/
def MapSt.entry (m : MapSt) (sh : Nat) : BitVec 8 := m.entryIn m.cur sh

/-- Home slice and state of a shingle in force. -/
def State.homeSlice (s : State) (sh : Nat) : Nat := hmSlice (s.map.entry sh)
def State.shState (s : State) (sh : Nat) : Nat := hmState (s.map.entry sh)

/-- Writes entries into one generation of the map. -/
def MapSt.write (m : MapSt) (g1 : Bool) (l : List (Nat × BitVec 8)) : MapSt :=
  if g1 then { m with g1 := l.foldl (fun t e => tset (basePlace m.base) e.1 e.2 t) m.g1 }
  else { m with g0 := l.foldl (fun t e => tset (basePlace m.base) e.1 e.2 t) m.g0 }

/-- Whether the decision of a move is still open: COPY is not done (R53). -/
def Move.undecided (m : Move) : Bool := decide (m.step = .drain) || decide (m.step = .copy)

/-- Whether a move must be decided in a flip named now: at or after T_F + 16,600 (R53). -/
def Move.dueBy (m : Move) (now : Nat) : Bool := m.undecided && decide (m.tf + 16600 ≤ now)

/-- The hub tells the peers which shingles a flip makes OPEN_EAVES, and its activation tick (R467). -/
def tellOpen (l : List (Nat × BitVec 8)) (tick : Nat) (s : State) : State :=
  let o := (l.filter (fun x => hmState x.2 == hmOpen)).map (fun x => x.1)
  if o.isEmpty then s else s.toPeers (.openList o tick)

/-- The hub writes the changed entries of the map at every ingress point of the instance over MGT (R44). That a written entry counts
from the flip's tick on is part of the flip; the packets only take their share of the mesh (log 12). -/
def hubWrites (s : State) : State :=
  (((List.range s.gh.caPorts) ++ (List.range s.gh.ridgePorts).map (· + 128)).map s.ingressAt).foldl
    (fun s d => s.sendHub .mgt hubAt d .write) s

/-- Names a flip of these entries: they are written into the inactive generation, with an activation tick 1,000
ticks ahead (R44). The moves that must be decided at a naming are reverted in it (R53). -/
def nameFlip (l : List (Nat × BitVec 8)) (s : State) : State :=
  let late := s.map.moves.filter (fun m => m.dueBy s.now)
  let l := l ++ late.map (fun m => (m.sh, hmEntry m.old hmNormal))
  let moves := s.map.moves.map (fun m => if m.dueBy s.now then { m with step := .revertWait } else m)
  tellOpen l (s.ptcNow + 1000) <| hubWrites
    { s with map := { s.map.write (!s.map.cur) l with flip := some { chg := l, tick := s.now + 1000 }, moves := moves } }

/-- A change of the map arises: named at once when no flip is outstanding, else it waits for the next flip (R538). -/
def changeMap (l : List (Nat × BitVec 8)) (s : State) : State :=
  if l.isEmpty then s
  else if s.map.flip.isNone then nameFlip l s
  else { s with map := { s.map with waiting := s.map.waiting ++ l } }

/-- Takes the change of a shingle that is not in force yet back: it waits no more, and in a flip that is named already the entry
becomes `e` (R55, R539). -/
def rewriteChange (sh : Nat) (e : BitVec 8) (s : State) : State :=
  let map := { s.map with waiting := s.map.waiting.filter (fun x => x.1 != sh) }
  match map.flip with
  | some f =>
    if !f.flipped && f.chg.any (fun x => x.1 == sh) then
      let chg := f.chg.map (fun x => if x.1 = sh then (sh, e) else x)
      { s with map := { (map.write (!map.cur) [(sh, e)]) with flip := some { f with chg := chg } } }
    else { s with map := map }
  | none => { s with map := map }

/-- The shingles whose home in force is slice `k`. -/
def State.shinglesOf (s : State) (k : Nat) : List Nat := (List.range 4096).filter (fun sh => s.homeSlice sh == k)

/-! ### Ports that are quiesced (R305, R331) -/

def caQuiesced (st : CaSt) : Bool :=
  match st with
  | .quiesced | .bringup => true
  | .active | .quiescing | .isolated => false

def linkQuiesced (st : LinkSt) : Bool :=
  match st with
  | .joined | .retraining => false
  | .off | .training | .linked | .failed | .duplicate => true

/-- Ports of the instance that are not quiesced. -/
def State.unquiesced (s : State) : Nat :=
  ((List.range s.gh.caPorts).filter (fun p => !(caQuiesced (s.ca p).st))).length +
  ((List.range s.gh.ridgePorts).filter (fun r => !(linkQuiesced (s.link r).st))).length

end Sys2Proof.Machine
end

