-- ==== Sys2Proof/Machine/ErrCmd.lean ====
section
/-! DEFINITION. Sys2Proof/Machine/ErrCmd.lean: commands over severities, the first-error capture, field repair
and the scrubbers (13). -/

namespace Sys2Proof.Machine

/-- Sets the severity of a source (R413). -/
def setSev (e : ErrSt) (v : W64) : ErrSt := { e with sev := tset sevDefault (fld v 0 6) (v.extractLsb' 8 3) e.sev }

/-- ERR_SEVERITY_SET with FLAGS[0] = 1: the ERR_OUT threshold (R413). -/
def execErrSeveritySetThreshold (c : Nat) (s : State) : Host.Outcome State Fault Refusal :=
  .next (runCmd c 0x60 (fun k => k.flag 0) (fun k s =>
    finish k stOk 0 [] { s with err := { s.err with thr := (k.par 0).extractLsb' 0 3 } }) s)

/-- ERR_SEVERITY_SET with FLAGS[0] = 0: the severity of one or more sources (R413). -/
def execErrSeveritySet (c : Nat) (s : State) : Host.Outcome State Fault Refusal :=
  .next (runCmd c 0x60 (fun k => !k.flag 0) (fun k s =>
    finish k stOk 0 [] { s with err := k.ps.foldl setSev s.err }) s)

/-- The four words of the first-error capture (R414). -/
def ferrWords (f : Ferr) : List W64 :=
  [pack 64 [(0, f.addr.toNat), (63, b2n f.valid)],
   pack 64 [(0, f.mtype.toNat), (4, f.mid.toNat), (16, f.acc.toNat), (20, f.src.toNat), (26, f.sev.toNat), (32, f.inst.toNat)],
   f.ptc, f.ovf.setWidth 64]

/-- The sixteen words of the per-source counts (R414). -/
def countWords (e : ErrSt) : List W64 :=
  (List.range 16).map (fun i => pack 64 ((List.range 4).map (fun j =>
    (16 * j, (tget (fun _ => (0#16)) e.counts (4 * i + j)).toNat))))

/-- ERR_LOG_READ (R414). -/
def execErrLogRead (c : Nat) (s : State) : Host.Outcome State Fault Refusal :=
  .next (runCmd c 0x61 (fun _ => true) (fun k s =>
    finish k stOk 0 (ferrWords s.err.ferr ++ (if k.flag 0 then countWords s.err else [])) s) s)

/-- FERR_CLEAR: clears the capture whose PTC is given, and OVF (R415). -/
def execFerrClear (c : Nat) (s : State) : Host.Outcome State Fault Refusal :=
  .next (runCmd c 0x62 (fun _ => true) (fun k s =>
    let f := s.err.ferr
    if !f.valid then finish k stOk 0 [0] s
    else if f.ptc = k.par 0 then finish k stOk 0 [f.ovf.setWidth 64] { s with err := { s.err with ferr := {} } }
    else finish k stConflict (fld f.ptc 0 24) [] s) s)

/-! ### Field repair -/

/-- The 32-bit layout of a remap entry (R238). -/
def Remap.word (r : Remap) : BitVec 32 := pack 32 [(0, 1), (1, r.array.toNat), (6, r.waddr.toNat), (26, r.slice.toNat)]

/-- The entry that 32 bits spell, when in use. -/
def remapOf (v : BitVec 32) : Option Remap :=
  if bit v 0 then some { array := v.extractLsb' 1 3, waddr := v.extractLsb' 6 20, slice := v.extractLsb' 26 6 } else none

/-- Order of REMAP_READ: ARRAY, then WADDR (R416). -/
def Remap.before (a b : Remap) : Bool :=
  decide (a.array.toNat < b.array.toNat) || (decide (a.array = b.array) && decide (a.waddr.toNat ≤ b.waddr.toNat))

def remapInsert (a : Remap) : List Remap → List Remap
  | [] => [a]
  | b :: l => if a.before b then a :: b :: l else b :: remapInsert a l

/-- Two 32-bit entries per word, the last word half empty on an odd count. -/
def pairWords : List (BitVec 32) → List W64
  | [] => []
  | [a] => [a.setWidth 64]
  | a :: b :: l => (b ++ a) :: pairWords l

/-- REMAP_READ (R416). -/
def execRemapRead (c : Nat) (s : State) : Host.Outcome State Fault Refusal :=
  .next (runCmd c 0x64 (fun _ => true) (fun k s =>
    finish k stOk 0 (pairWords (((s.slice k.tgt).remaps.foldr remapInsert []).map Remap.word)) s) s)

/-- Whether a remap table of a slice takes this entry: not full, and the word not yet remapped (R237, R416). -/
def Slice.remapFits (v : Slice) (r : Remap) : Bool :=
  decide ((v.remaps.filter (fun x => x.array == r.array)).length < 8) &&
  !(v.remaps.any (fun x => x.array == r.array && x.waddr == r.waddr))

/-- Adds a remap entry; the spare takes the word's content, corrected when a single bit is wrong (R237, R238). -/
def Slice.addRemap (v : Slice) (r : Remap) : Slice :=
  { v with remaps := v.remaps ++ [r]
           errs := v.errs.filter (fun e => !(e.array == r.array.toNat && e.addr == r.waddr.toNat && (e.flip == 1#2 || e.flip == 2#2))) }

/-- Loads entries in order; answers how many were loaded. -/
def loadRemaps : List Remap → Nat → State → Nat × State
  | [], n, s => (n, s)
  | r :: l, n, s =>
    let k := r.slice.toNat
    if (s.slice k).remapFits r then loadRemaps l (n + 1) (s.modSlice k (fun v => v.addRemap r))
    else loadRemaps l n s

/-- BANK codes (R389). -/
def bankCode : BankSt → Nat
  | .off => 0
  | .ready => 1
  | .on => 2
  | .draining => 3

/-- STATE codes of a slice (R389). -/
def slStateCode : SlState → Nat
  | .on => 0
  | .off => 1
  | .poweringUp => 2
  | .poweringDown => 3
  | .reset => 4
  | .failed => 5
  | .disabled => 6

/-- REMAP_LOAD: loads entries into slices whose bank is OFF or READY, with every port quiesced (R238, R416). DESIGN CHOICE (log 76): with TARGET
0xFF the bank of a slice that no entry in use names refuses nothing; ports that are not quiesced refuse in any case, for slice 0 where no
slice is named. -/
def execRemapLoad (c : Nat) (s : State) : Host.Outcome State Fault Refusal :=
  .next (runCmd c 0x63 (fun _ => true) (fun k s =>
    let rs := k.ps.flatMap (fun w => (remapOf (w.extractLsb' 0 32)).toList ++ (remapOf (w.extractLsb' 32 32)).toList)
    let targets := if k.tgt = 0xFF then (List.range s.gh.slices).filter (fun j => rs.any (fun r => r.slice.toNat == j)) else [k.tgt]
    let busy (j : Nat) : Bool := decide (bankCode (s.slice j).bank > 1) || s.unquiesced != 0
    let refusing := if targets.isEmpty && s.unquiesced != 0 then some 0 else targets.find? busy
    match refusing with
    | some j => finish k stConflict (j + bankCode (s.slice j).bank * 64 + (s.unquiesced % 256) * 256) [] s
    | none =>
      let r := loadRemaps rs 0 s
      if r.1 = rs.length then finish k stOk 0 [] r.2
      else finish k stPartial (r.1 % 256 + (rs.length - r.1) * 256) [] r.2) s)

/-- The slices that a TARGET names: one, or every slice. -/
def targetSlices (k : Kcp) (s : State) : List Nat := if k.tgt = 0xFF then List.range s.gh.slices else [k.tgt]

/-- Sets the scrub intervals of a slice; a stopped scrubber starts again one interval from now (R419). -/
def setScrub (sf hc now : Nat) (v : Slice) : Slice :=
  { v with sfInt := sf, hcInt := hc
           sfDue := if v.sfInt = 0 then now + sf else v.sfDue
           hcDue := if v.hcInt = 0 then now + hc else v.hcDue }

/-- SCRUB_CONFIG (R419). -/
def execScrubConfig (c : Nat) (s : State) : Host.Outcome State Fault Refusal :=
  .next (runCmd c 0x67 (fun _ => true) (fun k s =>
    finish k stOk 0 [] (s.each (targetSlices k s) (fun s j =>
      s.modSlice j (setScrub (fld (k.par 0) 0 32) (fld (k.par 0) 32 32) s.now)))) s)

end Sys2Proof.Machine
end

