-- ==== Sys2Proof/Machine/Hub.lean ====
section
/-! DEFINITION. Sys2Proof/Machine/Hub.lean: ECHO and IDENTIFY, and the values of the identification registers. -/

namespace Sys2Proof.Machine

/-- ECHO: the parameter words come back unchanged, in order, with status OK (R381). -/
def execEcho (c : Nat) (s : State) : Host.Outcome State Fault Refusal :=
  .next (runCmd c 0x01 (fun _ => true) (fun k s => finish k stOk 0 k.ps s) s)

/-- Number of enabled slices (R532). -/
def State.enSlices (s : State) : Nat := (s.enabledSlices).length

/-- Word 1 of IDENTIFY (R387). -/
def State.identWord (s : State) : W64 :=
  pack 64 [(0, 0x31), (8, 0x31), (16, s.gh.code), (18, s.inst.toNat), (21, b2n s.tmcap), (22, s.rst.role.toNat),
    (24, s.rst.boot.toNat), (26, b2n s.rst.test), (27, b2n s.rst.field), (28, s.enSlices), (40, s.pkg.members.toNat)]

/-- IDENTIFY: versions, configuration, instance, role, slice mask (R387). -/
def execIdentify (c : Nat) (s : State) : Host.Outcome State Fault Refusal :=
  .next (runCmd c 0x02 (fun _ => true) (fun k s =>
    finish k stOk 0 [s.identWord, s.rst.sliceMask, pack 64 [(0, s.rst.fwVer.toNat), (32, s.rst.ucVer.toNat)]] s) s)

end Sys2Proof.Machine
end

