-- ==== Sys2Proof/Machine/Queue.lean ====
section
/-! DEFINITION. Sys2Proof/Machine/Queue.lean: the six queues of the hub: pushing and taking commands, popping,
flushing, truncation, owners and quotas (12), and commands that come from or go to another instance (R385). -/

namespace Sys2Proof.Machine

/-! ### Window accesses -/

/-- The answer to a window access (R349). -/
def State.answer (s : State) (w : Window) (err : Bool) (rdata : BitVec 32) : State :=
  s.modWin w (fun v => { v with err := err, rdata := rdata })

/-- Whether an access outside the user page is refused for want of privilege (R351). -/
def unprivileged (w : Window) (priv : Bool) : Bool := decide (w = .hostp) && !priv

/-- A window access outside the user page: refused without privilege and during reset, else acknowledged and
done (R351, R500). -/
def windowWrite (w : Window) (priv : Bool) (f : State → State) (s : State) : State :=
  if s.rst.inReset || unprivileged w priv then s.answer w true 0 else f (s.answer w false 0)

/-- A window write to a register that only MGMTP can write: without effect through HOSTP (R526, R527). -/
def mgmtWrite (w : Window) (priv : Bool) (f : State → State) (s : State) : State :=
  windowWrite w priv (fun s => if w = .mgmtp then f s else s) s

/-- A window access to an offset that only MGMTP maps (R351, R527). -/
def mgmtOnly (w : Window) (f : State → State) (s : State) : State :=
  if decide (w = .mgmtp) && !s.rst.inReset then f (s.answer w false 0) else s.answer w true 0

/-! ### Pushing words -/

/-- Fields of a command header (R358). -/
def hdrValid (h : W64) : Bool := bit h 63
def hdrOp (h : W64) : Nat := fld h 56 7
def hdrLen (h : W64) : Nat := fld h 48 8
def hdrTag (h : W64) : Nat := fld h 32 16
def hdrPrio (h : W64) : Nat := fld h 30 2

/-- Priority of a reply written under R365: the packet's PRIO, or 0 when the header is unusable (R371). -/
def checkPrio (h : W64) : Nat := if hdrValid h && decide (hdrLen h ≤ 64) then hdrPrio h else 0

/-- Writes the reply of a packet that fails a check of R365. -/
def checkReply (w : Window) (hdr : W64) (status detail : Nat) (h : HubSt) : HubSt :=
  h.writePacket (rplqOf w) (checkPrio hdr) false [replyHeader (hdrOp hdr) 0 (hdrTag hdr) status detail]

/-- DETAIL of LEN_EXCEEDS and MALFORMED: LEN, and the parameter words received (R365). -/
def formDetail (o : OpenPkt) : Nat := hdrLen o.hdr + Nat.min (o.count - 1) 0xFFFF * 256

/-- Sets the packet being written of a window. -/
def HubSt.setOpen (h : HubSt) (w : Window) (o : Option OpenPkt) : HubSt := h.setWin w { h.win w with opn := o }

/-- Whether the words after word `i` of a packet take no cells: its form is already known to fail (R365). -/
def formFails (o : OpenPkt) : Bool :=
  !(hdrValid o.hdr) || decide (64 < hdrLen o.hdr) || decide (hdrLen o.hdr < o.count)

/-- Puts one word into the packet being written: into a cell, or nowhere when the packet is to be
discarded; a word that finds the queue at quota makes the packet overrun (R365, R367). -/
def storeWord (w : Window) (v : W64) (fin : Bool) (now : Nat) (h : HubSt) : HubSt :=
  let q := cmdqOf w
  let o := match (h.win w).opn with
    | some o => o
    | none => { hdr := v }
  let o := { o with count := o.count + 1, last := now }
  let h := h.setOpen w (some o)
  if o.overrun || o.noCells then h
  else if h.fits q 1 then
    let r := h.writeCell v fin
    let o := { o with cells := o.cells ++ [r.1] }
    r.2.setOpen w (some { o with noCells := formFails o })
  else (h.setOpen w (some { o with cells := [], overrun := true })).release o.cells

/-- A packet reaches its end mark (R365, checks 2 to 4): discarded without a reply when a flush collects it,
answered when a check fails, else it becomes whole. -/
def closePacket (w : Window) (h : HubSt) : HubSt :=
  match (h.win w).opn with
  | none => h
  | some o =>
    let h0 := h.setOpen w none
    if o.collect then
      let h1 := h0.release o.cells
      h1.setWin w { h1.win w with flushCmd := (h1.win w).flushCmd.map (fun f => { f with collected := true }) }
    else if 64 < hdrLen o.hdr then checkReply w o.hdr stLenExceeds (formDetail o) (h0.release o.cells)
    else if !(hdrValid o.hdr) || o.count - 1 != hdrLen o.hdr then
      checkReply w o.hdr stMalformed (formDetail o) (h0.release o.cells)
    else if o.overrun then checkReply w o.hdr stBusy 0x10 (h0.release o.cells)
    else h0.enqueue (cmdqOf w) (hdrPrio o.hdr) false o.cells

/-- Pushes one word into the command queue of a window (R364); it waits during a rebuild (R377). -/
def pushWord (w : Window) (v : W64) (fin : Bool) (s : State) : State :=
  if s.hub.rebuild.isSome then { s with hub := { s.hub with waiting := s.hub.waiting ++ [.push w v fin] } }
  else
    let h := storeWord w v fin s.now s.hub
    { s with hub := if fin then closePacket w h else h }

/-- The word that a write of CMD_DATA_HI or CMD_END_HI pushes (R364). -/
def pushedWord (w : Window) (v : BitVec 32) (s : State) : W64 := v ++ (s.win w).cmdLo

/-- CMD_DATA_HI: a write pushes one word (R364). -/
def execCmdDataHi (w : Window) (v : BitVec 32) (priv : Bool) (s : State) : Host.Outcome State Fault Refusal :=
  .next (windowWrite w priv (fun s => pushWord w (pushedWord w v s) false s) s)

/-- CMD_END_HI: a write pushes one word with its end mark (R364, R365). -/
def execCmdEndHi (w : Window) (v : BitVec 32) (priv : Bool) (s : State) : Host.Outcome State Fault Refusal :=
  .next (windowWrite w priv (fun s => pushWord w (pushedWord w v s) true s) s)

/-- CMD_TRUNCATE: a partly written command whose window has pushed no word for 10^6 ticks is closed with a
poisoned end mark: answered POISONED 0x2, or discarded by a pending flush (R380). -/
def truncate (w : Window) (s : State) : State :=
  match (s.win w).opn with
  | none => s
  | some o =>
    if s.now < o.last + 1000000 then s
    else
      let h := (s.hub.setOpen w none).release o.cells
      if o.collect then
        { s with hub := h.setWin w { h.win w with flushCmd := (h.win w).flushCmd.map (fun f => { f with truncated := true }) } }
      else { s with hub := checkReply w o.hdr stPoisoned 2 h }

def execCmdTruncate (w : Window) (s : State) : Host.Outcome State Fault Refusal := .next (truncate w s)

/-! ### Reading cells -/

/-- Whether a cell's parity fails when it is read (R377). -/
def HubSt.cellBad (h : HubSt) (c : Cell) : Bool := h.badCells.contains c.idx || c.par != parOf c.data

/-- Reads a cell: with its poison tag set when its parity fails (R377). -/
def HubSt.readCell (h : HubSt) (c : Cell) : Cell := if h.cellBad c then { c with ptag := true } else c

/-- The events of reading cells of queue `q`: a link word corrected, and a word whose parity fails (R366, R377). -/
def cellEvents (q : QCode) (h : HubSt) (l : List Cell) : List Ev :=
  (l.filter (fun c => h.linkCe.contains c.idx)).map (fun c => { src := 0x27, detail := .queue (qCode q) c.idx, acc := accCmd }) ++
    (l.filter (fun c => h.cellBad c)).map (fun c => { src := 0x28, detail := .queue (qCode q) c.idx, acc := accCmd })

/-- An uncorrectable link-array error found on queue `q`: every packet of it is discarded, a partly written
command is lost, and the free list is rebuilt (R377). -/
def loseQueue (q : QCode) (s : State) : State :=
  let h := s.hub
  let v := h.queue q
  let cells := v.waiting.flatMap (fun p => p.cells) ++ v.begun.getD [] ++
    (match h.openOf q with
     | none => []
     | some o => o.cells)
  let h := (h.setQueue q { v with waiting := [], begun := none }).release cells
  let h := match q with
    | .hcq => { h with host := { h.host with opn := none } }
    | .mcq => { h with mgm := { h.mgm with opn := none } }
    | .hrq | .mrq | .evq | .loft => h
  raise { src := 0x28, detail := .queue (qCode q) (Config.listCell (qCode q)), acc := accCmd }
    { s with hub := { h with linkBad := none, rebuild := some q } }

/-! ### Popping (R373, R374) -/

/-- The queue that a window's readable register set reaches (R372, R373). -/
def selQueue (w : Window) : QSel → QCode
  | .rpl => rplqOf w
  | .evq => .evq
  | .loft => .loft

/-- Whether a window reads a queue (R372). -/
def HubSt.owns (h : HubSt) (w : Window) : QSel → Bool
  | .rpl => true
  | .evq => h.evqOwn == decide (w = .hostp)
  | .loft => h.loftOwn == decide (w = .hostp)

/-- Latches what a pop returned: the high half and the tags (R373). -/
def latchPop (w : Window) (q : QSel) (v : W64) (tags : BitVec 3) (h : HubSt) : HubSt :=
  let x := h.win w
  let hi := v.extractLsb' 32 32
  let x := { x with rdata := v.extractLsb' 0 32, err := false }
  h.setWin w (match q with
    | .rpl => { x with rplHi := hi, rplTags := tags }
    | .evq => { x with evqHi := hi, evqTags := tags }
    | .loft => { x with loftHi := hi, loftTags := tags })

/-- The idle item: the all-zero word with IDLE set (R374). -/
def popIdle (w : Window) (q : QSel) (s : State) : State := { s with hub := latchPop w q 0 4 s.hub }

/-- Pops the first of the cells `l` of the packet begun on a queue. -/
def popCell (w : Window) (q : QSel) (c : Cell) (rest : List Cell) (s : State) : State :=
  let qc := selQueue w q
  let h := s.hub
  let r := h.readCell c
  let h1 := (h.setQueue qc { h.queue qc with begun := if c.fin then none else some rest }).release [c]
  raiseAll (cellEvents qc h [c]) { s with
    hub := latchPop w q r.data (pack 3 [(0, b2n r.fin), (1, b2n r.ptag)]) h1 }

/-- Begins the best waiting packet (R374). -/
def beginPacket (qc : QCode) (p : QPkt) (h : HubSt) : HubSt :=
  h.setQueue qc { (h.queue qc).without p with begun := some p.cells }

/-- One pop through a window (R372 to R374). -/
def popWord (w : Window) (q : QSel) (s : State) : State :=
  let qc := selQueue w q
  if s.hub.rebuild.isSome then { s with hub := { s.hub with waiting := s.hub.waiting ++ [.pop w q] } }
  else if !(s.hub.owns w q) then popIdle w q s
  else if s.hub.linkBad = some qc then loseQueue qc (popIdle w q s)
  else
    match (s.hub.queue qc).begun with
    | some (c :: rest) => popCell w q c rest s
    | some [] => popIdle w q s
    | none =>
      match bestPkt (s.hub.queue qc).waiting with
      | none => popIdle w q s
      | some p =>
        match p.cells with
        | [] => popIdle w q s
        | c :: rest => popCell w q c rest { s with hub := beginPacket qc p s.hub }

/-- Writes a packet that waited: an event or a trace record finds room in its queue, or is dropped, as when it is raised (R367, R368). -/
def writeHeld (q : QCode) (p : Nat) (g : Bool) (ws : List W64) (s : State) : State :=
  match q with
  | .evq =>
    let r := if g then (s.hub, s.err) else makeRoom s.hub s.err s.hub.evq.waiting.length
    if r.1.fits .evq ws.length then { s with hub := r.1.writePacket .evq p g ws, err := r.2 }
    else { s with hub := r.1, err := r.2.dropEvents 1 }
  | .loft =>
    if s.hub.fits .loft ws.length then { s with hub := s.hub.writePacket .loft p g ws }
    else { s with err := { s.err with loftDrop := satAdd s.err.loftDrop 1 } }
  | .hcq | .mcq | .hrq | .mrq => { s with hub := s.hub.writePacket q p g ws }

/-- Does one access that waited (R377). -/
def runWaiting (s : State) : HubOp → State
  | .push w v fin => pushWord w v fin s
  | .pop w q => popWord w q s
  | .packet q p g ws => writeHeld q p g ws s

/-- The accesses that wait go on, in order, unless the free list is still being rebuilt; a reply that still finds no room waits on (R369,
R377). -/
def resume (s : State) : State :=
  if s.hub.rebuild.isSome then s
  else drainBacklog (s.hub.waiting.foldl runWaiting { s with hub := { s.hub with waiting := [] } })

/-- QUEUE_POP: a read of a queue's DATA_LO (R373); what waits takes the room it makes (R369, R468). -/
def execQueuePop (w : Window) (q : QSel) (priv : Bool) (s : State) : Host.Outcome State Fault Refusal :=
  .next (windowWrite w priv (fun s => resume (popWord w q s)) s)

/-! ### Taking commands (R370, R382) -/

/-- Commands of a window in progress: no more than 16 of one queue (R370). -/
def HubSt.inProgressOf (h : HubSt) (w : Window) : Nat := (h.inProg.filter (fun k => k.win == w && k.remote.isNone)).length

/-- Whether a command queue may give its next packet (R370, R379). -/
def HubSt.canTake (h : HubSt) (w : Window) : Bool :=
  decide (h.inProgressOf w < 16) && h.fits (rplqOf w) 264 && (h.win w).flushCmd.isNone && h.rebuild.isNone

/-- The command that the words of a packet spell. -/
def kcpOf (id : Nat) (w : Window) : List W64 → Kcp
  | [] => { id := id, win := w }
  | h :: ps =>
    { id := id, win := w, op := BitVec.ofNat 7 (hdrOp h), tag := BitVec.ofNat 16 (hdrTag h),
      prio := BitVec.ofNat 2 (hdrPrio h), flags := BitVec.ofNat 6 (fld h 24 6), target := BitVec.ofNat 8 (fld h 16 8), ps := ps }

/-- A command enters progress. -/
def admitCmd (k : Kcp) (s : State) : State :=
  { s with hub := { s.hub with inProg := s.hub.inProg ++ [k], nextCmd := s.hub.nextCmd + 1 } }

/-- A packet taken: checks 5 and 6 of R365, then the checks of R382; what passes is in progress. -/
def takePacket (w : Window) (p : QPkt) (s : State) : State :=
  let h := s.hub
  let cells := p.cells.map h.readCell
  let k := kcpOf h.nextCmd w (cells.map (fun c => c.data))
  let h1 := (h.setQueue (cmdqOf w) ((h.queue (cmdqOf w)).without p)).release p.cells
  let s1 := raiseAll (cellEvents (cmdqOf w) h p.cells) { s with hub := h1 }
  let k := { k with prio := BitVec.ofNat 2 p.prio }
  if cells.any (fun c => c.ptag) then finish k stPoisoned 1 [] s1
  else if !(s1.inCommandSet k.opc) then finish k stBadOpcode 0 [] s1
  else
    match commandCheck k s1 with
    | some (st, d) => finish k st d [] s1
    | none => admitCmd k s1

/-- KCP_TAKE: from READY onwards the sequencer takes the next packet of a command queue (R370, R496). -/
def execKcpTake (w : Window) (s : State) : Host.Outcome State Fault Refusal :=
  .next (if s.rst.ready && s.hub.canTake w then
      if s.hub.linkBad = some (cmdqOf w) then loseQueue (cmdqOf w) s
      else
        match bestPkt (s.hub.queue (cmdqOf w)).waiting with
        | none => s
        | some p => takePacket w p s
    else s)

/-- FORWARDED_REPLY: the reply of a forwarded command is written through the sender's window; a reply to a
command that is over is discarded (R385). -/
def execForwardedReply (c : Nat) (status : BitVec 8) (detail : BitVec 24) (words : List W64) (s : State) :
    Host.Outcome State Fault Refusal :=
  .next (match s.cmd c with
    | none => s
    | some k => if k.fwd.isSome then finish k status.toNat detail.toNat words s else s)

/-- FORWARD_TIMEOUT: a forwarded command without a reply for 10,000,000 ticks returns FAILED 0x3 (R385). -/
def execForwardTimeout (c : Nat) (s : State) : Host.Outcome State Fault Refusal :=
  .next (match s.cmd c with
    | none => s
    | some k =>
      match k.fwd with
      | none => s
      | some t => if t + 10000000 ≤ s.now then finish k stFailed 3 [] s else s)

/-- The commands that are forwarded: CALIBRATE_NOW, POLICY_SET and POLICY_READ of policy 0x02, LINE_QUERY and FLUSH_LINE (R385). -/
def Kcp.forwards (k : Kcp) : Bool :=
  k.opc == 0x3B || ((k.opc == 0x39 || k.opc == 0x3A) && fld (k.par 0) 0 8 == 2) || k.opc == 0x27 || k.opc == 0x28

/-- FORWARDED_COMMAND: a command from another instance is in progress here; its reply goes back over MGT (R385). No other command is
forwarded, and none is taken (R4, log 15). -/
def execForwardedCommand (src : BitVec 3) (ref : Nat) (header : W64) (params : List W64) (s : State) :
    Host.Outcome State Fault Refusal :=
  let k := kcpOf s.hub.nextCmd .mgmtp (header :: params)
  .next (if k.forwards then admitCmd { k with remote := some (src, ref) } s else s)

/-! ### Flushes (R378, R379) -/

/-- The queue of a flush field. -/
def flushQueue (w : Window) : FlushSel → QCode
  | .cmdq => cmdqOf w
  | .rplq => rplqOf w
  | .evq => .evq
  | .loft => .loft

def Win.flushOf (v : Win) : FlushSel → Option FlushSt
  | .cmdq => v.flushCmd
  | .rplq => v.flushRpl
  | .evq => v.flushEvq
  | .loft => v.flushLoft

def Win.setFlush (v : Win) (f : FlushSel) (x : Option FlushSt) : Win :=
  match f with
  | .cmdq => { v with flushCmd := x }
  | .rplq => { v with flushRpl := x }
  | .evq => { v with flushEvq := x }
  | .loft => { v with flushLoft := x }

/-- Whether a flush field acts through a window: EVQ and LOFT only for the owner (R378). -/
def HubSt.mayFlush (h : HubSt) (w : Window) : FlushSel → Bool
  | .cmdq | .rplq => true
  | .evq => h.owns w .evq
  | .loft => h.owns w .loft

/-- A flush is written: waiting packets are discarded at once, a partly written command is collected,
and the drop count of EVQ or LOFT is cleared (R376, R378, R379). -/
def flush (w : Window) (f : FlushSel) (s : State) : State :=
  if ((s.win w).flushOf f).isSome || !(s.hub.mayFlush w f) then s
  else
    let r := s.hub.discardWaiting (flushQueue w f)
    let v := r.2.win w
    let v := v.setFlush f (some { pkts := r.1 })
    let v := if f = .cmdq then { v with opn := v.opn.map (fun o => { o with collect := true }) } else v
    let e := match f with
      | .evq => { s.err with evqDrop := 0 }
      | .loft => { s.err with loftDrop := 0 }
      | .cmdq | .rplq => s.err
    { s with hub := r.2.setWin w v, err := e }

/-- Q_FLUSH_CMDQ: flush of the window's command queue (R378). -/
def execQFlushCmdq (w : Window) (priv : Bool) (s : State) : Host.Outcome State Fault Refusal :=
  .next (windowWrite w priv (flush w .cmdq) s)
/-- Q_FLUSH_RPLQ: flush of the window's reply queue (R378). -/
def execQFlushRplq (w : Window) (priv : Bool) (s : State) : Host.Outcome State Fault Refusal :=
  .next (windowWrite w priv (fun s => resume (flush w .rplq s)) s)
/-- Q_FLUSH_EVQ: flush of EVQ by its owner (R378). -/
def execQFlushEvq (w : Window) (priv : Bool) (s : State) : Host.Outcome State Fault Refusal :=
  .next (windowWrite w priv (fun s => resume (flush w .evq s)) s)
/-- Q_FLUSH_LOFT: flush of LOFT by its owner (R378). -/
def execQFlushLoft (w : Window) (priv : Bool) (s : State) : Host.Outcome State Fault Refusal :=
  .next (windowWrite w priv (flush w .loft) s)

/-- The two words of a flush reply (R360). -/
def flushReply (q : QCode) (f : FlushSt) : List W64 :=
  [replyHeader 0 1 0 stFlushed (qCode q),
   pack 64 [(0, Nat.min f.pkts 0xFFFF), (32, b2n f.collected), (33, b2n f.truncated)]]

/-- Whether every part of a pending flush has been handled: no packet of the queue is begun, and no
partly written command is still collected (R379). -/
def HubSt.flushReady (h : HubSt) (w : Window) (f : FlushSel) : Bool :=
  (h.queue (flushQueue w f)).begun.isNone &&
  (match f, (h.win w).opn with
   | .cmdq, some o => !o.collect
   | _, _ => true)

/-- FLUSH_COMPLETE: a flush whose parts are handled writes its flush reply, of priority 3, into the window's
reply queue (R360, R371, R378). -/
def execFlushComplete (w : Window) (f : FlushSel) (s : State) : Host.Outcome State Fault Refusal :=
  .next (match (s.win w).flushOf f with
    | none => s
    | some x =>
      if s.hub.flushReady w f then
        let h := s.hub.setWin w ((s.hub.win w).setFlush f none)
        { s with hub := h.writePacket (rplqOf w) 3 false (flushReply (flushQueue w f) x) }
      else s)

/-! ### Owners and quotas -/

/-- QOWNER_WRITE: a write of QOWNER asks for new owners (R372). -/
def execQownerWrite (w : Window) (v : BitVec 32) (priv : Bool) (s : State) : Host.Outcome State Fault Refusal :=
  .next (mgmtWrite w priv (fun s => { s with hub := { s.hub with evqWant := bit v 0, loftWant := bit v 1 } }) s)

/-- QUEUE_OWNER_SWITCH: the change of owner takes effect when no packet of that queue is begun (R372). -/
def execQueueOwnerSwitch (q : QCode) (s : State) : Host.Outcome State Fault Refusal :=
  .next (match q with
    | .evq => if s.hub.evq.begun.isNone then { s with hub := { s.hub with evqOwn := s.hub.evqWant } } else s
    | .loft => if s.hub.loft.begun.isNone then { s with hub := { s.hub with loftOwn := s.hub.loftWant } } else s
    | .hcq | .mcq | .hrq | .mrq => s)

/-- Least quota of a queue (R369). -/
def quotaMin : QCode → Nat
  | .hcq | .mcq => 128
  | .hrq | .mrq => 320
  | .evq => 256
  | .loft => 0

/-- Sum of the six quotas. -/
def HubSt.quotaSum (h : HubSt) : Nat :=
  h.hcq.quota.toNat + h.mcq.quota.toNat + h.hrq.quota.toNat + h.mrq.quota.toNat + h.evq.quota.toNat + h.loft.quota.toNat

/-- Whether a written quota takes effect (R369). -/
def HubSt.quotaOk (h : HubSt) (q : QCode) (n : Nat) : Bool :=
  n % 64 == 0 && decide (quotaMin q ≤ n) && decide (h.quotaSum - (h.queue q).quota.toNat + n ≤ 16384)

/-- QUOTA_WRITE: a valid quota takes effect and clears REJ, any other sets REJ (R369). -/
def execQuotaWrite (w : Window) (q : QCode) (v : BitVec 32) (priv : Bool) (s : State) : Host.Outcome State Fault Refusal :=
  .next (mgmtWrite w priv (fun s =>
    let n := fld v 0 15
    let x := s.hub.queue q
    resume { s with hub := s.hub.setQueue q (if s.hub.quotaOk q n then { x with quota := BitVec.ofNat 15 n, rej := false }
        else { x with rej := true }) }) s)

/-! ### The end of a rebuild -/

/-- CELL_POOL_REBUILD_DONE: the free list is rebuilt and the waiting writes and reads resume in order (R377). -/
def execCellPoolRebuildDone (s : State) : Host.Outcome State Fault Refusal :=
  .next (if s.hub.rebuild.isSome then resume { s with hub := { s.hub with rebuild := none } } else s)

end Sys2Proof.Machine
end

