-- ==== Sys2Proof/Machine/RegWin.lean ====
section
/-! DEFINITION. Sys2Proof/Machine/RegWin.lean: the registers of the two windows: their values (18), writes to
registers with no command of their own, ERRPIN, SNP_TIMEOUT, REGION_COMMIT and the half latches. -/

namespace Sys2Proof.Machine

/-! ### ERR_OUT -/

/-- ERR_OUT_PULSE_END: 1,000 ticks after the last qualifying error a deferred write of 0 takes effect and ERR_OUT
follows the drive bit (R356, R534). -/
def execErrOutPulseEnd (s : State) : Host.Outcome State Fault Refusal :=
  .next (match s.err.pulseEnd with
    | none => s
    | some t =>
      if s.now < t then s
      else
        let drive := s.err.drive && !s.err.deferW
        { s with err := { s.err with pulseEnd := none, deferW := false, drive := drive, pin := drive } })

/-- A write of the drive bit: 1 raises ERR_OUT at once; 0 lowers it, or during a pulse waits for its end (R534). -/
def driveWrite (b : Bool) (s : State) : State :=
  if b then { s with err := { s.err with drive := true, pin := true, deferW := false } }
  else if s.err.pulseEnd.isSome then { s with err := { s.err with deferW := true } }
  else { s with err := { s.err with drive := false, pin := false } }

/-- A write of ERRPIN takes effect before what follows it in its CCLK cycle: an error of the block, and, for HOSTP, a write of MGMTP (R530,
R534). -/
def errpinWrite (w : Window) (b : Bool) (s : State) : State :=
  let now := some s.time.cycles
  let late := decide (s.err.raisedAt = now) || (decide (w = .hostp) && decide (s.err.mgmtAt = now))
  let s := if late then s else driveWrite b s
  if w = .mgmtp then { s with err := { s.err with mgmtAt := now } } else s

/-- ERRPIN_WRITE (R534). -/
def execErrpinWrite (w : Window) (v : BitVec 32) (priv : Bool) (s : State) : Host.Outcome State Fault Refusal :=
  .next (windowWrite w priv (errpinWrite w (bit v 0)) s)

/-- SNP_TIMEOUT_WRITE: a value from 10 to 10,000 takes effect, any other is reserved (R8, R452). -/
def execSnpTimeoutWrite (w : Window) (v : BitVec 32) (priv : Bool) (s : State) : Host.Outcome State Fault Refusal :=
  .next (mgmtWrite w priv (fun s =>
    if 10 ≤ fld v 0 16 ∧ fld v 0 16 ≤ 10000 then { s with hub := { s.hub with snpTo := v.extractLsb' 0 16 } } else s) s)

/-! ### The region table (R31, R35 to R38) -/

/-- The two words of an entry of a region table. -/
def regionAt (t : Tbl (W64 × W64)) (n : Nat) : W64 × W64 := tget (fun _ => (0, 0)) t n

/-- Memory ports of instance `i`, by the CONFIG of its TIME record; without a record, those of this instance (R36, R300; log 21). -/
def State.portsOf (s : State) (i : Nat) : Nat :=
  match (if i = s.self then none else s.pkg.configs.find? (fun x => x.1 == i)) with
  | some x => if x.2 = 0 then 8 else 16
  | none => s.gh.memPorts

/-- Whether one valid entry breaks a format rule of its own (R36). -/
def regionEntryBad (s : State) (e : W64 × W64) : Bool :=
  let insts := (List.range (2 ^ fld e.2 0 2)).map (fun k => fld e.2 (8 + 3 * k) 3)
  decide (fld e.1 32 22 < fld e.1 0 22) || decide (4 < fld e.2 2 3) || decide (4 < fld e.2 32 3) ||
  decide (4 < fld e.2 40 3) || insts.any (fun i => !(s.isMember i)) ||
  insts.any (fun i => decide (s.portsOf i < fld e.2 36 4 + 2 ^ fld e.2 32 3))

/-- Whether two entries share a granule (R36). -/
def regionsMeet (a b : W64 × W64) : Bool :=
  bit a.1 63 && bit b.1 63 && decide (fld a.1 0 22 ≤ fld b.1 32 22) && decide (fld b.1 0 22 ≤ fld a.1 32 22)

/-- Whether the staging table breaks the format (R36). -/
def regionFormatBad (s : State) (t : Tbl (W64 × W64)) : Bool :=
  (List.range 32).any (fun n => bit (regionAt t n).1 63 && regionEntryBad s (regionAt t n)) ||
  (List.range 32).any (fun n => (List.range n).any (fun k => regionsMeet (regionAt t n) (regionAt t k)))

/-- Whether a commit only sets VALID on entries over granules that no valid entry of the active table covers (R37). -/
def regionOnlyAdds (old new : Tbl (W64 × W64)) : Bool :=
  (List.range 32).all (fun n =>
    if bit (regionAt old n).1 63 then decide (regionAt new n = regionAt old n)
    else !(bit (regionAt new n).1 63) || (List.range 32).all (fun k => !(regionsMeet (regionAt new n) (regionAt old k))))

/-- The valid entries of a table, as a list of 32. -/
def regionList (t : Tbl (W64 × W64)) : List (W64 × W64) := (List.range 32).map (regionAt t)

/-- Result codes of REGION_COMMIT (R35). -/
abbrev resAccepted : BitVec 2 := 0
abbrev resFormat : BitVec 2 := 1
abbrev resLive : BitVec 2 := 2
abbrev resLost : BitVec 2 := 3

/-- GO is written: the copy of the staging table is checked, and when accepted carried to every instance with an activation tick at least
10,000 ticks ahead; it loses to a change of a lower instance ID, and displaces one of a higher (R36 to R39, R315, R531). DESIGN CHOICE
(log 58): the ACK deadline, which R315 leaves to the change, is 1,000 ticks before the activation tick. -/
def regionGo (peersQuiesced : Bool) (s : State) : State :=
  let t := s.map.stage
  if regionFormatBad s t then { s with map := { s.map with result := resFormat } }
  else if !(regionOnlyAdds s.map.active t) && !(s.unquiesced == 0 && peersQuiesced) then
    { s with map := { s.map with result := resLive } }
  else
    let held := s.pendingHold .region
    if held.any (fun h => decide (h.chg.issuer.toNat < s.self)) then { s with map := { s.map with result := resLost } }
    else
      let tick := s.ahead 10000
      let s := match held with
        | some h => s.dropHold h.chg
        | none => s
      let s := { s.used with map := { s.map with commit := some { tbl := t, tick := tick } } }
      genIssue { kind := .region, issuer := s.inst, tick := tick, payload := .region (regionList t) } (tick - 1000) s

/-- REGION_COMMIT: writing GO starts a commit unless one is in progress (R35). -/
def execRegionCommit (w : Window) (v : BitVec 32) (peersQuiesced : Bool) (priv : Bool) (s : State) :
    Host.Outcome State Fault Refusal :=
  .next (mgmtWrite w priv (fun s => if bit v 0 && s.map.commit.isNone then regionGo peersQuiesced s else s) s)

/-- The table that a list of entries spells. -/
def regionOfList (l : List (W64 × W64)) : Tbl (W64 × W64) :=
  (l.zipIdx).foldl (fun t p => tset (fun _ => (0, 0)) p.2 p.1 t) []

/-- The new region table is active at every port adapter and ridge unit, and RGEN increments (R38). -/
def applyRegion (l : List (W64 × W64)) (issuer : BitVec 3) (s : State) : State :=
  let own := decide (issuer = s.inst)
  { (s.dropDue .region).bumpGen .region with
    map := { s.map with active := regionOfList l, rgen := s.map.rgen + 1, commit := if own then none else s.map.commit,
                        result := if own then resAccepted else s.map.result } }

/-- REGION_TABLE_ACTIVATE: at the activation tick the armed change takes effect (R38). -/
def execRegionTableActivate (s : State) : Host.Outcome State Fault Refusal :=
  .next (match s.dueHold .region with
    | none => s
    | some h =>
      match h.chg.payload with
      | .region l => applyRegion l h.chg.issuer s
      | .bundle _ | .batten | .epoch _ | .block .. | .members _ | .timeSource _ => s)

/-! ### Register values (R527) -/

/-- The count register of a queue (R375). -/
def HubSt.countReg (h : HubSt) (q : QCode) : BitVec 32 :=
  pack 32 [(0, h.cellsHeld q), (15, b2n (h.openOf q).isSome), (16, (h.queue q).waiting.length), (31, b2n (h.queue q).begun.isSome)]

/-- The quota register of a queue (R369). -/
def HubSt.quotaReg (h : HubSt) (q : QCode) : BitVec 32 :=
  pack 32 [(0, (h.queue q).quota.toNat), (16, b2n (h.queue q).rej)]

def State.partOf (s : State) (a : Nat) : BitVec 4 := tget (fun _ => 0) s.prot.part a
def State.shmaskOf (s : State) (sh : Nat) : BitVec 16 := tget (fun _ => 0xFFFF#16) s.prot.shmask sh

/-- Half `hi` of a 64-bit value (R10). -/
def half (v : W64) (hi : Bool) : BitVec 32 := if hi then v.extractLsb' 32 32 else v.extractLsb' 0 32

def regIdVer (s : State) : BitVec 32 :=
  pack 32 [(0, 0x31), (8, 0x31), (16, s.gh.code), (18, s.inst.toNat), (21, b2n s.tmcap), (22, s.rst.role.toNat), (24, s.pkg.members.toNat)]
def regIdStat (s : State) : BitVec 32 :=
  pack 32 [(0, s.enSlices), (7, b2n s.rst.test), (8, b2n s.rst.field), (9, s.rst.bootSrc.toNat)]
def regStrapcap (s : State) : BitVec 32 :=
  pack 32 [(0, s.rst.boot.toNat), (2, s.rst.clkmode.toNat), (4, b2n s.rst.cfgsrc), (5, s.rst.idstrap.toNat),
    (9, b2n s.rst.testmode), (10, s.rst.rcode.toNat), (14, b2n s.rst.rsout), (15, s.rst.code.toNat),
    (19, b2n s.rst.field), (20, b2n s.rst.test)]
def regRstcause (s : State) : BitVec 32 :=
  pack 32 [(0, b2n s.rst.cPor), (1, b2n s.rst.cPin), (2, b2n s.rst.cDirty), (3, b2n s.rst.cTrim)]
def regDirtycnt (s : State) : BitVec 32 := pack 32 [(0, s.rst.dirty.toNat), (22, b2n s.rst.dirtyV)]
def regBringup (s : State) : BitVec 32 :=
  pack 32 [(0, s.rst.step), (4, b2n s.rst.ready), (5, s.rst.fail.toNat), (8, s.rst.passes.toNat)]
def regBootctl (s : State) : BitVec 32 := pack 32 [(1, b2n s.rst.wait), (2, b2n s.rst.rej)]
def regErrpin (s : State) : BitVec 32 :=
  pack 32 [(0, b2n s.err.drive), (1, b2n s.err.pulseEnd.isSome), (2, b2n s.err.pin), (3, b2n s.err.deferW), (4, s.err.thr.toNat)]
def regFerrInfo (f : Ferr) : BitVec 32 :=
  pack 32 [(0, b2n f.valid), (1, f.mtype.toNat), (3, f.mid.toNat), (15, f.acc.toNat), (19, f.src.toNat), (25, f.sev.toNat), (28, f.inst.toNat)]
def regPerfSel (p : PerfWin) : BitVec 32 := pack 32 [(0, p.cls.toNat), (8, p.unit.toNat), (16, p.ctr.toNat)]
def regProtState (s : State) : BitVec 32 :=
  pack 32 [(0, b2n s.prot.dbg), (1, b2n s.prot.uc.isSome), (2, b2n s.prot.trans)]
def regRegionCommit (s : State) : BitVec 32 :=
  pack 32 [(1, b2n s.map.commit.isSome), (2, s.map.result.toNat), (16, s.map.rgen.toNat)]
def regFlush (v : Win) : BitVec 32 :=
  pack 32 [(8, b2n v.flushCmd.isSome), (9, b2n v.flushRpl.isSome), (10, b2n v.flushEvq.isSome), (11, b2n v.flushLoft.isSome)]
def regPartAid (s : State) (n : Nat) : BitVec 32 :=
  pack 32 ((List.range 8).map (fun k => (4 * k, (s.partOf (8 * n + k)).toNat)))
def regShmask (s : State) (n : Nat) : BitVec 32 := (s.shmaskOf (2 * n + 1)) ++ (s.shmaskOf (2 * n))

/-- Registers below 0x1000 that respond from release on (R500). -/
def earlyReg (s : State) (w : Window) (off : Nat) : Option (BitVec 32) :=
  let v := s.win w
  let m (x : BitVec 32) : Option (BitVec 32) := if w = .mgmtp then some x else none
  match off with
  | 0x0000 => some 0x47483331
  | 0x0004 => some (regIdVer s)
  | 0x0008 => some (regIdStat s)
  | 0x000C => some s.rst.fwVer
  | 0x0010 => some s.rst.ucVer
  | 0x0014 => some (half s.rst.sliceMask false)
  | 0x0018 => some v.smaskHi
  | 0x0020 => some (regStrapcap s)
  | 0x0024 => some (regRstcause s)
  | 0x0028 => some (regDirtycnt s)
  | 0x002C => some (regBringup s)
  | 0x0030 => m 0
  | 0x0034 => m 0
  | 0x0038 => m (regBootctl s)
  | 0x0100 => some 0
  | 0x0104 => some 0
  | 0x0108 => some 0
  | 0x0110 => some 0
  | 0x0114 => some v.rplHi
  | 0x0118 => some (v.rplTags.setWidth 32)
  | 0x0120 => some 0
  | 0x0124 => some v.evqHi
  | 0x0128 => some (v.evqTags.setWidth 32)
  | 0x0130 => some 0
  | 0x0134 => some v.loftHi
  | 0x0138 => some (v.loftTags.setWidth 32)
  | 0x0140 => some (regFlush v)
  | 0x0144 => some (pack 32 [(0, b2n s.hub.evqWant), (1, b2n s.hub.loftWant)])
  | 0x0190 => some s.err.evqDrop
  | 0x0194 => some s.err.loftDrop
  | n =>
    if n % 4 = 0 ∧ 0x0150 ≤ n ∧ n < 0x0168 then some (s.hub.countReg (queueAt ((n - 0x0150) / 4)))
    else if n % 4 = 0 ∧ 0x0170 ≤ n ∧ n < 0x0188 then some (s.hub.quotaReg (queueAt ((n - 0x0170) / 4)))
    else none

/-- ADMIT as it reads: the ports beyond the configuration read zero (R436, R527). -/
def State.admitReg (s : State) : W64 := s.prot.admitMask &&& BitVec.ofNat 64 (2 ^ (8 * s.gh.ridgePorts) - 1)

/-- The other registers (R527). -/
def lateReg (s : State) (w : Window) (off : Nat) : Option (BitVec 32) :=
  let v := s.win w
  match off with
  | 0x0200 => some (regErrpin s)
  | 0x0204 => some (s.hub.snpTo.setWidth 32)
  | 0x0210 => some (s.err.ferr.addr.extractLsb' 0 32)
  | 0x0214 => some v.faddrHi
  | 0x0218 => some (regFerrInfo s.err.ferr)
  | 0x021C => some (half s.err.ferr.ptc false)
  | 0x0220 => some v.fptcHi
  | 0x0224 => some s.err.ferr.ovf
  | 0x0300 => some (regPerfSel v.perf)
  | 0x0304 => some v.perf.lo
  | 0x0308 => some v.perf.hi
  | 0x030C => some (half v.perf.stamp false)
  | 0x0310 => some (half v.perf.stamp true)
  | 0x0320 => some (BitVec.ofNat 32 (b2n s.hub.perfUser))
  | 0x0400 => some (regProtState s)
  | 0x0404 => some (s.prot.gtMask.setWidth 32)
  | 0x0408 => some (half s.admitReg false)
  | 0x040C => some v.admitHi
  | 0x1200 => some (regRegionCommit s)
  | n =>
    if n % 4 ≠ 0 then none
    else if 0x1000 ≤ n ∧ n < 0x1200 then
      let e := regionAt s.map.stage ((n - 0x1000) / 16)
      some (half (if n % 16 < 8 then e.1 else e.2) (n % 8 == 4))
    else if 0x2000 ≤ n ∧ n < 0x2400 then some (regPartAid s ((n - 0x2000) / 4))
    else if 0x4000 ≤ n ∧ n < 0x6000 then some (regShmask s ((n - 0x4000) / 4))
    else none

/-- The state whose registers read at their reset values (R500). -/
def State.regsAtReset (s : State) : State := { State.reset with gh := s.gh }

/-- The registers of the user page (R536); until step 4 is done they read their reset values (R500). -/
def userReg (s : State) (off : Nat) : Option (BitVec 32) :=
  let u := if s.regsLive then s.hub.user else s.regsAtReset.hub.user
  match off with
  | 0xF000 => some (regPerfSel u)
  | 0xF004 => some u.lo
  | 0xF008 => some u.hi
  | 0xF00C => some (half u.stamp false)
  | 0xF010 => some (half u.stamp true)
  | _ => none

/-- Whether a register holds the high half that a read of its other half latched (R529). -/
def holdsHalf (off : Nat) : Bool := off == 0x0214 || off == 0x0220 || off == 0x040C

/-- What the register at an offset of a window holds: none when the offset is unmapped. Until step 4 is done a
register that R500 does not name reads its reset value, and a half what the read of its other half latched (R529). -/
def regValue (s : State) (w : Window) (off : Nat) : Option (BitVec 32) :=
  match earlyReg s w off with
  | some v => some v
  | none => if s.regsLive || holdsHalf off then lateReg s w off else lateReg s.regsAtReset w off

/-- Whether the offset lies in the user page (R536). -/
def isUser (w : Window) (off : Nat) : Bool := decide (w = .hostp) && decide (0xF000 ≤ off)

/-- Whether a window maps an offset (R527, R536). -/
def mapped (s : State) (w : Window) (off : Nat) : Bool :=
  if isUser w off then (userReg s off).isSome else (regValue s w off).isSome

/-- Whether an access is refused (R351, R500, R536). -/
def refusedAt (s : State) (w : Window) (off : Nat) (priv : Bool) : Bool :=
  s.rst.inReset || !(mapped s w off) ||
  (if isUser w off then !s.hub.perfUser else unprivileged w priv)

/-! ### Writes to registers without a command of their own -/

/-- PERF_SEL: a reserved CLASS keeps the previous one (R8, R521). -/
def writePerfSel (v : BitVec 32) (p : PerfWin) : PerfWin :=
  { p with cls := if fld v 0 3 > 3 then p.cls else v.extractLsb' 0 3, unit := v.extractLsb' 8 7, ctr := v.extractLsb' 16 4 }

/-- Replaces one half of a 64-bit register (R10). -/
def setHalf (x : W64) (hi : Bool) (v : BitVec 32) : W64 :=
  if hi then v ++ x.extractLsb' 0 32 else x.extractLsb' 32 32 ++ v

/-- A write to a staging register stores every value, reserved encodings included; reserved bits read zero (R6, R8, R31). -/
def writeStage (off : Nat) (v : BitVec 32) (m : MapSt) : MapSt :=
  let n := (off - 0x1000) / 16
  let e := regionAt m.stage n
  let hi := off % 8 == 4
  let e := if off % 16 < 8 then (setHalf e.1 hi v &&& 0x803FFFFF003FFFFF#64, e.2) else (e.1, setHalf e.2 hi v &&& 0x000007F7FFFFFF1F#64)
  { m with stage := tset (fun _ => (0, 0)) n e m.stage }

/-- What a write does to the register at an offset (R11, R527): RO fields do not change. Registers whose write is a
command of its own are written by that command (log 22). -/
def writeReg (w : Window) (off : Nat) (v : BitVec 32) (s : State) : State :=
  if isUser w off then
    if off = 0xF000 then { s with hub := { s.hub with user := writePerfSel v s.hub.user } } else s
  else if off = 0x0100 then s.modWin w (fun x => { x with cmdLo := v })
  else if off = 0x0300 then s.modWin w (fun x => { x with perf := writePerfSel v x.perf })
  else if w = .hostp then s
  else if off = 0x0024 then
    { s with rst := { s.rst with cPor := s.rst.cPor && !bit v 0, cPin := s.rst.cPin && !bit v 1,
                                 cDirty := s.rst.cDirty && !bit v 2, cTrim := s.rst.cTrim && !bit v 3 } }
  else if off = 0x0030 then { s with rst := { s.rst with bootLo := v } }
  else if 0x1000 ≤ off ∧ off < 0x1200 then { s with map := writeStage off v s.map }
  else s

/-- REGISTER_WRITE: a write to a register with no behaviour of its own; a refused one has no effect (R11, R351). -/
def execRegisterWrite (w : Window) (off : BitVec 16) (v : BitVec 32) (priv : Bool) (s : State) :
    Host.Outcome State Fault Refusal :=
  .next (if refusedAt s w off.toNat priv then s.answer w true 0
    else writeReg w off.toNat v (s.answer w false 0))

/-- The value of a register whose low half latches its high half (R529). -/
def halfRegValue (s : State) : HalfReg → W64
  | .admitMask => s.admitReg
  | .ferrAddr => s.err.ferr.addr.setWidth 64
  | .ferrPtc => s.err.ferr.ptc
  | .slicemask => s.rst.sliceMask

/-- Keeps the high half in the window's holding register (R529). -/
def latchHalf (r : HalfReg) (v : BitVec 32) (x : Win) : Win :=
  match r with
  | .admitMask => { x with admitHi := v }
  | .ferrAddr => { x with faddrHi := v }
  | .ferrPtc => { x with fptcHi := v }
  | .slicemask => { x with smaskHi := v }

/-- HALF_LATCH_READ: a read of the _LO location returns the low half and latches the high half (R529). Until step 4
is done a register other than SLICEMASK reads its reset value (R500). -/
def execHalfLatchRead (w : Window) (r : HalfReg) (priv : Bool) (s : State) : Host.Outcome State Fault Refusal :=
  .next (windowWrite w priv (fun s =>
    let v := if s.regsLive || decide (r = .slicemask) then halfRegValue s r else halfRegValue s.regsAtReset r
    (s.answer w false (half v false)).modWin w (latchHalf r (half v true))) s)

end Sys2Proof.Machine
end

