-- ==== Sys2Proof/Machine/SfOps.lean ====
section
/-! DEFINITION. Sys2Proof/Machine/SfOps.lean: the snoop filter: its indexing and entry layout, adding and removing
sharers, the bundle map, the snoop set, victims, and the arrays' errors (05). -/

namespace Sys2Proof.Machine

/-! ### Indexing and entries (R133 to R141) -/

/-- The snoop-filter set of a line (R134). -/
def sfSet (l : LAddr) : Nat := fld l 0 12 ^^^ fld l 18 12

/-- The snoop-filter tag of a line (R134). -/
def sfTag (l : LAddr) : BitVec 34 := l.extractLsb' 12 34

/-- The line of an entry (R134). -/
def sfLine (set : Nat) (tag : BitVec 34) : LAddr := tag ++ BitVec.ofNat 12 (set ^^^ fld tag 6 12)

/-- Word address of a way (R133, R238). -/
def sfAddr (set way : Nat) : Nat := set * 16 + way

/-- States of an entry (R137) and its modes (R136). -/
abbrev stFree : BitVec 3 := 0
abbrev stS : BitVec 3 := 1
abbrev stX : BitVec 3 := 2
abbrev stO : BitVec 3 := 3
abbrev fine : BitVec 2 := 0
abbrev coarse : BitVec 2 := 1

/-- Number of valid pointers of a FINE payload (R140). -/
def SfEnt.cnt (e : SfEnt) : Nat := fld e.payload 55 3

/-- Pointer `i` of a FINE payload (R140). -/
def SfEnt.ptr (e : SfEnt) (i : Nat) : Aid := e.payload.extractLsb' (11 * i) 11

/-- The valid pointers of a FINE payload, in order (R140). -/
def SfEnt.ptrs (e : SfEnt) : List Aid := (List.range e.cnt).map e.ptr

/-- A FINE payload (R140). -/
def finePayload (l : List Aid) : W64 :=
  pack 64 ((55, l.length) :: (List.range 5).map (fun i => (11 * i, (l.getD i 0).toNat)))

/-- Gives a FINE entry these pointers. -/
def SfEnt.withPtrs (e : SfEnt) (l : List Aid) : SfEnt := { e with payload := finePayload l }

/-- Whether an entry names an owner (R137). -/
def SfEnt.owned (e : SfEnt) : Bool := e.st == stX || e.st == stO

/-- Whether the entry is FINE (R136). -/
def SfEnt.isFine (e : SfEnt) : Bool := e.mode == fine

/-- The combinations of R139. -/
def SfEnt.valid (e : SfEnt) : Bool :=
  let restZero := (List.range 5).all (fun i => decide (i < e.cnt) || e.ptr i == 0)
  if e.st = stFree then e == {}
  else if e.st = stS then
    e.own == 0 && ((e.mode == fine && decide (1 ≤ e.cnt) && decide (e.cnt ≤ 5) && restZero) ||
      (e.mode == coarse && e.payload != 0))
  else if e.st = stX then e.mode == fine && e.payload == 0
  else if e.st = stO then (e.mode == fine && decide (e.cnt ≤ 5) && restZero) || e.mode == coarse
  else false

/-- The 115 content bits of an entry (R136). -/
def SfEnt.content (e : SfEnt) : BitVec 115 :=
  pack 115 [(0, e.tag.toNat), (34, e.st.toNat), (37, e.own.toNat), (48, e.mode.toNat), (50, b2n e.gen), (51, e.payload.toNat)]

/-- CHK of a content word: zero for the content of a free way (R136, R138, log 8). -/
def sfChk (c : BitVec 115) : BitVec 8 := if c = 0 then 0 else Config.sfCheck c

/-- The stored 128 bits of an entry: its content, CHK, and the reserved bits as zero (R136, log 8). -/
def SfEnt.word (e : SfEnt) : BitVec 128 := 0#5 ++ sfChk e.content ++ e.content

/-- The entry of 115 content bits (R136). -/
def entOf (c : BitVec 115) : SfEnt :=
  { tag := c.extractLsb' 0 34, st := c.extractLsb' 34 3, own := c.extractLsb' 37 11, mode := c.extractLsb' 48 2,
    gen := c.getLsbD 50, payload := c.extractLsb' 51 64 }

/-! ### The bundle map (R142) -/

/-- The bundle of AID `a` in a generation; the default map with one partition places AID x in x >> 5 (R178). -/
def PolSt.bundle (p : PolSt) (gen : Bool) (a : Nat) : Nat :=
  (tget (fun x => BitVec.ofNat 6 (x / 32)) (if gen then p.map1 else p.map0) a).toNat

/-- The bit of the bundle of AID `a`. -/
def PolSt.bundleBit (p : PolSt) (gen : Bool) (a : Aid) : W64 := 1#64 <<< (p.bundle gen a.toNat)

/-- Brings an entry that is written to the current generation: a COARSE payload is rewritten, a FINE entry carries its number (R136,
R151). A free way has none (R139). -/
def regen (p : PolSt) (e : SfEnt) : SfEnt :=
  if e.st = stFree then e
  else if e.mode = fine then { e with gen := p.curgen }
  else if e.mode = coarse ∧ e.gen ≠ p.curgen then
    { e with
      payload := (List.range 2048).foldl (fun v x =>
        if e.payload.getLsbD (p.bundle e.gen x) then v ||| (1#64 <<< p.bundle p.curgen x) else v) 0
      gen := p.curgen }
  else e

/-! ### Adding and removing sharers (R147, R148) -/

/-- Adds a sharer under threshold `thr` (R147). -/
def addSharer (p : PolSt) (thr : Nat) (a : Aid) (e : SfEnt) : SfEnt :=
  if e.owned && e.own == a then e
  else if e.isFine then
    if e.ptrs.contains a then e
    else if e.cnt < thr then e.withPtrs (e.ptrs ++ [a])
    else
      { e with mode := coarse, gen := p.curgen,
               payload := e.ptrs.foldl (fun v x => v ||| p.bundleBit p.curgen x) (p.bundleBit p.curgen a) }
  else
    let e := regen p e
    { e with payload := e.payload ||| p.bundleBit p.curgen a }

/-- Removes a sharer of a FINE entry; the way is free when an SF_S entry loses its last one (R148). -/
def removeSharer (a : Aid) (e : SfEnt) : SfEnt :=
  if e.isFine && e.ptrs.contains a then
    let l := e.ptrs
    let last := l.getD (l.length - 1) 0
    let l := (l.map (fun x => if x = a then last else x)).take (l.length - 1)
    if e.st = stS ∧ l.isEmpty then {} else e.withPtrs l
  else e

/-- SF_X of an owner: a FINE entry with CNT 0 (R149). -/
def entX (p : PolSt) (l : LAddr) (a : Aid) : SfEnt :=
  { tag := sfTag l, st := stX, own := a, mode := fine, gen := p.curgen }

/-- SF_S of one sharer. -/
def entS (p : PolSt) (l : LAddr) (a : Aid) : SfEnt :=
  { tag := sfTag l, st := stS, own := 0, mode := fine, gen := p.curgen, payload := finePayload [a] }

/-- Whether an entry names no sharer (R149). -/
def SfEnt.noSharer (e : SfEnt) : Bool := if e.isFine then e.cnt == 0 else e.payload == 0

/-- Makes an SF_O entry SF_S(Sh), or frees the way when Sh is empty (R149). -/
def dropOwner (e : SfEnt) : SfEnt :=
  if e.noSharer then {} else { e with st := stS, own := 0 }

/-- Makes an SF_X or SF_O entry SF_S(Sh + o): the former owner becomes a sharer (R74, R149). -/
def ownerToSharer (p : PolSt) (thr : Nat) (e : SfEnt) : SfEnt :=
  addSharer p thr e.own { (regen p e) with st := stS, own := 0 }

/-! ### The snoop set (R144) -/

/-- Instance and port of a present AID (R144, R291). -/
def State.agentAt (s : State) (a : Aid) : Option (Nat × Nat) :=
  match s.pkg.agents.find? (fun p => p.1 == a.toNat) with
  | some p => some (p.2.1.toNat, p.2.2.toNat)
  | none => none

/-- Whether an AID's partition is in the partition mask of a shingle (R144). -/
def State.inMask (s : State) (sh : Nat) (a : Nat) : Bool := (s.shmaskOf sh).getLsbD (s.partOf a).toNat

/-- The present agents whose partition is in the mask of a line's shingle, in ascending AID order (R144). -/
def State.presentIn (s : State) (l : LAddr) : List Aid :=
  ((s.pkg.agents.map (fun p => p.1)).filter (s.inMask (shingleOf l))).map (BitVec.ofNat 11)

/-- The agents a COARSE vector names (R144). -/
def State.coarseSet (s : State) (l : LAddr) (e : SfEnt) : List Aid :=
  (s.presentIn l).filter (fun a => e.payload.getLsbD (s.pol.bundle e.gen a.toNat))

/-- The sharers an entry names, in the order in which they are snooped (R144, R145). -/
def State.sharersOf (s : State) (l : LAddr) (e : SfEnt) : List Aid :=
  if e.st = stFree then [] else if e.isFine then e.ptrs else s.coarseSet l e

/-- The snoop set of an entry: OWN, then the sharers (R144, R145). -/
def State.snoopSet (s : State) (l : LAddr) (e : SfEnt) : List Aid :=
  (if e.owned then [e.own] else []) ++ (s.sharersOf l e).filter (fun a => !(e.owned && e.own == a))

/-- Snoops to the sharers of an entry. -/
def State.sharerSnoops (s : State) (l : LAddr) (e : SfEnt) (op : SnpOp) : List SnpTodo :=
  ((s.sharersOf l e).filter (fun a => !(e.owned && e.own == a))).map
    (fun a => { aid := a, op := op, fine := e.isFine, attr := !e.isFine })

/-- The snoop to the owner of an entry. -/
def SfEnt.ownerSnoop (e : SfEnt) (op : SnpOp) : List SnpTodo := if e.owned then [{ aid := e.own, op := op, own := true }] else []

/-! ### The array -/

/-- The entry of a way. -/
def Slice.sfAt (v : Slice) (set way : Nat) : SfEnt := tget (fun _ => {}) v.sf (sfAddr set way)

/-- Forgets the error of a word that is written. -/
def Slice.heal (v : Slice) (array addr : Nat) : Slice :=
  { v with errs := v.errs.filter (fun e => !(e.array == array && e.addr == addr)) }

/-- Writes the entry of a way. -/
def Slice.setSf (v : Slice) (set way : Nat) (e : SfEnt) : Slice :=
  { v with sf := tset (fun _ => {}) (sfAddr set way) e v.sf }.heal 0 (sfAddr set way)

/-- The way that holds the entry of a line, if any (R135). -/
def Slice.sfWay (v : Slice) (l : LAddr) : Option Nat :=
  leastBelow (fun w => (v.sfAt (sfSet l) w).st != stFree && (v.sfAt (sfSet l) w).tag == sfTag l) 16

/-- The entry of a line; the free entry when it has none. -/
def Slice.sfEnt (v : Slice) (l : LAddr) : SfEnt :=
  match v.sfWay l with
  | some w => v.sfAt (sfSet l) w
  | none => {}

/-- Sets a not-recently-used bit; when that would leave all 16 set, every other bit is cleared (R160, R219). -/
def nruSet (n : BitVec 16) (w : Nat) : BitVec 16 :=
  let b := 1#16 <<< w
  if n ||| b = 0xFFFF#16 then b else n ||| b

/-- Marks a snoop-filter way as recently used (R160). -/
def Slice.sfTouch (v : Slice) (set way : Nat) : Slice :=
  { v with sfNru := tset (fun _ => 0) set (nruSet (tget (fun _ => 0) v.sfNru set) way) v.sfNru }

/-- Whether a line of a shingle is held back by a move from its FENCE tick on (R51): the home map shows the shingle
FENCED and this slice is its old slice. -/
def State.fencedAt (s : State) (sh : Nat) : Bool := s.shState sh == hmFenced

/-- Whether a shingle is in a move, from its fence on (R51, R158). -/
def State.movingAt (s : State) (sh : Nat) : Bool :=
  s.map.moves.any (fun m => m.sh == sh && (match m.step with
    | .prepare | .fenceWait => false
    | .drain | .copy | .unfenceWait | .revertWait => true))

/-- The cost class of a victim (R159). -/
def SfEnt.cost (e : SfEnt) : Nat :=
  if e.st = stS then (if e.isFine then 0 else 2) else if e.st = stX then 1 else 3

/-- The first number of `l` that satisfies `p`, searching from `start` upward modulo 16 (R159, R217). -/
def searchFrom (start : Nat) (l : List Nat) (p : Nat → Bool) : Option Nat :=
  ((List.range 16).map (fun i => (start + i) % 16)).find? (fun w => l.contains w && p w)

/-- The victim way of a set among the eligible ways (R159). -/
def Slice.sfVictim (v : Slice) (set : Nat) (eligible : List Nat) : Option Nat :=
  let nru := tget (fun _ => 0#16) v.sfNru set
  let c := eligible.filter (fun w => !(nru.getLsbD w))
  let c := if c.isEmpty then eligible else c
  let costs := c.map (fun w => (v.sfAt set w).cost)
  let k := costs.foldl Nat.min 3
  searchFrom (tget (fun _ => 0#4) v.sfRot set).toNat c (fun w => (v.sfAt set w).cost == k)

/-! ### Transactions of a slice, as its CAM sees them (R108, R124) -/

/-- Whether a phase is that of an active transaction (R104). -/
def TPhase.active : TPhase → Bool
  | .ready | .bufWait | .running => true
  | .chained | .admission => false

/-- The line of a transaction. -/
def Txn.l (t : Txn) : LAddr := t.q.laddr

/-- Whether a transaction has completed its lookup (R214). -/
def Txn.looked (t : Txn) : Bool :=
  match t.phase with
  | .bufWait | .running => true
  | .chained | .admission | .ready => false

def Slice.txn (v : Slice) (e : Nat) : Option Txn := v.txns.find? (fun t => t.e == e)

def Slice.setTxn (v : Slice) (t : Txn) : Slice := { v with txns := lmodify (fun x => x.e == t.e) (fun _ => t) v.txns }

/-- Changes a transaction of slice `k`. -/
def State.modTxn (s : State) (k e : Nat) (f : Txn → Txn) : State :=
  s.modSlice k (fun v => { v with txns := lmodify (fun x => x.e == e) f v.txns })

/-- The active transactions of a line (R104). -/
def Slice.activeOn (v : Slice) (l : LAddr) : List Txn := v.txns.filter (fun t => t.phase.active && t.l == l)

/-- Whether a transaction holds a line in the CAM: its own, or, for an OPEN resolution, each candidate line it has not
closed (R108, R166). -/
def Txn.holds (t : Txn) (l : LAddr) : Bool := if t.kind = .openRes then t.cands.contains l else t.l == l

/-- Whether the CAM holds anything on a line that a request entering now stands behind on its chain: not a transaction that still
waits on an admission list (R105, R108, R125, R166). -/
def Slice.lineHeld (v : Slice) (l : LAddr) : Bool :=
  v.txns.any (fun t => t.holds l && (decide (t.kind = .openRes) || decide (t.phase ≠ .admission))) || v.deferred.any (fun w => w.q.laddr == l)

/-- Whether the CAM holds anything on a line (R108). -/
def Slice.lineBusy (v : Slice) (l : LAddr) : Bool := v.txns.any (fun t => t.holds l) || v.deferred.any (fun w => w.q.laddr == l)

/-- Whether a transaction has found its entry in a way, or reserved it (R124, R156). -/
def Slice.sfTaken (v : Slice) (set way : Nat) : Bool := v.txns.any (fun t => sfSet t.l == set && t.way == some way)

/-- Whether a snoop-filter way is reserved by a transaction, or pinned: its entry's line has an active transaction, whether that one has
looked it up or not (R124, R156). -/
def Slice.sfPinned (v : Slice) (set way : Nat) : Bool :=
  v.sfTaken set way || v.txns.any (fun t => sfSet t.l == set && t.phase.active && t.way.isNone && v.sfWay t.l == some way)

/-- Numbers in use for entries of the tracker and the escape reserve. -/
def Slice.usedEntry (v : Slice) (n : Nat) : Bool :=
  v.txns.any (fun t => t.e == n || t.absorbed.any (fun w => w.e == n)) || v.deferred.any (fun w => w.e == n) ||
    v.victims.any (fun x => x.e == n)

/-- The lowest free entry number (log 17). -/
def Slice.freeEntry (v : Slice) : Nat := (leastBelow (fun n => !(v.usedEntry n)) 2048).getD 0

/-- Home flows that hold the home-flow share (R109). -/
def TKind.isHome : TKind → Bool
  | .backInv | .openRes | .lineRes | .flushLine | .linkClean | .mirrorTag | .recover => true
  | .req | .wb => false

/-- Home flows of a slice that are in its CAM (R109). -/
def Slice.homeFlows (v : Slice) : Nat := (v.txns.filter (fun t => t.kind.isHome)).length

/-- Entries of the home-flow share of slice `k` in use: its flows in the CAM, and the move it is the old slice of; 16 there are (R109). -/
def State.homeUse (s : State) (k : Nat) : Nat := (s.slice k).homeFlows + (s.map.moves.filter (fun m => m.old == k && m.begun)).length

/-- Entries of the writeback share in use; 32 there are (R109). -/
def Slice.wbEntries (v : Slice) : Nat :=
  (v.txns.filter (fun t => t.kind == .wb)).length + v.deferred.length + lsum (v.txns.map (fun t => t.absorbed.length))

/-- Transactions counted against a set (R125). -/
def Slice.countedIn (v : Slice) (set : Nat) : Nat :=
  (v.txns.filter (fun t => t.counted && sfSet t.l == set)).length

/-! ### Errors of the arrays (R163, R234, R237) -/

/-- Source of a corrected word of an array (R446). -/
def ceSource (array : Nat) : Nat := if array = 0 then 0x01 else if array = 4 then 0x07 else 0x04

/-- Keeps the addresses of the last 16 corrected words of each array (R237). -/
def Slice.remember (v : Slice) (array addr : Nat) : Slice :=
  let same := v.hist.filter (fun h => h.1 == array)
  let h := if same.length < 16 then v.hist
    else v.hist.filter (fun h => !(h.1 == array)) ++ same.drop (same.length - 15)
  { v with hist := h ++ [(array, addr)] }

/-- The transactions that wait on a set's admission list, in list order (R125). -/
def Slice.admissionOf (v : Slice) (set : Nat) : List Txn :=
  v.txns.filter (fun t => decide (t.phase = .admission) && sfSet t.l == set)

/-- Whether a set admits no further counted transaction now (R125). -/
def Slice.setFull (v : Slice) (set : Nat) : Bool := decide (15 ≤ v.countedIn set) || !(v.admissionOf set).isEmpty

/-- Enters a transaction: it joins its line's chain, waits for admission, or becomes active and is counted (R104, R105,
R125). A transaction that is active at once has `act` = `arr`. -/
def Slice.enter (v : Slice) (t : Txn) : Slice :=
  let t := { t with arr := v.nextArr, act := v.nextArr }
  let full := v.setFull (sfSet t.l)
  let t := if v.lineHeld t.l then { t with phase := .chained }
    else if full then { t with phase := .admission }
    else { t with phase := .ready, counted := true }
  { v with txns := v.txns ++ [t], nextArr := v.nextArr + 1 }

/-- A word read with a single-bit error: corrected and written back, counted towards the remap rule (R163, R234, R237). -/
def correctWord (k array addr acc : Nat) (s : State) : State :=
  let v := s.slice k
  let again := v.hist.contains (array, addr)
  let mapped := v.remaps.any (fun r => r.array.toNat == array && r.waddr.toNat == addr)
  let r : Remap := { array := BitVec.ofNat 3 array, waddr := BitVec.ofNat 20 addr, slice := BitVec.ofNat 6 k }
  let full := again && !mapped && !(v.remapFits r)
  let tell := full && !(v.remapFull.getLsbD array)
  let v := (v.heal array addr).remember array addr
  let v := if again && !mapped && v.remapFits r then v.addRemap r else v
  let v := if full then { v with remapFull := v.remapFull ||| (1#5 <<< array) } else v
  let s := s.setSlice k v
  let s := raise { src := ceSource array, detail := .array array addr k 0, acc := acc } s
  let s := if again && !mapped && !full then raise { src := 0x08, detail := .array array addr k 0, acc := acc } s else s
  if tell then raise { src := 0x09, detail := .array array addr k 0, acc := acc } s else s

/-- The error of a word, if any. -/
def Slice.errAt (v : Slice) (array addr : Nat) : Option ArrErr := v.errs.find? (fun e => e.array == array && e.addr == addr)

/-- Whether the check bits of a word correct its error: one bit is inverted (R162). -/
def ArrErr.single (e : ArrErr) : Bool := e.flip == 1#2 || e.flip == 2#2

/-- Whether a way is read as uncorrectable: a double-bit error, or with correct or corrected check bits a combination outside the table,
in a way that no lookup has found and no transaction has reserved (R139, R164, R165). -/
def Slice.sfBad (v : Slice) (set way : Nat) : Bool :=
  ((v.errAt 0 (sfAddr set way)).any (fun x => !x.single) || !(v.sfAt set way).valid) && !(v.sfTaken set way)

/-- Whether a message waits at the input of a slice (R510). -/
def State.inputWaits (s : State) (k : Nat) : Bool :=
  [VC.req, .snp, .rsp, .dat, .gt].any (fun vc => !(s.arrived k portSlice vc).isEmpty)

/-- Whether the bank can serve a visit that is due from cycle `since` on: no lookup takes the bank, or 64 cycles have passed (R20, R169, R185,
R235). -/
def State.bankFree (s : State) (k since : Nat) : Bool := !(s.inputWaits k) || decide (since + 64 ≤ s.time.cycles)

/-- A bank of a slice serves the patrol scrubber or the generation sweep. A visit while a message waits at the input takes the lookup
cycle, whose slot is WASTED (R169, R185, R235, R510, R518; log 90). -/
def bankServes (k : Nat) (s : State) : State :=
  if s.inputWaits k then s.modSlice k (fun v => (v.slot true).count 0x51 1) else s

/-- Clears NRU and ROT of the sets whose parity fails (R160). -/
def sfParityCheck (k set acc : Nat) (s : State) : State :=
  if (s.slice k).sfParity.contains set then
    let s := s.modSlice k (fun v =>
      { v with sfNru := tdel set v.sfNru, sfRot := tdel set v.sfRot, sfParity := v.sfParity.filter (fun x => x != set) })
    raise { src := 0x0A, detail := .array 8 set k 0, acc := acc } s
  else s

/-- The candidate lines of an uncorrectable way (R165). -/
def State.candidates (s : State) (k set way : Nat) : List LAddr :=
  let v := s.slice k
  let e := v.sfAt set way
  let double := match v.errAt 0 (sfAddr set way) with
    | some x => !x.single
    | none => false
  let words := if double then e :: (Config.otherCandidates e.content).map entOf else [e]
  let others := (List.range 16).filter (fun w => w != way)
  let clean (w : Nat) : Bool := match v.errAt 0 (sfAddr set w) with
    | some x => x.single
    | none => true
  let keep (x : SfEnt) : Bool :=
    let l := sfLine set x.tag
    let sh := shingleOf l
    (!double || (x.valid && x.st != stFree)) &&
    !(others.any (fun w => clean w && (v.sfAt set w).st != stFree && (v.sfAt set w).tag == x.tag)) &&
    (s.homeSlice sh == k || s.map.moves.any (fun m => m.sh == sh && m.new == k)) &&
    !(v.txns.any (fun t => t.looked && t.l == l))
  (ascending ((words.filter keep).map (fun x => (sfLine set x.tag).toNat))).map (BitVec.ofNat 46)

/-- An OPEN resolution begins over its candidate lines: it takes an entry of the home-flow share and carries its working copy with MODE 10 (R164
to R166). Its event is the one that R167 raises at its end, with the ACC code of the scrubber where that found the way (R446, R448). -/
def beginOpen (k set way acc : Nat) (e : SfEnt) (c : List LAddr) (s : State) : State :=
  s.modSlice k (fun v =>
    let t : Txn := { e := v.freeEntry, kind := .openRes, phase := .chained, arr := v.nextArr, ent := { e with mode := 2 },
                     cands := c, ncand := c.length, sway := way, q := { laddr := sfLine set e.tag },
                     settled := true, found := if acc = accScrub then accScrub else accInt }
    ({ v with txns := v.txns ++ [t], nextArr := v.nextArr + 1 }).count 0x28 1)

/-- An uncorrectable way is removed into an OPEN resolution (R164). -/
def openStart (k set way acc : Nat) (s : State) : State :=
  let c := s.candidates k set way
  let e := (s.slice k).sfAt set way
  beginOpen k set way acc e c (s.modSlice k (fun v => v.setSf set way {}))

/-- Reads one way of the snoop filter: a single-bit error is corrected, an uncorrectable way that nothing pins starts an OPEN resolution
when the home-flow share has room (R139, R163, R164, R110). -/
def sfReadWay (k set acc : Nat) (s : State) (way : Nat) : State :=
  let v := s.slice k
  if v.sfBad set way then (if s.homeUse k < 16 then openStart k set way acc s else s)
  else
    match v.errAt 0 (sfAddr set way) with
    | some x => if x.single then correctWord k 0 (sfAddr set way) acc s else s
    | none => s

/-- Reads a set of the snoop filter (R163, R164, R169). -/
def sfReadSet (k set acc : Nat) (s : State) : State := s.each (List.range 16) (sfReadWay k set acc)

end Sys2Proof.Machine
end

