-- ==== Sys2Proof/Machine/HcOps.lean ====
section
/-! DEFINITION. Sys2Proof/Machine/HcOps.lean: the home cache: its indexing, storage formats, tags, placement,
eviction, the dirty-tag mirror, its array errors, and the commands it queues at the memory ports (07). -/

namespace Sys2Proof.Machine

/-! ### Indexing and formats (R201 to R210) -/

/-- The home-cache set of a line (R201). -/
def hcSet (l : LAddr) : Nat := fld l 0 11 ^^^ fld l 21 11

/-- The stored tag of a line (R201). -/
def hcLtag (l : LAddr) : BitVec 35 := l.extractLsb' 11 35

/-- The line of a tag (R201). -/
def hcLine (set : Nat) (tag : BitVec 35) : LAddr := tag ++ BitVec.ofNat 11 (set ^^^ fld tag 10 11)

/-- Word addresses of a tag slot and of a data word (R200, R238). -/
def tagAddr (set slot : Nat) : Nat := set * 32 + slot
def dataAddr (set way i : Nat) : Nat := set * 128 + way * 8 + i

/-- Line states (R203). -/
abbrev hsInvalid : BitVec 3 := 0
abbrev hsClean : BitVec 3 := 1
abbrev hsDirty : BitVec 3 := 2
abbrev hsPoisoned : BitVec 3 := 3
abbrev hsZero : BitVec 3 := 4

/-- Formats (R203). -/
abbrev fmtFull : BitVec 2 := 0
abbrev fmtDelta : BitVec 2 := 1
abbrev fmtNone : BitVec 2 := 2

/-- The differences of the words of a line from its first (R209). -/
def deltaOf (d : Line) (i : Nat) : W64 := wordOf d i - wordOf d 0

/-- The format of a line (R209). -/
def formatOf (d : Line) : BitVec 2 :=
  if d = 0 then fmtNone
  else if (List.range 8).all (fun i => decide ((deltaOf d i).toNat ≤ 127) || decide (2 ^ 64 - 128 ≤ (deltaOf d i).toNat)) then fmtDelta
  else fmtFull

/-- Storage order of formats: NONE, DELTA, FULL (R215). -/
def fmtSize (f : BitVec 2) : Nat := if f = fmtNone then 0 else if f = fmtDelta then 1 else 2

/-- The words that a line stores in its format (R210). -/
def storedWords (d : Line) (f : BitVec 2) : List W64 :=
  if f = fmtNone then []
  else if f = fmtDelta then
    [wordOf d 0, pack 64 ((List.range 7).map (fun i => (8 * i, fld (deltaOf d (i + 1)) 0 8))), 0, 0]
  else (List.range 8).map (wordOf d)

/-- The line that stored words hold (R210). -/
def loadWords (f : BitVec 2) (w : List W64) : Line :=
  if f = fmtNone then 0
  else if f = fmtDelta then
    let base := w.getD 0 0
    let dl := w.getD 1 0
    lineOfWords (base :: (List.range 7).map (fun i => base + (dl.extractLsb' (8 * i) 8).signExtend 64))
  else lineOfWords w

/-- The data words that a slot uses in a format, counted within the block (R202). -/
def slotWords (slot : Nat) (f : BitVec 2) : List Nat :=
  if f = fmtNone then [] else if f = fmtDelta then (List.range 4).map (fun i => 4 * (slot % 2) + i) else List.range 8

/-- The combinations of R204. -/
def HcTag.valid (t : HcTag) : Bool :=
  if t.hst = hsInvalid then t == {}
  else if t.hst = hsClean then t.fmt == fmtFull || t.fmt == fmtDelta
  else if t.hst = hsDirty then t.fmt != 3#2
  else if t.hst = hsPoisoned then t.fmt == fmtNone && !t.hh
  else if t.hst = hsZero then t.fmt == fmtNone
  else false

/-! ### The arrays -/

def Slice.tagAt (v : Slice) (set slot : Nat) : HcTag := tget (fun _ => {}) v.hcTag (tagAddr set slot)
def Slice.dataAt (v : Slice) (set way i : Nat) : W64 := tget (fun _ => 0) v.hcData (dataAddr set way i)
def Slice.ctlAt (v : Slice) (set : Nat) : HcCtl := tget (fun _ => {}) v.hcCtl set

def Slice.setTag (v : Slice) (set slot : Nat) (t : HcTag) : Slice :=
  { v with hcTag := tset (fun _ => {}) (tagAddr set slot) t v.hcTag }.heal 1 (tagAddr set slot)
def Slice.setData (v : Slice) (set way i : Nat) (w : W64) : Slice :=
  { v with hcData := tset (fun _ => 0) (dataAddr set way i) w v.hcData }.heal 2 (dataAddr set way i)
def Slice.setCtl (v : Slice) (set : Nat) (c : HcCtl) : Slice :=
  { v with hcCtl := tset (fun _ => {}) set c v.hcCtl }.heal 3 set

/-- Whether lookups find lines in the bank (R227). -/
def BankSt.serves : BankSt → Bool
  | .on | .draining => true
  | .off | .ready => false

/-- The slot that holds a line, whatever the bank's state. -/
def Slice.slotOf (v : Slice) (l : LAddr) : Option Nat :=
  leastBelow (fun t => (v.tagAt (hcSet l) t).hst != hsInvalid && (v.tagAt (hcSet l) t).ltag == hcLtag l) 32

/-- The slot in which a lookup finds a line (R227). -/
def Slice.hitSlot (v : Slice) (l : LAddr) : Option Nat := if v.bank.serves then v.slotOf l else none

/-- The data of a slot, decoded (R205, R210). -/
def Slice.lineAt (v : Slice) (set slot : Nat) : Line :=
  let t := v.tagAt set slot
  if t.hst = hsPoisoned ∨ t.hst = hsZero then 0
  else loadWords t.fmt ((slotWords slot t.fmt).map (v.dataAt set (slot / 2)))

/-- The resident line as it is read: its data, poisoned when it is Poisoned (R205). -/
def Slice.readSlot (v : Slice) (set slot : Nat) : LineBuf :=
  .whole (v.lineAt set slot) ((v.tagAt set slot).hst == hsPoisoned)

/-- Whether a line is home-held here (R60). -/
def Slice.homeHeld (v : Slice) (l : LAddr) : Bool :=
  match v.hitSlot l with
  | some t => (v.tagAt (hcSet l) t).hh
  | none => false

/-- Writes the stored words of a line. -/
def Slice.storeData (v : Slice) (set slot : Nat) (d : Line) (f : BitVec 2) : Slice :=
  ((slotWords slot f).zip (storedWords d f)).foldl (fun v p => v.setData set (slot / 2) p.1 p.2) v

/-! ### Dirty lines and the mirror (R208, R222, R224) -/

/-- Adds to the instance's count of Dirty lines (R208). -/
def State.dirtyUp (s : State) : State := { s with rst := { s.rst with dirty := s.rst.dirty + 1 } }
def State.dirtyDown (s : State) : State := { s with rst := { s.rst with dirty := s.rst.dirty - 1 } }

/-- Reads the control word of a set (R234). -/
def readCtl (k set acc : Nat) (s : State) : State :=
  let v := s.slice k
  let lost := match v.errAt 3 set with
    | some x => !x.single
    | none => decide ((v.ctlAt set).dcnt.toNat > 16)
  if lost then
    let n := ((List.range 32).filter (fun t => (v.tagAt set t).hst == hsDirty)).length
    let s := s.setSlice k (v.setCtl set { lock := 0xFFFF, nru := 0, rot := 0, dcnt := BitVec.ofNat 5 n })
    raise { src := 0x04, detail := .array 3 set k 1, acc := acc } s
  else if (v.errAt 3 set).isSome then correctWord k 3 set acc s
  else s

/-- Writes a tag, keeping DCNT of the set, which is read first, and the instance's count (R208, R222, R234). -/
def writeTag (k set slot : Nat) (t : HcTag) (s : State) : State :=
  let was := ((s.slice k).tagAt set slot).hst == hsDirty
  let will := t.hst == hsDirty
  if was = will then s.modSlice k (fun v => v.setTag set slot t)
  else
    let s := (readCtl k set accInt s).modSlice k (fun v =>
      let c := v.ctlAt set
      (v.setTag set slot t).setCtl set { c with dcnt := if will then c.dcnt + 1 else c.dcnt - 1 })
    if will then s.dirtyUp else s.dirtyDown

/-- Whether the buddy keeps the mirror of slice `k` now (R226). -/
def State.buddyMirrors (s : State) (k : Nat) : Bool :=
  let b := s.slice (buddy k)
  !b.wrapper && (decide (b.st = .on) || decide (b.st = .poweringUp) || decide (b.st = .poweringDown))

/-- Tells the buddy that a slot holds a Dirty line; transaction `e` waits for the answer (R224). -/
def mirrorSet (k set slot : Nat) (ltag : BitVec 35) (e : Nat) (s : State) : State :=
  s.sliceToSlice k (buddy k) .rsp (.mirrorSet set (BitVec.ofNat 5 slot) ltag e)

/-- Tells the buddy that a slot no longer holds a Dirty line (R224). -/
def mirrorClr (k set slot : Nat) (ltag : BitVec 35) (s : State) : State :=
  if s.buddyMirrors k then s.sliceToSlice k (buddy k) .rsp (.mirrorClr set (BitVec.ofNat 5 slot) ltag) else s

/-- Write-through ends once the scan has finished, the buddy is in service again and no Dirty line is left, victims included
(R226, R502). -/
def endWriteThrough (k : Nat) (s : State) : State :=
  let v := s.slice k
  let b := s.slice (buddy k)
  if v.wt226 && !v.wtScan && decide (b.st = .on) && !b.wrapper && !(v.hcTag.any (fun x => x.2.hst == hsDirty)) && v.victims.isEmpty then
    s.setSlice k { v with wt226 := false }
  else s

/-! ### The memory ports (R339 to R342) -/

/-- The memory port of a line of this instance (R32). -/
def State.memPortOf (s : State) (l : LAddr) : Nat :=
  match homeOf s.map.active l with
  | some p => p.2
  | none => 0

/-- Queues a command at a memory port. -/
def State.memQueue (s : State) (c : MemCmd) : State :=
  s.modMp (s.memPortOf c.laddr) (fun m =>
    { m with held := m.held ++ [{ c with heldFrom := some s.now }]
             heldFrom := if m.sr && m.heldFrom.isNone then some s.now else m.heldFrom })

/-- Queues an MRd of slice `k` for transaction `e` (R80). -/
def memRead (k e : Nat) (l : LAddr) (cidx : BitVec 2) (specu : Bool) (s : State) : State :=
  (s.modSlice k (fun v => let v := v.count 0x40 1; if specu then v.count 0x41 1 else v)).memQueue
    { write := false, laddr := l, cidx := cidx, slice := k, owner := .txn e }

/-- Queues an MWr of a whole line of slice `k`; a poisoned line is written as zero bytes with poison (R342). -/
def memWrite (k : Nat) (owner : MemFor) (l : LAddr) (d : Line) (poison : Bool) (s : State) : State :=
  (s.modSlice k (fun v => v.count 0x43 1)).memQueue
    { write := true, laddr := l, data := if poison then 0 else d, poison := poison, slice := k, owner := owner }

/-- Queues an MWr that leaves its line resident: the line waits for the acknowledgement of this write (R541). -/
def memWriteThru (k : Nat) (owner : MemFor) (l : LAddr) (d : Line) (poison : Bool) (s : State) : State :=
  let n := (s.slice k).nextWr
  (s.modSlice k (fun v => Slice.count 0x43 1 { v with thru := v.thru ++ [(l, n)], nextWr := n + 1 })).memQueue
    { write := true, laddr := l, data := if poison then 0 else d, poison := poison, slice := k, owner := owner, num := n }

/-- Queues an MWrP of slice `k` (R79). -/
def memWriteP (k : Nat) (owner : MemFor) (l : LAddr) (d : Line) (be : BitVec 64) (s : State) : State :=
  (s.modSlice k (fun v => v.count 0x43 1)).memQueue
    { write := true, partialW := true, laddr := l, data := d, be := be, slice := k, owner := owner }

/-! ### Leaving the cache -/

/-- Drops the line of a slot; a Dirty one is also cleared from the mirror (R224). -/
def dropSlot (k set slot : Nat) (s : State) : State :=
  let t := (s.slice k).tagAt set slot
  let s := writeTag k set slot {} s
  if t.hst = hsDirty then mirrorClr k set slot t.ltag s else s

/-- A resident line whose data is lost becomes Poisoned: an MWr with poison for `owner`, its mirror entry cleared (R206, R234). -/
def poisonSlot (k set slot acc : Nat) (owner : MemFor) (s : State) : State :=
  let t := (s.slice k).tagAt set slot
  let l := hcLine set t.ltag
  let s := writeTag k set slot { t with hst := hsPoisoned, fmt := fmtNone, hh := false } s
  let s := mirrorClr k set slot t.ltag s
  let s := s.modSlice k (fun v => { v with thru := v.thru.filter (fun x => x.1 != l) })
  let s := memWrite k owner l 0 true s
  raise { src := 0x06, detail := .line l k noAid, acc := acc } s

/-- Whether the data of a Dirty line in a slot is lost (R234). -/
def Slice.dataLost (v : Slice) (set slot : Nat) : Bool :=
  let t := v.tagAt set slot
  decide (t.hst = hsDirty) && (slotWords slot t.fmt).any (fun i => (v.errAt 2 (dataAddr set (slot / 2) i)).any (fun x => !x.single))

/-- Reads the stored data of the line in a slot: corrected, refetched or poisoned (R234). -/
def readData (k set acc : Nat) (owner : MemFor) (s : State) (slot : Nat) : State :=
  let v := s.slice k
  let t := v.tagAt set slot
  if t.hst = hsInvalid then s
  else
    let ws := slotWords slot t.fmt
    let bad (i : Nat) : Bool := match v.errAt 2 (dataAddr set (slot / 2) i) with
      | some x => !x.single
      | none => false
    if ws.any bad then
      if t.hst = hsDirty then poisonSlot k set slot acc owner s
      else
        let s := dropSlot k set slot s
        raise { src := 0x05, detail := .line (hcLine set t.ltag) k noAid, acc := acc } s
    else
      s.each (ws.filter (fun i => (v.errAt 2 (dataAddr set (slot / 2) i)).isSome)) (fun s i =>
        correctWord k 2 (dataAddr set (slot / 2) i) acc s)

/-- A Dirty line becomes a victim: it takes a victim entry, its data a buffer, and its MWr is queued; the mirror names
it until the write is acknowledged (R116, R216, R461). -/
def victimize (k set slot : Nat) (cmd : Option Nat) (s : State) : State :=
  let v := s.slice k
  let l := hcLine set (v.tagAt set slot).ltag
  let d := v.lineAt set slot
  let e := v.freeEntry
  let s := writeTag k set slot {} s
  let s := s.modSlice k (fun v =>
    Slice.count 0x36 1 { v with victims := v.victims ++ [{ e := e, laddr := l, data := d, set := set, slot := slot, cmd := cmd }] })
  memWrite k (.victim e) l d false s

/-- Entries of the victim share that are held: victims, and write-backs of range commands (R109, R116, R232). -/
def State.victimUse (s : State) (k : Nat) : Nat :=
  let ranged (c : MemCmd) : Bool := c.slice == k && (match c.owner with
    | .range _ => true
    | .txn _ | .victim _ | .through | .prep _ | .poison | .salvage => false)
  (s.slice k).victims.length + lsum ((List.range s.gh.memPorts).map (fun p => (((s.mp p).held ++ (s.mp p).outst).filter ranged).length))

/-- Whether the victim share of a slice has a free entry (R109). -/
def State.victimFree (s : State) (k : Nat) : Bool := decide (s.victimUse k < 16)

/-- Takes a resident line out of the cache: a Dirty one by a victim write of its data as it is read, any other, one that turns out to be
lost among them, by dropping it (R216, R234). -/
def evictFor (k set slot : Nat) (cmd : Option Nat) (s : State) : State :=
  let t := (s.slice k).tagAt set slot
  if t.hst = hsInvalid then s
  else
    let s := s.modSlice k (fun v => { v with thru := v.thru.filter (fun x => x.1 != hcLine set t.ltag) })
    if t.hst ≠ hsDirty then dropSlot k set slot s
    else
      let s := readData k set accInt .poison s slot
      if ((s.slice k).tagAt set slot).hst = hsDirty then victimize k set slot cmd s else dropSlot k set slot s

def evictSlot (k set slot : Nat) (s : State) : State := evictFor k set slot none s

/-- Evicts both slots of a way (R215). -/
def evictWay (k set way : Nat) (s : State) : State := evictSlot k set (2 * way + 1) (evictSlot k set (2 * way) s)

/-! ### Placement (R214 to R220) -/

/-- Whether a way is locked (R214). -/
def Slice.locked (v : Slice) (set way : Nat) : Bool := (v.ctlAt set).lock.getLsbD way

/-- Whether a way is pinned: a line in it has an active transaction past its lookup (R214). -/
def Slice.hcPinned (v : Slice) (set way : Nat) : Bool :=
  let has (slot : Nat) : Bool :=
    (v.tagAt set slot).hst != hsInvalid &&
      v.txns.any (fun t => t.looked && t.l == hcLine set (v.tagAt set slot).ltag)
  has (2 * way) || has (2 * way + 1)

/-- The eligible ways of a set (R214). -/
def Slice.eligible (v : Slice) (set : Nat) : List Nat :=
  (List.range 16).filter (fun w => !(v.locked set w) && !(v.hcPinned set w))

/-- Whether a slot holds a line that satisfies `p`. -/
def Slice.slotIs (v : Slice) (set slot : Nat) (p : HcTag → Bool) : Bool :=
  (v.tagAt set slot).hst != hsInvalid && p (v.tagAt set slot)

/-- The victim way of a set (R217). -/
def Slice.hcVictim (v : Slice) (nruMode : Bool) (set : Nat) : Option Nat :=
  let e := v.eligible set
  let aged (w : Nat) : Bool := v.slotIs set (2 * w) (fun t => t.age) || v.slotIs set (2 * w + 1) (fun t => t.age)
  let a := e.filter aged
  if !nruMode then searchFrom (fld v.lfsr 0 4) (if a.isEmpty then e else a) (fun _ => true)
  else
    let c := e.filter (fun w => !((v.ctlAt set).nru.getLsbD w))
    let c := if c.isEmpty then e else c
    let c := if (c.filter aged).isEmpty then c else c.filter aged
    let dirty (w : Nat) : Bool := v.slotIs set (2 * w) (fun t => t.hst == hsDirty) || v.slotIs set (2 * w + 1) (fun t => t.hst == hsDirty)
    let clean := c.filter (fun w => !(dirty w))
    searchFrom (v.ctlAt set).rot.toNat (if clean.isEmpty then c else clean) (fun _ => true)

/-- Where a placement puts its line (R215). -/
inductive Spot where
  | slot (n : Nat)
  | evict (way : Nat)
  | bypass
  deriving DecidableEq, Repr

/-- Whether the rewrite of a resident line in its slot is allowed (R215). -/
def Slice.inPlace (v : Slice) (set slot : Nat) (f : BitVec 2) : Bool :=
  let pair := slot ^^^ 1
  let stored (t : HcTag) : Bool := t.fmt == fmtFull || t.fmt == fmtDelta
  decide (fmtSize f ≤ fmtSize (v.tagAt set slot).fmt) ||
  (f == fmtFull && !(v.slotIs set pair stored)) || (f == fmtDelta && !(v.slotIs set pair (fun t => t.fmt == fmtFull)))

/-- The first Invalid slot of an unlocked way that takes a line of format `f` (R215). -/
def Slice.freeSlot (v : Slice) (set : Nat) (f : BitVec 2) : Option Nat :=
  let open_ (t : Nat) : Bool := (v.tagAt set t).hst == hsInvalid && !(v.locked set (t / 2))
  let pairIs (t : Nat) (p : HcTag → Bool) : Bool := v.slotIs set (t ^^^ 1) p
  if f = fmtNone then leastBelow open_ 32
  else if f = fmtDelta then
    match leastBelow (fun t => open_ t && pairIs t (fun x => x.fmt == fmtDelta)) 32 with
    | some t => some t
    | none => leastBelow (fun t => open_ t && !(pairIs t (fun x => x.fmt != fmtNone))) 32
  else
    leastBelow (fun t => open_ t && !(pairIs t (fun x => x.fmt != fmtNone))) 32

/-- Where a line of a format goes, once its own resident copy has been rewritten or invalidated (R215). -/
def Slice.spotFor (v : Slice) (nruMode : Bool) (set : Nat) (f : BitVec 2) (newDirty : Bool) : Spot :=
  if newDirty && decide (16 ≤ (v.ctlAt set).dcnt.toNat) then .bypass
  else
    match v.freeSlot set f with
    | some t => .slot t
    | none =>
      match v.hcVictim nruMode set with
      | some w => .evict w
      | none => .bypass

/-- The whole choice of R215: whether the line's present slot is invalidated first, and where it goes. DESIGN CHOICE (log 36): the limit of 16 Dirty
lines in a set (R222, R223) holds for the rewrite in place as well: a line that it would make the 17th leaves the cache and bypasses. -/
def Slice.choose (v : Slice) (nruMode : Bool) (l : LAddr) (f : BitVec 2) (dirty : Bool) : Bool × Spot :=
  let set := hcSet l
  match v.slotOf l with
  | none => (false, v.spotFor nruMode set f dirty)
  | some t =>
    let was := (v.tagAt set t).hst == hsDirty
    if v.inPlace set t f && !(dirty && !was && decide (16 ≤ (v.ctlAt set).dcnt.toNat)) then (false, .slot t)
    else
      let v' := (v.setTag set t {})
      let c := v'.ctlAt set
      let v' := if was then v'.setCtl set { c with dcnt := c.dcnt - 1 } else v'
      (true, v'.spotFor nruMode set f (dirty && !was))

/-- Dirty lines that a placement would evict: the victim entries it needs (R110). -/
def Slice.victimsNeeded (v : Slice) (set : Nat) : Spot → Nat
  | .evict w => b2n ((v.tagAt set (2 * w)).hst == hsDirty) + b2n ((v.tagAt set (2 * w + 1)).hst == hsDirty)
  | .slot _ | .bypass => 0

/-- What a line is placed as. -/
structure Fill where
  data : Line
  hst : BitVec 3
  fmt : BitVec 2
  hh : Bool := false
  age : Bool := false
  sfl : Bool := false
  deriving DecidableEq, Repr

/-- The placement of clean data: Zero when every byte is zero, Poisoned when poisoned (R204, R209). -/
def cleanFill (b : LineBuf) (age sfl : Bool) : Fill :=
  if b.poison then { data := 0, hst := hsPoisoned, fmt := fmtNone, age := age, sfl := sfl }
  else if formatOf b.data = fmtNone then { data := 0, hst := hsZero, fmt := fmtNone, age := age, sfl := sfl }
  else { data := b.data, hst := hsClean, fmt := formatOf b.data, age := age, sfl := sfl }

/-- The placement of dirty data (R204, R209). -/
def dirtyFill (d : Line) (hh : Bool) : Fill := { data := d, hst := hsDirty, fmt := formatOf d, hh := hh }

/-- Event of a placement's format (R518). -/
def fillEvent (f : BitVec 2) : Nat := if f = fmtFull then 0x32 else if f = fmtDelta then 0x33 else 0x34

/-- Places a line in a slot: data, tag, NRU bit (R215, R219, R220). -/
def writeSlot (k : Nat) (l : LAddr) (f : Fill) (slot : Nat) (s : State) : State :=
  let set := hcSet l
  let s := s.modSlice k (fun v => v.storeData set slot f.data f.fmt)
  let s := writeTag k set slot { ltag := hcLtag l, hst := f.hst, fmt := f.fmt, hh := f.hh, age := f.age, sfl := f.sfl } s
  s.modSlice k (fun v =>
    let c := v.ctlAt set
    let v := if f.age then v else v.setCtl set { c with nru := nruSet c.nru (slot / 2) }
    let v := { v with thru := v.thru.filter (fun x => x.1 != l) }
    let v := if f.sfl then { v with calib := { v.calib with sfill := satAdd v.calib.sfill 1 } } else v
    v.count (fillEvent f.fmt) 1)

/-- The outcome of a placement: the slot, whether the line was Dirty in that slot before; none when it bypassed. -/
structure Placed where
  slot : Option Nat
  wasDirty : Bool
  state : State

/-- Invalidates the present slot of a line that moves (R215). -/
def freeOld (k set : Nat) (old : Option Nat) (moved : Bool) (s : State) : State :=
  match old with
  | some t => if moved then writeTag k set t {} s else s
  | none => s

/-- Puts a line in the spot that was chosen for it. Its present slot `old` is invalidated first when it is `moved`; a Dirty line that
leaves the cache so is cleared from the mirror (R215, R224). -/
def placeAt (k : Nat) (l : LAddr) (f : Fill) (old : Option Nat) (moved : Bool) (spot : Spot) (s : State) : Placed :=
  let set := hcSet l
  let dirtyAt (t : Nat) : Bool := ((s.slice k).tagAt set t).hst == hsDirty
  let freed := freeOld k set old moved s
  match spot with
  | .slot t => { slot := some t, wasDirty := old == some t && dirtyAt t, state := writeSlot k l f t freed }
  | .evict w =>
    let s := evictWay k set w freed
    let s := if s.pol.nru then s.modSlice k (fun v => v.setCtl set { v.ctlAt set with rot := BitVec.ofNat 4 (w + 1) }) else s
    { slot := some (2 * w), wasDirty := false, state := writeSlot k l f (2 * w) s }
  | .bypass =>
    let s := freed.modSlice k (fun v => v.count 0x35 1)
    let s := match old with
      | some t => if moved && dirtyAt t then mirrorClr k set t (hcLtag l) s else s
      | none => s
    { slot := none, wasDirty := false, state := s }

/-- Runs the placement of R215, on the control word of the set as it is read (R234). -/
def placeLine (k : Nat) (l : LAddr) (f : Fill) (s : State) : Placed :=
  let s := readCtl k (hcSet l) accInt s
  let v := s.slice k
  let c := v.choose s.pol.nru l f.fmt (f.hst == hsDirty)
  placeAt k l f (v.slotOf l) c.1 c.2 s

/-- A lookup that hits: NRU bit set, AGE and SFL cleared, SHIT counted (R219). -/
def touchHit (k : Nat) (l : LAddr) (slot : Nat) (s : State) : State :=
  let set := hcSet l
  s.modSlice k (fun v =>
    let t := v.tagAt set slot
    let v := v.setTag set slot { t with age := false, sfl := false }
    let c := v.ctlAt set
    let v := v.setCtl set { c with nru := nruSet c.nru (slot / 2) }
    if t.sfl then { v with calib := { v.calib with shit := satAdd v.calib.shit 1 } } else v)

/-- Makes a resident line Clean or Zero after its write-back is acknowledged (R541). -/
def cleanSlot (k : Nat) (l : LAddr) (s : State) : State :=
  let set := hcSet l
  match (s.slice k).slotOf l with
  | none => s
  | some t =>
    let x := (s.slice k).tagAt set t
    if x.hst = hsDirty then
      mirrorClr k set t x.ltag (writeTag k set t { x with hst := if x.fmt = fmtNone then hsZero else hsClean } s)
    else s

/-- Clears the home-held mark of a resident line (R74). -/
def clearHeld (k : Nat) (l : LAddr) (s : State) : State :=
  match (s.slice k).slotOf l with
  | none => s
  | some t => s.modSlice k (fun v => v.setTag (hcSet l) t { v.tagAt (hcSet l) t with hh := false })

/-! ### Array errors (R225, R234) -/

/-- Slice `k` reads the entries of a mirror set: a single-bit error is corrected, for an uncorrectable one the buddy is asked to refresh
the set (R225). -/
def readMirror (k set acc : Nat) (s : State) : State :=
  s.each (List.range 16) (fun s i =>
    match (s.slice k).errAt 4 (set * 16 + i) with
    | some x =>
      if x.single then correctWord k 4 (set * 16 + i) acc s
      else s.modSlice k (fun v => { v with refresh := if v.refresh.contains set then v.refresh else v.refresh ++ [set] })
    | none => s)

/-- The entries of a mirror set that were read without an uncorrectable error (R225). -/
def Slice.mirrorSet (v : Slice) (set : Nat) : List MirEnt :=
  ((List.range 16).filter (fun i => (v.errAt 4 (set * 16 + i)).isNone)).map (fun i => tget (fun _ => {}) v.mirror (set * 16 + i))

/-- An uncorrectable tag: the slot is freed; when the buddy's mirror names it, a home flow poisons that line (R225, R234). -/
def lostTag (k set slot acc : Nat) (s : State) : State :=
  let s := readMirror (buddy k) set acc (writeTag k set slot {} s)
  let m := (s.slice (buddy k)).mirrorSet set
  let victim (e : MirEnt) : Bool := (s.slice k).victims.any (fun x => x.laddr == hcLine set e.ltag)
  match m.find? (fun e => e.v && e.slot.toNat == slot && !(victim e)) with
  | none => s
  | some e =>
    let l := hcLine set e.ltag
    let s := s.modSlice k (fun v =>
      v.enter { e := v.freeEntry, kind := .mirrorTag, q := { laddr := l }, settled := true, use := .nothing,
                what := .poison, pdata := .whole 0 true, place := .due, cmpSent := true })
    let s := mirrorClr k set slot e.ltag s
    raise { src := 0x06, detail := .line l k noAid, acc := acc } s

/-- Reads one tag (R234). -/
def readTag (k set acc : Nat) (s : State) (slot : Nat) : State :=
  let v := s.slice k
  match v.errAt 1 (tagAddr set slot) with
  | some x => if x.single then correctWord k 1 (tagAddr set slot) acc s else lostTag k set slot acc s
  | none => if (v.tagAt set slot).valid then s else lostTag k set slot acc s

/-- Whether a tag is read as uncorrectable (R204, R234). -/
def Slice.tagBad (v : Slice) (set slot : Nat) : Bool :=
  match v.errAt 1 (tagAddr set slot) with
  | some x => !x.single
  | none => !(v.tagAt set slot).valid

/-- The sets of a bank with a tag or control word that is not read as it was written, or that no table names (R204, R234). -/
def Slice.faultySets (v : Slice) : List Nat :=
  let es := v.errs.filterMap (fun e => if e.array = 1 then some (e.addr / 32) else if e.array = 3 then some e.addr else none)
  let ts := (v.hcTag.filter (fun x => !x.2.valid)).map (fun x => x.1 / 32)
  let cs := (v.hcCtl.filter (fun x => decide (x.2.dcnt.toNat > 16))).map (fun x => x.1)
  ascending (es ++ ts ++ cs)

/-- A scan reads every tag and control word of a bank; where the flows that a set would start find the home-flow share full, that set is left
for a later read (R109, R234). -/
def hcScan (k acc : Nat) (s : State) : State :=
  if (s.slice k).bank = .off then s
  else
    s.each (s.slice k).faultySets (fun s set =>
      let bad := ((List.range 32).filter ((s.slice k).tagBad set)).length
      if 16 < s.homeUse k + bad then s else readCtl k set acc (s.each (List.range 32) (readTag k set acc)))

/-- Whether a lookup of a line must wait for the home-flow share: the flows that its reads would start find no free entry
(R110, R164, R234). -/
def State.readWaits (s : State) (k : Nat) (l : LAddr) : Bool :=
  let v := s.slice k
  let a := ((List.range 16).filter (v.sfBad (sfSet l))).length
  let b := if v.bank.serves then ((List.range 32).filter (v.tagBad (hcSet l))).length else 0
  decide (0 < a + b) && decide (16 < s.homeUse k + a + b)

/-- The reads of a home-cache lookup: the tags and the control word of the set, and the data of the line; `owner`: what a poison write works
for (R234). -/
def hcReadFor (k : Nat) (l : LAddr) (acc : Nat) (owner : MemFor) (s : State) : State :=
  if (s.slice k).bank.serves then
    let set := hcSet l
    let s := readCtl k set acc (s.each (List.range 32) (readTag k set acc))
    match (s.slice k).slotOf l with
    | some t => readData k set acc owner s t
    | none => s
  else s

end Sys2Proof.Machine
end

