-- ==== Sys2Proof/Machine/Credits.lean ====
section
/-! DEFINITION. Sys2Proof/Machine/Credits.lean: the credits of ingress points and slices (08), what an ingress point
has waiting, and which agents cannot be reached (R127 to R130). -/

namespace Sys2Proof.Machine

/-! ### Buffers of the mesh (R264, R265) -/

/-- Entries of a buffer (R264). -/
def vcDepth : VC → Nat
  | .req | .snp => 16
  | .rsp | .dat => 32
  | .gt => 16
  | .mgt | .err => 4

/-- Whether a packet travels on the data lane. A request travels with its data on the control lane (log 11). -/
def Pkt.onData (p : Pkt) : Bool :=
  decide (p.vc = .dat) ||
  (decide (p.vc = .gt) && (match p.msg with
    | .dat .. | .sfCopy .. => true
    | .req .. | .snp .. | .rsp .. | .cmpAck .. | .cmp .. | .cmpErr .. | .wbAck .. | .credit .. | .creditBack .. | .mirrorSet .. | .mirrorClr ..
    | .mirrorAck .. | .marker .. | .snpMarker .. | .hub _ => false))

/-- The packets at an input of a router, and behind them, at a local input, those that wait at the sender for a credit. -/
def State.inputBuf (s : State) (n ip : Nat) (vc : VC) : List Pkt := tget (fun _ => []) s.mesh.inBuf (bufKey n ip vc)

/-! ### Ingress points -/

/-- The ingress points of an instance, in ingress order (R249). -/
def State.ingresses (s : State) : List Nat :=
  List.range s.gh.caPorts ++ (List.range s.gh.ridgePorts).map (fun r => 128 + r)

/-- The requests waiting at an ingress point (R47). -/
def State.ingressOf (s : State) (i : Nat) : List IngEntry := if i < 128 then (s.ca i).ingress else (s.link (i - 128)).ingress

def State.setIngress (s : State) (i : Nat) (l : List IngEntry) : State :=
  if i < 128 then s.modCa i (fun c => { c with ingress := l }) else s.modLink (i - 128) (fun r => { r with ingress := l })

/-- The credits an ingress point holds for slice `k` (R245). -/
def State.credAt (s : State) (i k : Nat) : SlCred :=
  tget (fun _ => {}) (if i < 128 then (s.ca i).cred else (s.link (i - 128)).cred) k

def State.setCredAt (s : State) (i k : Nat) (c : SlCred) : State :=
  if i < 128 then s.modCa i (fun x => { x with cred := tput k c x.cred })
  else s.modLink (i - 128) (fun x => { x with cred := tput k c x.cred })

/-- Whether every chunk of an entry's data has arrived (R328). -/
def IngEntry.whole (x : IngEntry) : Bool := x.d.got &&& x.q.op.chunks == x.q.op.chunks

/-- The shingle of a waiting request. -/
def IngEntry.sh (x : IngEntry) : Nat := shingleOf x.q.laddr

/-- Whether a waiting request is for a slice of this instance; `peer` names another instance (R34). -/
def IngEntry.local (x : IngEntry) : Bool := x.peer.isNone

/-- Whether an entry waits at an ingress point for slice `k` now: not held at a fence (R46, R247). -/
def State.waitsFor (s : State) (k : Nat) (x : IngEntry) : Bool := x.local && !(s.fencedAt x.sh) && s.homeSlice x.sh == k

/-- Whether a waiting entry has a tracker credit to spend (R241, R247). Writebacks need none (R240). -/
def SlCred.tracker (c : SlCred) (x : IngEntry) : Bool :=
  x.q.op.isWb || decide (0 < c.any) || decide (0 < c.shared) || (x.isGt && decide (0 < c.gt))

/-- Whether a waiting entry has a WB credit to spend (R243). -/
def SlCred.data (c : SlCred) (x : IngEntry) : Bool := !x.q.op.takesWb || decide (0 < c.wb) || decide (0 < c.grant)

/-- Whether an ingress point holds credits: a port that is ACTIVE or QUIESCING, a link that is JOINED or RETRAINING (R246). -/
def State.holdsCredits (s : State) (i : Nat) : Bool :=
  if i < 128 then decide ((s.ca i).st = .active) || decide ((s.ca i).st = .quiescing)
  else (s.link (i - 128)).carries

/-- The requests of ingress point `i` that wait for slice `k`. -/
def State.waitingFor (s : State) (k i : Nat) : List IngEntry := (s.ingressOf i).filter (s.waitsFor k)

/-- What ingress point `i` reports of its requests `w` for a slice: set when one lacks a credit, cleared when none waits, else as before
(R249). -/
def demandOf (w : List IngEntry) (has : IngEntry → Bool) (was : Bool) : Bool := w.any (fun x => !(has x)) || (was && !w.isEmpty)

/-! ### Agents that cannot be reached -/

/-- The ridge port towards instance `i`: a JOINED link, else one that retrains since it was JOINED (R288, R292). -/
def State.pathTo (s : State) (i : Nat) : Option Nat :=
  match s.routeTo i with
  | some r => some r
  | none => leastBelow (fun r => (s.link r).carries && (s.link r).peerV && (s.link r).peer.toNat == i) s.gh.ridgePorts

/-- The ingress point through which an agent is reached: its CA port, or 128 + the ridge port towards its instance. -/
def State.wayTo (s : State) (a : Aid) : Option Nat :=
  match s.agentAt a with
  | none => none
  | some (i, c) => if i = s.self then some c else (s.pathTo i).map (fun r => 128 + r)

/-- Whether no CmpAck can come from an agent: its entry is gone, or its port or link is (R127, R129). -/
def State.ackless (s : State) (a : Aid) : Bool :=
  s.pkg.unreach.contains a ||
  (match s.wayTo a with
   | none => true
   | some i => decide (i < 128) && (decide ((s.ca i).st = .isolated) || decide ((s.ca i).st = .quiesced)))

/-- Whether the port of a peer's agent is QUIESCING: the slices have a fence marker for it (R290, R337). -/
def State.quiescingAt (s : State) (a : Aid) : Bool :=
  match s.agentAt a with
  | some (i, cap) => (List.range s.gh.slices).any (fun k => (s.slice k).marks.any (fun m => m.1.toNat == i && m.2.1 == cap))
  | none => false

/-- Whether snoops to an agent are resolved at once (R127, R128, R336, R337). -/
def State.unreachable (s : State) (a : Aid) : Bool :=
  s.pkg.unreach.contains a ||
  (match s.wayTo a with
   | none => true
   | some i => if i < 128 then decide ((s.ca i).st ≠ .active) else s.quiescingAt a)

/-- Snoop credits a slice holds for an ingress point: 2 for a CA port, 8 for a ridge port (R251). -/
def snpLimit (i : Nat) : Nat := if i < 128 then 2 else 8

/-- Whether slice `k` holds a snoop credit for an ingress point. -/
def Slice.hasSnp (v : Slice) (i : Nat) : Bool := decide (tget (fun _ => 0) v.snpCred i < snpLimit i)

/-! ### Granting -/

def Pool.of (p : Pool) (i : Nat) : Nat := tget (fun _ => 0) p.held i
def Pool.total (p : Pool) : Nat := lsum (p.held.map (fun x => x.2))
def Pool.add (p : Pool) (i : Nat) : Pool := { p with held := tput i (p.of i + 1) p.held, last := i }
def Pool.sub (p : Pool) (i : Nat) : Pool := { p with held := tput i (p.of i - 1) p.held }

/-- CAP[i] for shared credits and for data grants (R243, R249). -/
def capShared (i : Nat) : Nat := if i < 128 then 64 else 256
def capGrant (i : Nat) : Nat := if i < 128 then 8 else 32

/-- Buffers of the transaction pool of a slice (R242). -/
def Gh.txnPool (g : Gh) : Nat := 512 - g.wbBuffers - 16

/-- Free buffers of the transaction pool. -/
def State.freeBufs (s : State) (k : Nat) : Nat := s.gh.txnPool - (s.slice k).bufUsed - (s.slice k).grants.total

/-- Whether the transaction runs a broadcast (R167, R470). -/
def Txn.broadcasts (t : Txn) : Bool := t.eaves || t.kind == .openRes || t.kind == .lineRes

/-- The buffers that a waiting active transaction still needs: those of its lookup, or the one of a snoop of a broadcast that lacks nothing
else (R244). -/
def State.awaits (s : State) (k : Nat) (t : Txn) : Nat :=
  let ready (p : SnpTodo) : Bool := !(s.unreachable p.aid) && (match s.wayTo p.aid with
    | none => false
    | some i => (s.slice k).hasSnp i)
  if t.phase = .bufWait then t.bufs
  else b2n (t.broadcasts && decide (t.phase = .running) && decide (t.outs.length < 32) && t.todo.any ready)

/-- The buffers that waiting active transactions still need (R244, R249). -/
def State.bufsAwaited (s : State) (k : Nat) : Nat := lsum ((s.slice k).txns.map (s.awaits k))

/-- Whether another transaction that became active before `act` waits for buffers (R244). -/
def State.bufsAhead (s : State) (k e act : Nat) : Bool :=
  (s.slice k).txns.any (fun t => t.e != e && decide (t.act < act) && decide (0 < s.awaits k t))

/-- The next ingress point after the last one granted, in ingress order, that satisfies `p` (R249). -/
def nextAfter (order : List Nat) (last : Nat) (p : Nat → Bool) : Option Nat :=
  match (order.filter (fun i => decide (last < i))).find? p with
  | some i => some i
  | none => (order.filter (fun i => decide (i ≤ last))).find? p

/-- Sends `n` credits of a kind to an ingress point (R246, R250). -/
def sendCredits (k i : Nat) (c : CredKind) (n : Nat) (s : State) : State := if n = 0 then s else s.fromSlice k i .rsp 0 (.credit k c n)

/-- Sends one credit of a kind to an ingress point (R250). -/
def sendCredit (k i : Nat) (c : CredKind) (s : State) : State := sendCredits k i c 1 s

/-- The flags D[i] of a slice as its ingress points report now: for shared credits and for data grants (R249). -/
def noteDemand (k : Nat) (s : State) : State :=
  let shared (i : Nat) : Bool :=
    demandOf ((s.waitingFor k i).filter (fun x => !x.q.op.isWb)) (s.credAt i k).tracker ((s.slice k).shared.demand.contains i)
  let grants (i : Nat) : Bool :=
    demandOf ((s.waitingFor k i).filter (fun x => x.q.op.takesWb)) (s.credAt i k).data ((s.slice k).grants.demand.contains i)
  s.modSlice k (fun v =>
    { v with shared := { v.shared with demand := s.ingresses.filter shared }
             grants := { v.grants with demand := s.ingresses.filter grants } })

/-- grant() for shared credits (R249). -/
def grantShared (k : Nat) : Nat → State → State
  | 0, s => s
  | n + 1, s =>
    let p := (s.slice k).shared
    if p.total < s.gh.sharedPool then
      match nextAfter s.ingresses p.last (fun j => p.demand.contains j && decide (p.of j < capShared j)) with
      | none => s
      | some j => grantShared k n (sendCredit k j .shared (s.modSlice k (fun v => { v with shared := v.shared.add j })))
    else s

/-- grant() for data grants: at most 96 held at once, after the waiting transactions (R243, R249). -/
def grantData (k : Nat) : Nat → State → State
  | 0, s => s
  | n + 1, s =>
    let v := s.slice k
    if v.grants.total < 96 ∧ s.bufsAwaited k < s.freeBufs k then
      match nextAfter s.ingresses v.grants.last (fun j => v.grants.demand.contains j && decide (v.grants.of j < capGrant j)) with
      | none => s
      | some j => grantData k n (sendCredit k j .grant (s.modSlice k (fun v => { v with grants := v.grants.add j })))
    else s

/-- Both grant procedures of a slice, on what its ingress points report (R249). -/
def grantRun (k : Nat) (s : State) : State :=
  if s.works k then grantData k 96 (grantShared k s.gh.sharedPool (noteDemand k s)) else s

/-- Returns the tracker credit of a closed entry; a guaranteed one stays at the slice while its ingress point holds no credits (R246,
R249). -/
def returnTracker (k i : Nat) (c : CredKind) (s : State) : State :=
  match c with
  | .gt | .any => if s.holdsCredits i then sendCredit k i c s else s
  | .shared => s.modSlice k (fun v => { v with shared := v.shared.sub i })
  | .none | .wb | .grant => s

/-- Returns a WB credit or data grant (R243, R246). -/
def returnWb (k i : Nat) (c : CredKind) (s : State) : State :=
  match c with
  | .wb => grantRun k (if s.holdsCredits i then sendCredit k i .wb s else s)
  | .grant => grantRun k (s.modSlice k (fun v => { v with grants := v.grants.sub i }))
  | .none | .gt | .any | .shared => s

/-- The span of R250 starts again for the credits that ingress point `i` holds for slice `k`. -/
def restartSpan (i k : Nat) (s : State) : State := 
  let c := s.credAt i k
  s.setCredAt i k { c with sharedFrom := List.replicate c.shared s.now, grantFrom := List.replicate c.grant s.now }

/-- The wait of a request at ingress point `i` for slice `k` has ended: when no other request waits there for the slice, the span of R250
starts. -/
def endWait (i k : Nat) (s : State) : State := if (s.waitingFor k i).isEmpty then restartSpan i k s else s

/-- The waits that have ended since `old`, by a fence or a new home (R46, R250). -/
def endWaits (old s : State) : State :=
  s.each s.ingresses (fun s i =>
    (old.ingressOf i).foldl (fun s x => if old.waitsFor (old.homeSlice x.sh) x then endWait i (old.homeSlice x.sh) s else s) s)

def Slice.takeSnp (v : Slice) (i : Nat) : Slice := { v with snpCred := tput i (tget (fun _ => 0) v.snpCred i + 1) v.snpCred }
def Slice.freeSnp (v : Slice) (i : Nat) : Slice := { v with snpCred := tput i (tget (fun _ => 0) v.snpCred i - 1) v.snpCred }

/-- Sends the fence markers of slice `k` for CA ports of peers that wait for a snoop credit, in order (R251, R290, R337). -/
def sendMarks (k : Nat) (s : State) : State :=
  (s.slice k).marks.foldl (fun s m =>
    match s.pathTo m.1.toNat with
    | some r =>
      if !m.2.2 && (s.slice k).hasSnp (128 + r) then
        let s := s.modSlice k (fun v =>
          let marks := lmodify (fun x => x == m) (fun x => (x.1, x.2.1, true)) v.marks
          Slice.takeSnp { v with marks := marks, markCred := v.markCred ++ [(m.1, m.2.1, 128 + r)] } (128 + r))
        s.fromSlice k (128 + r) .snp 0 (.snpMarker s.inst k m.2.1)
      else s
    | none => s) s

/-- A snoop credit of slice `k` returns; a fence marker that waited for it leaves (R251, R290). -/
def giveSnp (k i : Nat) (s : State) : State := sendMarks k (s.modSlice k (fun v => v.freeSnp i))

/-- The slot in which an agent's partition is marked GT: the class its packets travel in (R266). -/
def State.gtOf (s : State) (a : Aid) : Bool × Nat :=
  let p := (s.partOf a.toNat).toNat
  (s.prot.gtMask.getLsbD p, p)

end Sys2Proof.Machine
end

