-- ==== Sys2Proof/Machine/Engine.lean ====
section
/-! DEFINITION. Sys2Proof/Machine/Engine.lean: how a transaction of a slice goes on: its snoops and their answers, its
data, its completion and its snoop-filter outcome (03, 04). -/

namespace Sys2Proof.Machine

/-! ### What a transaction is -/

/-- Access type of a LINE event with this transaction behind it (R448). -/
def Txn.acc (t : Txn) : Nat :=
  match t.kind with
  | .req => t.q.op.acc
  | .wb => accWrite
  | .recover => accScrub
  | .backInv | .openRes | .lineRes | .flushLine | .linkClean | .mirrorTag => accSnoop

/-- The AID a LINE event names for the requester of a transaction. -/
def Txn.aidOf (t : Txn) : Aid :=
  match t.kind with
  | .req | .wb => t.q.aid
  | .backInv | .openRes | .lineRes | .flushLine | .linkClean | .mirrorTag | .recover => noAid

/-- A request that is answered with line data when it needs any (R73). -/
def ReqOp.reads : ReqOp → Bool
  | .rdShared | .rdUnique | .makeUnique | .rdNoSnoop => true
  | .cleanShared | .wrLine | .wrPartial | .evict | .wbDirty | .wbOwned
  | .atomAdd | .atomSwap | .atomCas | .atomAnd | .atomOr => false

/-- Whether MakeUnique is placed: the entry names the requester exactly (R75). -/
def SfEnt.names (e : SfEnt) (a : Aid) : Bool :=
  e.st != stFree && ((e.owned && e.own == a) || (e.isFine && e.ptrs.contains a))

/-- Whether the transaction needs none of the owner's data: a placed MakeUnique or a WrLine (R77, R129). -/
def Txn.spares (t : Txn) : Bool := t.kind == .req && ((t.q.op == .makeUnique && t.placed) || t.q.op == .wrLine)

/-- The shingle of a transaction's line. -/
def Txn.sh (t : Txn) : Nat := shingleOf t.l

/-- The transaction ID that messages of entry `e` of slice `k` carry (R61). -/
def State.htid (s : State) (k e : Nat) : BitVec 20 := htidOf s.self k e

/-! ### The snoops of a transaction (R74, R76, R86, R167, R470) -/

/-- Snoops to every holder (R74). -/
def State.invAll (s : State) (l : LAddr) (e : SfEnt) : List SnpTodo := e.ownerSnoop .inv ++ s.sharerSnoops l e .inv

/-- The broadcast to every present agent in the mask of a line's shingle (R167, R470). -/
def State.broadcast (s : State) (l : LAddr) : List SnpTodo :=
  (s.presentIn l).map (fun a => { aid := a, op := .inv, own := true })

/-- The snoops of a request on its entry (R74 to R76). -/
def State.planReq (s : State) (t : Txn) : List SnpTodo :=
  let e := t.ent
  let others (x : List SnpTodo) : List SnpTodo := x.filter (fun p => p.aid != t.q.aid)
  match t.q.op with
  | .rdShared => e.ownerSnoop .shared
  | .rdUnique => e.ownerSnoop .unique ++ s.sharerSnoops t.l e .inv
  | .makeUnique =>
    if t.placed then others (s.invAll t.l e) else e.ownerSnoop .unique ++ others (s.sharerSnoops t.l e .inv)
  | .cleanShared => e.ownerSnoop .clean
  | .wrLine | .wrPartial | .atomAdd | .atomSwap | .atomCas | .atomAnd | .atomOr => s.invAll t.l e
  | .rdNoSnoop | .evict | .wbDirty | .wbOwned => []

/-- The snoops of a transaction by its kind. -/
def State.plan (s : State) (t : Txn) : List SnpTodo :=
  match t.kind with
  | .req => s.planReq t
  | .backInv => s.invAll t.l t.ent
  | .openRes | .lineRes => s.broadcast t.l
  | .flushLine => t.ent.ownerSnoop .clean
  | .linkClean => if s.unreachable t.ent.own then t.ent.ownerSnoop .inv else []
  | .wb | .mirrorTag | .recover => []

/-- The key of the sampled lines of the current epoch (R175). -/
def State.sampleKey (s : State) : Nat := (s.ptcNow / (s.pol.epochMs * 1000000)) % 256

/-- Whether a line is sampled (R175). -/
def State.sampled (s : State) (l : LAddr) : Bool := (fld l 0 8 ^^^ fld l 8 8) == s.sampleKey

/-- The transactions that snoop an entry's whole snoop set (R74, R86). -/
def Txn.snoopsAll (t : Txn) : Bool :=
  match t.kind with
  | .backInv => true
  | .req =>
    match t.q.op with
    | .rdUnique | .makeUnique | .wrLine | .wrPartial | .atomAdd | .atomSwap | .atomCas | .atomAnd | .atomOr => true
    | .rdShared | .rdNoSnoop | .cleanShared | .evict | .wbDirty | .wbOwned => false
  | .wb | .openRes | .lineRes | .flushLine | .linkClean | .mirrorTag | .recover => false

/-- Whether a transaction runs the discovery: it snoops the snoop set of a COARSE entry of a sampled line (R176). -/
def State.discovers (s : State) (t : Txn) (todo : List SnpTodo) : Bool :=
  s.sampled t.l && decide (t.ent.st ≠ stFree) && !t.ent.isFine && !todo.isEmpty && t.snoopsAll

/-- First round of a discovery: SnpClean to every bundle-attributed member (R176). -/
def firstRound (todo : List SnpTodo) : List SnpTodo := todo.map (fun p => if p.attr then { p with op := .clean } else p)

/-- Responses of one transaction that bring line data to the home. -/
def Resp.brings (r : Resp) : Bool := !r.lost && (r.op == .rspIWb || r.op == .rspSWb)

/-- Chunks the transaction still waits for: four for each such response (R66). -/
def Txn.chunksDue (t : Txn) : Nat := 4 * (t.resps.filter Resp.brings).length

/-- Whether every snoop has been answered and its data has arrived (R83). -/
def Txn.answered (t : Txn) : Bool := t.todo.isEmpty && t.outs.isEmpty && decide (t.chunksDue ≤ t.nchunk)

/-- The owner's response. -/
def Txn.ownResp (t : Txn) : Option Resp := t.resps.find? (fun r => r.own)

/-- Whether the home has dirty data from a response: a line it received, or the poisoned line that stands for it. -/
def Txn.hasData (t : Txn) : Bool := t.rspd.full

/-! ### Data buffers (R244, R453) -/

/-- AGENT_POISON, AGENT_BREACH and the other LINE events about agent `a` and the line of a transaction (R76, R77, R129). -/
def agentEv (src k : Nat) (t : Txn) (a : Aid) : Ev := { src := src, detail := .line t.l k a, acc := t.acc }

/-- The words of the data buffers of entry `e`: 8 words each (R453, log 40). -/
def bufAddr (e w : Nat) : Nat := e * 8 + w

/-- A word of a data buffer is written: its old error is gone. -/
def Slice.wroteBuf (v : Slice) (e : Nat) (ws : List Nat) : Slice := ws.foldl (fun v w => v.heal 6 (bufAddr e w)) v

/-- Poisons what a line buffer holds (R71, R453). -/
def LineBuf.spoil (b : LineBuf) : LineBuf := if b.got = 0 then b else { b with poison := true }

/-- Poisons the lines that a transaction holds in its buffers (R71, R453). -/
def Txn.spoil (t : Txn) : Txn :=
  { t with line := t.line.spoil, rspd := t.rspd.spoil, wdata := t.wdata.spoil, pdata := t.pdata.spoil, spec := t.spec.spoil }

/-- Reads one word of the data buffer of entry `e`: a single-bit error is corrected, an uncorrectable word poisons the line (R453). -/
def readBufWord (k e : Nat) (l : LAddr) (a : Aid) (acc : Nat) (s : State) (w : Nat) : State :=
  match (s.slice k).errAt 6 (bufAddr e w) with
  | none => s
  | some x =>
    let s := s.modSlice k (fun v => v.heal 6 (bufAddr e w))
    if x.single then raise { src := 0x04, detail := .array 6 (bufAddr e w) k 0, acc := acc } s
    else
      let s := s.modTxn k e Txn.spoil
      let s := s.modSlice k (fun v =>
        { v with victims := lmodify (fun y => y.e == e) (fun y => { y with data := 0, poison := true }) v.victims })
      raise { src := 0x0B, detail := .line l k a, acc := acc } s

/-- A transaction reads words of its data buffer (R453). -/
def readBuf (k e : Nat) (ws : List Nat) (s : State) : State :=
  match (s.slice k).txn e with
  | none => s
  | some t => s.each ws (readBufWord k e t.l t.aidOf t.acc)

/-- A transaction as its entry holds it now. -/
def State.bufLine (s : State) (k : Nat) (t : Txn) : Txn := ((s.slice k).txn t.e).getD t

/-- Buffers of the transaction pool that a transaction still needs: all of them until it is settled; then one while the data of the home
has not left, an operation or merge is due, or a placement runs (R244, R249). -/
def Txn.bufsKept (t : Txn) : Nat :=
  let fromHere := t.data && (t.use == .home || t.use == .rsp) && t.sent != 15#4
  let works := (t.q.op.isAtomic && !t.operated) || (t.q.op == .wrPartial && t.use == .home && !t.line.full)
  if t.phase ≠ .running ∨ !t.settled then t.bufs
  else if t.place = .due ∨ t.place = .busy then t.bufs
  else if t.kind = .req ∧ !t.failed ∧ (fromHere ∨ works) then Nat.min t.bufs 1
  else 0

/-! ### Messages to the requester -/

/-- The virtual channel of a message of a transaction (R266). -/
def Txn.vc (t : Txn) (v : VC) : VC := if t.isGt then .gt else v

/-- Sends a message to the requester of a transaction. -/
def reply (k : Nat) (t : Txn) (v : VC) (m : Msg) (s : State) : State := s.fromSlice k t.src (t.vc v) t.gtc m

/-- The wrap order of chunks from the critical one (R70). -/
def wrapOrder (c : BitVec 2) : List Nat := (List.range 4).map (fun i => (c.toNat + i) % 4)

/-- Sends chunk `i` of the line to the requester (R70, R71). DESIGN CHOICE (log 96): each chunk goes in a DAT packet of its own; R264 lets a sector carry
up to four. -/
def sendChunk (k e : Nat) (s : State) (i : Nat) : State :=
  match (s.slice k).txn e with
  | none => s
  | some t =>
    if t.line.got.getLsbD i && !(t.sent.getLsbD i) then
      let s := readBuf k e [2 * i, 2 * i + 1] s
      let line := (s.bufLine k t).line
      let sent := t.sent ||| (1#4 <<< i)
      let s := s.modTxn k e (fun t => { t with sent := sent })
      reply k t .dat (.dat 0 t.q.aid t.q.txid (s.htid k e) (BitVec.ofNat 2 i) (sent == 15#4) line.poison 0xFFFF#16
        (if line.poison then 0 else chunkOf line.data i)) s
    else s

/-- Delivers the chunks that are there and have not been sent (R70). -/
def deliver (k e : Nat) (s : State) : State :=
  match (s.slice k).txn e with
  | none => s
  | some t =>
    if t.kind = .req ∧ t.data ∧ !t.failed ∧ (t.use = .home ∨ t.use = .rsp) then
      s.each (wrapOrder t.q.cidx) (sendChunk k e)
    else s

/-- Sends CmpErr in place of the completion of a transaction (R68). -/
def sendErr (k e : Nat) (reason : BitVec 8) (s : State) : State :=
  match (if s.err.lost then none else (s.slice k).txn e) with
  | none => s
  | some t =>
    let s := s.modTxn k e (fun t => { t with cmpSent := true, failed := true, ackFrom := none })
    reply k t .rsp (.cmpErr t.q.aid t.q.txid (s.htid k e) reason) s

/-- Sends Cmp, and starts the wait for CmpAck when the grant needs one and the requester can be reached (R82, R83, R129). -/
def sendCmp (k e : Nat) (s : State) : State :=
  match (s.slice k).txn e with
  | none => s
  | some t =>
    let s := s.modTxn k e (fun t =>
      { t with cmpSent := true
               ackFrom := if t.grant.acked && !(s.ackless t.q.aid) then some s.now else none
               ackLimit := s.hub.snpTo.toNat * 1000 })
    reply k t .rsp (.cmp t.q.aid t.q.txid (s.htid k e) t.grant t.data t.result) s

/-- Answers a held writeback and returns its credit (R112, R243). -/
def wbAck (k : Nat) (w : WbMsg) (superseded : Bool) (s : State) : State :=
  let s := s.fromSlice k w.src (if w.isGt then .gt else .rsp) w.gtc (.wbAck w.q.aid w.q.txid (s.htid k w.e) superseded)
  returnWb k w.src w.cred s

/-! ### Home data (R80, R117, R118) -/

/-- The atomics of a line whose operation is done and whose transaction is still active (R88). -/
def Slice.pipelined (v : Slice) (t : Txn) : Option Txn :=
  (v.txns.filter (fun x => x.e != t.e && x.phase.active && x.l == t.l && x.operated && decide (x.act < t.act))).getLast?

/-- The newest victim of a line whose write-back has not been sent (R117). -/
def Slice.heldVictim (v : Slice) (l : LAddr) : Option Victim := (v.victims.filter (fun x => x.laddr == l && !x.sent)).getLast?

/-- Takes HC/M as the source: the result an atomic ahead holds, a hit, a victim buffer, or an MRd. A line that has been reinstalled is a
hit, whatever its older victim holds (R80, R88, R117, R122). -/
def fetchHome (k e : Nat) (s : State) : State :=
  match (s.slice k).txn e with
  | none => s
  | some t =>
    if t.use ≠ .home ∨ t.rd ≠ .none ∨ t.line.got ≠ 0 then s
    else
      let v := s.slice k
      match v.pipelined t with
      | some a => s.modTxn k e (fun t => { t with line := a.pdata })
      | none =>
        match v.hitSlot t.l with
        | some n =>
          (s.modTxn k e (fun t => { t with line := v.readSlot (hcSet t.l) n })).modSlice k (fun v => v.wroteBuf e (List.range 8))
        | none =>
          match v.heldVictim t.l with
          | some x =>
            let s := s.each (List.range 8) (readBufWord k x.e t.l t.aidOf t.acc)
            let x := ((s.slice k).victims.find? (fun y => y.e == x.e)).getD x
            (s.modTxn k e (fun t => { t with line := .whole x.data x.poison })).modSlice k (fun v =>
              (v.wroteBuf e (List.range 8)).count 0x37 1)
          | none => memRead k e t.l t.q.cidx false (s.modTxn k e (fun t => { t with rd := .queued }))

/-- Uses or discards the speculative read, once the owner has answered (R81). -/
def Txn.useSpec (t : Txn) (use : Bool) : Txn :=
  if t.specu then
    if use then { t with specu := false, line := t.spec, spec := {} }
    else { t with specu := false, spec := {}, rd := .none }
  else t

/-- Voids the reads of an entry that are waiting or outstanding. -/
def voidReads (k e : Nat) (l : LAddr) (s : State) : State :=
  s.modMp (s.memPortOf l) (fun m =>
    { m with held := m.held.filter (fun c => !(!c.write && c.slice == k && c.owner == .txn e))
             outst := m.outst.map (fun c => if !c.write && c.slice == k && c.owner == .txn e then { c with void := true } else c) })

/-- The speculative read of a transaction ends: its data are used, which the slice counts, or its reads are void (R81, R518). -/
def endSpec (k : Nat) (t : Txn) (s : State) : State :=
  if t.use ≠ .home then voidReads k t.e t.l s
  else if t.rd ≠ .none then s.modSlice k (fun v => v.count 0x42 1)
  else s

/-! ### The outcome of a request (R74, R77, R78, R79) -/

/-- What a request does with dirty data that reached the home (R78). -/
def Txn.placeRsp (t : Txn) : Txn := if t.hasData then { t with what := .dirty, pdata := t.rspd, place := .due } else t

/-- Reads the data of HC/M, granting `g`. -/
def Txn.fromHome (t : Txn) (g : Grant) : Txn := { t with use := .home, data := true, grant := g }
def Txn.fromFwd (t : Txn) (g : Grant) : Txn := { t with use := .fwd, data := true, grant := g }
def Txn.fromRsp (t : Txn) (g : Grant) : Txn := { t with use := .rsp, data := true, grant := g, line := t.rspd }.placeRsp

/-- Whether Sh, the sharers without the requester, is empty (R74). -/
def Txn.shEmpty (t : Txn) : Bool :=
  if t.ent.isFine then (t.ent.ptrs.filter (fun a => a != t.q.aid)).isEmpty else t.ent.payload == 0

/-- RdShared (R74). -/
def Txn.settleShared (t : Txn) : Txn :=
  match t.ownResp with
  | none =>
    if t.eaves ∧ t.hasData ∧ t.sent = 0 then t.fromRsp .e else (t.fromHome (if t.ent.st = stFree ∧ !t.hh then .e else .s)).placeRsp
  | some r =>
    match r.op with
    | .rspSFwd | .rspO => t.fromFwd .s
    | .rspIFwd => t.fromFwd (if t.ent.st = stO then .o else if r.pd then .m else .e)
    | .rspSWb => t.fromRsp .s
    | .rspIWb => t.fromRsp (if t.ent.st = stO ∧ !t.shEmpty then .s else .e)
    | .rspI | .rspS => t.fromHome .e

/-- RdUnique, and a MakeUnique that is not placed (R74, R75). -/
def Txn.settleUnique (t : Txn) : Txn :=
  match t.ownResp with
  | none => if t.eaves ∧ t.hasData ∧ t.sent = 0 then t.fromRsp .e else (t.fromHome .e).placeRsp
  | some r =>
    match r.op with
    | .rspIFwd => (t.fromFwd (if r.pd then .m else .e)).placeRsp
    | .rspIWb | .rspSWb => t.fromRsp .e
    | .rspI | .rspS | .rspSFwd | .rspO => (t.fromHome .e).placeRsp

/-- A WrPartial once its snoops are answered: merged onto the response's data, onto HC/M when the home cache is used or
holds the line, else written with MWrP (R79, R131). -/
def Txn.settlePartial (t : Txn) (used : Bool) : Txn :=
  if t.hasData then
    { t with use := .rsp, what := .dirty, place := .due,
             pdata := .whole (mergeBytes t.be t.wdata.data t.rspd.data) (t.rspd.poison || t.wdata.poison) }
  else if used then { t with use := .home, partialW := true }
  else { t with use := .nothing, what := .dirty, place := .due, pdata := t.wdata, partialW := true }

/-- Settles a request whose snoops are answered. `used`: HC/M is read for it even without a response's data. -/
def Txn.settleReq (t : Txn) (used : Bool) : Txn :=
  match t.q.op with
  | .rdShared => t.settleShared
  | .rdUnique => t.settleUnique
  | .makeUnique =>
    if t.placed then { t with use := .nothing, grant := if t.ent.st = stS then .e else .m } else t.settleUnique
  | .rdNoSnoop => t.fromHome .i
  | .cleanShared =>
    if t.hasData then { t with use := .nothing, what := .clean, pdata := t.rspd, place := .due }
    else { t with use := .nothing, what := .clean, place := .due }
  | .wrLine => { t with use := .nothing, what := .dirty, pdata := t.wdata, place := .due }
  | .wrPartial => t.settlePartial used
  | .atomAdd | .atomSwap | .atomCas | .atomAnd | .atomOr =>
    if t.hasData then { t with use := .rsp, line := t.rspd } else { t with use := .home }
  | .evict | .wbDirty | .wbOwned => t

/-- Settles a home flow: dirty data it drew in is placed (R86, R167, R309, R399). -/
def Txn.settleFlow (t : Txn) : Txn := { t with use := .nothing }.placeRsp

/-- Whether HC/M holds something for the request beyond memory: the bank is ON, or its lookup or a victim buffer finds
the line (R79, R227). -/
def State.hcUsed (s : State) (k : Nat) (l : LAddr) : Bool :=
  decide ((s.slice k).bank = .on) || ((s.slice k).hitSlot l).isSome || (s.slice k).victims.any (fun x => x.laddr == l && !x.sent)

/-! ### Unreachable agents in a broadcast (R167, R470) -/

/-- Resolves the unreachable agents of a broadcast: as an owner with lost data, unless a reachable agent returned dirty
data; two or more dirty returns poison the line too (R129, R167). Answers the AIDs to report. -/
def Txn.closeBroadcast (t : Txn) : Txn × List Aid :=
  let lost := (t.resps.filter (fun r => r.lost)).map (fun r => r.aid)
  let real := (t.resps.filter Resp.brings).length
  if 2 ≤ real then ({ t with rspd := .whole 0 true }, [noAid])
  else if real = 0 ∧ !lost.isEmpty ∧ !t.spares then ({ t with rspd := .whole 0 true }, lost)
  else (t, [])

/-- Records the sample of a discovery (R177). -/
def sampleOf (t : Txn) : Sample :=
  let hs := ascending (t.holders.map BitVec.toNat)
  { laddr := t.l, hcnt := hs.length, ssize := t.ssize, holders := (hs.take 8).map (BitVec.ofNat 11) }

def Calib.addSample (c : Calib) (x : Sample) : Calib :=
  { c with samples := (if c.samples.length < 256 then c.samples else c.samples.tail) ++ [x] }

/-- Ends the first round of a discovery: the sample is recorded and SnpInv goes to each member that answered RspS, in ascending AID order
(R145, R176). DESIGN CHOICE (log 94): these SnpInv of the second round count neither in SENT_b nor in SPUR_b; R174 and R176 leave it open. -/
def endDiscovery (k e : Nat) (t : Txn) (s : State) : State :=
  let again := (ascending (t.second.map BitVec.toNat)).map (BitVec.ofNat 11)
  let s := s.modSlice k (fun v => { v with calib := v.calib.addSample (sampleOf t) })
  s.modTxn k e (fun t => { t with disc := false, second := [], todo := again.map (fun a => { aid := a, op := .inv }) })

/-- Settles FLUSH_LINE: which copy is written over memory (R399). -/
def State.settleFlush (s : State) (k : Nat) (t : Txn) : Txn :=
  let v := s.slice k
  if t.hasData then
    { t with use := .nothing, what := .clean, pdata := t.rspd, place := .due, outcome := if t.rspd.poison then 3 else 1 }
  else
    let copy := match v.hitSlot t.l with
      | some n => (v.tagAt (hcSet t.l) n).hst != hsPoisoned
      | none => v.victims.any (fun x => x.laddr == t.l && !x.sent)
    if copy then { t with use := .nothing, what := .clean, place := .due, outcome := 2 }
    else { t with use := .nothing, outcome := 0 }

/-- Settles a transaction by its kind; in a broadcast no answer is an owner's. -/
def Txn.settleBy (t : Txn) (used : Bool) : Txn :=
  let t := if t.broadcasts then { t with resps := t.resps.map (fun x => { x with own := false }) } else t
  match t.kind with
  | .req => (t.settleReq used).useSpec (t.ownResp.any (fun x => x.op == .rspI))
  | .wb | .backInv | .openRes | .lineRes | .flushLine | .linkClean | .mirrorTag | .recover => t.settleFlow

/-- Settles a transaction whose snoops are all answered. -/
def settle (k e : Nat) (s : State) : State :=
  match (s.slice k).txn e with
  | none => s
  | some t =>
    if t.phase ≠ .running ∨ t.settled ∨ !t.answered then s
    else if t.disc ∧ !t.second.isEmpty then endDiscovery k e t s
    else
      let s := if t.disc then endDiscovery k e t s else s
      let r := if t.broadcasts then t.closeBroadcast else (t, [])
      let poisoned := !r.2.isEmpty
      let t' : Txn := { r.1 with disc := false, settled := true, npois := r.1.npois + b2n poisoned }
      let t' := if t'.kind = .flushLine then s.settleFlush k t' else t'.settleBy (s.hcUsed k t.l)
      let s := s.setSlice k ((s.slice k).setTxn t')
      let s := if t.specu && !t'.specu then endSpec k t' s else s
      raiseAll (r.2.map (fun a => { src := 0x10, detail := .line t.l k a, acc := accSnoop })) s

/-- The data of HC/M has arrived whole: a WrPartial is merged, and a clean fill from memory is due to be placed (R79,
R215, R191). -/
def arrivedHome (k e : Nat) (s : State) : State :=
  match (s.slice k).txn e with
  | none => s
  | some t =>
    if t.use ≠ .home ∨ !t.line.full ∨ t.what ≠ .nothing ∨ !t.settled ∨ t.failed then s
    else if t.q.op = .wrPartial then
      let d := LineBuf.whole (mergeBytes t.be t.wdata.data t.line.data) (t.line.poison || t.wdata.poison)
      s.modTxn k e (fun t => { t with what := .dirty, place := .due, pdata := d })
    else if t.q.op.reads ∧ t.rd = .done ∧ (s.slice k).bank = .on ∧ !(t.q.stream ∧ s.pol.stream = 2) then
      s.modTxn k e (fun t => { t with what := .fill, pdata := t.line, place := .due })
    else s

/-- Whether a transaction's completion may be sent now (R82). -/
def Txn.cmpDue (t : Txn) (victim : Bool) : Bool :=
  t.phase == .running && !t.cmpSent && t.settled && t.answered &&
  (match t.kind with
   | .wb => t.place == .none || t.place == .done
   | .req =>
     if t.data then t.use == .fwd || t.sent != 0
     else if t.q.op.isAtomic then t.operated && t.place == .done
     else if t.q.op = .makeUnique then true
     else if t.q.op = .cleanShared then (t.place == .none || t.place == .done) && !victim
     else t.place == .done
   | .backInv | .openRes | .lineRes | .flushLine | .linkClean | .mirrorTag | .recover => false)

/-- The writeback message that a writeback transaction stands for. -/
def Txn.asWb (t : Txn) : WbMsg :=
  { e := t.e, arr := t.arr, q := t.q, d := t.wdata, src := t.src, cred := t.wbCred, gtc := t.gtc, isGt := t.isGt }

/-- Sends the completion when it is due (R82, R540). -/
def complete (k e : Nat) (s : State) : State :=
  match (s.slice k).txn e with
  | none => s
  | some t =>
    if t.cmpDue ((s.slice k).victims.any (fun x => x.laddr == t.l)) then
      match t.kind with
      | .wb =>
        let s := s.modTxn k e (fun t => { t with cmpSent := true, wbCred := .none })
        wbAck k t.asWb false s
      | .req => sendCmp k e s
      | .backInv | .openRes | .lineRes | .flushLine | .linkClean | .mirrorTag | .recover => s
    else s

/-- Frees the buffers that a transaction needs no longer; waiting transactions and data grants take them. Its thread has moved on (R244,
R249, R454). -/
def shed (k e : Nat) (s : State) : State :=
  match (s.slice k).txn e with
  | none => s
  | some t =>
    let n := t.bufsKept
    let s := s.modTxn k e (fun t => { t with bufs := n, ran := s.time.cycles })
    if n < t.bufs then grantRun k (s.modSlice k (fun v => { v with bufUsed := v.bufUsed - (t.bufs - n) })) else s

/-- Moves a transaction on as far as it goes without a further event. -/
def advance (k e : Nat) (s : State) : State :=
  if s.err.lost then s else shed k e (complete k e (arrivedHome k e (deliver k e (fetchHome k e (settle k e s)))))

/-! ### Answers to snoops (R77, R112, R129, R155) -/

/-- Takes the writebacks of agent `a` that crossed this transaction, once its answer is known (R112). -/
def decideAbsorbed (k e : Nat) (a : Aid) (superseded : Bool) (s : State) : State :=
  match (s.slice k).txn e with
  | none => s
  | some t =>
    let mine := t.absorbed.filter (fun w => w.q.aid == a && w.q.laddr == t.l)
    let s := s.modTxn k e (fun t => { t with absorbed := t.absorbed.filter (fun w => !(w.q.aid == a && w.q.laddr == t.l)) })
    if superseded then mine.foldl (fun s w => wbAck k w true s) s
    else s.modSlice k (fun v => { v with deferred := v.deferred ++ mine })

/-- Records a response. -/
def addResp (k e : Nat) (r : Resp) (s : State) : State := s.modTxn k e (fun t => { t with resps := t.resps ++ [r] })

/-- Takes the line of a response as poisoned data: the home has it at once (R77, R129). -/
def loseLine (k e : Nat) (r : Resp) (s : State) : State :=
  (addResp k e { r with lost := true } s).modTxn k e (fun t => { t with rspd := .whole 0 true })

/-- Resolves a snoop to an unreachable agent as if it had answered (R129, R131). -/
def resolveSnoop (k e : Nat) (p : SnpTodo) (s : State) : State :=
  match (s.slice k).txn e with
  | none => s
  | some t =>
    let a := p.aid
    let held := t.absorbed.find? (fun w => w.q.aid == a && w.q.laddr == t.l)
    let s := if t.disc && p.own then s.modTxn k e (fun t => { t with holders := t.holders ++ [a] }) else s
    let done (s : State) : State := advance k e (decideAbsorbed k e a true s)
    if t.broadcasts then done (addResp k e { aid := a, op := .rspI, lost := true } s)
    else if !p.own then done (addResp k e { aid := a, op := .rspI } s)
    else
      match held with
      | some w =>
        if w.q.op = .evict then done (addResp k e { aid := a, op := .rspI, wbp := true, own := true } s)
        else
          done ((addResp k e { aid := a, op := .rspIWb, wbp := true, own := true, lost := true } s).modTxn k e
            (fun t => { t with rspd := w.d }))
      | none =>
        if t.spares then done (addResp k e { aid := a, op := .rspI, own := true } s)
        else done (raise (agentEv 0x10 k t a) (loseLine k e { aid := a, op := .rspIWb, own := true } s))

/-- Whether a snoop may be answered so (R84). -/
def snpAllows (st : BitVec 3) (p : SnpTodo) (op : RspOp) (pd wbp : Bool) : Bool :=
  match p.op, op with
  | .shared, .rspSFwd => st == stX
  | .shared, .rspIFwd => st == stX || pd
  | .shared, .rspO | .shared, .rspSWb => true
  | .shared, .rspS => st == stO
  | .shared, .rspIWb => wbp
  | .unique, .rspIFwd => st == stX || pd
  | .unique, .rspS => st == stO
  | .unique, .rspIWb => wbp
  | .inv, .rspIWb => true
  | .inv, .rspS => st == stO && p.own
  | .clean, .rspS | .clean, .rspSWb => true
  | .clean, .rspIWb => wbp
  | _, .rspI => true
  | .unique, .rspSFwd | .unique, .rspO | .unique, .rspSWb | .inv, .rspSFwd | .inv, .rspIFwd | .inv, .rspO | .inv, .rspSWb
  | .clean, .rspSFwd | .clean, .rspIFwd | .clean, .rspO => false

/-- The owner's answer without data to a snoop from an SF_O entry: the dirty data is lost (R77). DESIGN CHOICE (log 88): for a placed
MakeUnique or a WrLine, whose rows apply unchanged, AGENT_BREACH is not raised either; R77 does not say. -/
def ownerLost (k e : Nat) (t : Txn) (p : SnpTodo) (r : Resp) (s : State) : State :=
  if t.spares then addResp k e { r with op := .rspI } s
  else
    let kept := r.op == .rspS && (p.op == .shared || p.op == .clean)
    let s := loseLine k e { r with op := if kept then .rspSWb else .rspIWb } s
    raiseAll [agentEv 0x10 k t r.aid, agentEv 0x11 k t r.aid] s

/-- Counts a response in the calibration counters and the events of the slice (R155, R174). -/
def countResp (k : Nat) (t : Txn) (p : SnpTodo) (r : Resp) (s : State) : State :=
  let dry := r.op == .rspI && !r.wbp
  s.modSlice k (fun v =>
    let c := v.calib
    let b := s.pol.bundle t.ent.gen p.aid.toNat
    let c := if p.attr && dry then { c with spur := tput b (satAdd (tget (fun _ => 0) c.spur b) 1) c.spur } else c
    let c := if p.fine && dry then { c with fineRspI := satAdd c.fineRspI 1 } else c
    let far := match s.wayTo p.aid with
      | some i => decide (128 ≤ i)
      | none => false
    let n := p.aid.toNat / 16
    let c := if p.own && t.ent.st == stX && far && dry && !t.broadcasts then
        { c with specRspI := tput n (satAdd (tget (fun _ => 0) c.specRspI n) 1) c.specRspI } else c
    let v := { v with calib := c }
    if p.attr && dry then v.count 0x25 1 else v)

/-- Takes the answer of an agent to a snoop of transaction `e` (R74, R77, R112, R176). -/
def takeResp (k e : Nat) (o : SnpOut) (r : Resp) (s : State) : State :=
  match (s.slice k).txn e with
  | none => s
  | some t =>
    let p := o.snp
    let r := { r with own := p.own && !t.broadcasts }
    let s := countResp k t p r s
    let s := giveSnp k o.via s
    let s := s.modTxn k e (fun t =>
      { t with
        outs := t.outs.filter (fun x => x.snp.aid != p.aid)
        holders := if t.disc && (p.own || r.op == .rspS || r.wbp) then t.holders ++ [p.aid] else t.holders
        second := if t.disc && p.attr && r.op == .rspS then t.second ++ [p.aid] else t.second })
    let bare := r.op == .rspI || r.op == .rspS
    let s :=
      if r.own && t.ent.st == stO && bare then ownerLost k e t p r s
      else
        let s := addResp k e r s
        if r.own && t.ent.st == stX && r.op == .rspI && !r.wbp && p.op != .inv then raise (agentEv 0x11 k t p.aid) s else s
    let wait := t.disc && p.attr && r.op == .rspS
    advance k e (if wait then s else decideAbsorbed k e p.aid r.wbp s)

/-! ### The snoop-filter outcome (R74, R147 to R149) -/

/-- Adds the requester, when the transaction granted it a state. -/
def Txn.addReq (t : Txn) (p : PolSt) (thr : Nat) (e : SfEnt) : SfEnt := if t.failed then e else addSharer p thr t.q.aid e

/-- SF_X of the requester; SF_I when the transaction failed (R149, R156). -/
def Txn.toX (t : Txn) (p : PolSt) : SfEnt := if t.failed then {} else entX p t.l t.q.aid

/-- SF_S of these agents, FINE (R74). -/
def freshS (p : PolSt) (thr : Nat) (l : LAddr) (as : List Aid) : SfEnt :=
  match as with
  | [] => {}
  | a :: r => r.foldl (fun e x => addSharer p thr x e) (entS p l a)

/-- The entry that RdShared leaves (R74). -/
def Txn.afterShared (t : Txn) (p : PolSt) (thr : Nat) : SfEnt :=
  let e := t.ent
  let r := t.ownResp.map (fun x => x.op)
  if t.grant = .e ∨ t.grant = .m then t.toX p
  else if e.st = stFree then (if t.failed then {} else entS p t.l t.q.aid)
  else if e.st = stS then t.addReq p thr e
  else if e.st = stX then
    if r = some .rspO then t.addReq p thr { e with st := stO, gen := p.curgen }
    else freshS p thr t.l ([e.own] ++ (if t.failed then [] else [t.q.aid]))
  else if r = some .rspO then t.addReq p thr (regen p e)
  else if r = some .rspIFwd then
    (if t.failed then dropOwner e else { (removeSharer t.q.aid (regen p e)) with st := stO, own := t.q.aid })
  else if r = some .rspSWb then t.addReq p thr (ownerToSharer p thr e)
  else
    let d := dropOwner (regen p e)
    if d.st = stFree then (if t.failed then {} else entS p t.l t.q.aid) else t.addReq p thr d

/-- The entry that CleanShared leaves (R74). -/
def Txn.afterClean (t : Txn) (p : PolSt) (thr : Nat) : SfEnt :=
  if t.ent.owned then
    match t.ownResp with
    | none => t.ent
    | some r =>
      if r.op = .rspS ∨ r.op = .rspSWb then
        (if t.ent.st = stX then entS p t.l t.ent.own else ownerToSharer p thr t.ent)
      else if t.ent.st = stX then {}
      else dropOwner (regen p t.ent)
  else t.ent

/-- The entry that a transaction leaves at its close (R74, R86, R309, R471). -/
def Txn.after (t : Txn) (p : PolSt) (thr : Nat) : SfEnt :=
  match t.kind with
  | .req =>
    match t.q.op with
    | .rdShared => t.afterShared p thr
    | .rdUnique | .makeUnique => t.toX p
    | .cleanShared => t.afterClean p thr
    | .rdNoSnoop => t.ent
    | .wrLine | .wrPartial => {}
    | .atomAdd | .atomSwap | .atomCas | .atomAnd | .atomOr => {}
    | .evict | .wbDirty | .wbOwned => t.ent
  | .flushLine => t.afterClean p thr
  | .linkClean => if t.ownResp.isNone then t.ent else if t.ent.st = stX then {} else dropOwner (regen p t.ent)
  | .wb => t.ent
  | .backInv | .openRes | .lineRes => {}
  | .mirrorTag | .recover => t.ent

end Sys2Proof.Machine
end

