-- ==== Sys2Proof/Machine/Txn.lean ====
section
/-! DEFINITION. Sys2Proof/Machine/Txn.lean: the commands of a slice's tracker: how a message enters the CAM, a
transaction becomes active, is snooped, placed and closed (03, 04, 05, 08). -/

namespace Sys2Proof.Machine

/-! ### The input of a slice -/

/-- The oldest packet at the SLICE port of slice `k` on the plain or the GT channel. -/
def State.atSlice (s : State) (k : Nat) (vc : VC) (gt : Bool) : Option Pkt :=
  (s.arrived k portSlice (if gt then .gt else vc)).head?

/-- Takes that packet off. -/
def State.takeAtSlice (s : State) (k : Nat) (vc : VC) (gt : Bool) : State := s.dropArrived k portSlice (if gt then .gt else vc)

/-- Counts a message taken at the input stage and the events it is (R509 to R511, R518). -/
def takeSlot (k : Nat) (wasted : Bool) (evs : List Nat) (s : State) : State :=
  s.modSlice k (fun v => evs.foldl (fun v e => v.count e 1) (v.slot wasted))

/-- A transaction takes entry `e` for a port: responses of that entry reach the port again, unless it has been reset since it sent the request
(R503, R504). -/
def noteStale (k e src : Nat) (s : State) : State :=
  if src < 128 then
    let h := s.htid k e
    let gone : Bool := decide ((s.ca src).st ≠ .active) && decide ((s.ca src).st ≠ .quiescing)
    s.modCa src (fun c => let l := c.stale.filter (· != h); { c with stale := if gone then l ++ [h] else l })
  else s

/-- SLICE_INPUT_REQUEST (R103, R105, R125): a request passes the CAM. -/
def takeRequest (k : Nat) (gt : Bool) (gtc : Nat) (q : Req) (d : LineBuf) (be : BitVec 64) (src : Nat) (cred wbCred : CredKind)
    (s : State) : State :=
  let v := s.slice k
  let t : Txn := { e := v.freeEntry, q := q, src := src, isGt := gt, gtc := gtc, cred := cred, wbCred := wbCred, wdata := d, be := be }
  let chained := v.lineHeld q.laddr
  let waits := !chained && v.setFull (sfSet q.laddr)
  let s := noteStale k t.e src (s.setSlice k (v.enter t))
  takeSlot k chained ([0x10] ++ (if gt then [0x11] else []) ++ (if chained then [0x13] else []) ++ (if waits then [0x14] else [])) s

def execSliceInputRequest (k : Nat) (gt : Bool) (s : State) : Host.Outcome State Fault Refusal :=
  .next (match s.atSlice k .req gt with
    | some p =>
      match p.msg with
      | .req q src cred wbCred =>
        match q.dataIn (s.slice k).wdat with
        | some w =>
          if s.works k && !q.op.isWb && decide ((s.slice k).txns.length < 2048) then
            takeRequest k gt p.gtc q w.d w.be src cred wbCred ((s.takeAtSlice k .req gt).modSlice k (fun v => { v with wdat := q.dropData v.wdat }))
          else s
        | none => s
      | _ => s
    | none => s)

/-! ### Buffers (R244) -/

/-- Data buffers a transaction takes from the pool when it becomes active (R244). -/
def Txn.bufsNeeded (t : Txn) : Nat :=
  let byData := b2n (t.todo.any (fun p => p.own))
  match t.kind with
  | .req =>
    match t.q.op with
    | .rdShared | .rdUnique => 1 + b2n t.specu
    | .rdNoSnoop | .cleanShared | .atomAdd | .atomSwap | .atomCas | .atomAnd | .atomOr => 1
    | .makeUnique => if t.placed then byData else 1
    | .wrLine | .wrPartial => byData
    | .evict | .wbDirty | .wbOwned => 0
  | .backInv => byData
  | .flushLine => 1
  | .wb | .openRes | .lineRes | .linkClean | .mirrorTag | .recover => 0

/-- Whether a transaction that needs `n` buffers has them now: none that became active before it waits (R244). -/
def State.bufsReady (s : State) (k e act n : Nat) : Bool := n == 0 || (decide (n ≤ s.freeBufs k) && !(s.bufsAhead k e act))

/-- The Dirty line of a recovery is made Poisoned, by a write of the flow (R206, R234). -/
def recoverLine (k e : Nat) (l : LAddr) (s : State) : State :=
  let v := s.slice k
  match v.slotOf l with
  | some n =>
    if v.dataLost (hcSet l) n then
      poisonSlot k (hcSet l) n accScrub (.txn e) (s.modTxn k e (fun t => { t with settled := true, writes := t.writes + 1, place := .busy }))
    else s.modTxn k e (fun t => { t with settled := true })
  | none => s.modTxn k e (fun t => { t with settled := true })

/-- Starts a transaction that holds its buffers: what its lookup decided is done, its speculative read issued, then whatever needs no event
(R74, R80, R81, R234). -/
def begin_ (k e : Nat) (s : State) : State :=
  match (s.slice k).txn e with
  | none => s
  | some t =>
    let s := s.modTxn k e (fun t => { t with phase := .running, rd := if t.specu then .queued else t.rd })
    let s := s.modSlice k (fun v => { v with bufUsed := v.bufUsed + t.bufs })
    let s := if t.specu then memRead k e t.l t.q.cidx true s else s
    let s := if t.kind == .req && (t.q.op == .rdUnique || t.q.op == .makeUnique) then clearHeld k t.l s else s
    advance k e (if t.kind = .recover then recoverLine k e t.l s else s)

/-- Acts on the lookup of a transaction: it takes its buffers, or waits for them (R244). -/
def actOn (k e : Nat) (s : State) : State :=
  match (s.slice k).txn e with
  | none => s
  | some t =>
    let n := t.bufsNeeded
    let ok := s.bufsReady k e t.act n
    let s := s.modTxn k e (fun t => { t with bufs := n, phase := .bufWait })
    if ok then begin_ k e s else s

/-! ### Writebacks against the entry (R114, R471) -/

/-- What the writeback decision table gives. -/
structure WbDecision where
  place : Bool := false
  after : SfEnt
  superseded : Bool := false
  breach : Bool := false
  deriving DecidableEq, Repr

/-- The writeback decision table (R114). -/
def decideWriteback (p : PolSt) (op : ReqOp) (a : Aid) (ent : SfEnt) : WbDecision :=
  let owns := ent.owned && ent.own == a
  if op = .evict then
    if owns && ent.st == stX then { after := {} }
    else if !ent.owned && ent.st == stFree then { after := ent, superseded := true }
    else if ent.isFine && ent.ptrs.contains a && !owns then { after := removeSharer a ent }
    else if ent.st != stFree && !ent.isFine && ent.payload.getLsbD (p.bundle ent.gen a.toNat) then { after := ent }
    else { after := ent, superseded := true }
  else if owns then
    if ent.st = stX then { place := true, after := {}, breach := op == .wbOwned }
    else { place := true, after := dropOwner ent, breach := op == .wbDirty }
  else { after := ent, superseded := true }

/-- Decides an active writeback against the entry as it stands (R111, R114, R471). -/
def decideWb (k e : Nat) (s : State) : State :=
  match (s.slice k).txn e with
  | none => s
  | some t =>
    let openMiss := s.shState t.sh == hmOpen && t.ent.st == stFree
    let d := if openMiss then { place := t.q.op != .evict, after := t.ent } else decideWriteback s.pol t.q.op t.q.aid t.ent
    let s := s.modTxn k e (fun t =>
      { t with
        phase := .running
        settled := true
        use := .nothing
        ent := d.after
        what := if d.place then .dirty else .nothing
        pdata := t.wdata
        place := if d.place then .due else .none })
    let s := if d.breach then raise (agentEv 0x11 k t t.q.aid) s else s
    let s := if openMiss && d.place && t.wdata.poison then raise (agentEv 0x0E k t t.q.aid) s else s
    if d.superseded then
      wbAck k t.asWb true (s.modTxn k e (fun t => { t with cmpSent := true, wbCred := .none }))
    else advance k e s

/-! ### Becoming active (R104, R105, R125) -/

/-- The lookup found that the line is a candidate of an OPEN resolution: the transaction gives up its active state and is
the first waiter behind it; the writebacks that crossed it cross the resolution (R112, R166). -/
def giveUp (k e : Nat) (s : State) : State :=
  match (s.slice k).txn e with
  | none => s
  | some t =>
    let s := s.modTxn k e (fun t => { t with phase := .chained, counted := false, absorbed := [] })
    let take (x : Txn) : Txn := { x with absorbed := x.absorbed ++ t.absorbed }
    s.modSlice k (fun v => { v with txns := lmodify (fun x => decide (x.kind = .openRes) && x.cands.contains t.l) take v.txns })

/-- The flow that poisons a lost tag's line, when the lookup of transaction `e` has just found that tag and the line is its own. -/
def Slice.tagFlow (v : Slice) (l : LAddr) : Option Txn := v.txns.find? (fun t => decide (t.kind = .mirrorTag) && decide (t.phase = .chained) && t.l == l)

/-- The lookup found that the tag of the line itself is lost: the flow that poisons the line becomes its active transaction, and the one
that looked it up is the first waiter behind it (R106, R234). -/
def yieldTo (k e : Nat) (f : Txn) (s : State) : State :=
  match (s.slice k).txn e with
  | none => s
  | some t =>
    let s := s.modTxn k e (fun t => { t with phase := .chained, counted := false, absorbed := [] })
    let s := s.modTxn k f.e (fun x => { x with phase := .ready, counted := t.counted, act := t.act })
    s.modSlice k (fun v => { v with deferred := v.deferred ++ t.absorbed })

/-- Whether an OPEN resolution holds a line. -/
def Slice.openOn (v : Slice) (l : LAddr) : Bool := v.txns.any (fun t => decide (t.kind = .openRes) && t.cands.contains l)

/-- Events of a lookup by the state of the entry (R518). -/
def sfEvent (st : BitVec 3) : Nat := if st = stFree then 0x20 else if st = stS then 0x21 else if st = stX then 0x22 else 0x23

/-- Whether a request needs the line's data from HC/M (R518). -/
def Txn.needsData (t : Txn) : Bool :=
  match t.q.op with
  | .rdShared | .rdUnique | .rdNoSnoop => true
  | .makeUnique => !t.placed
  | .wrPartial => true
  | .atomAdd | .atomSwap | .atomCas | .atomAnd | .atomOr => true
  | .cleanShared | .wrLine | .evict | .wbDirty | .wbOwned => false

/-- Whether the read of HC/M starts with the lookup (R80). -/
def Txn.readsAtOnce (t : Txn) : Bool :=
  let clean := t.ent.st == stFree || t.ent.st == stS
  match t.q.op with
  | .rdNoSnoop => true
  | .rdShared | .rdUnique => clean && !t.eaves
  | .makeUnique => clean && !t.placed && !t.eaves
  | .cleanShared | .wrLine | .wrPartial | .evict | .wbDirty | .wbOwned
  | .atomAdd | .atomSwap | .atomCas | .atomAnd | .atomOr => false

/-- Whether a request reads memory speculatively (R81). -/
def State.speculates (s : State) (k : Nat) (t : Txn) : Bool :=
  let v := s.slice k
  let far := match s.wayTo t.ent.own with
    | some i => decide (128 ≤ i)
    | none => false
  (t.q.op == .rdShared || t.q.op == .rdUnique) && t.ent.st == stX && (v.hitSlot t.l).isNone &&
    !(v.victims.any (fun x => x.laddr == t.l)) && far && s.pol.specBits.getLsbD (t.ent.own.toNat / 16)

/-- The request's transaction after its lookup (R74 to R76, R80, R81, R176, R470). -/
def State.lookedUp (s : State) (k : Nat) (t : Txn) : Txn :=
  let v := s.slice k
  let ent := v.sfEnt t.l
  let t := { t with ent := ent, way := v.sfWay t.l, hh := v.homeHeld t.l, placed := ent.names t.q.aid }
  let t := { t with eaves := s.shState t.sh == hmOpen && t.q.op != .rdNoSnoop && ent.st == stFree && !t.hh }
  let todo := if t.eaves then (s.broadcast t.l).filter (fun p => p.aid != t.q.aid) else s.planReq t
  let disc := !t.eaves && s.discovers t todo
  let grants := t.q.op == .rdShared || t.q.op == .rdUnique || (t.q.op == .makeUnique && !t.placed)
  let t := { t with todo := if disc then firstRound todo else todo, disc := disc, ssize := if disc then (s.snoopSet t.l ent).length else 0
                    holders := if disc && ent.owned && ent.own == t.q.aid then [ent.own] else []
                    fresh := ent.st == stFree && grants }
  { t with specu := s.speculates k t, use := if t.readsAtOnce then .home else .undecided, data := t.readsAtOnce }

/-- The reads of a lookup: the snoop-filter set and the home-cache words of the line (R160, R163, R234). -/
def lookupReads (k e : Nat) (t : Txn) (s : State) : State :=
  let s := sfReadSet k (sfSet t.l) t.acc (sfParityCheck k (sfSet t.l) accInt s)
  if t.kind = .recover then s else hcReadFor k t.l t.acc .poison s

/-- A lookup that finds the line's entry marks its way as recently used (R160). -/
def touchWay (k : Nat) (t : Txn) (s : State) : State :=
  match t.way with
  | some w => s.modSlice k (fun v => v.sfTouch (sfSet t.l) w)
  | none => s

/-- Writebacks absorbed before the lookup, from agents that the transaction turns out not to snoop, are deferred (R112,
R113). -/
def settleAbsorbed (k e : Nat) (s : State) : State :=
  match (s.slice k).txn e with
  | none => s
  | some t =>
    let snoops (w : WbMsg) : Bool := t.todo.any (fun p => p.aid == w.q.aid)
    let s := s.modTxn k e (fun t => { t with absorbed := t.absorbed.filter snoops })
    s.modSlice k (fun v => { v with deferred := v.deferred ++ t.absorbed.filter (fun w => !(snoops w)) })

/-- Activates a request (R74 to R81, R89). -/
def activateReq (k e : Nat) (t : Txn) (s : State) : State :=
  if t.q.op.isAtomic && t.wdata.poison then
    settleAbsorbed k e (sendErr k e rsPoisoned (s.modTxn k e (fun t => { t with phase := .running, settled := true, use := .nothing })))
  else
    let s := lookupReads k e t s
    if (s.slice k).openOn t.l then giveUp k e s
    else
      match (s.slice k).tagFlow t.l with
      | some f => yieldTo k e f s
      | none =>
        let t := s.lookedUp k t
        let s := s.setSlice k ((s.slice k).setTxn t)
        let hit := (s.slice k).hitSlot t.l
        let evs := [sfEvent t.ent.st] ++ (if t.needsData then [if hit.isSome then 0x30 else 0x31] else [])
        let s := s.modSlice k (fun v => evs.foldl (fun v x => v.count x 1) v)
        let s := touchWay k t s
        let s := match hit with
          | some n => touchHit k t.l n s
          | none => s
        let breach := (t.q.op == .rdShared || t.q.op == .rdUnique) && t.ent.owned && t.ent.own == t.q.aid
        let s := if breach then raise (agentEv 0x11 k t t.q.aid) s else s
        actOn k e (settleAbsorbed k e s)

/-- Activates a writeback or a home flow (R106, R111, R167, R309, R399). -/
def activateFlow (k e : Nat) (t : Txn) (s : State) : State :=
  let s := lookupReads k e t s
  if (s.slice k).openOn t.l ∧ t.kind ≠ .wb then giveUp k e s
  else if (s.slice k).openOn t.l then
    s.modSlice k (fun v => { v with txns := v.txns.filter (fun x => x.e != e), deferred := v.deferred ++ [t.asWb] })
  else
    match (if t.kind = .mirrorTag then none else (s.slice k).tagFlow t.l) with
    | some f => yieldTo k e f s
    | none =>
      let v := s.slice k
      let t := { t with ent := v.sfEnt t.l, way := v.sfWay t.l }
      let t := { t with todo := s.plan t }
      let s := touchWay k t (s.setSlice k ((v.setTxn t).count (sfEvent t.ent.st) 1))
      match t.kind with
      | .wb => decideWb k e s
      | .req | .backInv | .openRes | .lineRes | .flushLine | .linkClean | .mirrorTag | .recover => actOn k e (settleAbsorbed k e s)

/-- Activates a back-invalidation, whose entry has left the array: on a sampled line of a COARSE entry it runs the discovery (R86, R121,
R176). -/
def activateBack (k e : Nat) (t : Txn) (s : State) : State :=
  let todo := s.invAll t.l t.ent
  let disc := s.discovers t todo
  let t := { t with todo := if disc then firstRound todo else todo, disc := disc, ssize := if disc then todo.length else 0 }
  actOn k e (settleAbsorbed k e (s.setSlice k ((s.slice k).setTxn t)))

/-- Whether a transaction needs a flow-engine thread: a home flow, an atomic, or a request that has waited on a conflict. The others
run on the express paths (01, R412). -/
def Txn.threaded (t : Txn) : Bool :=
  match t.kind with
  | .req => t.act != t.arr || t.q.op.isAtomic
  | .wb => false
  | .backInv | .openRes | .lineRes | .flushLine | .linkClean | .mirrorTag | .recover => true

/-- Whether a thread is free for a transaction that needs one: 16 flow engines of 4 threads, none of which takes a new flow during a
switch of the microcode (R25, R412). -/
def State.threadFree (s : State) (k : Nat) (t : Txn) : Bool :=
  !t.threaded || (!(s.slice k).ucSwitch && decide (((s.slice k).txns.filter (fun x => x.looked && x.threaded)).length < 64))

/-- TXN_ACTIVATE (R104): the lookup of a transaction that has become active. It waits while the flows that its reads
would start find the home-flow share full, and, when it needs a thread, while none is free (R25, R412). -/
def activate (k e : Nat) (s : State) : State :=
  match (s.slice k).txn e with
  | none => s
  | some t =>
    if t.phase ≠ .ready ∨ !(s.works k) ∨ (t.kind ≠ .backInv ∧ s.readWaits k t.l) ∨ !(s.threadFree k t) then s
    else
      let s := s.modTxn k e (fun t => { t with ran := s.time.cycles })
      let s := if t.again && (t.kind == .req || t.kind == .wb) then s.modSlice k (Slice.slot false) else s
      match t.kind with
      | .req => activateReq k e t s
      | .backInv => activateBack k e t s
      | .wb | .openRes | .lineRes | .flushLine | .linkClean | .mirrorTag | .recover => activateFlow k e t s

def execTxnActivate (k e : Nat) (s : State) : Host.Outcome State Fault Refusal := .next (activate k e s)

/-- The head of a line's conflict chain (R105). -/
def Slice.chainHead (v : Slice) (l : LAddr) : Option Txn :=
  (v.txns.filter (fun t => decide (t.phase = .chained) && !(decide (t.kind = .openRes)) && t.l == l)).foldl
    (fun b t => match b with
      | none => some t
      | some x => if t.arr < x.arr then some t else b) none

/-- Whether a line has a transaction on the admission list of its set. -/
def Slice.listedOn (v : Slice) (l : LAddr) : Bool :=
  v.txns.any (fun t => decide (t.phase = .admission) && decide (t.kind ≠ .openRes) && t.l == l)

/-- Whether nothing stands before the head of a line's chain (R105, R113, R166). -/
def Slice.chainFree (v : Slice) (l : LAddr) : Bool :=
  (v.activeOn l).isEmpty && !(v.deferred.any (fun w => w.q.laddr == l)) && !(v.openOn l) && !(v.listedOn l)

/-- Admits the head of a chain that is not counted yet: it is counted, or joins the set's admission list (R125). -/
def Slice.admitHead (v : Slice) (t : Txn) : Slice :=
  if v.setFull (sfSet t.l) then
    ({ (v.setTxn { t with phase := .admission, act := v.nextArr, again := true }) with nextArr := v.nextArr + 1 }).count 0x14 1
  else v.setTxn { t with counted := true }

/-- Whether every active transaction of a line is an atomic that has operated, on a home-held line with no sharers, and nothing else of the
line goes before its chain (R88). -/
def Slice.pipes (v : Slice) (l : LAddr) : Bool :=
  let ahead := v.activeOn l
  !ahead.isEmpty && ahead.all (fun t => decide (t.kind = .req) && t.q.op.isAtomic && t.operated && t.ent.st == stFree) &&
    v.homeHeld l && !(v.deferred.any (fun w => w.q.laddr == l)) && !(v.openOn l) && !(v.listedOn l)

/-- The next atomic of a chain becomes active behind those that have operated (R88). -/
def pipeNext (k : Nat) (l : LAddr) (s : State) : State :=
  let v := s.slice k
  match v.chainHead l with
  | some h =>
    if v.pipes l && decide (h.kind = .req) && h.q.op.isAtomic then
      s.setSlice k { (v.setTxn { h with phase := .ready, act := v.nextArr, again := true }) with nextArr := v.nextArr + 1 }
    else s
  | none => s

/-- CHAIN_HEAD_ACTIVATE (R105). -/
def execChainHeadActivate (k : Nat) (l : LAddr) (s : State) : Host.Outcome State Fault Refusal :=
  let v := s.slice k
  .next (match v.chainHead l with
    | none => s
    | some t =>
      if v.chainFree l && s.works k then
        let v := if t.counted then v else v.admitHead t
        match v.txn t.e with
        | some t =>
          if t.counted then s.setSlice k { (v.setTxn { t with phase := .ready, act := v.nextArr, again := true }) with nextArr := v.nextArr + 1 }
          else s.setSlice k v
        | none => s
      else if s.works k then pipeNext k l s
      else s)

/-- A transaction leaves the admission list: it becomes active and is counted, or joins its line's chain behind what has become active
before it; an OPEN resolution may take up its next line (R125, R167). -/
def admitOne (k : Nat) (t : Txn) (s : State) : State :=
  let v := s.slice k
  let ahead := v.txns.any (fun x => decide (x.phase = .chained) && decide (x.kind ≠ .openRes) && x.l == t.l && decide (x.arr < t.arr))
  if t.kind = .openRes then s.setSlice k (v.setTxn { t with phase := .chained, counted := true })
  else if (v.activeOn t.l).isEmpty && !(v.openOn t.l) && !(v.deferred.any (fun w => w.q.laddr == t.l)) && !ahead then
    s.setSlice k { (v.setTxn { t with phase := .ready, counted := true, act := v.nextArr }) with nextArr := v.nextArr + 1 }
  else s.setSlice k (v.setTxn { t with phase := .chained })

/-- ADMISSION_RELEASE (R125): the first transaction on a set's admission list is admitted. -/
def execAdmissionRelease (k set : Nat) (s : State) : Host.Outcome State Fault Refusal :=
  let v := s.slice k
  let first := (v.admissionOf set).foldl (fun b t => match b with
    | none => some t
    | some x => if t.act < x.act then some t else b) (none : Option Txn)
  .next (match first with
    | none => s
    | some t => if decide (v.countedIn set < 15) && s.works k then admitOne k t s else s)

/-- The first transaction that waits for data buffers (R244). -/
def Slice.firstBufWait (v : Slice) : Option Txn :=
  (v.txns.filter (fun t => decide (t.phase = .bufWait))).foldl (fun b t => match b with
    | none => some t
    | some x => if t.act < x.act then some t else b) (none : Option Txn)

/-- BUFFER_ACQUIRE (R244): the waiting transaction that became active first takes its buffers. -/
def execBufferAcquire (k : Nat) (s : State) : Host.Outcome State Fault Refusal :=
  .next (match (s.slice k).firstBufWait with
    | some t => if s.bufsReady k t.e t.act t.bufs && s.works k then begin_ k t.e s else s
    | none => s)

/-! ### Reserving a way (R156 to R161) -/

/-- The ways of a set that may be reserved (R158). -/
def State.sfEligible (s : State) (k set : Nat) : List Nat :=
  let v := s.slice k
  (List.range 16).filter (fun w =>
    let e := v.sfAt set w
    !(v.sfPinned set w) && (e.st == stFree || !(s.movingAt (shingleOf (sfLine set e.tag)))))

/-- Whether a line is among the last 64 that the slice back-invalidated (R174). -/
def Slice.refills (v : Slice) (l : LAddr) : Bool := v.recent.contains l

/-- Marks a way as reserved for a line: NRU bit, BI_REFILL (R160, R174). -/
def Slice.reserved (v : Slice) (set way : Nat) (l : LAddr) : Slice :=
  let v := v.sfTouch set way
  if v.refills l then { v with calib := { v.calib with biRefill := satAdd v.calib.biRefill 1 } } else v

/-- Removes a victim entry into a back-invalidation, which is its line's active transaction from this step on; it starts when it has a
thread (R121, R159, R412). -/
def startBackInv (k set way : Nat) (s : State) : State :=
  let v := s.slice k
  let ent := v.sfAt set way
  let l := sfLine set ent.tag
  let t : Txn := { e := v.freeEntry, kind := .backInv, q := { laddr := l }, arr := v.nextArr, act := v.nextArr, ent := ent, phase := .ready }
  let recent := v.recent ++ [l]
  let rot := tset (fun _ => 0) set (BitVec.ofNat 4 (way + 1)) v.sfRot
  let c := { v.calib with biTotal := satAdd v.calib.biTotal 1 }
  let w := { (v.setSf set way {}) with txns := v.txns ++ [t], nextArr := v.nextArr + 1, sfRot := rot, calib := c,
                                       recent := recent.drop (recent.length - 64) }
  activate k t.e (s.setSlice k (w.count 0x26 1))

/-- A free way of a set for a new entry, or a victim way when there is none and the home-flow share has room (R121, R159). -/
def State.wayFor (s : State) (k set : Nat) : Option (Nat × Bool) :=
  let v := s.slice k
  let el := s.sfEligible k set
  match el.find? (fun w => (v.sfAt set w).st == stFree) with
  | some w => some (w, false)
  | none => if s.homeUse k < 16 then (v.sfVictim set el).map (fun w => (w, true)) else none

/-- Makes a way of a set free for a line, by a back-invalidation when it holds a victim; answers the way (R159, R160, R52). -/
def takeWay (k set : Nat) (l : LAddr) (s : State) : Option (Nat × State) :=
  let s := sfParityCheck k set accInt s
  match s.wayFor k set with
  | none => none
  | some (w, victim) =>
    let s := if victim then startBackInv k set w s else s
    some (w, s.modSlice k (fun v => v.reserved set w l))

/-- SF_WAY_RESERVE (R156, R159). -/
def execSfWayReserve (k e : Nat) (s : State) : Host.Outcome State Fault Refusal :=
  .next (match (s.slice k).txn e with
    | none => s
    | some t =>
      if t.fresh && t.way.isNone && decide (t.phase = .running) && s.works k then
        match takeWay k (sfSet t.l) t.l s with
        | some (w, s) => s.modTxn k e (fun t => { t with way := some w })
        | none => s
      else s)

/-! ### Snoops (R90, R145, R251) -/

/-- Whether the snoop `p` of a transaction may leave now, and through which ingress point; an agent that cannot be
reached needs no credit (R129, R251). -/
def State.snoopGo (s : State) (k : Nat) (t : Txn) (p : SnpTodo) : Bool :=
  s.unreachable p.aid ||
  (match s.wayTo p.aid with
   | none => true
   | some i => (s.slice k).hasSnp i &&
       (!t.broadcasts || (decide (t.outs.length < 32) && s.bufsReady k t.e t.act 1)))

/-- Counts a snoop that leaves the slice (R174, R518). -/
def countSent (k : Nat) (t : Txn) (p : SnpTodo) (i : Nat) (s : State) : State :=
  s.modSlice k (fun v =>
    let c := v.calib
    let b := s.pol.bundle t.ent.gen p.aid.toNat
    let c := if p.attr then { c with sent := tput b (satAdd (tget (fun _ => 0) c.sent b) 1) c.sent } else c
    let c := if p.fine then { c with fineSnp := satAdd c.fineSnp 1 } else c
    let n := p.aid.toNat / 16
    let far := p.own && t.ent.st == stX && decide (128 ≤ i) && !t.broadcasts
    let c := if far then { c with specSnp := tput n (satAdd (tget (fun _ => 0) c.specSnp n) 1) c.specSnp } else c
    Slice.count 0x24 1 { v with calib := c })

/-- Sends one snoop (R65, R127, R251). -/
def sendSnoop (k e : Nat) (t : Txn) (p : SnpTodo) (i : Nat) (s : State) : State :=
  let fwd := p.op == .shared || p.op == .unique
  let m : Msg := .snp p.op p.aid (s.htid k e) t.l (if t.kind = .req then t.q.cidx else 0)
    (if fwd then t.q.aid else 0) (if fwd then t.q.txid else 0)
  let s := s.fromSlice k i (t.vc .snp) t.gtc m
  let o : SnpOut := { snp := p, via := i, start := s.now, limit := s.hub.snpTo.toNat * 1000 }
  let s := s.modTxn k e (fun t => { t with outs := t.outs ++ [o], snooped := true, bufs := t.bufs + b2n t.broadcasts })
  let s := s.modSlice k (fun v => { (v.takeSnp i) with bufUsed := v.bufUsed + b2n t.broadcasts })
  countSent k t p i s

/-- SNOOP_ISSUE (R145): the first snoop of a transaction that may leave does. -/
def snoopIssue (k e : Nat) (s : State) : State :=
  match (s.slice k).txn e with
  | none => s
  | some t =>
    if t.phase ≠ .running ∨ !(s.works k) then s
    else
      match t.todo.find? (s.snoopGo k t) with
      | none => s
      | some p =>
        let s := s.modTxn k e (fun t => { t with todo := t.todo.filter (fun x => x != p) })
        if s.unreachable p.aid then resolveSnoop k e p s
        else
          match s.wayTo p.aid with
          | some i => sendSnoop k e t p i s
          | none => resolveSnoop k e p s

def execSnoopIssue (k e : Nat) (s : State) : Host.Outcome State Fault Refusal := .next (snoopIssue k e s)

/-- Discards a response that no transaction waits for, and counts it (R130, R132, R511). -/
def discardAt (k : Nat) (slot : Bool) (s : State) : State :=
  let s := s.modSlice k (fun v => { v with discards := v.discards + 1 })
  if slot then takeSlot k true [] s else s

/-- Frees the buffer that a broadcast reserved for a snoop whose answer brings nothing (R244). -/
def freeSnoopBuf (k e : Nat) (t : Txn) (brings : Bool) (s : State) : State :=
  if t.broadcasts && !brings then
    grantRun k ((s.modTxn k e (fun t => { t with bufs := t.bufs - 1 })).modSlice k (fun v => { v with bufUsed := v.bufUsed - 1 }))
  else s

/-- An agent with a writeback in hand needs a role in an OPEN_EAVES shingle, so a way is reserved for it (R471). -/
def openRole (k e : Nat) (t : Txn) (wbp : Bool) (s : State) : State :=
  if wbp && s.shState t.sh == hmOpen && t.way.isNone then s.modTxn k e (fun t => { t with fresh := true }) else s

/-- SNOOP_RESPONSE (R74, R77, R84, R112). An answer that R84 does not allow is discarded, and the snoop times out (R4, log 15). -/
def execSnoopResponse (k : Nat) (gt : Bool) (s : State) : Host.Outcome State Fault Refusal :=
  match s.atSlice k .rsp gt with
  | some p =>
    match p.msg with
    | .rsp op aid htid pd wbp =>
      if !(s.works k) then .next s
      else
        let s1 := s.takeAtSlice k .rsp gt
        let e := htidEntry htid
        match (s.slice k).txn e with
        | none => .next (discardAt k true s1)
        | some t =>
          match t.outs.find? (fun o => o.snp.aid == aid) with
          | none => .next (discardAt k true s1)
          | some o =>
            if snpAllows t.ent.st o.snp op pd wbp || t.broadcasts then
              let r : Resp := { aid := aid, op := op, pd := pd, wbp := wbp }
              let wasted := (o.snp.attr && op == .rspI && !wbp) || (!t.disc && decide (0 < t.ssize) && !o.snp.own)
              let s1 := takeSlot k wasted [] s1
              let s1 := openRole k e t wbp s1
              .next (takeResp k e o r (freeSnoopBuf k e t r.brings s1))
            else .next (discardAt k true s1)
    | _ => .next s
  | none => .next s

/-- HOME_DAT (R84): a chunk that an agent returns to the home. -/
def execHomeDat (k : Nat) (gt : Bool) (s : State) : Host.Outcome State Fault Refusal :=
  .next (match s.atSlice k .dat gt with
    | some p =>
      match p.msg with
      | .dat kind a t htid cidx _ poison be d =>
        if !(s.works k) then s
        else if kind = 2#2 then
          (s.takeAtSlice k .dat gt).modSlice k (fun v => { v with wdat := takeReqChunk a t cidx poison be d v.wdat })
        else if kind ≠ 1#2 then s
        else
          let s1 := s.takeAtSlice k .dat gt
          let e := htidEntry htid
          match (s.slice k).txn e with
          | none => discardAt k false s1
          | some t =>
            if t.nchunk < t.chunksDue + 4 * t.outs.length then
              let s1 := s1.modSlice k (fun v => v.wroteBuf e [2 * cidx.toNat, 2 * cidx.toNat + 1])
              advance k e (s1.modTxn k e (fun t => { t with rspd := t.rspd.take cidx d poison, nchunk := t.nchunk + 1 }))
            else discardAt k false s1
      | _ => s
    | none => s)

/-- CMPACK (R83). -/
def execCmpack (k : Nat) (gt : Bool) (s : State) : Host.Outcome State Fault Refusal :=
  .next (match s.atSlice k .rsp gt with
    | some p =>
      match p.msg with
      | .cmpAck aid htid =>
        if !(s.works k) then s
        else
          let s1 := s.takeAtSlice k .rsp gt
          let e := htidEntry htid
          match (s.slice k).txn e with
          | none => discardAt k true s1
          | some t =>
            if t.ackFrom.isSome && t.q.aid == aid then
              takeSlot k false [] (s1.modTxn k e (fun t => { t with ackFrom := none }))
            else discardAt k true s1
      | _ => s
    | none => s)

/-! ### Writebacks that arrive (R109 to R115) -/

/-- Whether a transaction snoops an agent, its snoop issued or not; before its lookup that is not known yet (R112). -/
def Txn.snoops (t : Txn) (a : Aid) : Bool :=
  t.todo.any (fun p => p.aid == a) || t.outs.any (fun o => o.snp.aid == a) || t.second.contains a

/-- The active transaction that a writeback crosses: one that snoops its sender, else any (R112, R113, R166). -/
def Slice.crossed (v : Slice) (l : LAddr) (a : Aid) : Option Txn :=
  let ts := v.txns.filter (fun t => (t.phase.active && t.l == l && !(decide (t.kind = .openRes))) ||
    (decide (t.kind = .openRes) && t.cands.contains l))
  match ts.find? (fun t => t.snoops a || (t.resps.any (fun r => r.aid == a) && t.l == l)) with
  | some t => some t
  | none => ts.head?

/-- Enters a writeback on a line with no active transaction: it becomes active, ahead of the line's chain, in whose head's count it stands
when that is counted already (R111, R125). -/
def Slice.enterWb (v : Slice) (w : WbMsg) : Slice :=
  let l := w.q.laddr
  let t : Txn := { e := w.e, kind := .wb, q := w.q, src := w.src, isGt := w.isGt, gtc := w.gtc, wbCred := w.cred, wdata := w.d
                   arr := w.arr, act := v.nextArr }
  let had := v.txns.any (fun t => t.counted && t.l == l)
  let full := !had && v.setFull (sfSet l)
  let t := { t with phase := if full then .admission else .ready, counted := !full }
  { v with txns := v.txns.map (fun x => if x.l == l then { x with counted := false } else x) ++ [t], nextArr := v.nextArr + 1 }

/-- WRITEBACK_ARRIVE (R111 to R113): the writeback is decided, absorbed or deferred. -/
def takeWriteback (k : Nat) (w : WbMsg) (s : State) : State :=
  let v := s.slice k
  let l := w.q.laddr
  let defer (s : State) : State :=
    takeSlot k true [0x12, 0x13] (s.modSlice k (fun v => { v with deferred := v.deferred ++ [w] }))
  match v.crossed l w.q.aid with
  | some t =>
    let isOpen := t.kind = .openRes ∧ (t.phase ≠ .running ∨ t.l ≠ l)
    let undecided := (t.phase = .ready ∧ t.kind ≠ .wb) ∨ isOpen ∨ t.snoops w.q.aid
    if undecided then
      takeSlot k false [0x12] (s.modTxn k t.e (fun t => { t with absorbed := t.absorbed ++ [w] }))
    else
      if t.resps.any (fun r => r.aid == w.q.aid && r.wbp) then takeSlot k false [0x12] (wbAck k w true s) else defer s
  | none =>
    if v.deferred.any (fun x => x.q.laddr == l) then defer s
    else
      let waits := !(v.txns.any (fun t => t.counted && t.l == l)) && v.setFull (sfSet l)
      let s := takeSlot k false ([0x12] ++ (if waits then [0x14] else [])) (s.setSlice k (v.enterWb w))
      activate k w.e s

def execWritebackArrive (k : Nat) (gt : Bool) (s : State) : Host.Outcome State Fault Refusal :=
  .next (match s.atSlice k .req gt with
    | some p =>
      match p.msg with
      | .req q src _ wbCred =>
        let v := s.slice k
        match q.dataIn v.wdat with
        | some x =>
          if s.works k && q.op.isWb && decide (v.wbEntries < 32) then
            let w : WbMsg := { e := v.freeEntry, arr := v.nextArr, q := q, d := x.d, src := src, cred := wbCred, gtc := p.gtc, isGt := gt }
            takeWriteback k w (noteStale k w.e src
              ((s.setSlice k { v with nextArr := v.nextArr + 1, wdat := q.dropData v.wdat }).takeAtSlice k .req gt))
          else s
        | none => s
      | _ => s
    | none => s)

/-! ### Atomics (R87 to R89) -/

/-- The new word of an atomic (R87). -/
def atomicWord (op : ReqOp) (old opnd swap : W64) : W64 :=
  match op with
  | .atomAdd => old + opnd
  | .atomSwap => opnd
  | .atomCas => if old = opnd then swap else old
  | .atomAnd => old &&& opnd
  | .atomOr => old ||| opnd
  | .rdShared | .rdUnique | .makeUnique | .rdNoSnoop | .cleanShared
  | .wrLine | .wrPartial | .evict | .wbDirty | .wbOwned => old

/-- Whether a placement of dirty data finds a place in the bank now (R215). -/
def State.placesAt (s : State) (k : Nat) (l : LAddr) (d : Line) : Bool :=
  decide ((s.slice k).bank = .on) && ((s.slice k).choose s.pol.nru l (formatOf d) true).2 != .bypass

/-- Performs an atomic on the line the transaction holds (R87 to R89). -/
def operate (k e : Nat) (t : Txn) (s : State) : State :=
  let w := t.q.widx.toNat
  let old := wordOf t.line.data w
  let new := atomicWord t.q.op old (wordOf t.wdata.data 0) (wordOf t.wdata.data 1)
  let d := setWord t.line.data w new
  let places := s.placesAt k t.l d
  let s := s.modTxn k e (fun t =>
    { t with operated := true, result := old, what := .dirty, pdata := .whole d false, phh := places, place := .due })
  let s := s.modSlice k (fun v => v.count 0x38 1)
  let s := if places then sendCmp k e s else s
  pipeNext k t.l s

/-- ATOMIC_OPERATE (R88, R89): on a poisoned line the answer is CmpErr(POISONED) and the line keeps its poison. -/
def execAtomicOperate (k e : Nat) (s : State) : Host.Outcome State Fault Refusal :=
  .next (match (s.slice k).txn e with
    | none => s
    | some t =>
      if t.kind = .req ∧ t.q.op.isAtomic ∧ t.phase = .running ∧ t.settled ∧ !t.operated ∧ !t.failed ∧ t.line.full ∧ s.works k then
        let s := readBuf k e (List.range 8) s
        let t := s.bufLine k t
        if t.line.poison || t.wdata.poison then
          let s := sendErr k e rsPoisoned s
          if t.use = .rsp then s.modTxn k e (fun t => { t with what := .dirty, pdata := t.line, place := .due }) else s
        else operate k e t s
      else s)

/-! ### Placement (R78, R82, R206, R215, R224) -/

/-- Ends a placement whose writes and mirror update are done (R82). -/
def placementDone (k e : Nat) (s : State) : State :=
  match (s.slice k).txn e with
  | none => s
  | some t =>
    if t.place = .busy ∧ t.writes = 0 ∧ !t.mirror then
      advance k e (s.modTxn k e (fun t => { t with place := .done }))
    else s

/-- Queues a write that the placement waits for (R78). -/
def writeFor (k e : Nat) (l : LAddr) (d : LineBuf) (s : State) : State :=
  memWrite k (.txn e) l d.data d.poison (s.modTxn k e (fun t => { t with writes := t.writes + 1 }))

/-- Whether dirty data of a line is also written through to memory: the buddy's mirror is out of service, or the shingle
is being moved away (R49, R226, R230). -/
def State.writesThrough (s : State) (k : Nat) (l : LAddr) : Bool :=
  (s.slice k).wt226 || s.map.moves.any (fun m => m.sh == shingleOf l && m.old == k && m.begun)

/-- Queues a write that the placement waits for and that leaves its line resident (R78, R541). -/
def writeThru (k e : Nat) (l : LAddr) (d : LineBuf) (s : State) : State :=
  memWriteThru k (.txn e) l d.data d.poison (s.modTxn k e (fun t => { t with writes := t.writes + 1 }))

/-- A line placed Dirty in slot `n`: the mirror is told when the line is newly Dirty there, and the write-through is issued
(R224, R226). -/
def afterDirty (k e : Nat) (l : LAddr) (n : Nat) (wasDirty : Bool) (d : LineBuf) (through : Bool) (s : State) : State :=
  let tell := !wasDirty && s.buddyMirrors k
  let s := if tell then mirrorSet k (hcSet l) n (hcLtag l) e (s.modTxn k e (fun t => { t with mirror := true })) else s
  if through then writeThru k e l d s else s

/-- Writes poison for a line, and stores it Poisoned where the bank is ON (R71, R206). -/
def placePoison (k e : Nat) (l : LAddr) (s : State) : State :=
  let s := writeFor k e l (.whole 0 true) s
  let f : Fill := { data := 0, hst := hsPoisoned, fmt := fmtNone }
  let leave (s : State) : State := match (s.slice k).slotOf l with
    | some n => dropSlot k (hcSet l) n s
    | none => s
  if (s.slice k).bank = .on then
    let was := match (s.slice k).slotOf l with
      | some n => ((s.slice k).tagAt (hcSet l) n).hst == hsDirty
      | none => false
    let old := (s.slice k).slotOf l
    let r := placeLine k l f s
    match r.slot, old with
    | some _, some n => if was then mirrorClr k (hcSet l) n (hcLtag l) r.state else r.state
    | some _, none => r.state
    | none, _ => leave r.state
  else leave s

/-- Whether a home-held line keeps its mark under a request (R74). The atomics set it anew (R88). -/
def Txn.keepsHeld (t : Txn) : Bool := t.kind == .req && (t.q.op == .wrLine || t.q.op == .wrPartial || t.q.op == .cleanShared)

/-- Places dirty data: in the bank, or in memory when the bank is not ON or the placement bypasses (R78, R79, R215). -/
def placeDirty (k e : Nat) (t : Txn) (s : State) : State :=
  let l := t.l
  let v := s.slice k
  let wasDirty := match v.slotOf l with
    | some n => (v.tagAt (hcSet l) n).hst == hsDirty
    | none => false
  let toMemory (s : State) : State :=
    if t.partialW && !wasDirty then
      memWriteP k (.txn e) l t.pdata.data t.be (s.modTxn k e (fun t => { t with writes := t.writes + 1 }))
    else writeFor k e l t.pdata s
  let leave (s : State) : State := match (s.slice k).slotOf l with
    | some n => dropSlot k (hcSet l) n s
    | none => s
  let merged := !t.partialW || t.use == .home
  if v.bank = .on ∧ merged then
    let r := placeLine k l (dirtyFill t.pdata.data (t.phh || (t.keepsHeld && v.homeHeld l))) s
    match r.slot with
    | some n => afterDirty k e l n r.wasDirty t.pdata (s.writesThrough k l) r.state
    | none => toMemory (leave r.state)
  else toMemory (leave s)

/-- Places clean data read from memory (R204, R207, R215, R220). -/
def placeFill (k : Nat) (t : Txn) (s : State) : State :=
  let age := t.q.stream && (s.pol.stream == 1 || (s.pol.nru && s.pol.stream != 2))
  if (s.slice k).bank = .on then (placeLine k t.l (cleanFill t.pdata age t.q.stream) s).state else s

/-- The memory write of CleanShared, and of the home flow that writes a line back (R78, R399, R541). -/
def placeClean (k e : Nat) (t : Txn) (s : State) : State :=
  let l := t.l
  let v := s.slice k
  if t.pdata.full then
    if v.bank = .on then
      let r := placeLine k l (dirtyFill t.pdata.data (t.keepsHeld && v.homeHeld l)) s
      match r.slot with
      | some n => afterDirty k e l n r.wasDirty t.pdata true r.state
      | none => writeFor k e l t.pdata r.state
    else
      let s := match v.slotOf l with
        | some n => dropSlot k (hcSet l) n s
        | none => s
      writeFor k e l t.pdata s
  else
    match v.hitSlot l with
    | some n =>
      if (v.tagAt (hcSet l) n).hst = hsDirty then writeThru k e l (v.readSlot (hcSet l) n) s
      else if t.kind = .flushLine then writeFor k e l (v.readSlot (hcSet l) n) s
      else s
    | none =>
      match v.heldVictim l with
      | some x => if t.kind = .flushLine then writeFor k e l (.whole x.data x.poison) s else s
      | none => s

/-- Victim entries that a placement needs (R110). -/
def State.victimsFor (s : State) (k : Nat) (t : Txn) : Nat :=
  let v := s.slice k
  let f : Option (BitVec 2 × Bool) := match t.what with
    | .fill => some ((cleanFill t.pdata false false).fmt, false)
    | .dirty => some (if t.pdata.poison then fmtNone else formatOf t.pdata.data, !t.pdata.poison)
    | .clean => if t.pdata.full then some (if t.pdata.poison then fmtNone else formatOf t.pdata.data, !t.pdata.poison) else none
    | .poison => some (fmtNone, false)
    | .nothing => none
  match f with
  | none => 0
  | some (x, dirty) => if v.bank = .on then v.victimsNeeded (hcSet t.l) (v.choose s.pol.nru t.l x dirty).2 else 0

/-- Whether the mirror has room for what a placement makes Dirty: the buddy's set names 16 lines, Dirty lines and victims together
(R223, R224; log 36). -/
def State.mirrorRoom (s : State) (k : Nat) (t : Txn) : Bool :=
  let v := s.slice k
  let set := hcSet t.l
  let dirty := !t.pdata.poison && (t.what == .dirty || (t.what == .clean && t.pdata.full))
  let was := match v.slotOf t.l with
    | some n => (v.tagAt set n).hst == hsDirty
    | none => false
  !dirty || was || !(s.buddyMirrors k) || decide (v.bank ≠ .on) || decide (16 ≤ (v.ctlAt set).dcnt.toNat) ||
    v.victims.any (fun x => x.laddr == t.l) || decide ((v.ctlAt set).dcnt.toNat + (v.victims.filter (fun x => x.set == set)).length < 16)

/-- PLACEMENT (R215): does the placement that a transaction has due. -/
def placement (k e : Nat) (s : State) : State :=
  match (s.slice k).txn e with
  | none => s
  | some t =>
    let v := s.slice k
    let earlier := v.txns.any (fun x => x.e != e && x.phase.active && x.l == t.l && decide (x.act < t.act) && decide (x.place = .due))
    let room := decide (s.victimUse k + s.victimsFor k t ≤ 16) || s.victimsFor k t == 0
    if t.place = .due ∧ t.phase = .running ∧ !earlier ∧ room ∧ s.mirrorRoom k t ∧ s.works k then
      let s := readBuf k e (List.range 8) (s.modTxn k e (fun t => { t with place := .busy }))
      let t := s.bufLine k t
      let s := match t.what with
        | .nothing => s
        | .fill => placeFill k t s
        | .dirty => if t.pdata.poison then placePoison k e t.l s else placeDirty k e t s
        | .clean => if t.pdata.poison then placePoison k e t.l s else placeClean k e t s
        | .poison => placePoison k e t.l s
      placementDone k e s
    else s

def execPlacement (k e : Nat) (s : State) : Host.Outcome State Fault Refusal := .next (placement k e s)

/-! ### The dirty-tag mirror (R223, R224) -/

/-- Puts a line of the buddy into the mirror set: in the entry that names it, else in the lowest free entry, else in the one
that names its slot (R223). A victim keeps its entry until its write is acknowledged (R461). -/
def Slice.mirrorPut (v : Slice) (hset : Nat) (slot : BitVec 5) (ltag : BitVec 35) : Slice :=
  let at_ (i : Nat) : MirEnt := tget (fun _ => {}) v.mirror (hset * 16 + i)
  let same := leastBelow (fun i => (at_ i).v && (at_ i).ltag == ltag) 16
  let free := leastBelow (fun i => !(at_ i).v) 16
  let bySlot := leastBelow (fun i => (at_ i).slot == slot) 16
  match orElse same (orElse free bySlot) with
  | some i => { v with mirror := tset (fun _ => {}) (hset * 16 + i) { v := true, slot := slot, ltag := ltag } v.mirror }.heal 4 (hset * 16 + i)
  | none => v

/-- Clears the mirror entry of a line (R224). -/
def Slice.mirrorDrop (v : Slice) (hset : Nat) (slot : BitVec 5) (ltag : BitVec 35) : Slice :=
  let at_ (i : Nat) : MirEnt := tget (fun _ => {}) v.mirror (hset * 16 + i)
  match leastBelow (fun i => (at_ i).v && (at_ i).slot == slot && (at_ i).ltag == ltag) 16 with
  | some i => { v with mirror := tset (fun _ => {}) (hset * 16 + i) {} v.mirror }.heal 4 (hset * 16 + i)
  | none => v

/-- MIRROR_UPDATE (R224): a set is acknowledged, a clear is not. -/
def execMirrorUpdate (k : Nat) (s : State) : Host.Outcome State Fault Refusal :=
  .next (match s.atSlice k .rsp false with
    | some p =>
      if !(s.works k) then s
      else
        match p.msg with
        | .mirrorSet hset slot ltag e =>
          let s := takeSlot k true [] (s.takeAtSlice k .rsp false)
          (s.modSlice k (fun v => v.mirrorPut hset slot ltag)).sliceToSlice k (buddy k) .rsp (.mirrorAck e)
        | .mirrorClr hset slot ltag =>
          let s := takeSlot k true [] (s.takeAtSlice k .rsp false)
          s.modSlice k (fun v => v.mirrorDrop hset slot ltag)
        | _ => s
    | none => s)

/-- MIRROR_UPDATE_ACK (R224). -/
def execMirrorUpdateAck (k : Nat) (s : State) : Host.Outcome State Fault Refusal :=
  .next (match s.atSlice k .rsp false with
    | some p =>
      match p.msg with
      | .mirrorAck e =>
        if !(s.works k) then s
        else placementDone k e ((s.takeAtSlice k .rsp false).modTxn k e (fun t => { t with mirror := false }))
      | _ => s
    | none => s)

/-! ### Closing (R83, R104, R113, R125, R157) -/

/-- Whether every Dat of the home has left (R83). -/
def Txn.dataGone (t : Txn) : Bool := !(t.data && (t.use == .home || t.use == .rsp)) || t.failed || t.sent == 15#4

/-- Whether the conditions of R83 and R82 hold. -/
def Slice.closable (v : Slice) (t : Txn) : Bool :=
  decide (t.phase = .running) && t.settled && t.answered && !t.disc && (t.place == .none || t.place == .done) && t.writes == 0 &&
  (t.cmpSent || t.kind.isHome) && t.ackFrom.isNone && t.dataGone && (!t.fresh || t.way.isSome || (t.failed && !(t.resps.any (fun r => r.wbp)))) &&
  decide (t.kind ≠ .openRes) &&
  !(v.txns.any (fun x => x.e != t.e && x.phase.active && x.l == t.l && decide (x.act < t.act)))

/-- Agents whose writeback is in hand and who would be left without a role gain one; an entry in SF_X names no sharer and stays as it is
(R139, R471, log 99). -/
def State.openSharers (s : State) (k : Nat) (t : Txn) (e : SfEnt) : SfEnt :=
  if s.shState t.sh == hmOpen then
    ((t.resps.filter (fun r => r.wbp)).map (fun r => r.aid)).foldl (fun e a =>
      if e.st = stFree then entS s.pol t.l a
      else if e.st = stX ∨ (s.snoopSet t.l e).contains a then e
      else addSharer s.pol (s.slice k).thr a e) e
  else e

/-- The entry that a transaction writes at its close, in the current generation (R151, R157, R471). -/
def State.closingEnt (s : State) (k : Nat) (t : Txn) : SfEnt :=
  let e := s.openSharers k t (if t.kind = .openRes then {} else t.after s.pol (s.slice k).thr)
  if e.st = stFree then {} else { regen s.pol e with tag := sfTag t.l }

/-- Decides the next deferred writeback of a line: it becomes the line's active transaction, in the count of the one that closed (R113). -/
def nextDeferred (k : Nat) (w : WbMsg) (counted : Bool) (s : State) : State :=
  let v := s.slice k
  let t : Txn := { e := w.e, kind := .wb, q := w.q, src := w.src, isGt := w.isGt, gtc := w.gtc, wbCred := w.cred, wdata := w.d
                   arr := w.arr, act := v.nextArr, phase := .ready, counted := counted, again := true }
  let v := { v with deferred := v.deferred.filter (fun x => x.e != w.e), txns := v.txns ++ [t], nextArr := v.nextArr + 1 }
  activate k w.e (s.setSlice k v)

/-- The deferred writeback of a line that arrived first (R113). -/
def Slice.firstDeferred (v : Slice) (l : LAddr) : Option WbMsg :=
  (v.deferred.filter (fun w => w.q.laddr == l)).foldl (fun b w => match b with
    | none => some w
    | some x => if w.arr < x.arr then some w else b) none

/-- What follows the close of a line's active transaction: a deferred writeback is decided, or the head of the chain takes
over the count of the set. Behind a transaction of the line that waits for admission, the count goes back to the set (R105, R113, R125). -/
def passOn (k : Nat) (l : LAddr) (counted : Bool) (s : State) : State :=
  let v := s.slice k
  match v.activeOn l with
  | x :: _ => if counted then s.modTxn k x.e (fun t => { t with counted := true }) else s
  | [] =>
    match v.firstDeferred l with
    | some w => nextDeferred k w counted s
    | none =>
      match (if v.listedOn l then none else v.chainHead l) with
      | none => s
      | some h => s.setSlice k (if counted then v.setTxn { h with counted := true } else if h.counted then v else v.admitHead h)

/-- Frees what a transaction held: its entry, buffers and credits (R83, R240, R243, R249). -/
def release (k : Nat) (t : Txn) (s : State) : State :=
  let s := s.modSlice k (fun v =>
    { v.wroteBuf t.e (List.range 8) with txns := v.txns.filter (fun x => x.e != t.e), bufUsed := v.bufUsed - t.bufs })
  let s := voidReads k t.e t.l s
  returnWb k t.src t.wbCred (returnTracker k t.src t.cred s)

/-- TXN_CLOSE (R104, R157, R249). -/
def closeTxn (k e : Nat) (s : State) : State :=
  match (s.slice k).txn e with
  | none => s
  | some t =>
    if !((s.slice k).closable t) || !(s.works k) then s
    else
      let ent := s.closingEnt k t
      let conv := t.ent.st != stFree && t.ent.isFine && ent.st != stFree && !ent.isFine
      let s := match t.way with
        | some w => s.modSlice k (fun v => v.setSf (sfSet t.l) w ent)
        | none => s
      let express := t.kind == .req && t.act == t.arr && !t.q.op.isAtomic && t.ssize == 0
      let evs := (if conv then [0x27] else []) ++ (if express then [0x17] else if t.kind == .wb then [] else [0x18])
      let s := s.modSlice k (fun v => evs.foldl (fun v x => v.count x 1) v)
      let s := release k t s
      let s := if t.kind ≠ .flushLine then s
        else if t.failed then s.endCmd t.cmd stFailed 0x18 []
        else s.endCmd t.cmd stOk 0 [t.outcome.setWidth 64]
      grantRun k (passOn k t.l t.counted s)

def execTxnClose (k e : Nat) (s : State) : Host.Outcome State Fault Refusal := .next (closeTxn k e s)

end Sys2Proof.Machine
end

