-- ==== Sys2Proof/Machine/MemPort.lean ====
section
/-! DEFINITION. Sys2Proof/Machine/MemPort.lean: the memory ports: commands presented, credits, chunks and
acknowledgements, failures, timeouts, self-refresh (R118 to R120, R339 to R347, R540, R541). -/

namespace Sys2Proof.Machine

/-! ### Failures (R120, R343, R540, R541) -/

/-- A LINE event of a memory command. -/
def memEv (src : Nat) (c : MemCmd) (aid : Aid) (acc : Nat) : Ev := { src := src, detail := .line c.laddr c.slice aid, acc := acc }

/-- The chunks of a read that has failed after its Cmp has left follow it poisoned (R71, R83, R205, R255, log 34). -/
def Txn.restLost (t : Txn) : Txn :=
  let rest := (List.range 4).filter (fun i => !(t.line.got.getLsbD i))
  { t with rd := .none, line := rest.foldl (fun b i => b.take (BitVec.ofNat 2 i) 0 true) t.line }

/-- A read that failed: its transaction is answered CmpErr(MEM_FAIL), a speculative one is discarded (R81, R343). Where the Cmp has left
already, the rest of the data follows it poisoned (log 34). -/
def failRead (report : Bool) (c : MemCmd) (s : State) : State :=
  match c.owner with
  | .txn e =>
    match (s.slice c.slice).txn e with
    | none => s
    | some t =>
      if c.void then s
      else
        let s := if report then raise (memEv 0x17 c t.aidOf accRead) s else s
        if t.specu then s.modTxn c.slice e (fun t => { t with specu := false, spec := {}, rd := .none })
        else if t.cmpSent then advance c.slice e ((s.modTxn c.slice e Txn.restLost).modSlice c.slice (fun v => v.wroteBuf e (List.range 8)))
        else advance c.slice e (sendErr c.slice e rsMemFail (s.modTxn c.slice e (fun t => { t with rd := .done })))
  | .victim _ | .through | .prep _ | .poison | .salvage | .range _ => s

/-- A command of the window learns that one of its write-backs failed (R229, R396). -/
def noteFail (c : Option Nat) (s : State) : State :=
  match c with
  | some i => s.modCmd i (fun k => { k with wfail := true })
  | none => s

/-- A write fails: the line is reported; a move of its shingle that is not decided yet fails (R120, R539, R540). -/
def reportWrite (c : MemCmd) (aid : Aid) (s : State) : State :=
  let s := raise (memEv 0x18 c aid accWrite) s
  { s with map := { s.map with moves := s.map.moves.map (fun m =>
      if m.sh = shingleOf c.laddr ∧ m.old = c.slice ∧ m.step ≠ .unfenceWait ∧ m.step ≠ .revertWait then { m with failed := true } else m) } }

/-- Forgets that a resident line waits for the write-back of that number (R541). -/
def dropThru (k : Nat) (l : LAddr) (n : Nat) (s : State) : State :=
  s.modSlice k (fun v => { v with thru := v.thru.filter (fun x => x != (l, n)) })

/-- The reads of a line that wait at its port for a victim write (R118, R120). -/
def State.waitingReads (s : State) (k : Nat) (l : LAddr) : List MemCmd :=
  (s.mp (s.memPortOf l)).held.filter (fun c => !c.write && c.slice == k && c.laddr == l)

/-- A write of a transaction or writeback fails: CmpErr(MEM_FAIL) in place of its Cmp or WbAck (R540). -/
def failTxnWrite (k e : Nat) (s : State) : State :=
  match (s.slice k).txn e with
  | none => s
  | some t =>
    let s := s.modTxn k e (fun t => { t with writes := t.writes - 1 })
    let s := match t.kind with
      | .req => if t.cmpSent then s else sendErr k e rsMemFail s
      | .wb =>
        if t.cmpSent ∨ s.err.lost then s
        else
          let s := s.modTxn k e (fun t => { t with cmpSent := true, wbCred := .none })
          let s := reply k t .rsp (.cmpErr t.q.aid t.q.txid (s.htid k e) rsMemFail) s
          returnWb k t.src t.wbCred s
      | .flushLine => s.modTxn k e (fun t => { t with failed := true })
      | .backInv | .openRes | .lineRes | .linkClean | .mirrorTag | .recover => s
    placementDone k e s

/-- Takes a victim whose write has ended off the CAM, and clears it from the mirror unless the line is Dirty again (R116,
R224, R461). -/
def endVictim (k e : Nat) (s : State) : State :=
  match (s.slice k).victims.find? (fun x => x.e == e) with
  | none => s
  | some x =>
    let s := s.modSlice k (fun v => { v with victims := v.victims.filter (fun y => y.e != e) })
    let again := match (s.slice k).slotOf x.laddr with
      | some n => ((s.slice k).tagAt x.set n).hst == hsDirty
      | none => false
    if again || !(s.works k) then s else mirrorClr k x.set x.slot (hcLtag x.laddr) s

/-- CleanShared requests that wait for a victim write of their line go on (R74, R78). -/
def wakeClean (k : Nat) (l : LAddr) (s : State) : State :=
  s.each (((s.slice k).activeOn l).map (fun t => t.e)) (fun s e => complete k e s)

/-- A failed victim write: every request that waits on the victim receives CmpErr(MEM_FAIL); the line is lost (R120). -/
def failVictim (c : MemCmd) (e : Nat) (s : State) : State :=
  let k := c.slice
  let cmd := match (s.slice k).victims.find? (fun x => x.e == e) with
    | some x => x.cmd
    | none => none
  let s := noteFail cmd (endVictim k e s)
  let rs := s.waitingReads k c.laddr
  let s := s.modMp (s.memPortOf c.laddr) (fun m =>
    { m with held := m.held.filter (fun x => !(!x.write && x.slice == k && x.laddr == c.laddr)) })
  let s := rs.foldl (fun s r => failRead false r s) s
  let cs := ((s.slice k).activeOn c.laddr).filter (fun t => t.q.op == .cleanShared && t.kind == .req && !t.cmpSent)
  let s := cs.foldl (fun s t => sendErr k t.e rsMemFail s) s
  wakeClean k c.laddr s

/-- A write fails (R120, R461, R539, R540, R541). -/
def failWrite (c : MemCmd) (s : State) : State :=
  let aid := match c.owner with
    | .txn e => match (s.slice c.slice).txn e with
      | some t => t.aidOf
      | none => noAid
    | .victim _ | .through | .prep _ | .poison | .salvage | .range _ => noAid
  let s := reportWrite c aid s
  match c.owner with
  | .txn e => failTxnWrite c.slice e (dropThru c.slice c.laddr c.num s)
  | .victim e => failVictim c e s
  | .through | .prep _ => dropThru c.slice c.laddr c.num s
  | .range i => noteFail (some i) (dropThru c.slice c.laddr c.num s)
  | .poison | .salvage => s

/-- A command fails (R120, R343, R344). -/
def failCmd (s : State) (c : MemCmd) : State := grantRun c.slice (if c.write then failWrite c s else failRead true c s)

/-! ### Presenting commands (R118, R119, R340, R462) -/

/-- Whether a write to a line is outstanding at a port (R119). -/
def MemPort.writing (m : MemPort) (l : LAddr) : Bool := m.outst.any (fun c => c.write && c.laddr == l)

/-- Takes the first command of `todo` that may be presented: of the wanted kind, with no write to its address
outstanding or queued ahead of it (R118, R119, R462). -/
def pickCmd (m : MemPort) (write : Bool) : List MemCmd → List MemCmd → Option (MemCmd × List MemCmd)
  | _, [] => none
  | ahead, c :: rest =>
    if c.write = write ∧ !(m.writing c.laddr) ∧ !(ahead.any (fun x => x.write && x.laddr == c.laddr)) then
      some (c, ahead ++ rest)
    else pickCmd m write (ahead ++ [c]) rest

/-- The lowest tag not in use on a channel (R340). -/
def MemPort.freeTag (m : MemPort) (write : Bool) : Option Nat :=
  leastBelow (fun n => !(m.outst.any (fun c => c.write == write && c.tag.toNat == n))) 256

/-- What leaves the block with a command (R339). -/
def MemCmd.out (p : Nat) (c : MemCmd) : Out :=
  if c.write then .mwr p c.partialW c.laddr c.tag c.data c.be c.poison else .mrd p c.laddr c.cidx c.tag

/-- A victim whose write the controller has accepted frees its buffer: VB_SENT (R116). -/
def markSent (c : MemCmd) (s : State) : State :=
  match c.owner with
  | .victim e => s.modSlice c.slice (fun v => { v with victims := lmodify (fun x => x.e == e) (fun x => { x with sent := true }) v.victims })
  | .txn _ | .through | .prep _ | .poison | .salvage | .range _ => s

/-- The data of a victim's write is read from its buffer when it is presented (R116, R453). -/
def readVictim (c : MemCmd) (s : State) : MemCmd × State :=
  match c.owner with
  | .victim e =>
    let s := s.each (List.range 8) (readBufWord c.slice e c.laddr noAid accWrite)
    match (s.slice c.slice).victims.find? (fun x => x.e == e) with
    | some x => (if x.poison then { c with data := 0, poison := true } else c, s)
    | none => (c, s)
  | .txn _ | .through | .prep _ | .poison | .salvage | .range _ => (c, s)

/-- MEM_CMD_PRESENT (R340). At a port that is FAILED or in reset the command fails at once (R344, R394). -/
def execMemCmdPresent (p : Nat) (write : Bool) (s : State) : Host.Outcome State Fault Refusal :=
  let m := s.mp p
  .next (match pickCmd m write [] m.held with
    | none => s
    | some (c, rest) =>
      if m.failed ∨ m.inReset then failCmd (s.setMp p { m with held := rest }) c
      else
        match m.freeTag write with
        | none => s
        | some n =>
          if m.sr ∨ m.abort ∨ (if write then m.wrCred else m.rdCred) = 0 then s
          else
            let r := readVictim c s
            let c := { r.1 with tag := BitVec.ofNat 8 n, presented := some s.now, limit := m.timeout }
            let s := r.2
            let m := { m with held := rest, outst := m.outst ++ [c], wrCred := m.wrCred - b2n write, rdCred := m.rdCred - b2n (!write),
                              readUtil := m.readUtil + b2n (!write) }
            markSent c ((s.setMp p m).emit (c.out p)))

/-- MEM_CREDIT_RETURN (R340, R347). Under MPn_ABORT, where the integrator returns none, it is not taken (R4, log 15). -/
def execMemCreditReturn (p : Nat) (write : Bool) (s : State) : Host.Outcome State Fault Refusal :=
  let m := s.mp p
  .next (if m.abort then s else s.setMp p (if write then { m with wrCred := m.wrCred + 1 } else { m with rdCred := m.rdCred + 1 }))

/-! ### Chunks and acknowledgements (R341 to R343) -/

/-- Takes the valid chunks of a beat into a line buffer, in wrap order (R70, R71). -/
def takeChunks (cidx : BitVec 2) (valid : BitVec 4) (d : Line) (poison : BitVec 4) (b : LineBuf) : LineBuf :=
  (wrapOrder cidx).foldl (fun b i =>
    if valid.getLsbD i then b.take (BitVec.ofNat 2 i) (chunkOf d i) (poison.getLsbD i) else b) b

/-- The chunks of a read reach its transaction (R70, R81). -/
def readArrives (c : MemCmd) (valid : BitVec 4) (d : Line) (poison : BitVec 4) (s : State) : State :=
  match c.owner with
  | .txn e =>
    match (s.slice c.slice).txn e with
    | none => s
    | some t =>
      let b := takeChunks t.q.cidx valid d poison (if t.specu then t.spec else t.line)
      let t' := if t.specu then { t with spec := b } else { t with line := b }
      let v := (s.slice c.slice).wroteBuf e ((List.range 8).filter (fun w => valid.getLsbD (w / 2)))
      let s := s.setSlice c.slice (v.setTxn { t' with rd := if b.full then .done else t.rd })
      advance c.slice e s
  | .victim _ | .through | .prep _ | .poison | .salvage | .range _ => s

/-- How many chunks a mask names. -/
def chunkCount (m : BitVec 4) : Nat := ((List.range 4).filter m.getLsbD).length

/-- MEM_READ_CHUNK (R341, R343, R344). Chunks that R341 does not allow are not taken: those of no read outstanding, under MPn_ABORT, or
that have come already; the order of the others is taken as it comes (R4, log 15). -/
def execMemReadChunk (p : Nat) (tag : BitVec 8) (valid : BitVec 4) (d : BitVec 512) (poison : BitVec 4) (err : Bool) (s : State) :
    Host.Outcome State Fault Refusal :=
  let m := s.mp p
  .next (if m.failed then s.setMp p { m with discards := m.discards + chunkCount valid }
    else if m.abort then s
    else
      match m.outst.find? (fun c => !c.write && c.tag == tag) with
      | none => s
      | some c =>
        let fresh := valid &&& ~~~c.got
        let got := c.got ||| fresh
        let fails := err && !c.void
        let c' := { c with got := got, void := c.void || err }
        let outst := if got = 15#4 then m.outst.filter (fun x => !(!x.write && x.tag == tag))
          else m.outst.map (fun x => if !x.write && x.tag == tag then c' else x)
        let s := s.setMp p { m with outst := outst, discards := if c.void then m.discards + chunkCount fresh else m.discards }
        if fails then failRead true c s else if c.void then s else readArrives c fresh d poison s)

/-- A write is acknowledged without error (R82, R116, R541). -/
def ackWrite (c : MemCmd) (s : State) : State :=
  let k := c.slice
  let clean (s : State) : State :=
    if (s.slice k).thru.contains (c.laddr, c.num) then cleanSlot k c.laddr (dropThru k c.laddr c.num s) else s
  match c.owner with
  | .txn e => placementDone k e (clean (s.modTxn k e (fun t => { t with writes := t.writes - 1 })))
  | .victim e => wakeClean k c.laddr (endVictim k e s)
  | .through | .prep _ | .range _ => clean s
  | .poison | .salvage => s

/-- MEM_WRITE_ACK (R342, R343, R344). One for no write outstanding, or under MPn_ABORT, is not taken (R4, log 15). -/
def execMemWriteAck (p : Nat) (tag : BitVec 8) (err : Bool) (s : State) : Host.Outcome State Fault Refusal :=
  let m := s.mp p
  .next (if m.failed then s.setMp p { m with discards := m.discards + 1 }
    else if m.abort then s
    else
      match m.outst.find? (fun c => c.write && c.tag == tag) with
      | none => s
      | some c =>
        let s := s.setMp p { m with outst := m.outst.filter (fun x => !(x.write && x.tag == tag)) }
        if c.void then s else endWriteThrough c.slice (grantRun c.slice (if err then failWrite c s else ackWrite c s)))

/-! ### Port failures (R344, R346, R347) -/

/-- Fails every outstanding and held command of a port (R344, R347). -/
def failAll (p : Nat) (s : State) : State :=
  let m := s.mp p
  let cs := m.outst ++ m.held
  (cs.filter (fun c => !c.void)).foldl failCmd (s.setMp p { m with outst := [], held := [], heldFrom := none })

/-- Marks a memory port FAILED (R344, R346). Reason 1: memory timeout; 2: wake timeout (R447). -/
def failPort (p reason : Nat) (s : State) : State :=
  let s := s.modMp p (fun m => { m with failed := true })
  let s := raise { src := 0x19, detail := .port (128 + p) reason 0 0 false, acc := accInt } s
  failAll p s

/-- MEM_TIMEOUT (R344). -/
def execMemTimeout (p : Nat) (s : State) : Host.Outcome State Fault Refusal :=
  let m := s.mp p
  let late (c : MemCmd) : Bool := match c.presented with
    | some t => decide (t + c.limit ≤ s.now)
    | none => false
  .next (if !m.failed && !m.sr && m.outst.any late then failPort p 1 s else s)

/-- MEM_SR_ENTER (R345). The integrator raises it with no command outstanding; the commands that are outstanding stay so (R4, log 15). -/
def execMemSrEnter (p : Nat) (s : State) : Host.Outcome State Fault Refusal :=
  let m := s.mp p
  .next (if m.sr then s else s.setMp p { m with sr := true, srAt := s.now, wake := false, heldFrom := if m.held.isEmpty then none else some s.now })

/-- MEM_SR_EXIT: the time in self-refresh counts for no memory timeout (R344 to R346). -/
def execMemSrExit (p : Nat) (s : State) : Host.Outcome State Fault Refusal :=
  .next (s.modMp p (fun m =>
    let outst := if m.sr then m.outst.map (fun c => { c with presented := c.presented.map (fun t => t + (s.now - m.srAt)) })
      else m.outst
    { m with sr := false, wake := false, heldFrom := none, outst := outst }))

/-- MEM_WAKE_RAISE (R346). -/
def execMemWakeRaise (p : Nat) (s : State) : Host.Outcome State Fault Refusal :=
  let m := s.mp p
  .next (match m.heldFrom with
    | some t =>
      if m.sr && !m.wake && !m.never && !m.failed && decide (t + m.wakeDelay ≤ s.now) then
        s.setMp p { m with wake := true, wakeAt := s.now }
      else s
    | none => s)

/-- MEM_WAKE_DEADLINE (R346). -/
def execMemWakeDeadline (p : Nat) (s : State) : Host.Outcome State Fault Refusal :=
  let m := s.mp p
  .next (if m.sr && m.wake && !m.failed && decide (m.wakeAt + 1000000 ≤ s.now) then failPort p 2 s else s)

end Sys2Proof.Machine
end

