-- ==== Sys2Proof/Machine/Unreach.lean ====
section
/-! DEFINITION. Sys2Proof/Machine/Unreach.lean: agents that cannot be reached: timeouts, the notice to their instance,
and the isolation of their port (R127 to R131, R503). -/

namespace Sys2Proof.Machine

/-! ### The incoming snoops of a ridge unit (R251, R290, R291) -/

/-- Snoop credits that a ridge unit has for the snoop buffer of a CA port (R251). -/
abbrev ridgeSnoops := 16

/-- Snoops of a ridge unit that hold its credits for a CA port (R251). -/
def Ridge.snoopsAt (l : Ridge) (p : Nat) : Nat := (l.snpOut.filter (fun x => x.1 == p)).length

/-- The first entry of the incoming snoop buffer goes into the mesh when its CA port has a snoop credit; a fence marker needs
none. One for an AID that is not valid is discarded, counted and reported (R251, R290, R291). -/
def drainFirst (r : Nat) (s : State) : State :=
  let l := s.link r
  let node := s.gh.ridgeNode r
  let go (p : Nat) (x : SnpIn) (l : Ridge) : State :=
    (s.setLink r l).inject
      { vc := if x.gt then .gt else .snp, dnode := p / 2, dport := portCa0 + p % 2, snode := node, sport := portEave, gtc := x.gtc, msg := x.m }
  match l.snpIn with
  | [] => s
  | x :: rest =>
    match x.m with
    | .snpMarker _ _ cap => go cap x { l with snpIn := rest }
    | .snp _ a htid _ _ _ _ =>
      match s.agentAt a with
      | some (_, p) => if l.snoopsAt p < ridgeSnoops then go p x { l with snpIn := rest, snpOut := l.snpOut ++ [(p, a, htid)] } else s
      | none =>
        raise { src := 0x14, detail := .port (144 + r) 2 a l.peer.toNat l.peerV, acc := accLink }
          (s.setLink r { l with snpIn := rest, discard := satAdd l.discard 1 })
    | _ => s.setLink r { l with snpIn := rest }

/-- Incoming snoops go into the mesh in the order received (R290). -/
def drainSnoops (r : Nat) (s : State) : State := (List.range (s.link r).snpIn.length).foldl (fun s _ => drainFirst r s) s

/-- The credits of a ridge unit for snoops that are resolved, since their agents cannot be reached, return (R129, R251). -/
def dropPeerSnoops (bad : Aid → Bool) (r : Nat) (s : State) : State :=
  let l := s.link r
  if l.snpOut.any (fun x => bad x.2.1) then drainSnoops r (s.setLink r { l with snpOut := l.snpOut.filter (fun x => !(bad x.2.1)) }) else s

/-! ### Resolving the snoops to unreachable agents (R129, R130) -/

/-- The slices that answer, in ascending ID order. -/
def State.slicesUp (s : State) : List Nat := (List.range s.gh.slices).filter s.works

/-- Resolves an outstanding snoop: its slice's snoop credit returns and the snoop counts as answered (R129, R251). -/
def resolveOut (k e : Nat) (s : State) (o : SnpOut) : State :=
  match (s.slice k).txn e with
  | none => s
  | some t =>
    let s := giveSnp k o.via s
    let s := s.modTxn k e (fun t => { t with outs := t.outs.filter (fun x => x.snp.aid != o.snp.aid) })
    resolveSnoop k e o.snp (freeSnoopBuf k e t false s)

/-- Resolves what one transaction waits for from agents that `bad` names (R129, R130). -/
def resolveTxn (bad : Aid → Bool) (k : Nat) (s : State) (e : Nat) : State :=
  match (s.slice k).txn e with
  | none => s
  | some t =>
    let s := if t.ackFrom.isSome && bad t.q.aid then s.modTxn k e (fun t => { t with ackFrom := none }) else s
    (t.outs.filter (fun o => bad o.snp.aid)).foldl (resolveOut k e) s

/-- Resolves at once what every transaction of the instance waits for from agents that `bad` names (R130). -/
def resolveAgents (bad : Aid → Bool) (s : State) : State :=
  let s := s.each (List.range s.gh.ridgePorts) (fun s r => dropPeerSnoops bad r s)
  s.each s.slicesUp (fun s k => ((s.slice k).txns.map (fun t => t.e)).foldl (resolveTxn bad k) s)

/-- Marks agents unreachable and resolves what waits for them (R128, R130). -/
def markUnreachable (as : List Aid) (s : State) : State :=
  let new := as.filter (fun a => !(s.pkg.unreach.contains a))
  resolveAgents as.contains { s with pkg := { s.pkg with unreach := s.pkg.unreach ++ new } }

/-! ### Timeouts (R127, R452) -/

/-- Whether the timeout of a snoop has elapsed; it does not run while the link it left through is RETRAINING (R307). -/
def State.snoopLate (s : State) (o : SnpOut) : Bool :=
  decide (o.start + o.limit ≤ s.now) && !(decide (128 ≤ o.via) && decide ((s.link (o.via - 128)).st = .retraining))

/-- Whether a CmpAck timeout has elapsed (R127). -/
def State.ackLate (s : State) (t : Txn) : Bool :=
  match t.ackFrom with
  | some a =>
    decide (a + t.ackLimit ≤ s.now) && !(decide (128 ≤ t.src) && decide ((s.link (t.src - 128)).st = .retraining))
  | none => false

/-- The timeouts that fire now: the slice, the agent, and true for a CmpAck (R127). -/
def State.timedOut (s : State) : List (Nat × Aid × Bool) :=
  s.slicesUp.flatMap (fun k => (s.slice k).txns.flatMap (fun t =>
    ((t.outs.filter s.snoopLate).map (fun o => (k, o.snp.aid, false))) ++ (if s.ackLate t then [(k, t.q.aid, true)] else [])))

/-- A home finds an agent unreachable by timeout: it marks it, and tells the instance that carries its port (R128). -/
def findUnreachable (s : State) (x : Nat × Aid × Bool) : State :=
  if s.pkg.unreach.contains x.2.1 then s
  else
    let s := match s.agentAt x.2.1 with
      | some (i, _) => s.sendMgtFrom (x.1, portSlice) i (.unreach x.2.1 x.2.2)
      | none => s
    markUnreachable [x.2.1] s

/-- SNOOP_TIMEOUT_CHECK (R127): at each multiple of 1,024 ticks. -/
def execSnoopTimeoutCheck (s : State) : Host.Outcome State Fault Refusal :=
  .next (if s.ptcNow % 1024 = 0 then s.timedOut.foldl findUnreachable s else s)

/-! ### The agent table (R291) -/

/-- The AIDs that the agent table places on a CA port of this instance. -/
def State.aidsOf (s : State) (p : Nat) : List Aid :=
  ((s.pkg.agents.filter (fun x => x.2.1 == s.inst && x.2.2.toNat == p)).map (fun x => x.1)).map (BitVec.ofNat 11)

/-- Clears entries of the agent table and sends the change to every joined peer (R291). -/
def clearAgents (p : Nat) (as : List Aid) (s : State) : State :=
  let s := { s with pkg := { s.pkg with agents := s.pkg.agents.filter (fun x => !(as.contains (BitVec.ofNat 11 x.1))) } }
  as.foldl (fun s a => s.toJoined (.agent a false (BitVec.ofNat 7 p))) s

/-! ### Isolation of a CA port (R128, R503) -/

/-- Packets that are in the mesh. -/
def State.inMesh (s : State) : List Pkt :=
  (s.mesh.inBuf.flatMap (fun x => x.2)) ++ (s.mesh.eject.flatMap (fun x => x.2))

/-- Entries of slice `k` that requests of ingress point `i` took with a credit of kind `c`, those on their way included, and credits of
that kind on their way back. -/
def State.entriesBy (s : State) (k i : Nat) (c : CredKind) : Nat :=
  ((s.slice k).txns.filter (fun t => t.src == i && t.cred == c)).length +
  (s.inMesh.filter (fun p => match p.msg with
    | .req _ src cred _ => src == i && cred == c && p.dnode == k
    | .creditBack src cred => src == i && cred == c && p.dnode == k
    | _ => false)).length

/-- Data buffers of slice `k` that messages of ingress point `i` took with a WB credit or data grant. -/
def State.buffersBy (s : State) (k i : Nat) (c : CredKind) : Nat :=
  let v := s.slice k
  let held (w : WbMsg) : Bool := w.src == i && w.cred == c
  (v.txns.filter (fun t => t.src == i && t.wbCred == c)).length + (v.deferred.filter held).length +
  lsum (v.txns.map (fun t => (t.absorbed.filter held).length)) +
  (s.inMesh.filter (fun p => match p.msg with
    | .req _ src _ wb => src == i && wb == c && p.dnode == k
    | .creditBack src cred => src == i && cred == c && p.dnode == k
    | _ => false)).length

/-- The unspent shared credits and data grants of an ingress point go back to the pools of every slice (R246). -/
def dropCredits (i : Nat) (s : State) : State :=
  s.each (List.range s.gh.slices) (fun s k =>
    let sh := s.entriesBy k i .shared
    let gr := s.buffersBy k i .grant
    grantRun k (s.modSlice k (fun v =>
      { v with
        shared := { v.shared with held := tput i sh v.shared.held }
        grants := { v.grants with held := tput i gr v.grants.held } })))

/-- The transactions that the slices of this instance hold for a port, by their HTIDs (R504). -/
def State.openAt (s : State) (p : Nat) : List (BitVec 20) :=
  (List.range s.gh.slices).flatMap (fun k =>
    let v := s.slice k
    let ws := v.deferred ++ v.txns.flatMap (fun t => t.absorbed)
    ((v.txns.filter (fun t => (decide (t.kind = .req) || decide (t.kind = .wb)) && t.src == p)).map (fun t => s.htid k t.e)) ++
      (ws.filter (fun w => w.src == p)).map (fun w => s.htid k w.e))

/-- The proxy entries of a port under PORT_RESET: one that waits only for a CmpAck is freed, any other when its answer arrives (R503). -/
def Ridge.isolated (p : Nat) (l : Ridge) : Ridge :=
  let acked := l.proxies.filter (fun x => x.port == p && x.answered)
  { l with
    proxies := (l.proxies.filter (fun x => !(x.port == p && x.answered))).map (fun x => if x.port = p then { x with stale := true } else x)
    proxyPool := acked.foldl (fun q x => if x.guar then q else q.sub p) l.proxyPool }

/-- A CA port enters ISOLATED: its requests, snoops and credits are gone, its agents unreachable everywhere, and the routers' drained state
ends (R128, R283, R394, R503). -/
def isolatePort (p : Nat) (s : State) : State :=
  let as := s.aidsOf p
  let s := s.modCa p (fun c =>
    { c with
      st := .isolated
      ready := false
      advs := []
      refused := false
      written := false
      abandoned := false
      tableAcks := 0
      awaitPeers := 0
      reqCrd := 0
      rspiCrd := 0
      datiCrd := 0
      datoAt := none
      ingress := []
      dataDrop := []
      snpBuf := []
      snpOut := []
      cred := []
      markers := []
      markersDue := []
      acks := []
      stale := c.stale ++ s.openAt p })
  let s := s.each (List.range s.gh.ridgePorts) (fun s r => s.modLink r (Ridge.isolated p))
  let s := markUnreachable as { s with mesh := { s.mesh with drained := false } }
  clearAgents p as (dropCredits p s)

/-- UNREACHABLE_NOTICE (R128): the instance of the agent's port isolates the whole port. -/
def execUnreachableNotice (aid : BitVec 11) (cmpAck : Bool) (s : State) : Host.Outcome State Fault Refusal :=
  .next (match s.agentAt aid with
    | some (i, p) =>
      if i = s.self ∧ (s.ca p).st ≠ .isolated then
        raise { src := 0x13, detail := .port p (if cmpAck then 2 else 1) aid 0 false, acc := if cmpAck then accInt else accSnoop } (isolatePort p s)
      else s
    | none => s)

/-! ### A link enters FAILED (R306 to R311) -/

/-- Agents that are present at this instance (R311). -/
def State.presentAgents (s : State) : List Aid :=
  (s.pkg.agents.filter (fun x => x.2.1 == s.inst)).map (fun x => BitVec.ofNat 11 x.1)

/-- Whether the instance may still receive the region table of a package: none of its links is JOINED, and one trains or joins (R40,
R306). -/
def State.joining (s : State) : Bool :=
  let ls := (List.range s.gh.ridgePorts).map s.link
  ls.any (fun l => l.joinSent || decide (l.st = .training) ||
    ((decide (l.st = .linked) || (decide (l.st = .retraining) && decide (l.was = .linked))) && l.joinWanted)) &&
    !(ls.any (fun l => decide (l.st = .joined)))

/-- A QUIESCED port whose CAPn_ACTIVE is sampled high leaves for BRINGUP when it is enabled, the instance has reached READY and
holds the region table (R332, R40). -/
def tryBringup (p : Nat) (s : State) : State :=
  let c := s.ca p
  if c.st = .quiesced ∧ c.active ∧ c.enable ∧ s.rst.ready ∧ !s.joining then
    s.setCa p { c with st := .bringup, rspiCrd := 16, advs := [], refused := false, written := false, abandoned := false, nag := 0 }
  else s

/-- The ports that waited for a join leave QUIESCED when they may (R40, R332). -/
def retryBringups (s : State) : State := (List.range s.gh.caPorts).foldl (fun s p => tryBringup p s) s

/-- A link enters FAILED for a reason of R447. What depends on a link that was the peer route is handled by LINK_FAIL; from then on
the scans of R309 and the agents of this end are due before a rejoin (R288, R308, R311). -/
def failLink (r reason : Nat) (s : State) : State :=
  let l := s.link r
  let carried := l.peerV && l.peer != s.inst && s.peerPort l.peer.toNat == some r
  let v := { l with st := .failed, since := s.now, joinWanted := false, joinSent := false, joinIn := none, joinCmd := none, theta := none }
  let t := if carried then s.setLink r { v with failDue := true, duePeer := l.peer, scansDue := s.slicesUp, agentsDue := s.presentAgents }
    else s.setLink r v
  retryBringups (raise { src := 0x1C, detail := .port (144 + r) reason 0 l.peer.toNat l.peerV, acc := accLink } (t.endCmd l.joinCmd stFailed 0x1C []))

end Sys2Proof.Machine
end

