-- ==== Sys2Proof/Machine/CaPort.lean ====
section
/-! DEFINITION. Sys2Proof/Machine/CaPort.lean: the caching-agent ports: bring-up and quiescing, the messages taken and
sent, and how ingress points spend their credits (R32 to R34, R246 to R252, R291, R325 to R338, R424). -/

namespace Sys2Proof.Machine

/-! ### What a port sends (R67, R69, R330) -/

/-- Sends a message on RSPO; a CmpErr is counted (R330, R519). -/
def sendRspo (p : Nat) (m : BitVec 128) (s : State) : State :=
  let s := s.emit (.rspo p m)
  if fld m 0 6 = 0x3D then s.modCa p (fun c => c.count 0x0C 1) else s

/-- Discards a response at a port, and counts it (R130, R519). -/
def discardCa (p : Nat) (s : State) : State :=
  s.modCa p (fun c =>
    let c := { c with discards := satAdd c.discards 1 }
    if c.st = .isolated then c else CaPort.count 0x0D 1 c)

/-- PORT_PROTOCOL (R446, R447): 1 an ADV refused, 2 an AID that is not valid, 3 FOREIGN_AID. -/
def portProtocol (p reason : Nat) (a : Aid) (s : State) : State :=
  raise { src := 0x14, detail := .port p reason a 0 false, acc := accInt } s

/-- Sends a packet from CA port `p`; `beat`: the data beat that brought it (R327). -/
def fromCa (p node port : Nat) (vc : VC) (gtc : Nat) (beat : Option Nat) (m : Msg) (s : State) : State :=
  let o := s.ingressAt p
  s.inject { vc := vc, dnode := node, dport := port, snode := o.1, sport := o.2, gtc := gtc, beat := beat, msg := m }

/-- The packets of CA port `p` on a channel and lane that still wait for room in the mesh (R264, R265). -/
def State.outside (s : State) (p : Nat) (vc : VC) (data : Bool) : List Pkt :=
  let o := s.ingressAt p
  ((s.inputBuf o.1 o.2 vc).filter (fun x => x.onData == data)).drop (vcDepth vc)

/-- The RSPI credits of the agent side of a port: those given, less one for each message that has not entered the mesh (R327). -/
def State.rspiFree (s : State) (p : Nat) : Nat :=
  let mine (x : Pkt) : Bool := match x.msg with
    | .rsp .. | .cmpAck .. => true
    | _ => false
  (s.ca p).rspiCrd - ((s.outside p .rsp false ++ s.outside p .gt false).filter mine).length

/-- The DATI credits of the agent side of a port: those given, less one for each beat with a chunk that has not entered the mesh (R327). -/
def State.datiFree (s : State) (p : Nat) : Nat :=
  (s.ca p).datiCrd - ((s.outside p .dat true ++ s.outside p .gt true).filterMap (fun x => x.beat)).eraseDups.length

/-- Sends a message from CA port `p` to instance `i`: to the place that `here` names, or through the ridge unit (R289). A
message for an instance that no link leads to is discarded and counted (R308). -/
def routeCa (p i : Nat) (here : Nat × Nat) (vc : VC) (gtc : Nat) (beat : Option Nat) (m : Msg) (s : State) : State :=
  if i = s.self then fromCa p here.1 here.2 vc gtc beat m s
  else
    match s.pathTo i with
    | some r => fromCa p (s.gh.ridgeNode r) portEave vc gtc beat m s
    | none => discardCa p s

/-! ### Requests answered at the port (R33, R64, R292, R329, R424) -/

/-- The chunks of a request that have not arrived (R328). -/
def IngEntry.missing (x : IngEntry) : BitVec 4 := x.q.op.chunks &&& ~~~x.d.got

/-- Answers a request at its port with CmpErr; its credit returns, and chunks still to come are discarded (R64, R327). -/
def refuse (p : Nat) (reason : BitVec 8) (x : IngEntry) (s : State) : State :=
  let s := sendRspo p (encodeCmpErr x.q.aid x.q.txid 0 reason) s
  s.modCa p (fun c =>
    { c with reqCrd := if c.st = .active then c.reqCrd + 1 else c.reqCrd
             dataDrop := if x.missing = 0 then c.dataDrop else c.dataDrop ++ [(x.q.aid, x.q.txid, x.missing)] })

/-- Whether an AID is accepted at a port (R329). -/
def State.ownAid (s : State) (p : Nat) (a : Aid) : Bool :=
  (s.ca p).agents.any (fun x => x.aid == a) && s.agentAt a == some (s.self, p)

/-- The peer that is the home of a request, when no link that is JOINED or RETRAINING leads to it (R292). -/
def State.noRoute (s : State) (i : Nat) : Bool := i != s.self && (s.pathTo i).isNone

/-- A LINE event about a request at an ingress point (R447). -/
def reqEv (src : Nat) (l : LAddr) (a : Aid) (op : ReqOp) : Ev :=
  { src := src, detail := .line l noSlice a, acc := op.acc }

/-- What a request is answered with at once, and the event raised: AID, opcode, home and route are checked in this order
(R33, R64, R292, R329, R451). -/
def State.reqCheck (s : State) (p : Nat) (m : BitVec 128) : Option (BitVec 8 × Option Ev) :=
  let q := decodeReq m
  if !(s.ownAid p q.aid) then some (rsBadAid, some { src := 0x14, detail := .port p 3 q.aid 0 false, acc := accInt })
  else if !(reqSupported m) then some (rsUnsupported, some (reqEv 0x11 q.laddr q.aid q.op))
  else if s.err.lost then some (rsSliceLost, none)
  else
    match homeOf s.map.active q.laddr with
    | none => some (rsNoHome, some (reqEv 0x12 q.laddr q.aid q.op))
    | some (i, _) => if s.noRoute i then some (rsLinkLost, some (reqEv 0x2C q.laddr q.aid q.op)) else none

/-- The ingress entry of a request of a port (R47, R266). -/
def State.ingEntry (s : State) (q : Req) : IngEntry :=
  let g := s.gtOf q.aid
  { q := q, be := 0, arr := s.now, isGt := g.1, part := BitVec.ofNat 4 g.2
    peer := match homeOf s.map.active q.laddr with
      | some (i, _) => if i = s.self then none else some (BitVec.ofNat 3 i)
      | none => none }

/-- CA_REQUEST (R32, R33, R47, R64, R292, R327, R329). One that is sent without a credit is not taken (R4, log 15). -/
def execCaRequest (p : Nat) (msg : BitVec 128) (s : State) : Host.Outcome State Fault Refusal :=
  let c := s.ca p
  if c.st = .isolated ∨ c.reqCrd = 0 then .next s
  else
    let x := s.ingEntry (decodeReq msg)
    let s := s.modCa p (fun c => CaPort.count 0x02 1 { c with reqCrd := c.reqCrd - 1 })
    .next (match s.reqCheck p msg with
      | some (reason, ev) =>
        let known := (reqOpOf (fld msg 0 6)).isSome
        let s := refuse p reason (if known then x else { x with q := { x.q with op := .evict } }) s
        match ev with
        | some e => raise e s
        | none => s
      | none => s.modCa p (fun c =>
          { c with ingress := c.ingress ++ [x] }))

/-! ### Data from the agents (R69, R71, R328) -/

/-- Takes a chunk of request data into its entry (R71, R79). -/
def IngEntry.takeChunk (x : IngEntry) (cidx : BitVec 2) (poison : Bool) (be : BitVec 16) (d : BitVec 128) : IngEntry :=
  { x with d := x.d.take cidx d poison, be := x.be ||| ((be.setWidth 64) <<< (16 * cidx.toNat)) }

/-- Whether a chunk belongs to an entry that waits for it (R64, R328). -/
def IngEntry.wants (x : IngEntry) (a : Aid) (t : BitVec 12) (cidx : BitVec 2) : Bool :=
  x.q.aid == a && x.q.txid == t && x.missing.getLsbD cidx.toNat

/-- Takes a chunk of a request that was answered at the port off the list of chunks to discard. -/
def dropChunk (a : Aid) (t : BitVec 12) (cidx : BitVec 2) (l : List (Aid × BitVec 12 × BitVec 4)) : List (Aid × BitVec 12 × BitVec 4) :=
  (l.map (fun x => if x.1 == a && x.2.1 == t then (x.1, x.2.1, x.2.2 &&& ~~~(1#4 <<< cidx.toNat)) else x)).filter (fun x => x.2.2 != 0)

/-- Request data, KIND 10 (R328, R329). -/
def takeReqData (p : Nat) (a : Aid) (t : BitVec 12) (cidx : BitVec 2) (poison : Bool) (be : BitVec 16) (d : BitVec 128) (s : State) :
    State :=
  let c := s.ca p
  if !(s.ownAid p a) then portProtocol p 3 a (discardCa p s)
  else if c.dataDrop.any (fun x => x.1 == a && x.2.1 == t && x.2.2.getLsbD cidx.toNat) then
    discardCa p (s.setCa p { c with dataDrop := dropChunk a t cidx c.dataDrop })
  else if c.ingress.any (fun x => x.wants a t cidx) then
    s.setCa p { c with ingress := lmodify (fun x => x.wants a t cidx) (fun x => x.takeChunk cidx poison be d) c.ingress }
  else discardCa p s

/-- Whether a delivered snoop has been answered and every chunk of its answer has passed. -/
def SnpDel.passed (x : SnpDel) : Bool := decide (x.due = some x.sent)

/-- One more chunk has passed for a snoop that was delivered; it is forgotten when its answer and chunks have all passed. -/
def passChunk (q : SnpDel → Bool) (l : List SnpDel) : List SnpDel :=
  (lmodify q (fun x => { x with sent := x.sent + 1 }) l).filter (fun x => !x.passed)

/-- The delivered snoop that a chunk towards the home belongs to. The header names the transaction only: one whose answer still waits for
chunks, else one that has no answer yet (R69, R266, log 42). -/
def chunkTo (htid : BitVec 20) (l : List SnpDel) (x : SnpDel) : Bool :=
  if l.any (fun y => y.htid == htid && y.due.isSome) then x.htid == htid && x.due.isSome else x.htid == htid

/-- One lane of a data beat (R69, R72, R289, R291, R328, R329). -/
def takeLane (p : Nat) (hdr : BitVec 80) (data : BitVec 128) (s : State) : State :=
  let c := s.ca p
  match decodeDat hdr data with
  | some (.dat kind a t htid cidx last poison be d) =>
    let s := s.modCa p (CaPort.count 0x0A 1)
    let cls (q : SnpDel → Bool) : Bool × Nat := match c.snpOut.find? q with
      | some x => (x.gt, x.gtc)
      | none => (false, 0)
    let pass (q : SnpDel → Bool) (s : State) : State := s.modCa p (fun c => { c with snpOut := passChunk q c.snpOut })
    let chunk : Msg := .dat kind a t htid cidx last poison be d
    if kind = 2#2 then takeReqData p a t cidx poison be d s
    else if kind = 1#2 then
      let q := chunkTo htid c.snpOut
      routeCa p (htidInst htid) (htidSlice htid, portSlice) (if (cls q).1 then .gt else .dat) (cls q).2 (some c.beats) chunk (pass q s)
    else if kind = 0#2 then
      let q (x : SnpDel) : Bool := x.raid == a && x.rtxid == t && (x.htid == htid || htid == 0)
      match s.agentAt a with
      | none => portProtocol p 2 a (discardCa p s)
      | some (i, r) =>
        routeCa p i (r / 2, portCa0 + r % 2) (if (cls q).1 then .gt else .dat) (cls q).2 (some c.beats) chunk (pass q s)
    else discardCa p s
  | _ => s

/-- The lanes of a beat with VALID set. -/
def validLanes (hdr : BitVec 160) : Nat := b2n (bit hdr 0) + b2n (bit hdr 80)

/-- CA_DATI_CHUNK (R69, R72, R289, R291, R326 to R329): a beat of two lanes. One that is sent without a credit is not taken (R4, log 15);
at an ISOLATED port its chunks are discarded and counted (R130). -/
def execCaDatiChunk (p : Nat) (hdr : BitVec 160) (data : BitVec 256) (s : State) : Host.Outcome State Fault Refusal :=
  let c := s.ca p
  .next (if c.st = .isolated then (List.range (validLanes hdr)).foldl (fun s _ => discardCa p s) s
    else if s.datiFree p = 0 then s
    else
      let s := takeLane p (hdr.extractLsb' 80 80) (data.extractLsb' 128 128)
        (takeLane p (hdr.extractLsb' 0 80) (data.extractLsb' 0 128) s)
      s.modCa p (fun c => { c with beats := c.beats + 1 }))

/-! ### Responses from the agents (R66, R329) -/

/-- Chunks that come with a response (R66). -/
def RspOp.brings : RspOp → Nat
  | .rspIWb | .rspSWb | .rspIFwd | .rspSFwd | .rspO => 4
  | .rspI | .rspS => 0

/-- An agent's snoop credit returns (R327). -/
def CaPort.freeSnoop (c : CaPort) (a : Aid) : CaPort :=
  { c with agents := c.agents.map (fun x => if x.aid = a then { x with free := Nat.min (x.free + 1) x.scred } else x) }

/-- The answer of an agent to a delivered snoop `x` brings `n` chunks. Chunks towards the home that passed before any answer were counted
for the first snoop of the transaction; they belong to the one whose answer brings them (R266, log 42). -/
def answerSnoop (x : SnpDel) (n : Nat) (l : List SnpDel) : List SnpDel :=
  let me (y : SnpDel) : Bool := y.aid == x.aid && y.htid == x.htid && y.due.isNone
  let open_ (y : SnpDel) : Bool := y.htid == x.htid && y.due.isNone
  let all := lsum ((l.filter open_).map (fun y => y.sent))
  let clear := l.map (fun y => if open_ y then { y with sent := 0 } else y)
  let set_ := lmodify me (fun y => { y with due := some n, sent := if n = 0 then 0 else all }) clear
  (if n = 0 then lmodify open_ (fun y => { y with sent := all }) set_ else set_).filter (fun y => !y.passed)

/-- The class in which the Cmp of a transaction came, which is that of its CmpAck (R266, R440). -/
def CaPort.ackClass (c : CaPort) (htid : BitVec 20) : Bool × Nat :=
  match c.acks.find? (fun x => x.1 == htid) with
  | some x => x.2
  | none => (false, 0)

/-- CA_RSPI_MESSAGE (R66, R251, R266, R327, R329). One that is sent without a credit is not taken (R4, log 15); at an ISOLATED port it is
discarded and counted (R130). -/
def execCaRspiMessage (p : Nat) (msg : BitVec 128) (s : State) : Host.Outcome State Fault Refusal :=
  let c := s.ca p
  let foreign (a : Aid) : State := portProtocol p 3 a (discardCa p s)
  .next (if c.st = .isolated then discardCa p s
    else if s.rspiFree p = 0 then s
    else
      match decodeRsp msg with
      | some (.rsp op a htid pd wbp) =>
        if !(s.ownAid p a) then foreign a
        else
          match c.snpOut.find? (fun x => x.aid == a && x.htid == htid && x.due.isNone) with
          | none => discardCa p s
          | some x =>
            routeCa p (htidInst htid) (htidSlice htid, portSlice) (if x.gt then .gt else .rsp) x.gtc none (.rsp op a htid pd wbp)
              (s.setCa p { (c.freeSnoop a) with snpOut := answerSnoop x op.brings c.snpOut })
      | some (.cmpAck a htid) =>
        if !(s.ownAid p a) then foreign a
        else
          let g := c.ackClass htid
          routeCa p (htidInst htid) (htidSlice htid, portSlice) (if g.1 then .gt else .rsp) g.2 none (.cmpAck a htid)
            (s.setCa p { c with acks := lremove (fun x => x.1 == htid) c.acks })
      | _ => discardCa p s)

/-! ### Bring-up (R332 to R336) -/

/-- CAP_ACTIVE_RISE (R332). -/
def execCapActiveRise (p : Nat) (s : State) : Host.Outcome State Fault Refusal :=
  .next (tryBringup p (s.modCa p (fun c => { c with active := true })))

/-- Results of ADVACK (R334). -/
abbrev advAccepted := 0
abbrev advInUse := 1
abbrev advBadField := 2
abbrev advSequence := 3

/-- An ADVACK (R334). -/
def encodeAdvAck (a : Aid) (result : Nat) : BitVec 128 := pack 128 [(0, 0x3A), (6, a.toNat), (17, result)]

/-- The ADV of a message (R333). -/
def decodeAdv (m : BitVec 128) : Adv :=
  { aid := m.extractLsb' 6 11, scred := m.extractLsb' 17 4, nag := m.extractLsb' 21 5, idx := m.extractLsb' 26 4
    badField := decide (fld m 17 4 < 4) || decide (fld m 21 5 < 1) || decide (16 < fld m 21 5) }

/-- Whether the NAG of an ADV is reserved (R333). -/
def Adv.badNag (a : Adv) : Bool := decide (a.nag.toNat < 1) || decide (16 < a.nag.toNat)

/-- ADV (R333, R334): the ADV joins those of the bring-up; a message that the bring-up does not call for is not taken (R4, log 15). One
whose first NAG is reserved is the only one, answered at once; every later one of a refused bring-up is answered SEQUENCE. -/
def execAdv (p : Nat) (msg : BitVec 128) (s : State) : Host.Outcome State Fault Refusal :=
  let c := s.ca p
  let a := decodeAdv msg
  .next (if c.st ≠ .bringup ∨ c.rspiCrd = 0 ∨ fld msg 0 6 ≠ 0x39 ∨ c.abandoned then s
    else if c.refused then sendRspo p (encodeAdvAck a.aid advSequence) s
    else
      match c.advs with
      | [] =>
        if a.badNag then
          portProtocol p 1 a.aid (sendRspo p (encodeAdvAck a.aid advBadField) (s.setCa p { c with refused := true }))
        else s.setCa p { c with advs := [a], nag := a.nag }
      | _ :: _ => if c.advs.length < c.nag.toNat then s.setCa p { c with advs := c.advs ++ [a] } else s)

/-- The result of the ADV in place `i`, among the ADVs of the bring-up (R334). -/
def State.advResult (s : State) (l : List Adv) (i : Nat) (a : Adv) : Nat :=
  if a.badField then advBadField
  else if (s.agentAt a.aid).isSome || (l.take i).any (fun x => x.aid == a.aid) then advInUse
  else if a.idx.toNat ≠ i ∨ (l.head?.map (fun x => x.nag)) ≠ some a.nag then advSequence
  else advAccepted

/-- The ADVs of a bring-up with their results, in order. -/
def State.advResults (s : State) (l : List Adv) : List (Adv × Nat) := l.zipIdx.map (fun x => (x.1, s.advResult l x.2 x.1))

/-- The mask of the joined peers. -/
def State.peerMask (s : State) : BitVec 8 := pack 8 (s.joinedPeers.map (fun i => (i, 1)))

/-- Writes the agent table entries of a bring-up and sends them to every joined peer (R335). -/
def writeAgents (p : Nat) (l : List Adv) (s : State) : State :=
  let s := { s with pkg := { s.pkg with
      agents := l.foldl (fun t (a : Adv) => tput a.aid.toNat (s.inst, BitVec.ofNat 7 p) t) s.pkg.agents } }
  let s := l.foldl (fun s (a : Adv) => s.toJoined (.agent a.aid true (BitVec.ofNat 7 p))) s
  s.modCa p (fun c =>
    { c with written := true, tableAcks := s.peerMask
             agents := l.map (fun (a : Adv) => { aid := a.aid, scred := a.scred.toNat, free := a.scred.toNat }) })

/-- ADV_CHECK (R334, R335): after the last ADV, all are accepted or all are answered with their refusals. -/
def execAdvCheck (p : Nat) (s : State) : Host.Outcome State Fault Refusal :=
  let c := s.ca p
  .next (if c.st = .bringup ∧ !c.refused ∧ !c.written ∧ !c.abandoned ∧ c.advs ≠ [] ∧ c.advs.length = c.nag.toNat then
      let rs := s.advResults c.advs
      match rs.find? (fun x => x.2 != advAccepted) with
      | none => writeAgents p c.advs s
      | some bad =>
        let s := rs.foldl (fun s x => sendRspo p (encodeAdvAck x.1.aid (if x.2 = advAccepted then advSequence else x.2)) s) s
        portProtocol p 1 bad.1.aid (s.modCa p (fun c => { c with refused := true }))
    else s)

/-- Slice `k` sends an ingress point its guaranteed tracker credits, and a CA port its WB credits, less those whose entries are still
open (R245, R246; log 24). -/
def sendFirst (i k : Nat) (s : State) : State :=
  let gt := (if i < 128 then 1 else 8) - s.entriesBy k i .gt
  let any := (if i < 128 then 3 else 24) - s.entriesBy k i .any
  let wb := (if i < 128 then 2 else 0) - s.buffersBy k i .wb
  sendCredits k i .wb wb (sendCredits k i .any any (sendCredits k i .gt gt s))

/-- Agents that have completed bring-up are reachable again, and have given up every line (R128, R311, R472). -/
def agentsBack (as : List Aid) (s : State) : State :=
  let keep (l : List Aid) : List Aid := l.filter (fun a => !(as.contains a))
  let s := { s with pkg := { s.pkg with unreach := keep s.pkg.unreach } }
  let s := s.each (List.range s.gh.ridgePorts) (fun s r =>
    if (s.link r).agentsDue.isEmpty then s else s.modLink r (fun l => { l with agentsDue := keep l.agentsDue }))
  s.each (List.range s.gh.slices) (fun s k =>
    if (s.slice k).exitSets.isEmpty then s
    else s.modSlice k (fun v => { v with exitSets := v.exitSets.map (fun x => (x.1, keep x.2)) }))

/-- Packets of credits on their way to a port are gone with the bring-up that they were sent in (R504). -/
def purgeCredits (p : Nat) (s : State) : State :=
  let d := s.ingressAt p
  let stale (x : Pkt) : Bool := x.dnode == d.1 && x.dport == d.2 && (match x.msg with
    | .credit .. => true
    | _ => false)
  let f (t : Tbl (List Pkt)) : Tbl (List Pkt) := t.map (fun y => (y.1, y.2.filter (fun x => !(stale x))))
  { s with mesh := { s.mesh with inBuf := f s.mesh.inBuf, eject := f s.mesh.eject } }

/-! ### Leaving ACTIVE (R336, R337) -/

/-- A port is QUIESCED: it holds no credit and gives none (R331). -/
def CaPort.quiesce (c : CaPort) : CaPort :=
  { c with st := .quiesced, ready := false, reqCrd := 0, rspiCrd := 0, datiCrd := 0, datoAt := none, advs := [], refused := false,
           written := false, abandoned := false, tableAcks := 0, awaitPeers := 0, cred := [], markers := [], markersDue := [], ingress := [],
           dataDrop := [], snpBuf := [], snpOut := [] }

/-- Whether the fence markers of every slice that still works, here and at the instances still joined, have arrived (R337). -/
def State.markersIn (s : State) (c : CaPort) : Bool :=
  c.markersDue.all (fun m => c.markers.contains m || (if m.1 = s.self then !(s.works m.2) else (s.pathTo m.1).isNone))

/-- CAP_ACTIVE_FALL at a port of a peer, whose hub has sent the notice: every slice sends it a fence marker (R290, R337; log 14). -/
def peerQuiescing (i : BitVec 3) (cap : Nat) (s : State) : State :=
  s.each s.slicesUp (fun s k => sendMarks k (s.modSlice k (fun v =>
    if v.marks.any (fun m => m.1 == i && m.2.1 == cap) then v else { v with marks := v.marks ++ [(i, cap, false)] })))

/-- The port of a peer is QUIESCED, so that every marker for it has left the buffer of its ridge unit: their credits return (R290; log 89). -/
def peerQuiesced (i : BitVec 3) (cap : Nat) (s : State) : State :=
  s.each (List.range s.gh.slices) (fun s k =>
    let v := s.slice k
    if v.marks.any (fun m => m.1 == i && m.2.1 == cap) then
      let mine := v.markCred.filter (fun m => m.1 == i && m.2.1 == cap)
      let v := mine.foldl (fun v m => v.freeSnp m.2.2) v
      sendMarks k (s.setSlice k { v with marks := v.marks.filter (fun m => !(m.1 == i && m.2.1 == cap))
                                         markCred := v.markCred.filter (fun m => !(m.1 == i && m.2.1 == cap)) })
    else s)

/-- An ACTIVE port whose CAPn_ACTIVE is low is QUIESCING: a fence marker is due from every slice of every joined instance (R290, R337). -/
def startQuiesce (p : Nat) (s : State) : State :=
  let ups := s.slicesUp
  let due := ups.map (fun k => (s.self, k)) ++ s.joinedPeers.flatMap (fun i => (Config.peerSlices i).map (fun k => (i, k)))
  let s := s.modCa p (fun c => { c with st := .quiescing, reqCrd := 0, markers := [], markersDue := due })
  State.toJoined (s.each ups (fun s k => s.fromSlice k p .snp 0 (.snpMarker s.inst k p))) (.quiescing p)

/-- Every peer has acknowledged the entries: the port sends ADVACK and is ACTIVE, its credits start, and the slices send theirs (R246, R335). The
routers' drained state ends (R283). A low CAPn_ACTIVE ends ACTIVE at once (R336). -/
def enterActive (p : Nat) (s : State) : State :=
  let c := s.ca p
  let s := c.advs.foldl (fun s a => sendRspo p (encodeAdvAck a.aid advAccepted) s) s
  let s := purgeCredits p { s with mesh := { s.mesh with drained := false } }
  let s := agentsBack (c.agents.map (fun a => a.aid)) (s.modCa p (fun c =>
    { c with st := .active, ready := true, reqCrd := 64, datiCrd := 16, advs := [], ingress := [], dataDrop := [],
             snpBuf := [], snpOut := [], markers := [], cred := [] }))
  let s := s.each s.slicesUp (fun s k => sendFirst p k s)
  if c.active then s else startQuiesce p s

/-- Every peer has acknowledged the entries of an abandoned bring-up: they are cleared, here and at the peers (R336). -/
def clearAbandoned (p : Nat) (s : State) : State :=
  let s := clearAgents p ((s.ca p).advs.map (fun a => a.aid)) (s.modCa p (fun c => { c with written := false, awaitPeers := s.peerMask }))
  if s.joinedPeers.isEmpty then tryBringup p (s.modCa p CaPort.quiesce) else s

/-- ADVACK (R335, R336): the next peer's acknowledgement of the entries arrives; with the last one, or with no peer, the port enters ACTIVE, or,
when its bring-up was abandoned, the entries are cleared (log 14). -/
def execAdvack (p : Nat) (s : State) : Host.Outcome State Fault Refusal :=
  let c := s.ca p
  .next (if c.st = .bringup ∧ c.written then
      let left := dropLowest (c.tableAcks &&& s.peerMask)
      let s := s.setCa p { c with tableAcks := left }
      if left ≠ 0 then s
      else if c.abandoned then clearAbandoned p s
      else enterActive p s
    else s)

/-- CAP_ACTIVE_FALL (R334, R336, R337): at a port of this instance, or, as its notice says, at a port of a peer. -/
def execCapActiveFall (p : Nat) (s : State) : Host.Outcome State Fault Refusal :=
  let c := { s.ca p with active := false }
  .next (match peerOfPort p with
  | some i => if i = s.inst then s else peerQuiescing i (p % 128) s
  | none => match c.st with
    | .isolated | .quiesced | .quiescing => s.setCa p c
    | .active => startQuiesce p (s.setCa p c)
    | .bringup =>
      if c.abandoned then s.setCa p c
      else if !c.written then s.setCa p c.quiesce
      else if c.tableAcks &&& s.peerMask = 0 then s.setCa p c
      else (s.setCa p { c with abandoned := true }).toJoined (.quiescing p))

/-- AGENT_TABLE_CLEAR_ACK (R336). -/
def execAgentTableClearAck (p : Nat) (src : BitVec 3) (s : State) : Host.Outcome State Fault Refusal :=
  let c := s.ca p
  .next (if c.st = .bringup ∧ c.abandoned ∧ !c.written then
      let left := c.awaitPeers &&& ~~~(1#8 <<< src.toNat)
      tryBringup p (s.setCa p (if left = 0 then c.quiesce else { c with awaitPeers := left }))
    else s)

/-- PORT_QUIESCE_COMPLETE (R337). -/
def execPortQuiesceComplete (p : Nat) (s : State) : Host.Outcome State Fault Refusal :=
  let c := s.ca p
  .next (if c.st = .quiescing ∧ s.markersIn c ∧ c.snpBuf.isEmpty ∧ c.snpOut.all (fun x => x.due.isSome) then
      tryBringup p (dropCredits p (clearAgents p (s.aidsOf p) (s.modCa p CaPort.quiesce)))
    else s)

/-! ### Scans for agents (R309, R338) -/

/-- Whether an entry names such an AID as OWN or through a FINE pointer (R309). -/
def SfEnt.namesAny (e : SfEnt) (bad : Aid → Bool) : Bool :=
  e.st != stFree && ((e.owned && bad e.own) || (e.isFine && e.ptrs.any bad))

/-- Cleans one way by a home flow, when the home-flow share has room: one that only takes FINE pointers away ends within the step, an OWN
that names such an AID is resolved (R309, R338). Pinned and reserved ways are left for a revisit. -/
def cleanWay (bad : Aid → Bool) (k set : Nat) (s : State) (way : Nat) : State :=
  let v := s.slice k
  let e := v.sfAt set way
  if !(e.namesAny bad) || v.sfPinned set way then s
  else if e.owned && bad e.own then
    let l := sfLine set e.tag
    if s.homeUse k < 16 ∧ !(v.txns.any (fun t => decide (t.kind = .linkClean) && t.l == l)) then
      let n := v.freeEntry
      activate k n (s.setSlice k (v.enter { e := n, kind := .linkClean, q := { laddr := l } }))
    else s
  else if s.homeUse k < 16 then s.setSlice k (v.setSf set way (regen s.pol ((e.ptrs.filter bad).foldl (fun e a => removeSharer a e) e)))
  else s

/-- One pass of a scan over the snoop filter of slice `k`, over the sets that hold entries. -/
def cleanPass (bad : Aid → Bool) (k : Nat) (s : State) : State :=
  let hits := (s.slice k).sf.filter (fun x => x.2.namesAny bad)
  hits.foldl (fun s x => cleanWay bad k (x.1 / 16) s (x.1 % 16)) s

/-- Whether a scan of slice `k` has finished with its revisits: no entry names such an AID, no flow of it runs (R309). -/
def Slice.cleanOf (v : Slice) (bad : Aid → Bool) : Bool :=
  v.sf.all (fun x => !(x.2.namesAny bad)) && !(v.txns.any (fun t => decide (t.kind = .linkClean) || (t.looked && t.ent.namesAny bad)))

/-- The scan of this instance for a released port of a peer: when no entry names its AIDs any more, the peer's hub is told (R338; log 14). -/
def scanForPeer (i : BitVec 3) (cap : Nat) (s : State) : State :=
  let bad (a : Aid) : Bool := match s.agentAt a with
    | some (j, p) => j == i.toNat && p == cap
    | none => false
  let s := s.each s.slicesUp (fun s k => cleanPass bad k s)
  if s.slicesUp.all (fun k => (s.slice k).cleanOf bad) then s.sendMgt i.toNat (.released cap) else s

/-- PORT_RELEASE_SCAN_DONE (R338): at a port of this instance the next peer's report arrives, and when every scan has finished, here and at the
peers, the port is QUIESCED; at a port of a peer the scan that its release asks for is done (log 14). -/
def execPortReleaseScanDone (p : Nat) (s : State) : Host.Outcome State Fault Refusal :=
  .next (match peerOfPort p with
  | some i => if i = s.inst then s else scanForPeer i (p % 128) s
  | none =>
    let c := s.ca p
    if c.st = .isolated ∧ c.relCmds ≠ [] then
      let as := c.agents.map (fun a => a.aid)
      let left := dropLowest (c.scansDue &&& s.peerMask)
      let s := s.each s.slicesUp (fun s k => cleanPass as.contains k s)
      let s := s.modCa p (fun c => { c with scansDue := left })
      if left = 0 ∧ s.slicesUp.all (fun k => (s.slice k).cleanOf as.contains) then
        let s := s.modCa p (fun c => { c.quiesce with relCmds := [] })
        tryBringup p (s.each c.relCmds (fun s i => s.endCmd (some i) stOk 0 []))
      else s
    else s)

/-! ### The agent table of the package (R291) -/

/-- AGENT_TABLE_UPDATE (R291): a peer's change is applied and acknowledged. -/
def execAgentTableUpdate (src : BitVec 3) (aid : BitVec 11) (valid : Bool) (cap : BitVec 7) (s : State) :
    Host.Outcome State Fault Refusal :=
  let s := if valid then
      let s := resolveAgents (fun a => a == aid) { s with pkg := { s.pkg with unreach := s.pkg.unreach.filter (fun a => a != aid) } }
      agentsBack [aid] { s with pkg := { s.pkg with agents := tput aid.toNat (src, cap) s.pkg.agents } }
    else
      let s := { s with pkg := { s.pkg with agents := tdel aid.toNat s.pkg.agents } }
      peerQuiesced src cap.toNat (resolveAgents (fun a => a == aid) s)
  .next (s.sendMgt src.toNat (.agentAck valid))

/-! ### Sending requests (R46, R241, R243, R247, R424, R438, R467) -/

/-- Partition of an agent in the new table of a transition. -/
def State.newPartOf (s : State) (a : Nat) : BitVec 4 := tget (fun _ => 0) s.prot.newPart a
def State.newMaskOf (s : State) (sh : Nat) : BitVec 16 := tget (fun _ => 0xFFFF#16) s.prot.newMask sh

/-- Whether an agent's partition may reach a shingle; in a transition, under both tables (R424, R438). -/
def State.admits (s : State) (a : Aid) (sh : Nat) : Bool :=
  s.inMask sh a.toNat && (!s.prot.trans || (s.newMaskOf sh).getLsbD (s.newPartOf a.toNat).toNat)

/-- The tracker credit that a request spends: the class credit first (R241, R247). -/
def SlCred.pick (c : SlCred) (x : IngEntry) : CredKind :=
  if x.q.op.isWb then .none
  else if x.isGt && decide (0 < c.gt) then .gt
  else if 0 < c.any then .any
  else .shared

/-- The WB credit that a message spends (R243). -/
def SlCred.pickWb (c : SlCred) (x : IngEntry) : CredKind := if !x.q.op.takesWb then .none else if 0 < c.wb then .wb else .grant

/-- Spends one credit of a kind; of shared credits and data grants, the one held longest (R247, R250). -/
def SlCred.spend (c : SlCred) (k : CredKind) : SlCred :=
  match k with
  | .none => c
  | .gt => { c with gt := c.gt - 1 }
  | .any => { c with any := c.any - 1 }
  | .shared => { c with shared := c.shared - 1, sharedFrom := c.sharedFrom.drop 1 }
  | .wb => { c with wb := c.wb - 1 }
  | .grant => { c with grant := c.grant - 1, grantFrom := c.grantFrom.drop 1 }

/-- Gains `n` credits of a kind at a tick, from which the span of R250 runs. -/
def SlCred.gain (c : SlCred) (k : CredKind) (n now : Nat) : SlCred :=
  match k with
  | .none => c
  | .gt => { c with gt := c.gt + n }
  | .any => { c with any := c.any + n }
  | .shared => { c with shared := c.shared + n, sharedFrom := c.sharedFrom ++ List.replicate n now }
  | .wb => { c with wb := c.wb + n }
  | .grant => { c with grant := c.grant + n, grantFrom := c.grantFrom ++ List.replicate n now }

/-- What ingress point `i` sends next for slice `k`, if anything can go: a writeback that holds its data credit, then the first GT request that
can go, then the first request of all; `true` marks a request that is to be denied (R247, R428). -/
def State.nextFor (s : State) (i k : Nat) : Option (IngEntry × Bool) :=
  let c := s.credAt i k
  let w := s.waitingFor k i
  let go (x : IngEntry) : Option (IngEntry × Bool) :=
    if !x.whole then none
    else if !(s.admits x.q.aid x.sh) then some (x, true)
    else if c.tracker x && c.data x then some (x, false)
    else none
  let first (p : IngEntry → Bool) : Option (IngEntry × Bool) :=
    match w.find? (fun x => !x.q.op.isWb && p x) with
    | some x => go x
    | none => none
  match w.find? (fun x => x.q.op.isWb && x.whole && c.data x) with
  | some x => some (x, false)
  | none => orElse (first (fun x => x.isGt)) (first (fun _ => true))

/-- The buffer code of a request on a link (R301; log 25). -/
def reqCode (gt : Bool) : Nat := if gt then 1 else 0

/-- Takes an entry out of an ingress buffer: its credit returns, and its wait ends (R250, R327, R301). -/
def leaveIngress (i : Nat) (x : IngEntry) (s : State) : State :=
  let s := s.setIngress i (lremove (fun y => y == x) (s.ingressOf i))
  let s := if x.local then endWait i (s.homeSlice x.sh) s else s
  if i < 128 then s.modCa i (fun c => { c with reqCrd := if c.st = .active then c.reqCrd + 1 else c.reqCrd })
  else s.modLink (i - 128) (fun r =>
    { r with cret := tput (reqCode x.isGt) (tget (fun _ => 0) r.cret (reqCode x.isGt) + 1) r.cret })

/-- Answers a request that waits at an ingress point with CmpErr: on RSPO, or across the link (R33, R424, R451). -/
def answerAt (i : Nat) (reason : BitVec 8) (x : IngEntry) (s : State) : State :=
  if i < 128 then sendRspo i (encodeCmpErr x.q.aid x.q.txid 0 reason) s
  else s.modLink (i - 128) (fun r =>
    { r with txQ := r.txQ ++ [{ vc := if x.isGt then .gt else .rsp, gtc := if x.isGt then x.part.toNat else 0
                                buf := some (if x.isGt then 3 else 2), slots := [encodeCmpErr x.q.aid x.q.txid 0 reason] }] })

/-- PROT_DENY (R424): CmpErr(DENIED) and its event. -/
def deny (i : Nat) (x : IngEntry) (s : State) : State :=
  raise (reqEv 0x23 x.q.laddr x.q.aid x.q.op) (answerAt i rsDenied x (leaveIngress i x s))

/-- The data of an entry as it is sent: a marked WbDirty or WbOwned is poisoned (R467). -/
def IngEntry.sendData (x : IngEntry) : LineBuf :=
  if x.mark && (x.q.op == .wbDirty || x.q.op == .wbOwned) then { x.d with poison := true } else x.d

/-- The chunks of KIND 10 that follow a request as it is sent (R69, R264; log 11). -/
def IngEntry.dataMsgs (x : IngEntry) : List Msg :=
  (requestChunks x.q x.sendData x.be).map (fun c => .dat 2 x.q.aid x.q.txid 0 c.cidx c.last c.poison c.be c.d)

/-- Counts a request that a port places on GT (R519). -/
def countGt (i : Nat) (x : IngEntry) (s : State) : State := if x.isGt && decide (i < 128) then s.modCa i (CaPort.count 0x03 1) else s

/-- Sends an entry to slice `k` with the credits it spends (R241, R243, R247). -/
def sendEntry (i k : Nat) (x : IngEntry) (s : State) : State :=
  let c := s.credAt i k
  let a := c.pick x
  let b := c.pickWb x
  let s := s.setCredAt i k ((c.spend a).spend b)
  let s := countGt i x (leaveIngress i x s)
  let send (s : State) (vc : VC) (m : Msg) : State := s.toSlice i k (if x.isGt then .gt else vc) (if x.isGt then x.part.toNat else 0) m
  x.dataMsgs.foldl (fun s m => send s .dat m) (send s .req (.req x.q i a b))

/-- Proxy entries of a ridge unit that its CA ports share (R252). -/
def Gh.proxyShared (g : Gh) : Nat := 4096 - 2 * g.caPorts

/-- The open proxy entries of a port at a ridge unit, under guaranteed or shared credits. -/
def Ridge.proxiesOf (l : Ridge) (p : Nat) (guar : Bool) : Nat := (l.proxies.filter (fun x => x.port == p && x.guar == guar)).length

/-- Whether a CA port has a proxy credit of a ridge unit, and whether it is a guaranteed one (R252; log 26). -/
def State.proxyFor (s : State) (p r : Nat) : Option Bool :=
  let l := s.link r
  if l.proxiesOf p true < 2 then some true
  else if l.proxiesOf p false < l.proxyPool.of p then some false
  else none

/-- The demand flags of the shared proxy credits of a ridge unit, as its ports report now (R249, R252). -/
def noteProxies (r : Nat) (s : State) : State :=
  let l := s.link r
  let wants (p : Nat) : Bool :=
    demandOf ((s.ca p).ingress.filter (fun x => x.peer == some l.peer)) (fun _ => (s.proxyFor p r).isSome) (l.proxyPool.demand.contains p)
  s.modLink r (fun l => { l with proxyPool := { l.proxyPool with demand := (List.range s.gh.caPorts).filter wants } })

/-- Grants shared proxy credits as R249 gives, with a CAP of 64 (R252). -/
def grantProxies (r : Nat) : Nat → State → State
  | 0, s => s
  | n + 1, s =>
    let q := (s.link r).proxyPool
    if q.total < s.gh.proxyShared then
      match nextAfter (List.range s.gh.caPorts) q.last (fun p => q.demand.contains p && decide (q.of p < 64)) with
      | none => s
      | some p => grantProxies r n (s.modLink r (fun l => { l with proxyPool := l.proxyPool.add p }))
    else s

def proxyRun (r : Nat) (s : State) : State := grantProxies r s.gh.proxyShared (noteProxies r s)

/-- Frees the first proxy entry that satisfies `q`: its credit returns to the ridge unit (R249, R252). -/
def freeProxy (r : Nat) (q : Proxy → Bool) (s : State) : State :=
  match (s.link r).proxies.find? q with
  | none => s
  | some x =>
    proxyRun r (s.modLink r (fun l =>
      { l with proxies := lremove q l.proxies, proxyPool := if x.guar then l.proxyPool else l.proxyPool.sub x.port }))

/-- Sends the oldest request for a peer home to the ridge unit, under a proxy credit (R34, R252, R292). -/
def sendProxy (p r : Nat) (s : State) : State :=
  let s := proxyRun r s
  let l := s.link r
  match (s.ca p).ingress.find? (fun x => x.peer == some l.peer) with
  | none => s
  | some x =>
    if l.st = .joined ∧ x.whole then
      match s.proxyFor p r with
      | none => s
      | some g =>
        let s := countGt p x (leaveIngress p x s)
        let s := s.modLink r (fun l => { l with proxies := l.proxies ++ [{ q := x.q, port := p, guar := g }] })
        let send (s : State) (vc : VC) (m : Msg) : State :=
          fromCa p (s.gh.ridgeNode r) portEave (if x.isGt then .gt else vc) (if x.isGt then x.part.toNat else 0) none m s
        x.dataMsgs.foldl (fun s m => send s .dat m) (send s .req (.req x.q p .none .none))
    else s

/-- INGRESS_SEND (R46, R247, R249, R252, R424). The slice learns of the demand before and after what is sent. -/
def execIngressSend (i : Nat) (d : Dest) (s : State) : Host.Outcome State Fault Refusal :=
  .next (match d with
    | .slice k =>
      if s.err.lost then s
      else
        let s := grantRun k s
        noteDemand k (match s.nextFor i k with
          | none => s
          | some (x, true) => deny i x s
          | some (x, false) => sendEntry i k x s)
    | .ridge r => if i < 128 ∧ !s.err.lost then sendProxy i r s else s)

/-! ### Credits (R246, R250) -/

/-- CREDIT_ARRIVE (R246, R250): a credit of a lost slice is void, as is one that reaches a port without credits. -/
def execCreditArrive (i : Nat) (s : State) : Host.Outcome State Fault Refusal :=
  let d := s.ingressAt i
  .next (match (s.arrived d.1 d.2 .rsp).head? with
    | some x =>
      match x.msg with
      | .credit k c n =>
        let s := s.dropArrived d.1 d.2 .rsp
        if s.holdsCredits i && s.works k then noteDemand k (s.setCredAt i k ((s.credAt i k).gain c n s.now)) else s
      | _ => s
    | none => s)

/-- CREDIT_IDLE_RETURN (R250): the credit goes back to its slice on RSP. -/
def execCreditIdleReturn (i k : Nat) (grant : Bool) (s : State) : Host.Outcome State Fault Refusal :=
  let c := s.credAt i k
  let kind : CredKind := if grant then .grant else .shared
  .next (if decide (0 < (if grant then c.grant else c.shared)) && (s.waitingFor k i).isEmpty &&
      decide ((if grant then c.grantFrom else c.sharedFrom).headD 0 + 1000 ≤ s.now) && s.works k then
      State.toSlice (s.setCredAt i k (c.spend kind)) i k .rsp 0 (.creditBack i kind)
    else s)

/-- A returned credit reaches its slice (R249, R250). -/
def creditBack (k i : Nat) (c : CredKind) (s : State) : State :=
  grantRun k (s.modSlice k (fun v =>
    if c = .grant then { v with grants := v.grants.sub i } else { v with shared := v.shared.sub i }))

/-! ### Snoops towards the agents (R91, R251) -/

/-- The snoop that a buffer entry holds for an agent. -/
def SnpIn.dests (a : Aid) (x : SnpIn) : Bool :=
  match x.m with
  | .snp _ b _ _ _ _ _ => a == b
  | _ => false

/-- An agent's snoop credit is spent (R91, R327). -/
def takeFree (aid : Aid) (l : List Agent) : List Agent := l.map (fun y => if y.aid = aid then { y with free := y.free - 1 } else y)

/-- SNOOP_DELIVER (R91, R251). -/
def execSnoopDeliver (p : Nat) (aid : BitVec 11) (s : State) : Host.Outcome State Fault Refusal :=
  let c := s.ca p
  .next (match c.snpBuf.find? (SnpIn.dests aid), c.agents.find? (fun a => a.aid == aid) with
    | some x, some a =>
      match x.m with
      | .snp op b htid l cidx raid rtxid =>
        if 0 < a.free ∧ (c.st = .active ∨ c.st = .quiescing) then
          let del : SnpDel := { aid := b, htid := htid, op := op, raid := raid, rtxid := rtxid, gt := x.gt, gtc := x.gtc }
          let c := { c with
            snpBuf := lremove (SnpIn.dests aid) c.snpBuf
            snpOut := c.snpOut ++ [del]
            agents := takeFree aid c.agents }
          (s.setCa p (c.count 0x08 1)).emit (.snp p (encodeSnp op b htid l cidx raid rtxid))
        else s
      | _ => s
    | _, _ => s)

/-! ### The loss of the instance (R451) -/

/-- A black event has been raised: the instance is lost. Every request that an ingress point has not yet sent is answered CmpErr(SLICE_LOST),
and every JOINED or RETRAINING link fails (R451). -/
def loseInstance (s : State) : State :=
  if s.err.lost then s
  else
    let s := { s with err := { s.err with lost := true } }
    let s := s.each (List.range s.gh.caPorts) (fun s p =>
      ((s.ca p).ingress).foldl (fun s x => refuse p rsSliceLost x (s.modCa p (fun c => { c with ingress := lremove (fun y => y == x) c.ingress }))) s)
    let s := s.each (List.range s.gh.ridgePorts) (fun s r =>
      ((s.link r).ingress).foldl (fun s x => answerAt (128 + r) rsSliceLost x (leaveIngress (128 + r) x s)) s)
    s.each (List.range s.gh.ridgePorts) (fun s r =>
      if (s.link r).st = .joined ∨ (s.link r).st = .retraining then
        failLink r 0 s
      else s)

end Sys2Proof.Machine
end

