-- ==== Sys2Proof/Machine/Perf.lean ====
section
/-! DEFINITION. Sys2Proof/Machine/Perf.lean: configuring and reading performance counters (17). -/

namespace Sys2Proof.Machine

def ctrAt (t : Tbl Ctr) (i : Nat) : Ctr := tget (fun _ => {}) t i

/-- The probe of a router (R284). -/
def State.probe (s : State) (n : Nat) : Probe := tget (fun _ => {}) s.mesh.probes n

/-- The counter that PERF_SEL names, if the configuration has it (R513, R521). -/
def selectCtr (p : PerfWin) (s : State) : Option Ctr :=
  let u := p.unit.toNat
  let c := p.ctr.toNat
  match p.cls.toNat with
  | 0 => if u < s.gh.slices ∧ c < 12 then some (ctrAt (s.slice u).perf c) else none
  | 1 => if u < s.gh.caPorts ∧ c < 4 then some (ctrAt (s.ca u).perf c) else none
  | 2 => if u < s.gh.ridgePorts ∧ c < 4 then some (ctrAt (s.link u).perf c) else none
  | 3 => if u < s.gh.slices ∧ c < 2 then some (if c = 0 then (s.probe u).hit else (s.probe u).drop) else none
  | _ => none

/-- What a capture leaves in the read registers (R522). -/
def capturePerf (p : PerfWin) (s : State) : PerfWin :=
  match selectCtr p s with
  | none => { p with lo := 0, hi := pack 32 [(30, 1)], stamp := s.time.ptc }
  | some c =>
    { p with lo := c.val.extractLsb' 0 32, hi := pack 32 [(0, fld c.val 32 16), (31, b2n c.ovf)], stamp := s.time.ptc }

/-- PERF_CAPTURE (R521, R522, R536): a read of PERF_DATA_LO captures; until step 4 of bring-up is done it reads the reset value and captures
nothing (R500). -/
def execPerfCapture (w : Window) (user : Bool) (priv : Bool) (s : State) : Host.Outcome State Fault Refusal :=
  .next (if user then
      if s.rst.inReset || decide (w = .mgmtp) || !s.hub.perfUser then s.answer w true 0
      else if !s.regsLive then s.answer w false 0
      else
        let p := capturePerf s.hub.user s
        State.answer { s with hub := { s.hub with user := p } } w false p.lo
    else windowWrite w priv (fun s =>
      if !s.regsLive then s.answer w false 0
      else
        let p := capturePerf (s.win w).perf s
        (s.modWin w (fun x => { x with perf := p })).answer w false p.lo) s)

/-- PERFCTL_WRITE: a privileged HOSTP write of PERFUSER opens or closes the user page; MGMTP only reads it (R525, R537). -/
def execPerfctlWrite (w : Window) (v : BitVec 32) (priv : Bool) (s : State) : Host.Outcome State Fault Refusal :=
  .next (windowWrite w priv (fun s =>
    if w = .hostp then { s with hub := { s.hub with perfUser := bit v 0 } } else s) s)

/-- One word of PERF_CONFIG applied to the counters of a unit (R420, R515). -/
def configCtr (t : Tbl Ctr) (v : W64) : Tbl Ctr :=
  let i := fld v 0 3
  if fld v 8 8 = 0xFF then
    [8, 9, 10, 11].foldl (fun t j => tput j { ctrAt t j with val := 0, ovf := false } t) t
  else
    let c := { ctrAt t i with ev := BitVec.ofNat 8 (fld v 8 8), en := bit v 16 }
    tput i (if bit v 17 then { c with val := 0, ovf := false } else c) t

/-- The units that a PERF_CONFIG names: one, or every unit of the class (R381, R420). -/
def perfUnits (g : Gh) (k : Kcp) : List Nat :=
  let n := if k.uclass = 0 then g.slices else if k.uclass = 1 then g.caPorts else g.ridgePorts
  if k.tgt = 0xFF then List.range n else [k.tgt]

/-- Applies the words of a PERF_CONFIG, in order, to one unit. -/
def configUnit (k : Kcp) (s : State) (u : Nat) : State :=
  if k.uclass = 0 then s.modSlice u (fun v => { v with perf := k.ps.foldl configCtr v.perf })
  else if k.uclass = 1 then s.modCa u (fun v => { v with perf := k.ps.foldl configCtr v.perf })
  else s.modLink u (fun v => { v with perf := k.ps.foldl configCtr v.perf })

/-- PERF_CONFIG (R420). -/
def execPerfConfig (c : Nat) (s : State) : Host.Outcome State Fault Refusal :=
  .next (runCmd c 0x70 (fun _ => true) (fun k s =>
    finish k stOk 0 [] (s.each (perfUnits s.gh k) (configUnit k))) s)

end Sys2Proof.Machine
end

