-- ==== Sys2Proof/Machine/Mesh.lean ====
section
/-! DEFINITION. Sys2Proof/Machine/Mesh.lean: the routers: routing, arbitration, batten schedules, delivery at the local
ports, probes, and draining (09). -/

namespace Sys2Proof.Machine

/-! ### Routing (R259, R260) -/

/-- Whether router `n` has port `o` (R259). -/
def Gh.hasPort (g : Gh) (n o : Nat) : Bool :=
  let c := n % g.cols
  let r := n / g.cols
  decide (n < g.slices) &&
  (match o with
   | 0 => decide (r + 1 < g.rows)
   | 1 => decide (c + 1 < g.cols)
   | 2 => decide (0 < r)
   | 3 => decide (0 < c)
   | 4 | 5 | 6 => true
   | 7 => (g.ridgeAt n).isSome || (g.memAt n).isSome
   | 8 => n == 0
   | _ => false)

/-- The output a packet takes at router `n`: X first, then Y, then its port (R260). -/
def Gh.outputFor (g : Gh) (n : Nat) (p : Pkt) : Nat :=
  let c := n % g.cols
  let d := p.dnode % g.cols
  if c < d then portE
  else if d < c then portW
  else if n / g.cols < p.dnode / g.cols then portN
  else if p.dnode / g.cols < n / g.cols then portS
  else p.dport

/-- The router and input port behind an output towards another router (R259). -/
def Gh.beyond (g : Gh) (n o : Nat) : Nat × Nat :=
  match o with
  | 0 => (n + g.cols, portS)
  | 1 => (n + 1, portW)
  | 2 => (n - g.cols, portN)
  | _ => (n - 1, portE)

/-! ### Buffers (R264, R265, R267) -/

/-- Whether a packet is a fence marker: MARK of its header (R262). -/
def Pkt.isMark (p : Pkt) : Bool :=
  match p.msg with
  | .marker _ | .snpMarker .. => true
  | .req .. | .snp .. | .rsp .. | .cmpAck .. | .cmp .. | .cmpErr .. | .wbAck .. | .credit .. | .creditBack .. | .mirrorSet .. | .mirrorClr ..
  | .mirrorAck .. | .dat .. | .sfCopy .. | .hub _ => false

/-- Whether two packets must keep their order: one class, one source port, one destination port (R267). -/
def Pkt.sameFlow (p q : Pkt) : Bool :=
  p.gtc == q.gtc && p.snode == q.snode && p.sport == q.sport && p.dnode == q.dnode && p.dport == q.dport

/-- The packet that an input offers on a lane: the first of the lane, behind no fence marker and behind no packet of its own flow
on the other lane; a marker only at the head. `cls`: only GT packets of that class; `room`: how many entries the buffer has, beyond
which the packets still wait at the sender; `seen`: the packets ahead (R265, R267). -/
def offered (data : Bool) (cls : Option Nat) : Nat → List Pkt → List Pkt → Option Pkt
  | _, _, [] => none
  | room, seen, p :: l =>
    if p.isMark then (if seen.isEmpty && p.onData == data && cls.isNone then some p else none)
    else if p.onData != data then offered data cls room (p :: seen) l
    else if room = 0 then none
    else if cls.all (fun g => p.gtc == g) then (if seen.any p.sameFlow then none else some p)
    else offered data cls (room - 1) (p :: seen) l

/-- Whether a channel is one of the two of the hub (R264). -/
def vcOfHub : VC → Bool
  | .mgt | .err => true
  | .req | .snp | .rsp | .dat | .gt => false

/-- The packets that a ridge unit holds for transmission on a channel and lane: its ejection buffer (R264). -/
def Ridge.holds (l : Ridge) (p : Pkt) : Nat :=
  (l.txQ.filter (fun x => decide (x.vc = p.vc) && decide (1 < x.slots.length) == p.onData)).length +
  (if p.onData then l.wdat.length else (l.held.filter (fun x => decide (x.2.1 = p.vc))).length)

/-- Whether the place beyond an output has room for one more packet: the next buffer, the ejection buffer of a slice, port or ridge
unit. An endpoint takes every MGT and ERR packet whole (R264, R265, R268). -/
def State.roomAt (s : State) (n o : Nat) (p : Pkt) : Bool :=
  if o < 4 then
    let b := s.gh.beyond n o
    let l := s.inputBuf b.1 b.2 p.vc
    decide ((if p.vc = .gt then l.filter (fun x => x.onData == p.onData) else l).length < vcDepth p.vc)
  else if vcOfHub p.vc then true
  else
    let l := s.arrived n o p.vc
    let here := (if p.vc = .gt then l.filter (fun x => x.onData == p.onData) else l).length
    let out := if o = portEave then (s.gh.ridgeAt n).elim 0 (fun r => (s.link r).holds p) else 0
    decide (here + out < vcDepth p.vc)

/-- The inputs of a router, in order from the one after `last` (R269). -/
def inputsFrom (last : Nat) : List Nat := (List.range 9).map (fun i => (last + 1 + i) % 9)

/-- How many packets of a lane an input buffer holds at most; a drained router holds only what it had accepted from a local port before, and
MGT and ERR (R264, R265, R283). -/
def State.roomOf (s : State) (n ip : Nat) (vc : VC) (data : Bool) : Nat :=
  if s.mesh.drained && decide (4 ≤ ip) && !vcOfHub vc then tget (fun _ => 0) s.mesh.drainLeft (2 * bufKey n ip vc + b2n data) else vcDepth vc

/-- What the local input buffers hold when the routers stop accepting packets (R283). -/
def MeshSt.accepted (m : MeshSt) : Tbl Nat :=
  let local_ (x : Nat × List Pkt) : Bool := decide (4 ≤ x.1 / 7 % 9) && decide (x.1 % 7 < 5)
  (m.inBuf.filter local_).flatMap (fun x =>
    let depth := x.2.head?.elim 0 (fun p => vcDepth p.vc)
    [(2 * x.1, Nat.min depth (x.2.filter (fun p => !p.onData)).length), (2 * x.1 + 1, Nat.min depth (x.2.filter Pkt.onData).length)])

/-- The packet of a channel that output `o` of router `n` takes next, with its input: round-robin over the inputs (R269). DESIGN CHOICE (log 96): the
round-robins start at input 0 and at the first channel of the lane; R269 gives no start. -/
def State.candidate (s : State) (n o : Nat) (data : Bool) (cls : Option Nat) (vc : VC) : Option (Nat × Pkt) :=
  let last := tget (fun _ => 8) s.mesh.rrIn (bufKey n o vc)
  (inputsFrom last).findSome? (fun ip =>
    match offered data cls (s.roomOf n ip vc data) [] (s.inputBuf n ip vc) with
    | some p => if s.gh.outputFor n p = o ∧ s.roomAt n o p then some (ip, p) else none
    | none => none)

/-- The flit of MGT or ERR that an output takes next: of the packet that holds the channel, else the head of one (R268). -/
def State.hubFlit (s : State) (n o : Nat) (vc : VC) : Option (Nat × Pkt) :=
  let take (ip : Nat) (start : Bool) : Option (Nat × Pkt) :=
    match s.inputBuf n ip vc with
    | p :: _ => if p.head = start ∧ s.gh.outputFor n p = o ∧ s.roomAt n o p then some (ip, p) else none
    | [] => none
  match tget (fun _ => none) (s.mesh.worm.map (fun x => (x.1, some x.2))) (bufKey n o vc) with
  | some ip => take ip false
  | none => (inputsFrom (tget (fun _ => 8) s.mesh.rrIn (bufKey n o vc))).findSome? (take · true)

/-! ### Arbitration (R269 to R273) -/

/-- The batten slot in force (R272). -/
def State.battenSlot (s : State) (t : Tbl (BitVec 8)) : BitVec 8 := tget (fun _ => 0) t (s.ptcNow % 1024 / 16)

/-- The active schedule of an output. -/
def MeshSt.battenOf (m : MeshSt) (n o : Nat) : Tbl (BitVec 8) := tget (fun _ => []) m.bat (n * 9 + o)

/-- The channels of a lane in round-robin order, from the one after `last` (R269). -/
def lanesFrom (data : Bool) (last : Nat) : List VC :=
  let l := if data then [VC.dat, VC.gt] else [VC.req, VC.snp, VC.rsp, VC.gt]
  l.filter (fun v => decide (last < vcCode v)) ++ l.filter (fun v => decide (vcCode v ≤ last))

/-- Key of the round-robin state and of the positions of an output's lane. -/
def laneKey (n o : Nat) (data : Bool) : Nat := (n * 9 + o) * 2 + b2n data

/-- Whether an output may give a position to MGT or ERR: one in every 4 cycles (R270). -/
def State.hubDue (s : State) (n o : Nat) : Bool :=
  match s.mesh.hubAt.find? (fun x => x.1 == n * 9 + o) with
  | some (_, c) => decide (c + 4 ≤ s.time.cycles)
  | none => true

/-- What output `o` of router `n` takes next on a lane. Towards a router: in a slot reserved to a class its GT packets, then ERR and
MGT within R270, then round-robin over the channels. At a local output: ERR and MGT within R270, then GT, then the others (R269 to
R271). -/
def State.arbitrate (s : State) (n o : Nat) (data : Bool) : Option (Nat × Pkt) :=
  let b := s.battenSlot (s.mesh.battenOf n o)
  let reserved := if o < 4 ∧ b.getLsbD 4 = true then s.candidate n o data (some (fld b 0 4)) .gt else none
  let hub := if !data && s.hubDue n o then orElse (s.hubFlit n o .err) (s.hubFlit n o .mgt) else none
  let gt := if o < 4 then none else s.candidate n o data none .gt
  let vcs := lanesFrom data (tget (fun _ => 6) s.mesh.rrVc (laneKey n o data))
  orElse reserved (orElse hub (orElse gt (vcs.findSome? (s.candidate n o data none))))

/-- Whether the lane of an output has a position left in this cycle: two there are (R269). -/
def State.laneFree (s : State) (n o : Nat) (data : Bool) : Bool :=
  let u := tget (fun _ => (0, 0)) s.mesh.used (laneKey n o data)
  u.1 != s.time.cycles || decide (u.2 < 2)

/-- Records that an output has taken a packet, or a flit, of a channel from an input (R268 to R270). -/
def MeshSt.took (m : MeshSt) (cycle n o ip : Nat) (data : Bool) (p : Pkt) : MeshSt :=
  let key := laneKey n o data
  let u := tget (fun _ => (0, 0)) m.used key
  let m := { m with
    used := tput key (cycle, if u.1 = cycle then u.2 + 1 else 1) m.used
    drainLeft := if ip < 4 then m.drainLeft else tput (2 * bufKey n ip p.vc + b2n data) (tget (fun _ => 0) m.drainLeft (2 * bufKey n ip p.vc + b2n data) - 1) m.drainLeft
    rrIn := tput (bufKey n o p.vc) ip m.rrIn }
  if vcOfHub p.vc then
    { m with
      hubAt := tput (n * 9 + o) cycle m.hubAt
      worm := if p.tail then tdel (bufKey n o p.vc) m.worm else tput (bufKey n o p.vc) ip m.worm }
  else { m with rrVc := tput key (vcCode p.vc) m.rrVc }

/-! ### Probes (R284 to R286) -/

/-- The line address that a message carries (R284). -/
def Msg.laddr? : Msg → Option LAddr
  | .req q .. => some q.laddr
  | .snp _ _ _ l .. => some l
  | .rsp .. | .cmpAck .. | .cmp .. | .cmpErr .. | .wbAck .. | .dat .. | .credit .. | .creditBack .. | .mirrorSet .. | .mirrorClr .. | .mirrorAck ..
  | .marker .. | .snpMarker .. | .sfCopy .. | .hub _ => none

/-- The 128 bits of a control message; free where the spec gives no layout (log 27). -/
def Msg.bits (n : Nat) : Msg → BitVec 128
  | .req q .. => q.encode
  | .snp op aid htid l cidx raid rtxid => encodeSnp op aid htid l cidx raid rtxid
  | .rsp op aid htid pd wbp => encodeRsp op aid htid pd wbp
  | .cmpAck aid htid => encodeCmpAck aid htid
  | .cmp aid txid htid g data result => encodeCmp aid txid htid g data result
  | .cmpErr aid txid htid reason => encodeCmpErr aid txid htid reason
  | .wbAck aid txid htid superseded => encodeWbAck aid txid htid superseded
  | .snpMarker inst slice cap => encodeMarker cap inst slice
  | .dat .. | .credit .. | .creditBack .. | .mirrorSet .. | .mirrorClr .. | .mirrorAck .. | .marker .. | .sfCopy .. | .hub _ =>
    Config.controlBits n

/-- The mesh header of a packet (R262). -/
def Pkt.header (p : Pkt) : W64 :=
  let h : BitVec 56 := pack 56 [(0, vcCode p.vc), (3, p.dnode), (9, p.dport), (13, p.snode), (19, p.sport), (23, p.gtc % 16),
    (27, b2n p.isMark), (28, b2n p.head), (29, b2n p.tail)]
  Config.headerCheck h ++ h

/-- Words 1 and 2 of a trace record (R285). -/
def Pkt.traceWords (n : Nat) (p : Pkt) : W64 × W64 :=
  match p.msg with
  | .dat kind aid txid htid cidx last poison be _ =>
    (p.header, (encodeDat kind aid txid htid cidx last poison be).extractLsb' 0 64)
  | .sfCopy .. => (p.header, (Config.controlBits n).extractLsb' 0 64)
  | .req .. | .snp .. | .rsp .. | .cmpAck .. | .cmp .. | .cmpErr .. | .wbAck .. | .credit .. | .creditBack .. | .mirrorSet .. | .mirrorClr ..
  | .mirrorAck .. | .marker .. | .snpMarker .. | .hub _ => ((p.msg.bits n).extractLsb' 0 64, (p.msg.bits n).extractLsb' 64 64)

/-- Whether a probe's filter matches a packet taken at input `ip` (R284). -/
def Probe.matches (b : Probe) (n ip : Nat) (p : Pkt) : Bool :=
  let amask := fld b.w2 0 46
  let opmask := fld b.w0 24 6
  let op := fld (p.msg.bits n) 0 6
  p.head && fld b.w0 0 2 != 0 && b.w0.getLsbD (2 + vcCode p.vc) && b.w0.getLsbD (9 + ip) &&
  (opmask == 0 || (!p.onData && !vcOfHub p.vc && (op &&& opmask) == (fld b.w0 18 6 &&& opmask))) &&
  (!(b.w0.getLsbD 30) || p.isMark) &&
  (!(b.w0.getLsbD 31) || (decide (p.vc = .gt) && p.gtc == fld b.w0 32 4)) &&
  (amask == 0 || (match p.msg.laddr? with
    | some l => (l.toNat &&& amask) == (fld b.w1 0 46 &&& amask)
    | none => false))

/-- Word 0 of a trace record (R285). -/
def traceHead (ptc : W64) (ovf : Bool) (n ip : Nat) (p : Pkt) : W64 :=
  pack 64 [(0, fld ptc 0 40), (41, b2n ovf), (42, b2n p.isMark), (43, p.gtc % 16), (47, vcCode p.vc), (50, ip), (54, n), (60, 1), (63, 1)]

/-- The probe of a router sees a packet that the router takes (R285, R286). -/
def observe (n ip : Nat) (p : Pkt) (s : State) : State :=
  let b := s.probe n
  if b.matches s.fresh ip p then
    let b := { b with hit := b.hit.add 1 }
    let b := if fld b.w0 0 2 ≠ 2 then b
      else if b.lastCycle = some s.time.cycles ∨ 4 ≤ b.buf.length then { b with drop := b.drop.add 1, ovf := true }
      else
        let w := p.traceWords s.fresh
        { b with buf := b.buf ++ [(traceHead s.time.ptc b.ovf n ip p, w.1, w.2)], ovf := false, lastCycle := some s.time.cycles }
    State.used { s with mesh := { s.mesh with probes := tput n b s.mesh.probes } }
  else s

/-! ### Delivery -/

/-- Puts a packet into an ejection buffer. -/
def State.eject (s : State) (n o : Nat) (p : Pkt) : State :=
  { s with mesh := { s.mesh with eject := tput (bufKey n o p.vc) (s.arrived n o p.vc ++ [p]) s.mesh.eject } }

/-- A ROUTER event (R447). -/
def routerEv (src n port : Nat) (p : Pkt) : Ev :=
  { src := src, detail := .router n port (vcCode p.vc) p.snode p.sport, acc := accInt }

/-- Whether a slice is powered down (R282, R505). -/
def Slice.poweredDown (v : Slice) : Bool := v.clamped && !v.wrapper

/-- A packet for the SLICE port of a powered-down slice: a request is answered CmpErr(SLICE_OFF) through the packet's source
port, any other packet is discarded and counted (R24, R282). -/
def sliceOff (n : Nat) (p : Pkt) (s : State) : State :=
  let s := match p.msg with
    | .req q .. => s.inject { vc := if p.vc = .gt then .gt else .rsp, dnode := p.snode, dport := p.sport, snode := n, sport := portSlice
                              gtc := p.gtc, msg := .cmpErr q.aid q.txid 0 rsSliceOff }
    | .snp .. | .rsp .. | .cmpAck .. | .cmp .. | .cmpErr .. | .wbAck .. | .dat .. | .credit .. | .creditBack .. | .mirrorSet .. | .mirrorClr ..
    | .mirrorAck .. | .marker .. | .snpMarker .. | .sfCopy .. | .hub _ =>
      { s with mesh := { s.mesh with discards := tput n (tget (fun _ => 0) s.mesh.discards n + 1) s.mesh.discards } }
  raise (routerEv 0x0D n portSlice p) s

/-- Whether a CA port takes messages for its agents. -/
def CaSt.up : CaSt → Bool
  | .active | .quiescing => true
  | .quiesced | .bringup | .isolated => false

/-- A message routed by AID to a port that does not carry the agent (R291). -/
def strayAt (p : Nat) (a : Aid) (s : State) : State := portProtocol p 2 a (discardCa p s)

/-- The lane placement of DATO: a chunk fills lane 1 of the last beat that port `p` sent, with lane 1 free (R70). -/
def fillLane (p : Nat) (hdr : BitVec 80) (d : BitVec 128) : List Out → List Out
  | [] => []
  | x :: l =>
    match x with
    | .dato q h e => if q = p then .dato q (hdr ++ h.setWidth 80) (d ++ e.setWidth 128) :: l else x :: fillLane p hdr d l
    | .rspo .. | .snp .. | .mrd .. | .mwr .. | .flit .. | .mgt .. => x :: fillLane p hdr d l

/-- Sends a chunk on DATO: in lane 1 of the beat of this cycle when one has left with that lane free, else in lane 0 of a beat of its
own (R70, R326, R330). -/
def sendDato (p : Nat) (hdr : BitVec 80) (d : BitVec 128) (s : State) : State :=
  let s := s.modCa p (CaPort.count 0x0B 1)
  if (s.ca p).datoAt = some s.time.cycles then
    s.modCa p (fun c => { c with datoAt := none }) |> fun s => { s with out := (fillLane p hdr d s.out.reverse).reverse }
  else (s.modCa p (fun c => { c with datoAt := some s.time.cycles })).emit (.dato p (hdr.setWidth 160) (d.setWidth 256))

/-- A packet arrives at a CA port adapter. One that a port under PORT_RESET gets for its agents, and one of a transaction from before a reset,
is discarded and counted (R67, R69, R251, R291, R330, R337, R503, R504). -/
def arriveCa (n o : Nat) (x : Pkt) (s : State) : State :=
  let p := 2 * n + (o - portCa0)
  let c := s.ca p
  let mine (a : Aid) : Bool := c.st.up && c.agents.any (fun y => y.aid == a)
  let strayAt (p : Nat) (a : Aid) (s : State) : State :=
    if c.st = .isolated ∧ c.agents.any (fun y => y.aid == a) then discardCa p s else strayAt p a s
  let answer (a : Aid) (htid : BitVec 20) (f : State → State) : State :=
    if !(mine a) then strayAt p a s else if c.stale.contains htid then discardCa p s else f s
  match x.msg with
  | .credit .. => if c.st.up then s.eject n o x else s
  | .snpMarker inst slice _ => if c.st.up then s.setCa p { c with markers := c.markers ++ [(inst.toNat, slice)] } else discardCa p s
  | .snp _ a .. => if mine a then s.setCa p { c with snpBuf := c.snpBuf ++ [{ m := x.msg, gt := decide (x.vc = .gt), gtc := x.gtc }] } else strayAt p a s
  | .cmp a txid htid g data result =>
    answer a htid (fun s => sendRspo p (encodeCmp a txid htid g data result)
      (if g.acked then s.setCa p { c with acks := c.acks.filter (fun y => y.1 != htid) ++ [(htid, decide (x.vc = .gt), x.gtc)] } else s))
  | .cmpErr a txid htid reason => answer a htid (sendRspo p (encodeCmpErr a txid htid reason))
  | .wbAck a txid htid superseded => answer a htid (sendRspo p (encodeWbAck a txid htid superseded))
  | .dat kind a txid htid cidx last poison be d =>
    answer a htid (sendDato p (encodeDat kind a txid htid cidx last poison be) (if poison then 0 else d))
  | .req .. | .rsp .. | .cmpAck .. | .creditBack .. | .mirrorSet .. | .mirrorClr .. | .mirrorAck .. | .marker .. | .sfCopy .. | .hub _ => discardCa p s

/-- Discards a message at a ridge unit, and counts it (R130, R308). -/
def discardLink (r : Nat) (s : State) : State := s.modLink r (fun l => { l with discard := satAdd l.discard 1 })

/-- A ridge unit sends each request that has reached it with all of its data: the request, then its line (R69, R289, R299). -/
def sendHeld (r : Nat) (s : State) : State :=
  (s.link r).held.foldl (fun s x =>
    match x.1.dataIn (s.link r).wdat with
    | none => s
    | some w => s.modLink r (fun l =>
      { l with held := lremove (· == x) l.held, wdat := x.1.dropData l.wdat, txQ := l.txQ ++ requestPackets x.2.1 x.2.2 x.1 w.d w.be })) s

/-- A packet arrives at a ridge unit from the mesh: it waits for transmission (R289, R299). On a link that carries nothing a
proxied request is answered CmpErr(LINK_LOST), any other message is discarded and counted (R308). -/
def arriveRidge (r n o : Nat) (x : Pkt) (s : State) : State :=
  let l := s.link r
  let carries := l.carries
  match x.msg with
  | .credit .. => if carries then s.eject n o x else s
  | .req q src _ _ =>
    if carries then sendHeld r (s.setLink r { l with held := l.held ++ [(q, x.vc, x.gtc)] })
    else if !(l.proxies.any (fun y => y.q.aid == q.aid && y.q.txid == q.txid)) then discardLink r s
    else
      let d := s.ingressAt src
      (freeProxy r (fun y => y.q.aid == q.aid && y.q.txid == q.txid) s).inject
        { vc := if x.vc = .gt then .gt else .rsp, dnode := d.1, dport := d.2, snode := n, sport := o, gtc := x.gtc
          msg := .cmpErr q.aid q.txid 0 rsLinkLost }
  | .cmpAck a htid =>
    let s := freeProxy r (fun y => y.answered && y.q.aid == a && y.htid == htid) s
    if carries then s.modLink r (fun l => { l with txQ := l.txQ ++ packetsOf x.vc x.gtc x.msg }) else discardLink r s
  | .rsp _ a htid .. =>
    let s := drainSnoops r (s.modLink r (fun l => { l with snpOut := lremove (fun y => y.2.1 == a && y.2.2 == htid) l.snpOut }))
    if carries then s.modLink r (fun l => { l with txQ := l.txQ ++ packetsOf x.vc x.gtc x.msg }) else discardLink r s
  | .dat kind a t _ cidx _ poison be d =>
    if !carries then discardLink r s
    else if kind = 2#2 then sendHeld r (s.setLink r { l with wdat := takeReqChunk a t cidx poison be d l.wdat })
    else s.setLink r { l with txQ := l.txQ ++ packetsOf x.vc x.gtc x.msg }
  | .snp .. | .cmp .. | .cmpErr .. | .wbAck .. | .snpMarker .. =>
    if carries then s.setLink r { l with txQ := l.txQ ++ packetsOf x.vc x.gtc x.msg } else discardLink r s
  | .creditBack .. | .mirrorSet .. | .mirrorClr .. | .mirrorAck .. | .marker .. | .sfCopy .. | .hub _ => discardLink r s

/-- The packet in which an MGT message crosses a link: a head slot and the body slots, whose content the spec does not lay out
(R299, log 12). -/
def State.mgtPacket (s : State) (dst : BitVec 3) (body : Nat) : TxPkt :=
  { vc := .mgt, buf := some 6
    slots := pack 128 [(0, body), (8, dst.toNat), (11, s.self)] :: (List.range body).map (fun i => Config.controlBits (s.fresh + i)) }

/-- An MGT or ERR flit arrives at its endpoint, which takes every packet whole: the tail completes it. The hub keeps trace records
for LOFT; a ridge unit keeps messages for a peer's hub for transmission while it has a peer route (R268, R285, R288, R305). -/
def arriveHub (n o : Nat) (p : Pkt) (s : State) : State :=
  if !p.tail then s
  else
    match p.msg with
    | .hub (.trace ..) => if o = portHub then s.eject n o p else s
    | .hub (.entries sh es) =>
      if s.works n then s.modSlice n (fun v => { v with copyIn := v.copyIn ++ es.map (fun e => (sh, e.1, e.2)) })
      else s.modSlice n (fun v => { v with discards := v.discards + 1 })
    | .hub (.peer dst body) =>
      match (s.gh.ridgeAt n) with
      | some r =>
        if s.peerPort dst.toNat = some r then
          { s.modLink r (fun l => { l with txQ := l.txQ ++ [s.mgtPacket dst body] }) with fresh := s.fresh + body }
        else discardLink r s
      | none => s
    | _ => s

/-- Delivers a packet at a local output of its router. -/
def deliverPkt (n o : Nat) (p : Pkt) (s : State) : State :=
  if o = portSlice ∧ (s.slice n).poweredDown then (if p.tail then sliceOff n p s else s)
  else if vcOfHub p.vc then arriveHub n o p s
  else if o = portSlice then
    match p.msg with
    | .sfCopy sh es =>
      if s.works n then takeSlot n true [] (s.modSlice n (fun v => { v with copyIn := v.copyIn ++ es.map (fun e => (sh, e.1, e.2)) }))
      else s.eject n o p
    | .creditBack src c => if s.works n then creditBack n src c s else s.eject n o p
    | _ => s.eject n o p
  else if o = portCa0 ∨ o = portCa1 then arriveCa n o p s
  else
    match s.gh.ridgeAt n with
    | some r => arriveRidge r n o p s
    | none => s

/-! ### ROUTER_PACKET -/

/-- A packet whose payload word cannot be corrected: its chunk is poisoned; of the snoop-filter entries of a
sector, which carry no POISON, one has a content that the spec does not give (R263, log 27). -/
def Msg.poisoned (n : Nat) : Msg → Msg
  | .dat kind a txid htid cidx last _ be d => .dat kind a txid htid cidx last true be d
  | .sfCopy sh ((k, _) :: l) => .sfCopy sh ((k, Config.lostEntry n) :: l)
  | m => m

/-- Whether a packet carries a payload that link errors can hit (R263). -/
def Pkt.payload (p : Pkt) : Bool :=
  match p.msg with
  | .dat .. | .sfCopy .. => true
  | .req .. | .snp .. | .rsp .. | .cmpAck .. | .cmp .. | .cmpErr .. | .wbAck .. | .credit .. | .creditBack .. | .mirrorSet .. | .mirrorClr .. | .mirrorAck ..
  | .marker .. | .snpMarker .. | .hub _ => false

/-- Moves a packet through router `n` from input `ip` to output `o`. -/
def forwardPkt (n o ip : Nat) (data : Bool) (p : Pkt) (s : State) : State :=
  let l := s.inputBuf n ip p.vc
  let s := { s with mesh := (MeshSt.took { s.mesh with inBuf := tput (bufKey n ip p.vc) (lremove (fun x => x == p) l) s.mesh.inBuf }
    s.time.cycles n o ip data p) }
  let s := observe n ip p s
  if o < 4 then
    let b := s.gh.beyond n o
    { s with mesh := { s.mesh with inBuf := tput (bufKey b.1 b.2 p.vc) (s.inputBuf b.1 b.2 p.vc ++ [p]) s.mesh.inBuf } }
  else deliverPkt n o p s

/-- The oldest trace record of a router's probe enters the router's MGT input, when none waits there (R285, R286). DESIGN CHOICE (log 96): it enters
through the MGT input of the SLICE port; R285 names no port. -/
def probeSend (n : Nat) (s : State) : State :=
  let b := s.probe n
  match b.buf with
  | w :: rest =>
    if (s.inputBuf n portSlice .mgt).isEmpty then
      { s with mesh := { s.mesh with probes := tput n { b with buf := rest } s.mesh.probes } }.sendHub .mgt (n, portSlice) hubAt
        (.trace w.1 w.2.1 w.2.2)
    else s
  | [] => s

/-- What the check of the link finds in the packet that an output takes, and the packet's way on (R263). -/
def takePkt (n o ip : Nat) (data : Bool) (p : Pkt) (err : LinkErr) (s : State) : State :=
  let buf := bufKey n ip p.vc
  let l := s.inputBuf n ip p.vc
  match err with
  | .none => forwardPkt n o ip data p s
  | .corrected => forwardPkt n o ip data p (raise (routerEv 0x15 n ip p) s)
  | .datWord =>
    if p.payload then
      let q : Pkt := { p with msg := p.msg.poisoned s.fresh }
      let s := State.used { s with mesh := { s.mesh with inBuf := tput buf (lmodify (fun x => x == p) (fun _ => q) l) s.mesh.inBuf } }
      forwardPkt n o ip data q (raise (routerEv 0x16 n ip p) s)
    else s
  | .control =>
    let s := { s with mesh := { s.mesh with inBuf := tput buf (lremove (fun x => x == p) l) s.mesh.inBuf } }
    loseInstance (raise { src := 0x22, detail := .misc 1 (Config.miscValue 0x22 1), acc := accInt } s)

/-- ROUTER_PACKET (R260 to R272, R282). `err`: what the check of the link finds in the packet (R263). -/
def execRouterPacket (n o : Nat) (dataLane : Bool) (err : LinkErr) (s : State) : Host.Outcome State Fault Refusal :=
  let s := probeSend n s
  .next (if s.gh.hasPort n o && s.laneFree n o dataLane then
      match s.arbitrate n o dataLane with
      | none => s
      | some (ip, p) => takePkt n o ip dataLane p err s
    else s)

/-! ### Trace records (R285, R367, R368) -/

/-- LOFT_RECORD: the oldest record of the probe of router `n` that has reached the hub enters LOFT, or is dropped for lack of quota
(R285, R286, R368). -/
def execLoftRecord (n : Nat) (s : State) : Host.Outcome State Fault Refusal :=
  let l := s.arrived 0 portHub .mgt
  let mine (p : Pkt) : Bool := p.snode == n
  .next (match l.find? mine with
    | some { msg := .hub (.trace w0 w1 w2), .. } =>
      let s := { s with mesh := { s.mesh with eject := tput (bufKey 0 portHub .mgt) (lremove mine l) s.mesh.eject } }
      if s.hub.fits .loft 3 then { s with hub := s.hub.writePacket .loft 0 false [w0, w1, w2] }
      else { s with err := { s.err with loftDrop := satAdd s.err.loftDrop 1 } }
    | _ => s)

/-! ### Batten schedules (R273 to R278, R404) -/

/-- The first reserved encoding of a schedule: the word and the lowest bit of its field (R273, R383). -/
def battenBad (ws : List W64) : Option (Nat × Nat) :=
  firstBad (fun w =>
    (List.range 8).findSome? (fun k =>
      let e := fld w (8 * k) 8
      if e % 32 < 16 ∧ e % 16 ≠ 0 then some (8 * k) else none)) 2 ws

/-- The slots of a schedule; reserved bits are ignored (R6, R273). -/
def battenTable (ws : List W64) : Tbl (BitVec 8) :=
  (List.range 64).foldl (fun t k => tset (fun _ => 0) k ((ws.getD (k / 8) 0).extractLsb' (8 * (k % 8)) 8 &&& 0x1F) t) []

/-- The scheduled outputs of an instance (R272). -/
def Gh.scheduled (g : Gh) : List (Nat × Nat) :=
  (List.range g.slices).flatMap (fun n => ((List.range 4).filter (g.hasPort n)).map (fun o => (n, o)))

/-- Writes the shadow schedule of an output. -/
def setShadow (t : Tbl (BitVec 8)) (s : State) (x : Nat × Nat) : State :=
  { s with mesh := { s.mesh with batSh := tset (fun _ => []) (x.1 * 9 + x.2) t s.mesh.batSh } }

/-- BATTEN_LOAD (R275, R404). -/
def execBattenLoad (c : Nat) (s : State) : Host.Outcome State Fault Refusal :=
  .next (runCmd c 0x40 (fun _ => true) (fun k s =>
    let o := fld (k.par 0) 0 4
    let ws := k.ps.drop 1
    match orElse (failIf (decide (k.tgt < s.gh.slices) && !(s.gh.hasPort k.tgt o)) (1, 0)) (battenBad ws) with
    | some (w, b) => finish k stBadParam (badDetail w b) [] s
    | none =>
      match s.holdOf .batten with
      | some h => finish k stConflict (h.chg.tick / 1024 % 2 ^ 24) [] s
      | none =>
        let t := battenTable ws
        let all := k.tgt = 0xFF
        let outs := if all then s.gh.scheduled else if k.tgt < s.gh.slices then [(k.tgt, o)] else []
        let links := if all then List.range s.gh.ridgePorts else if 0x80 ≤ k.tgt then [k.tgt - 0x80] else []
        let s := outs.foldl (setShadow t) s
        finish k stOk 0 [] (s.each links (fun s r => s.modLink r (fun l => { l with batSh := t })))) s)

/-- BATTEN_COMMIT (R276). Its reply follows at T, or when an instance does not acknowledge. -/
def execBattenCommit (c : Nat) (s : State) : Host.Outcome State Fault Refusal :=
  .next (runCmd c 0x41 (fun _ => true) (fun k s =>
    let t := (k.par 0).toNat
    if t % 1024 ≠ 0 then finish k stBadParam 0 [] s
    else if t < s.ptcNow + 20000 then finish k stConflict (s.ptcNow / 1024 % 2 ^ 24) [] s
    else if (s.holdOf .batten).isSome then finish k stBusy 1 [] s
    else
      let s := s.startCmd k id
      let s := { s with pkg := { s.pkg with battenCmd := some k.id } }
      genIssue { kind := .batten, issuer := s.inst, tick := t, payload := .batten } (t - 5000) s) s)

/-- Every output and link makes its shadow schedule active (R276). -/
def switchBatten (s : State) : State :=
  let s := { s with mesh := { s.mesh with bat := s.mesh.batSh } }
  s.each (List.range s.gh.ridgePorts) (fun s r => s.modLink r (fun l => { l with bat := l.batSh }))

/-- Ends a commit of the batten schedules at T: the switch, and the reply at the issuer (R276). -/
def applyBatten (s : State) : State :=
  let s := switchBatten ((s.dropDue .batten).bumpGen .batten)
  let c := s.pkg.battenCmd
  let s := { s with pkg := { s.pkg with battenCmd := none, issue := s.pkg.issue.filter (fun (x : GenIss) => decide (x.chg.kind ≠ GenKind.batten)) } }
  s.endCmd c stOk 0 []

/-- BATTEN_SWITCH (R276 to R278). -/
def execBattenSwitch (s : State) : Host.Outcome State Fault Refusal :=
  .next (if (s.dueHold .batten).isSome then applyBatten s else s)

/-! ### Draining and probes as commands (R283, R284) -/

/-- Whether an entry, a move, a range command or a batten commit is open (R283). -/
def State.busyInside (s : State) : Bool :=
  (List.range s.gh.slices).any (fun k =>
    let v := s.slice k
    !v.txns.isEmpty || !v.deferred.isEmpty || !v.victims.isEmpty) ||
  (List.range s.gh.ridgePorts).any (fun r => !(s.link r).proxies.isEmpty) ||
  !s.map.moves.isEmpty || s.hub.inProg.any (fun k => k.running && (k.opc == 0x23 || k.opc == 0x24)) || (s.holdOf .batten).isSome

/-- ROUTER_DRAIN (R283). What the routers have accepted from their local ports goes on. -/
def execRouterDrain (c : Nat) (s : State) : Host.Outcome State Fault Refusal :=
  .next (runCmd c 0x42 (fun _ => true) (fun k s =>
    if s.unquiesced ≠ 0 ∨ s.busyInside then finish k stConflict (s.unquiesced % 256 + 256 * b2n s.busyInside) [] s
    else
      let s := s.startCmd k id
      let left := if s.mesh.drained then s.mesh.drainLeft else s.mesh.accepted
      { s with mesh := { s.mesh with drained := true, drainLeft := left, drainCmds := s.mesh.drainCmds ++ [(k.id, s.now)] } }) s)

/-- Whether every buffer of a channel other than MGT and ERR is empty; what waits at a sender is in none (R265, R283). -/
def MeshSt.emptied (m : MeshSt) : Bool :=
  let hub (x : Nat × List Pkt) : Bool := decide (5 ≤ x.1 % 7)
  let outside (x : Nat × List Pkt) : Bool := m.drained && decide (4 ≤ x.1 / 7 % 9)
  m.inBuf.all (fun x => x.2.isEmpty || hub x || outside x) && m.drainLeft.all (fun x => x.2 == 0) && m.eject.all (fun x => x.2.isEmpty || hub x)

/-- ROUTER_DRAIN_EMPTY (R283). -/
def execRouterDrainEmpty (s : State) : Host.Outcome State Fault Refusal :=
  .next (if s.mesh.emptied then
      s.mesh.drainCmds.foldl (fun s x => s.endCmd (some x.1) stOk (Nat.min (s.now - x.2) (2 ^ 24 - 1)) [])
        { s with mesh := { s.mesh with drainCmds := [] } }
    else s)

/-- PROBE_SET (R284). -/
def execProbeSet (c : Nat) (s : State) : Host.Outcome State Fault Refusal :=
  .next (runCmd c 0x43 (fun _ => true) (fun k s =>
    if fld (k.par 0) 0 2 = 3 then finish k stBadParam (badDetail 1 0) [] s
    else
      let b : Probe := { w0 := k.par 0, w1 := k.par 1, w2 := k.par 2 }
      let set_ (s : State) (n : Nat) : State :=
        { s with mesh := { s.mesh with probes := tput n { b with buf := (s.probe n).buf, ovf := (s.probe n).ovf } s.mesh.probes } }
      finish k stOk 0 [] (s.each (targetSlices k s) set_)) s)

end Sys2Proof.Machine
end

