-- ==== Sys2Proof/Machine/Shingle.lean ====
section
/-! DEFINITION. Sys2Proof/Machine/Shingle.lean: the moves of shingles between slices, and what a gating action does with
them (02, R192 to R196). -/

namespace Sys2Proof.Machine

/-! ### Slices and pairs (R192) -/

/-- The powered slices, in ascending ID order. -/
def State.powered (s : State) : List Nat := (List.range s.gh.slices).filter (fun k => decide ((s.slice k).st = .on))

/-- The powered pairs: a slice in soft reset is powered (R192, R390, R512). -/
def State.poweredPairs (s : State) : List Nat :=
  let powered (k : Nat) : Bool := decide ((s.slice k).st = .on) || decide ((s.slice k).st = .reset)
  (List.range (s.gh.slices / 2)).filter (fun j => powered (2 * j) && powered (2 * j + 1))

/-- How many shingles a slice homes. -/
def State.shingleCount (s : State) (k : Nat) : Nat := (s.shinglesOf k).length

/-- Hops between two routers (R260). -/
def Gh.hops (g : Gh) (a b : Nat) : Nat :=
  let d (x y : Nat) : Nat := (x - y) + (y - x)
  d (a % g.cols) (b % g.cols) + d (a / g.cols) (b / g.cols)

/-- The element of a list with the least key; the first on a tie. -/
def leastOf (key : Nat → Nat) : List Nat → Option Nat
  | [] => none
  | a :: l =>
    match leastOf key l with
    | none => some a
    | some b => if key b < key a then some b else some a

/-! ### Starting a move (R49, R54) -/

/-- The Dirty lines of a shingle in a slice: set and slot (R49). -/
def Slice.dirtyOf (v : Slice) (sh : Nat) : List (Nat × Nat) :=
  (v.hcTag.filter (fun x => x.2.hst == hsDirty && shingleOf (hcLine (x.1 / 32) x.2.ltag) == sh)).map (fun x => (x.1 / 32, x.1 % 32))

/-- Writes back a resident Dirty line that stays, as its data is read: it becomes Clean or Zero at the acknowledgement (R234, R541). -/
def writeBackSlot (k : Nat) (owner : MemFor) (s : State) (x : Nat × Nat) : State :=
  let s := readData k x.1 accInt owner s x.2
  let v := s.slice k
  if (v.tagAt x.1 x.2).hst = hsDirty then memWriteThru k owner (hcLine x.1 (v.tagAt x.1 x.2).ltag) (v.lineAt x.1 x.2) false s else s

/-- The move of a shingle. -/
def State.moveOf (s : State) (sh : Nat) : Option Move := s.map.moves.find? (fun m => m.sh == sh)

/-- Changes the move of a shingle. -/
def State.modMove (s : State) (sh : Nat) (f : Move → Move) : State :=
  { s with map := { s.map with moves := lmodify (fun m => m.sh == sh) f s.map.moves } }

/-- PREPARE of a move, once the home-flow share of the old slice has an entry for it: the old slice writes the shingle through, and
writes back its Dirty lines of it (R49, R109, R110). -/
def beginMove (m : Move) (s : State) : State :=
  if s.homeUse m.old < 16 then
    let s := hcScan m.old accInt (s.modMove m.sh (fun m => { m with begun := true }))
    ((s.slice m.old).dirtyOf m.sh).foldl (writeBackSlot m.old (.prep m.sh)) s
  else s

/-- A move starts, or waits for its home-flow entry (R49, R110). -/
def startMove (sh new : Nat) (cmd : Option Nat) (gate retried : Bool) (s : State) : State :=
  let m : Move := { sh := sh, old := s.homeSlice sh, new := new, cmd := cmd, gate := gate, retried := retried }
  beginMove m { s with map := { s.map with moves := s.map.moves ++ [m] } }

/-- Whether a slice may be the old slice of one more move (R54). -/
def State.moveSlot (s : State) (k : Nat) : Bool :=
  decide (s.map.moves.length < 8) && !(s.map.moves.any (fun m => m.old == k))

/-! ### The moves of a gating action (R194, R195) -/

/-- The slice a power-down moves a shingle to: the fewest shingles, then the fewest hops, then the lowest ID (R194). -/
def State.refuge (s : State) (pair old : Nat) : Option Nat :=
  leastOf (fun k => s.shingleCount k * 16384 + s.gh.hops k old * 64 + k) (s.powered.filter (fun k => k / 2 != pair))

/-- The first shingle of a slice that is NORMAL and not moving. -/
def State.movable (s : State) (k : Nat) : Option Nat :=
  (s.shinglesOf k).find? (fun sh => s.shState sh == hmNormal && (s.moveOf sh).isNone)

/-- Starts the next move away from slice `k` for a power-down, when a slot is free (R194). -/
def moveAway (pair : Nat) (s : State) (k : Nat) : State :=
  match s.movable k, s.refuge pair k with
  | some sh, some d => if s.moveSlot k then startMove sh d none true false s else s
  | _, _ => s

/-- The share of shingles that each slice of a powered-up pair gets (R195). -/
def State.share (s : State) : Nat := 4096 / s.powered.length

/-- The slice of a powered-up pair that takes the next shingle: the lower-numbered one is filled first, DESIGN CHOICE (log 60; R195). -/
def State.fills (s : State) (pair : Nat) : Option Nat := [2 * pair, 2 * pair + 1].find? (fun k => decide (s.shingleCount k < s.share))

/-- Starts the next move to slice `d` of a powered-up pair, once a move slot is free: one at a time, from the slice that holds the most
shingles (R54, R195). DESIGN CHOICE (log 60): of slices that hold equally many, the lowest-numbered; of its shingles, the lowest-numbered. -/
def moveTowards (pair d : Nat) (s : State) : State :=
  match leastOf (fun k => 4096 - s.shingleCount k) (s.powered.filter (fun k => k / 2 != pair)) with
  | none => s
  | some k =>
    match s.movable k with
    | none => s
    | some sh => if s.moveSlot k then startMove sh d none true false s else s

/-- Ends the gating action in progress (R194, R195, R390). A power-up or power-down that has run to its end is reported. -/
def endGating (reason : Nat) (s : State) : State :=
  match s.pol.gating with
  | none => s
  | some g =>
    let n := s.poweredPairs.length
    let s := { s with pol := { s.pol with gating := none } }
    if reason = 0 then
      let s := policyEvent 6 (if g.up then 0x21 else 0x20) g.pair 0 (if g.up then n - 1 else n + 1) n s
      s.endCmd g.cmd stOk 0 []
    else (policyEvent 6 0x22 g.pair reason n n s).endCmd g.cmd stFailed reason []

/-- Goes on with the moves of a gating action that has begun and whose slices are powered; a power-up ends when its last move has
completed (R194, R195). -/
def gateOn (s : State) : State :=
  match s.pol.gating with
  | none => s
  | some g =>
    if !g.begun || !(s.poweredPairs.contains g.pair) then s
    else if !g.up then moveAway g.pair (moveAway g.pair s (2 * g.pair)) (2 * g.pair + 1)
    else if s.map.moves.any (fun m => m.gate) then s
    else
      match s.fills g.pair with
      | some d => moveTowards g.pair d s
      | none => endGating 0 s

/-! ### The end of a move (R53 to R55, R539) -/

/-- How a move ends: UNFENCE, revert at the deadline, or a fault with the source ID it is reported by (R54). -/
inductive MoveEnd where
  | ok
  | reverted
  | fault (src : Nat)
  deriving DecidableEq, Repr

/-- Ends a move: its reply, and what a gating action does next (R54, R194). -/
def endMove (m : Move) (e : MoveEnd) (s : State) : State :=
  let s := { s with map := { s.map with moves := s.map.moves.filter (fun x => x.sh != m.sh) } }
  let s := match e with
    | .ok => s.endCmd m.cmd stOk 0 []
    | .reverted => s.endCmd m.cmd stBusy 3 []
    | .fault src => s.endCmd m.cmd stFailed src []
  if m.gate && s.pol.gating.isSome then
    match e with
    | .ok => gateOn s
    | .reverted =>
      if m.retried then endGating 1 s
      else if decide ((s.slice m.new).st = .on) && s.moveSlot m.old then startMove m.sh m.new none true true s
      else endGating 1 s
    | .fault _ => endGating 1 s
  else s

/-- The reason that a move which did not complete ends with. -/
def Move.ending (m : Move) : MoveEnd := if m.lostNew then .fault 0x0C else if m.failed then .fault 0x18 else .reverted

/-- The old slice gives up the shingle: its snoop-filter ways of it are free, its home-cache lines of it invalid (R49, R51,
R230). -/
def dropShingle (k sh : Nat) (s : State) : State :=
  let v := s.slice k
  let ways := v.sf.filter (fun x => shingleOf (sfLine (x.1 / 16) x.2.tag) == sh)
  let s := s.setSlice k (ways.foldl (fun v x => v.setSf (x.1 / 16) (x.1 % 16) {}) v)
  let slots := (s.slice k).hcTag.filter (fun x => shingleOf (hcLine (x.1 / 32) x.2.ltag) == sh)
  let s := slots.foldl (fun s x => dropSlot k (x.1 / 32) (x.1 % 32) s) s
  s.modSlice k (fun v => { v with thru := v.thru.filter (fun x => shingleOf x.1 != sh) })

/-- The new slice forgets the entries copied to it (R53). -/
def dropCopies (m : Move) (s : State) : State :=
  s.modSlice m.new (fun v => m.copied.foldl (fun v n =>
    let l : LAddr := BitVec.ofNat 46 n
    match v.sfWay l with
    | some w => v.setSf (sfSet l) w {}
    | none => v) v)

/-- Decides that a move reverts: the decision travels in the next flip (R53, R55, R539). -/
def revertMove (m : Move) (s : State) : State :=
  changeMap [(m.sh, hmEntry m.old hmNormal)] (s.modMove m.sh (fun m => { m with step := .revertWait }))

/-! ### The commands (R43, R54, R400) -/

/-- The MOVE code of a move (R400). -/
def Move.code (m : Move) : Nat :=
  match m.step with
  | .prepare => 1
  | .fenceWait | .drain | .copy => 2
  | .unfenceWait | .revertWait => 3

/-- SHINGLE_QUERY (R400). -/
def execShingleQuery (c : Nat) (s : State) : Host.Outcome State Fault Refusal :=
  .next (runCmd c 0x30 (fun _ => true) (fun k s =>
    let sh := fld (k.par 0) 0 12
    let mv := match s.moveOf sh with
      | some m => (m.code, m.new)
      | none => (0, 0)
    finish k stOk 0
      [pack 64 [(0, (s.map.entry sh).toNat), (8, mv.1), (16, mv.2), (32, (s.shmaskOf sh).toNat)], s.map.gen.setWidth 64] s) s)

/-- SHINGLE_MOVE: the checks of R54 in their order, then PREPARE. -/
def execShingleMove (c : Nat) (s : State) : Host.Outcome State Fault Refusal :=
  .next (runCmd c 0x31 (fun _ => true) (fun k s =>
    let sh := fld (k.par 0) 0 12
    let new := fld (k.par 0) 16 6
    let st := (s.slice new).st
    if s.homeSlice sh = new ∨ st ≠ .on ∨ s.shState sh ≠ hmNormal then
      finish k stConflict ((s.map.entry sh).toNat + 256 * slStateCode st) [] s
    else if 8 ≤ s.map.moves.length then finish k stBusy 1 [] s
    else if s.map.moves.any (fun m => m.old == s.homeSlice sh) then finish k stBusy 2 [] s
    else startMove sh new (some k.id) false false (s.startCmd k id)) s)

/-! ### The steps of a move (R49, R52, R53) -/

/-- Whether a memory write of slice `k` for a shingle is waiting or outstanding (R49). -/
def State.writesOf (s : State) (k sh : Nat) : Bool :=
  (List.range s.gh.memPorts).any (fun p =>
    let m := s.mp p
    (m.held ++ m.outst).any (fun c => c.write && c.slice == k && shingleOf c.laddr == sh))

/-- A write of the shingle failed before T_F: the FENCE is withdrawn, and the move ends FAILED (R539). -/
def withdrawMove (m : Move) (s : State) : State := endMove m (.fault 0x18) (rewriteChange m.sh (hmEntry m.old hmNormal) s)

/-- MOVE_PREPARE_DONE (R49, R110, R539). A move that has waited for its home-flow entry takes it first. With the FENCE decided on and not in force, it ends a move whose write has failed since. -/
def execMovePrepareDone (sh : Nat) (s : State) : Host.Outcome State Fault Refusal :=
  .next (match s.moveOf sh with
    | some m =>
      if m.step = .prepare ∧ !m.begun then beginMove m s
      else if m.step = .fenceWait ∧ m.failed then withdrawMove m s
      else if m.step = .prepare ∧ !(s.writesOf m.old sh) then
        if m.failed then endMove m (.fault 0x18) s
        else changeMap [(sh, hmEntry m.old hmFenced)] (s.modMove sh (fun m => { m with step := .fenceWait }))
      else s
    | none => s)

/-- FENCE_MARKER (R49): the old slice counts a marker. -/
def execFenceMarker (k : Nat) (vc : VC) (s : State) : Host.Outcome State Fault Refusal :=
  .next (match (s.arrived k portSlice vc).head? with
    | some p =>
      match p.msg with
      | .marker src =>
        if s.works k then
          let s := takeSlot k true [] (s.dropArrived k portSlice vc)
          let count (m : Move) : Move := { m with marks := m.marks ++ [(src, vc)] }
          { s with map := { s.map with moves := lmodify (fun m => m.old == k && decide (m.step = .drain)) count s.map.moves } }
        else s
      | _ => s
    | none => s)

/-- The channels that carry fence markers (R49). -/
def fenceVcs : List VC := [.req, .rsp, .dat, .gt]

/-- Whether a marker from every ingress point on every channel has arrived (R49). -/
def State.allMarks (s : State) (m : Move) : Bool :=
  s.ingresses.all (fun i => fenceVcs.all (fun v => m.marks.contains (i, v)))

/-- Whether a tracker or escape entry on a shingle is open in a slice (R49). -/
def Slice.openOnShingle (v : Slice) (sh : Nat) : Bool :=
  v.txns.any (fun t => if t.kind = .openRes then t.cands.any (fun l => shingleOf l == sh) else t.sh == sh) ||
  v.deferred.any (fun w => shingleOf w.q.laddr == sh)

/-- The snoop-filter entries of a shingle in a slice: word address and entry. -/
def Slice.entriesOf (v : Slice) (sh : Nat) : List (Nat × SfEnt) :=
  v.sf.filter (fun x => x.2.st != stFree && shingleOf (sfLine (x.1 / 16) x.2.tag) == sh)

/-- Reads the ways of a shingle, as a scan does (R163, R164). -/
def readShingle (k sh : Nat) (s : State) : State :=
  ((s.slice k).entriesOf sh).foldl (fun s x => sfReadWay k (x.1 / 16) accInt s (x.1 % 16)) s

/-- Entries as DAT packets carry them, four in each (R49). -/
def entryGroups (es : List (Nat × SfEnt)) : List (List (Nat × BitVec 115)) := groups 4 es.length (es.map (fun x => (x.1, x.2.content)))

/-- MOVE_DRAIN_DONE (R49): the old slice sends its entries of the shingle to the new slice. -/
def execMoveDrainDone (sh : Nat) (s : State) : Host.Outcome State Fault Refusal :=
  .next (match s.moveOf sh with
    | some m =>
      if m.step = .drain ∧ s.allMarks m ∧ !((s.slice m.old).openOnShingle sh) ∧ s.works m.old then
        let s := readShingle m.old sh s
        let es := (s.slice m.old).entriesOf sh
        let s := (entryGroups es).foldl (fun s l => s.sliceToSlice m.old m.new .dat (.sfCopy sh l)) s
        s.modMove sh (fun m => { m with step := .copy, toCopy := es.length })
      else s
    | none => s)

/-- Installs a copied entry, brought to the current generation: in the way of its line, else in a way made free for it (R52, R151). A word that was
lost on its way and is no combination of the table is not written: its line goes into an OPEN resolution (R139, R165; log 27). -/
def installEnt (k set : Nat) (e : SfEnt) (s : State) : Option State :=
  let e' := regen s.pol e
  let l := sfLine set e.tag
  if !e.valid then (if s.homeUse k < 16 then some (beginOpen k set 0 accInt e (if (s.slice k).lineBusy l then [] else [l]) s) else none)
  else if e.st = stFree then some s
  else
    match (s.slice k).sfWay l with
    | some w => some (s.modSlice k (fun v => v.setSf set w e'))
    | none =>
      match takeWay k set l s with
      | some (w, s) => some (s.modSlice k (fun v => v.setSf set w e'))
      | none => none

/-- Whether salvage has sent the entry of a line of a shingle to slice `k` and it is not installed yet (R460). -/
def Salv.sends (x : Salv) (k sh : Nat) (l : LAddr) : Bool := x.toCopy.contains (sh, l) && x.homes.contains (sh, k)

/-- An entry of salvage is installed: MOVED counts it unless it is an open entry (R417, R460, R465). -/
def Salv.installed (x : Salv) (sh : Nat) (l : LAddr) : Salv :=
  { x with toCopy := lremove (fun c => c == (sh, l)) x.toCopy
           moved := if x.openSh.contains sh && x.poisons.contains l then x.moved else x.moved + 1 }

/-- Installs an entry of salvage, or drops it when no salvage waits for it any more. -/
def installSalvaged (k sh set : Nat) (e : SfEnt) (s : State) : Option State :=
  let l := sfLine set e.tag
  match (List.range s.gh.slices).find? (fun j => match (s.slice j).salv with
    | some x => x.sends k sh l
    | none => false) with
  | none => some s
  | some j => (installEnt k set e s).map (fun s => s.modSlice j (fun v => { v with salv := v.salv.map (fun x => x.installed sh l) }))

/-- SF_ENTRY_INSTALL: the entry that arrived first is installed; it waits while it needs a victim and the home-flow share is full. An
entry of a move that has been reverted is dropped (R52, R53, R460). -/
def execSfEntryInstall (k : Nat) (s : State) : Host.Outcome State Fault Refusal :=
  .next (match (s.slice k).copyIn with
    | (sh, key, content) :: rest =>
      if !(s.works k) then s
      else
        let e := entOf content
        let t := s.modSlice k (fun v => { v with copyIn := rest })
        match s.map.moves.find? (fun m => m.sh == sh && m.new == k && decide (m.step = .copy)) with
        | some _ =>
          match installEnt k (key / 16) e t with
          | some t => t.modMove sh (fun m => { m with copied := m.copied ++ [(sfLine (key / 16) e.tag).toNat] })
          | none => s
        | none => (installSalvaged k sh (key / 16) e t).getD s
    | [] => s)

/-- MOVE_COPY_DONE (R53, R539): every entry is installed and every memory write for the shingle acknowledged. -/
def execMoveCopyDone (sh : Nat) (s : State) : Host.Outcome State Fault Refusal :=
  .next (match s.moveOf sh with
    | some m =>
      if m.step ≠ .copy then s
      else if m.failed then revertMove m s
      else if m.copied.length = m.toCopy ∧ !(s.writesOf m.old sh) ∧ !((s.slice m.old).openOnShingle sh) then
        changeMap [(sh, hmEntry m.new hmNormal)] (s.modMove sh (fun m => { m with step := .unfenceWait }))
      else s
    | none => s)

/-- MOVE_DECISION_DEADLINE (R53, R539): a move that is not done by T_F + 18,600, or whose memory write has failed, reverts. -/
def execMoveDecisionDeadline (sh : Nat) (s : State) : Host.Outcome State Fault Refusal :=
  .next (match s.moveOf sh with
    | some m => if m.undecided && (m.failed || decide (m.tf + 18600 ≤ s.now)) then revertMove m s else s
    | none => s)

/-- The moves whose FENCE is not in force and that a failed write ends (R539). -/
def withdrawFailed (s : State) : State :=
  (s.map.moves.filter (fun m => decide (m.step = .fenceWait) && m.failed)).foldl (fun s m => withdrawMove m s) s

/-- FLIP_COPY_ACK (R44, R538): the flip ends, and the next is named for the changes that wait. -/
def execFlipCopyAck (s : State) : Host.Outcome State Fault Refusal :=
  .next (match s.map.flip with
    | some f =>
      if f.flipped then
        let s := withdrawFailed s
        let l := s.map.waiting
        let s := { s with map := { s.map with flip := none, waiting := [] } }
        if l.isEmpty then s else nameFlip l s
      else s
    | none => s)

end Sys2Proof.Machine
end

