-- ==== Sys2Proof/Machine/CacheCmd.lean ====
section
/-! DEFINITION. Sys2Proof/Machine/CacheCmd.lean: the commands over home-cache banks, ranges, ways and lines (R221, R227 to
R233, R395 to R399). -/

namespace Sys2Proof.Machine

/-! ### Commands over several slices (R228, R386, R395) -/

/-- The slices a bank command acts on: the one named, or every powered slice that has not failed (R228). -/
def State.bankTargets (s : State) (k : Kcp) : List Nat := if k.tgt = 0xFF then s.powered else [k.tgt]

/-- DETAIL of a STATE_CONFLICT of a bank command: the slice that refused it (R395). -/
def State.bankDetail (s : State) (j : Nat) : Nat :=
  let v := s.slice j
  j + 64 * bankCode v.bank + 256 * b2n v.hcinit + 512 * slStateCode v.st

/-- The lowest targeted slice that is not powered, or that `bad` names (R395). -/
def State.refusing (s : State) (l : List Nat) (bad : Slice → Bool) : Option Nat :=
  l.find? (fun j => decide ((s.slice j).st ≠ .on) || bad (s.slice j))

/-- The reply of a command over slices: OK, or what the loss of a targeted slice makes of it (R386). -/
def finishUnits (k : Kcp) (detail : Nat) (ws : List W64) (s : State) : State :=
  match ascending k.lost with
  | [] => finish k stOk detail ws s
  | j :: rest =>
    if k.tgt = 0xFF ∨ 1 < k.units.length then finish k stPartial (j + 256 * (rest.length + 1)) ws s
    else finish k stFailed k.lostBy [] s

/-! ### Banks (R221, R227 to R229) -/

/-- Selects the replacement mode of every bank, and reports a switch (R219, R221). -/
def setRepl (nru : Bool) (reason : Nat) (s : State) : State :=
  if s.pol.nru = nru then s
  else
    let s := { s with pol := { s.pol with nru := nru } }
    let s := if nru then s.each (List.range s.gh.slices) (fun s k =>
        s.modSlice k (fun v => { v with walkPos := 0, walkFrom := s.time.cycles })) else s
    policyEvent 0 0x13 0xFF reason (b2n (!nru)) (b2n nru) s

/-- Writes every word of a bank zero and every tag Invalid (R229). -/
def Slice.clearBank (v : Slice) : Slice :=
  { v with hcTag := [], hcData := [], hcCtl := [], mirror := [], thru := []
           errs := v.errs.filter (fun e => e.array == 0 || decide (4 < e.array)) }

/-- A control word once the tags of its set are Invalid and its locks are cleared; NRU and ROT stay (R229). -/
def HcCtl.emptied (c : HcCtl) : HcCtl := { c with lock := 0, dcnt := 0 }

/-- Writes every tag Invalid, and clears every lock (R229). -/
def Slice.clearTags (v : Slice) : Slice :=
  let rewritten (e : ArrErr) : Bool := e.array == 3 && decide ((v.ctlAt e.addr).emptied ≠ v.ctlAt e.addr)
  { v with hcTag := [], hcCtl := (v.hcCtl.map (fun x => (x.1, x.2.emptied))).filter (fun x => decide (x.2 ≠ {})), thru := []
           errs := v.errs.filter (fun e => e.array != 1 && !(rewritten e)) }

/-- HC_INVALIDATE_ALL: the pass starts (R228, R229). -/
def execHcInvalidateAll (c : Nat) (s : State) : Host.Outcome State Fault Refusal :=
  .next (runCmd c 0x20 (fun _ => true) (fun k s =>
    let l := s.bankTargets k
    match s.refusing l (fun v => v.bank.serves) with
    | some j => finish k stConflict (s.bankDetail j) [] s
    | none => s.startCmd k (fun x => { x with units := l })) s)

/-- HC_ENABLE (R221, R228). -/
def execHcEnable (c : Nat) (s : State) : Host.Outcome State Fault Refusal :=
  .next (runCmd c 0x21 (fun _ => true) (fun k s =>
    let l := s.bankTargets k
    let bad (v : Slice) : Bool := match v.bank with
      | .off | .draining => true
      | .ready => !v.hcinit
      | .on => false
    match s.refusing l bad with
    | some j => finish k stConflict (s.bankDetail j) [] s
    | none =>
      let s := s.each l (fun s j => s.modSlice j (fun v => { v with bank := .on }))
      let s := if k.tgt = 0xFF ∧ !s.pol.hcEnable then
          setRepl true 1 { s with pol := { s.pol with hcEnable := true, startFrom := some s.ptcNow } }
        else s
      finish k stOk 0 [] s) s)

/-- Writes back the Dirty lines of a bank, each as a victim, as far as the victim share has entries (R109, R116, R229). -/
def drainBank (c : Nat) (s : State) (j : Nat) : State :=
  let s := hcScan j accCmd s
  let l := (s.slice j).hcTag.filter (fun x => x.2.hst == hsDirty)
  l.foldl (fun s x => if s.victimFree j then evictFor j (x.1 / 32) (x.1 % 32) (some c) s else s) s

/-- HC_DISABLE: the banks that are ON start draining (R228, R229). -/
def execHcDisable (c : Nat) (s : State) : Host.Outcome State Fault Refusal :=
  .next (runCmd c 0x22 (fun _ => true) (fun k s =>
    let l := s.bankTargets k
    match s.refusing l (fun v => decide (v.bank = .draining)) with
    | some j => finish k stConflict (s.bankDetail j) [] s
    | none =>
      let s := if k.tgt = 0xFF then { s with pol := { s.pol with hcEnable := false } } else s
      let on := l.filter (fun j => decide ((s.slice j).bank = .on))
      if on.isEmpty then finish k stOk 0 [] s
      else
        let s := s.each on (fun s j => s.modSlice j (fun v => { v with bank := .draining }))
        s.each on (drainBank k.id) |> fun s => s.startCmd k (fun x => { x with units := on })) s)

/-- Whether a slice still drains for a command: a Dirty line, or a victim whose write is not acknowledged (R229). -/
def Slice.drains (v : Slice) (c : Nat) : Bool :=
  v.hcTag.any (fun x => x.2.hst == hsDirty) || v.victims.any (fun x => x.cmd == some c)

/-- BANK_PASS_DONE (R229): the pass of HC_INVALIDATE_ALL, or the second pass of HC_DISABLE, is done. -/
def execBankPassDone (c : Nat) (s : State) : Host.Outcome State Fault Refusal :=
  .next (match s.cmd c with
    | none => s
    | some k =>
      if !k.running then s
      else
        let l := k.units.filter (fun j => !(k.lost.contains j))
        if k.opc = 0x20 then
          let s := s.each l (fun s j => s.modSlice j (fun v => { v.clearBank with bank := .ready, hcinit := true }))
          finishUnits k 0 [] s
        else if k.opc = 0x22 then
          let s := s.each l (drainBank c)
          if l.any (fun j => (s.slice j).drains c) then s
          else
            let s := s.each l (fun s j => s.modSlice j (fun v => { v.clearTags with bank := .ready }))
            finishUnits k (2 * b2n k.wfail) [] s
        else s)

/-! ### Ranges (R232, R233, R396) -/

/-- The first line of a range and the line after its last, clipped to the line space (R396). -/
def rangeOf (k : Kcp) : Nat × Nat :=
  let a := fld (k.par 0) 0 46
  let n := fld (k.par 1) 0 40
  (a, if n = 2 ^ 40 - 1 then 2 ^ 46 else a + n)

/-- How many of the lines 0 to x - 1 have (line >> g) mod 2^w equal to r. -/
def linesBelow (x g w r : Nat) : Nat :=
  let period := 2 ^ (g + w)
  (x / period) * 2 ^ g + Nat.min (2 ^ g) (x % period - r * 2 ^ g)

/-- Lines from `a` to `b` - 1 that a region entry places at instance `i` (R32). -/
def entryLines (e : W64 × W64) (i a b : Nat) : Nat :=
  let lo := Nat.max a (fld e.1 0 22 * 2 ^ 24)
  let hi := Nat.min b ((fld e.1 32 22 + 1) * 2 ^ 24)
  let g := granShift (fld e.2 2 3) - 6
  let w := fld e.2 0 2
  if bit e.1 63 && decide (lo < hi) then
    lsum ((List.range (2 ^ w)).map (fun r =>
      if fld e.2 (8 + 3 * r) 3 = i then linesBelow hi g w r - linesBelow lo g w r else 0))
  else 0

/-- Lines of a range whose home is this instance; entries of a committed table share no granule (R33, R36, R233). -/
def State.homedIn (s : State) (a b : Nat) : Nat := lsum (s.map.active.map (fun e => entryLines e.2 s.self a b))

/-- Lines from `a` to `b` - 1, counted one by one, whose home is slice `k` of this instance. -/
def State.linesOneByOne (s : State) (k a b : Nat) : Nat :=
  ((List.range (b - a)).filter (fun i =>
    let l : LAddr := BitVec.ofNat 46 (a + i)
    (homeOf s.map.active l).any (fun h => h.1 == s.self) && s.homeSlice (shingleOf l) == k)).length

/-- Lines from `a` to `b` - 1 whose home is slice `k` of this instance (R386; log 92). In an aligned block of 2^24 lines every shingle has
the same share of the lines homed here, however its granules interleave (R32, R41), so only what lies outside such blocks is counted line
by line. -/
def State.linesAt (s : State) (k a b : Nat) : Nat :=
  let lo := (a + 2 ^ 24 - 1) / 2 ^ 24 * 2 ^ 24
  let hi := b / 2 ^ 24 * 2 ^ 24
  if s.shingleCount k = 0 then 0
  else if lo < hi then s.linesOneByOne k a lo + s.homedIn lo hi * s.shingleCount k / 4096 + s.linesOneByOne k hi b
  else s.linesOneByOne k a b

/-- What a range command does with one resident line (R232): whether it is skipped in a locked way, and the state. -/
def rangeLine (k : Kcp) (j : Nat) (s : State) (l : LAddr) : Bool × State :=
  let v := s.slice j
  let set := hcSet l
  match v.slotOf l with
  | none => (false, s)
  | some t =>
    let dirty := (v.tagAt set t).hst == hsDirty
    if k.opc = 0x24 then (false, if dirty then writeBackSlot j (.range k.id) s (set, t) else s)
    else if v.locked set (t / 2) && !(k.flag 0) then (true, s)
    else (false, evictFor j set t (some k.id) s)

/-- Whether a line waits for an entry of the victim share: it is Dirty and the share is full (R109, R232). -/
def State.victimWait (s : State) (j : Nat) (l : LAddr) : Bool :=
  match (s.slice j).slotOf l with
  | none => false
  | some t => ((s.slice j).tagAt (hcSet l) t).hst == hsDirty && !(s.victimFree j)

/-- Visits lines for a range command: one with an active transaction, and one that waits for a victim entry, is left for a revisit
(R109, R232). -/
def rangeVisit (c : Nat) (s : State) (x : Nat × LAddr) : State :=
  match s.cmd c with
  | none => s
  | some k =>
    if !((s.slice x.1).activeOn x.2).isEmpty || s.victimWait x.1 x.2 then s.modCmd c (fun k => { k with revisit := k.revisit ++ [x] })
    else
      let r := rangeLine k x.1 s x.2
      if r.1 then r.2.modCmd c (fun k => { k with skipped := k.skipped ++ [x.1] }) else r.2

/-- The resident lines of a range in a slice whose bank serves (R227, R232). -/
def Slice.resident (v : Slice) (a b : Nat) : List LAddr :=
  if v.bank.serves then
    (v.hcTag.map (fun x => hcLine (x.1 / 32) x.2.ltag)).filter (fun l => decide (a ≤ l.toNat) && decide (l.toNat < b))
  else []

/-- Starts a range command: one pass over every powered slice (R232, R396). -/
def startRange (k : Kcp) (s : State) : State :=
  match s.powered.find? (fun j => decide ((s.slice j).bank = .draining)) with
  | some j => finish k stConflict (s.bankDetail j) [] s
  | none =>
    let r := rangeOf k
    if r.2 ≤ r.1 then finish k stOk 0 [0, 0, 0, 0] s
    else
      let n := r.2 - r.1
      let s := s.startCmd k (fun x => { x with units := s.powered, aux := n - s.homedIn r.1 r.2 })
      s.each s.powered (fun s j => 
        let s := hcScan j accCmd s
        ((s.slice j).resident r.1 r.2).foldl (fun s l => rangeVisit k.id s (j, l)) s)

/-- INVAL_RANGE (R232, R396). -/
def execInvalRange (c : Nat) (s : State) : Host.Outcome State Fault Refusal := .next (runCmd c 0x23 (fun _ => true) startRange s)

/-- FLUSH_RANGE (R232, R396). -/
def execFlushRange (c : Nat) (s : State) : Host.Outcome State Fault Refusal := .next (runCmd c 0x24 (fun _ => true) startRange s)

/-- Whether a write-back of a range command is not acknowledged yet (R233). -/
def State.rangeWrites (s : State) (c : Nat) : Bool :=
  s.powered.any (fun j => (s.slice j).victims.any (fun x => x.cmd == some c)) ||
  (List.range s.gh.memPorts).any (fun p =>
    let m := s.mp p
    (m.held ++ m.outst).any (fun x => decide (x.owner = .range c)))

/-- RANGE_SCAN_DONE (R232, R233): the lines left for a revisit are visited; when none is left and every write-back is
acknowledged, the reply is written. -/
def execRangeScanDone (c : Nat) (s : State) : Host.Outcome State Fault Refusal :=
  .next (match s.cmd c with
    | none => s
    | some k =>
      if !k.running || !(k.opc == 0x23 || k.opc == 0x24) then s
      else
        let todo := k.revisit.filter (fun x => !(k.lost.contains x.1))
        let s := todo.foldl (rangeVisit c) (s.modCmd c (fun k => { k with revisit := [] }))
        match s.cmd c with
        | none => s
        | some k =>
          if !k.revisit.isEmpty || s.rangeWrites c then s
          else
            let r := rangeOf k
            let n := r.2 - r.1
            let w (x : Nat) : W64 := BitVec.ofNat 64 x
            let kept := (k.skipped.filter (fun j => !(k.lost.contains j))).length
            let clipped := fld (k.par 1) 0 40 == 2 ^ 40 - 1
            finishUnits k (b2n clipped + 2 * b2n k.wfail) [w (n - k.aux - k.away - kept), w kept, w k.aux, w n] s)

/-! ### Locks (R231, R397) -/

/-- Starts WAY_LOCK or WAY_UNLOCK. -/
def startLock (k : Kcp) (s : State) : State :=
  let l := s.bankTargets k
  if fld (k.par 0) 0 16 = 0 then finish k stOk 0 [] s
  else
    match s.refusing l (fun v => !(decide (v.bank = .on) || decide (v.bank = .ready))) with
    | some j => finish k stConflict (s.bankDetail j) [] s
    | none => s.startCmd k (fun x => { x with units := l })

/-- WAY_LOCK (R231, R397). -/
def execWayLock (c : Nat) (s : State) : Host.Outcome State Fault Refusal := .next (runCmd c 0x25 (fun _ => true) startLock s)

/-- WAY_UNLOCK (R231, R397). -/
def execWayUnlock (c : Nat) (s : State) : Host.Outcome State Fault Refusal := .next (runCmd c 0x26 (fun _ => true) startLock s)

/-- Writes the LOCK bits of one set. -/
def Slice.lockSet (v : Slice) (lock : Bool) (ways : BitVec 16) (set : Nat) : Slice :=
  let c := v.ctlAt set
  v.setCtl set { c with lock := if lock then c.lock ||| ways else c.lock &&& ~~~ways }

/-- WAY_LOCK_DONE (R397). -/
def execWayLockDone (c : Nat) (s : State) : Host.Outcome State Fault Refusal :=
  .next (match s.cmd c with
    | none => s
    | some k =>
      if !k.running || !(k.opc == 0x25 || k.opc == 0x26) then s
      else
        let w := k.par 0
        let first := fld w 16 11
        let sets := (List.range (fld w 32 11 + 1 - first)).map (fun i => first + i)
        let ways : BitVec 16 := w.extractLsb' 0 16
        let s := s.each (k.units.filter (fun j => !(k.lost.contains j))) (fun s j =>
          sets.foldl (fun s i => (readCtl j i accCmd s).modSlice j (fun v => v.lockSet (k.opc == 0x25) ways i)) s)
        finishUnits k 0 [] s)

/-! ### Lines (R385, R398, R399) -/

/-- Runs a command about a line at its home instance (R385). -/
def atHome (f : Kcp → State → State) (k : Kcp) (s : State) : State :=
  match homeOf s.map.active ((k.par 0).extractLsb' 0 46) with
  | none => finish k stFailed 1 [] s
  | some (i, _) => runAt i f k s

/-- Word 1 of LINE_QUERY (R398). -/
def State.lineWord (s : State) (l : LAddr) : W64 :=
  let sh := shingleOf l
  let j := s.homeSlice sh
  let v := s.slice j
  let e := v.sfEnt l
  let t : HcTag := match v.hitSlot l with
    | some n => v.tagAt (hcSet l) n
    | none => {}
  let victim := v.victims.any (fun x => x.laddr == l)
  pack 64 [(0, sh), (12, j), (18, s.shState sh), (20, s.self), (23, b2n (v.lineBusy l)), (24, e.st.toNat), (27, e.mode.toNat),
    (29, b2n e.gen), (30, e.own.toNat), (41, t.hst.toNat), (44, t.fmt.toNat), (46, b2n t.hh), (47, b2n victim),
    (48, b2n (t.hst == hsDirty || victim)), (49, b2n e.owned)]

/-- LINE_QUERY (R398). -/
def execLineQuery (c : Nat) (s : State) : Host.Outcome State Fault Refusal :=
  .next (runCmd c 0x27 (fun _ => true) (atHome (fun k s =>
    let l : LAddr := (k.par 0).extractLsb' 0 46
    finish k stOk 0 [s.lineWord l, ((s.slice (s.homeSlice (shingleOf l))).sfEnt l).payload] s)) s)

/-- FLUSH_LINE: the home flow enters the line's chain; it waits at the hub while the shingle is FENCED or the home-flow share
is full (R109, R110, R399). -/
def execFlushLine (c : Nat) (s : State) : Host.Outcome State Fault Refusal :=
  .next (runCmd c 0x28 (fun _ => true) (atHome (fun k s =>
    let l : LAddr := (k.par 0).extractLsb' 0 46
    let j := s.homeSlice (shingleOf l)
    let v := s.slice j
    if s.fencedAt (shingleOf l) || !(s.works j) || decide (16 ≤ s.homeUse j) then s
    else
      let s := s.startCmd k id
      s.setSlice j (v.enter { e := v.freeEntry, kind := .flushLine, q := { laddr := l }, cmd := some k.id }))) s)

end Sys2Proof.Machine
end

