-- ==== Sys2Proof/Machine/Bundles.lean ====
section
/-! DEFINITION. Sys2Proof/Machine/Bundles.lean: the budgets of the partitions and the map that is formed from a partition table
(R178). -/

namespace Sys2Proof.Machine

/-- AIDs of a partition, in ascending order. -/
def aidsIn (part : Nat → BitVec 4) (p : Nat) : List Nat := (List.range 2048).filter (fun x => (part x).toNat == p)

/-- How many AIDs each of the 16 partitions has. -/
def partCounts (part : Nat → BitVec 4) : List Nat :=
  (List.range 2048).foldl (fun l x => l.modify (part x).toNat (· + 1)) (List.replicate 16 0)

/-- The partitions by the remainder of their share, largest first; ties to the lower number (R178). -/
def byRemainder (rest : Nat) (cs : List Nat) : List Nat → List Nat
  | [] => []
  | p :: l =>
    let r (q : Nat) : Nat := rest * cs.getD q 0 % 2048
    let o := byRemainder rest cs l
    (o.takeWhile (fun q => decide (r p < r q))) ++ [p] ++ (o.dropWhile (fun q => decide (r p < r q)))

/-- Bundles that each partition owns: one for every partition with an AID, the rest in proportion to the AID counts by largest
remainder (R178). -/
def budgetSizes (part : Nat → BitVec 4) : List Nat :=
  let cs := partCounts part
  let ps := (List.range 16).filter (fun p => decide (0 < cs.getD p 0))
  let rest := 64 - ps.length
  let base := (List.range 16).map (fun p => if 0 < cs.getD p 0 then 1 + rest * cs.getD p 0 / 2048 else 0)
  let more := 64 - lsum base
  ((byRemainder rest cs ps).take more).foldl (fun l p => l.modify p (· + 1)) base

/-- The bundles of a partition's budget, handed out in ascending order, partition by partition (R178). -/
def budgetOf (part : Nat → BitVec 4) (p : Nat) : List Nat :=
  let z := budgetSizes part
  (List.range (z.getD p 0)).map (fun i => lsum (z.take p) + i)

/-- Which of `n` runs, as equal as possible and the longer first, the element in place `i` of `m` falls in (R178). -/
def runOf (m n i : Nat) : Nat :=
  let q := m / n
  let r := m % n
  if i < r * (q + 1) then i / (q + 1) else r + (i - r * (q + 1)) / q

/-- The map that is formed from a partition table (R178). -/
def formMap (part : Nat → BitVec 4) : Tbl (BitVec 6) :=
  let add (t : Tbl (BitVec 6)) (p : Nat) : Tbl (BitVec 6) :=
    let as := aidsIn part p
    let b := budgetOf part p
    as.zipIdx.foldl (fun t x =>
      tset (fun a => BitVec.ofNat 6 (a / 32)) x.1 (BitVec.ofNat 6 (b.getD (runOf as.length b.length x.2) 0)) t) t
  (List.range 16).foldl add []

/-- The bits of every bundle in the budget of every partition that a mask names (R465). -/
def budgetBits (part : Nat → BitVec 4) (mask : BitVec 16) : W64 :=
  ((List.range 16).filter (fun p => mask.getLsbD p)).foldl (fun v p =>
    (budgetOf part p).foldl (fun v b => v ||| (1#64 <<< b)) v) 0

end Sys2Proof.Machine
end

