-- ==== Sys2Proof/Machine/Loss.lean ====
section
/-! DEFINITION. Sys2Proof/Machine/Loss.lean: the loss of a slice: its cause, the isolation wrapper, the fence of its shingles,
and what its buddy does (R226, R451, R454 to R456, R502). -/

namespace Sys2Proof.Machine

/-! ### Write-through at the buddy (R226) -/

/-- The placements of slice `b` that wait for a mirror update which its buddy will not acknowledge any more are complete: the scan of write-through
writes their lines back. DESIGN CHOICE (log 98): R224 and R226 do not say what becomes of such a placement. -/
def endMirrorWaits (b : Nat) (s : State) : State :=
  (((s.slice b).txns.filter (fun t => t.mirror)).map (fun t => t.e)).foldl (fun s e =>
    placementDone b e (s.modTxn b e (fun t => { t with mirror := false }))) s

/-- The buddy of slice `k` starts write-through: its scan writes back every Dirty line (R226). -/
def startWriteThrough (k : Nat) (s : State) : State :=
  let b := buddy k
  let v := s.slice b
  if v.st = .on ∧ s.works b then
    let s := hcScan b accInt (s.setSlice b { v with wt226 := true, wtScan := true })
    let l := ((s.slice b).hcTag.filter (fun x => x.2.hst == hsDirty)).map (fun x => (x.1 / 32, x.1 % 32))
    endMirrorWaits b (l.foldl (writeBackSlot b .through) s)
  else s.setSlice b { v with wt226 := true }

/-- WRITE_THROUGH_SCAN_DONE (R226, R502): the survivor's scan is done; when its buddy is back, write-through may end. -/
def execWriteThroughScanDone (k : Nat) (s : State) : Host.Outcome State Fault Refusal :=
  .next (if (s.slice k).wtScan && s.works k then
      endWriteThrough k (s.modSlice k (fun v => { v with wtScan := false }))
    else s)

/-! ### What a slice leaves behind (R386, R455, R502) -/

/-- Memory commands of slice `k`: its reads waiting are dropped and those outstanding are void; its writes go on, and nothing in
the slice waits for them any more (R502). `all`: its victim entries are gone too. -/
def detachMem (k : Nat) (all : Bool) (s : State) : State :=
  let own (o : MemFor) : MemFor := match o with
    | .txn _ => .salvage
    | .victim e => if all then .salvage else .victim e
    | .through => .through
    | .prep sh => .prep sh
    | .poison => .poison
    | .salvage => .salvage
    | .range c => .range c
  let cut (c : MemCmd) : MemCmd :=
    if c.slice != k then c else if c.write then { c with owner := own c.owner } else { c with void := true }
  s.each (List.range s.gh.memPorts) (fun s p => s.modMp p (fun m =>
    { m with held := (m.held.filter (fun c => c.write || c.slice != k)).map cut, outst := m.outst.map cut }))

/-- The credits that ingress points hold for slice `k` are void (R250). -/
def voidCredits (k : Nat) (s : State) : State :=
  let s := s.each (List.range s.gh.caPorts) (fun s p => s.modCa p (fun c => { c with cred := tdel k c.cred }))
  s.each (List.range s.gh.ridgePorts) (fun s r => s.modLink r (fun l => { l with cred := tdel k l.cred }))

/-- The commands in progress that act on slice `k` learn that it is gone; one that acts on a line of it ends (R386). -/
def noteLost (k src : Nat) (s : State) : State :=
  let away (x : Kcp) : Nat := if x.opc = 0x23 ∨ x.opc = 0x24 then s.linesAt k (rangeOf x).1 (rangeOf x).2 else 0
  let hit (x : Kcp) : Kcp :=
    if x.running && x.units.contains k && !(x.lost.contains k) then { x with lost := x.lost ++ [k], lostBy := src, away := x.away + away x }
    else x
  let lines := ((s.slice k).txns.filter (fun t => decide (t.kind = .flushLine))).map (fun t => t.cmd)
  let s := { s with hub := { s.hub with inProg := s.hub.inProg.map hit } }
  lines.foldl (fun s c => s.endCmd c stFailed src []) s

/-- What the reset or the power-down of a slice leaves: every array, tracker entry and counter of its work is gone (R391, R506). -/
def Slice.wiped (k : Nat) (v : Slice) : Slice :=
  { v with
    bank := .off, hcinit := false, wt226 := false, wtScan := false
    lfsr := (Slice.init k).lfsr, lfsrRun := false, walkPos := 0, walkFrom := 0
    sf := [], sfNru := [], sfRot := [], sfParity := []
    hcTag := [], hcData := [], hcCtl := [], mirror := [], refresh := [], errs := []
    txns := [], deferred := [], victims := [], thru := []
    copyIn := [], wdat := []
    bufUsed := 0, shared := {}, grants := {}, snpCred := [], markCred := [], calib := {}, recent := []
    slots := [], sfPos := 0, hcPos := 0, sfWait := none, hcWait := none, genSweep := false, partSweep := false, ucSwitch := false }

/-- A record of a writeback-class message that the slice has not answered (R455). -/
def WbMsg.record (s : State) (k : Nat) (w : WbMsg) : WRec :=
  { q := w.q, src := w.src, htid := s.htid k w.e, isGt := w.isGt, gtc := w.gtc }

/-- The records that the wrapper keeps for a tracker entry (R455). -/
def Txn.records (s : State) (k : Nat) (t : Txn) : List WRec :=
  let fromHere := decide (t.use ≠ .fwd)
  let mine : WRec := { q := t.q, src := t.src, htid := s.htid k t.e, isGt := t.isGt, gtc := t.gtc, snooped := t.snooped
                       cmp := t.cmpSent, data := t.cmpSent && t.data && fromHere, chunks := if fromHere then t.sent else 0 }
  (match t.kind with
   | .req => if t.failed then [] else [mine]
   | .wb => if t.cmpSent then [] else [mine]
   | .backInv | .openRes | .lineRes | .flushLine | .linkClean | .mirrorTag | .recover => []) ++ t.absorbed.map (fun w => w.record s k)

/-- Every record of the wrapper of slice `k` (R455). -/
def State.recordsOf (s : State) (k : Nat) : List WRec :=
  (s.slice k).txns.flatMap (fun t => t.records s k) ++ (s.slice k).deferred.map (fun w => w.record s k)

/-! ### Pending changes of the home map -/

/-- The entry of a shingle once every change that has been named or waits is in force. -/
def MapSt.pendingEntry (m : MapSt) (sh : Nat) : BitVec 8 :=
  let last (l : List (Nat × BitVec 8)) : Option (BitVec 8) := ((l.filter (fun x => x.1 == sh)).getLast?).map (fun x => x.2)
  let named := match m.flip with
    | some f => if f.flipped then none else last f.chg
    | none => none
  match orElse (last m.waiting) named with
  | some e => e
  | none => m.entry sh

/-- Whether the outstanding flip carries an entry that is not yet in force. -/
def MapSt.named (m : MapSt) (sh : Nat) (e : BitVec 8) : Bool :=
  match m.flip with
  | some f => !f.flipped && f.chg.contains (sh, e)
  | none => false

/-- Takes the changes of a shingle that wait for the next flip off. -/
def unwait (sh : Nat) (s : State) : State :=
  { s with map := { s.map with waiting := s.map.waiting.filter (fun x => x.1 != sh) } }

/-- A slice that is lost leaves a move (R55): as the new slice, the move reverts, in the flip that was to end it when that is named
already; as the old slice, the shingle is re-homed with the others, and an UNFENCE that is named already leaves it FENCED. -/
def leaveMove (k : Nat) (s : State) (m : Move) : State :=
  if m.old = k then
    let s := if m.step = .unfenceWait then rewriteChange m.sh (hmEntry m.old hmFenced) s else unwait m.sh s
    endMove m (.fault 0x0C) (dropCopies m s)
  else if m.new = k then
    let s := s.modMove m.sh (fun m => { m with lostNew := true })
    match m.step with
    | .prepare => endMove m (.fault 0x0C) s
    | .fenceWait | .drain | .copy => revertMove m s
    | .unfenceWait =>
      if s.map.named m.sh (hmEntry m.new hmNormal) then
        rewriteChange m.sh (hmEntry m.old hmNormal) (s.modMove m.sh (fun m => { m with step := .revertWait }))
      else revertMove m (unwait m.sh s)
    | .revertWait => s
  else s

/-! ### The loss (R226, R454, R456, R469) -/

/-- Code of a cause (R447). -/
def causeCode : FatalCause → Nat
  | .power => 1
  | .tracker => 2
  | .ctrlStore => 3
  | .engineHang => 4
  | .internal => 5
  | .forced => 6
  | .injected => 7

/-- The salvage of slice `k`. -/
def State.salv (s : State) (k : Nat) : Option Salv := (s.slice k).salv

/-- Changes the salvage of slice `k`. -/
def State.modSalv (s : State) (k : Nat) (f : Salv → Salv) : State := s.modSlice k (fun v => { v with salv := v.salv.map f })

/-- A salvage changes phase (R417, R468). -/
def setPhase (k n : Nat) (s : State) : State :=
  match s.salv k with
  | none => s
  | some x =>
    raise { src := 0x0F, detail := .slc k (causeCode x.cause) n x.openSh.length 0 0, acc := accInt }
      (s.modSalv k (fun x => { x with phase := n }))

/-- The arrays that the salvage path reads (R457). -/
def salvArrays : List SalvArray := [.tracker, .buffers, .snoopFilter, .tags, .data]

/-- A salvage that has not re-homed its shingles takes back those it had assigned to slice `k` (R463, R469). -/
def takeBack (k : Nat) (x : Salv) : Salv :=
  if x.decided then x
  else
    let gone (sh : Nat) : Bool := x.homes.contains (sh, k)
    { x with
      homes := x.homes.filter (fun h => h.2 != k)
      sentSh := x.sentSh.filter (fun sh => !(gone sh))
      toCopy := x.toCopy.filter (fun c => !(gone c.1))
      begun := x.begun.filter (fun l => !(gone (shingleOf l))) }

/-- INSTANCE_FATAL (R446, R451). -/
def instanceFatal (code : Nat) (s : State) : State :=
  loseInstance (raise { src := 0x22, detail := .misc code (Config.miscValue 0x22 code), acc := accInt } s)

/-- Whether a stored word of array `a` cannot be read: its own error, or the one the path met. -/
def Slice.wordBad (v : Slice) (a addr : Nat) (bad : Bool) : Bool :=
  bad || (match v.errAt a addr with
    | some x => !x.single
    | none => false)

/-- The lines that the mirror of the buddy names, with set and slot; a word that cannot be corrected names none. -/
def State.mirrorLines (s : State) (k : Nat) : List (LAddr × Nat) :=
  let b := s.slice (buddy k)
  (b.mirror.filter (fun x => x.2.v && !(b.wordBad 4 x.1 false))).map (fun x => (hcLine (x.1 / 16) x.2.ltag, x.1 / 16 * 32 + x.2.slot.toNat))

/-- The black events that the loss of slice `k` causes: both slices of a pair lost before the scan of the survivor ended, or the
buddy lost before it has read the mirror, which takes 4,096 cycles; what it has read by then is kept (R226, R451, R469). -/
def pairLost (k : Nat) (s : State) : State :=
  let scanning := decide ((s.slice (buddy k)).st = .failed) && (s.slice k).wtScan
  let s := if scanning then instanceFatal 2 s else s
  match s.salv (buddy k) with
  | some x =>
    if x.mirrorDone then s
    else if x.c0 + 4096 ≤ s.time.cycles then s.modSalv (buddy k) (fun x => { x with mirLines := some (s.mirrorLines (buddy k)) })
    else instanceFatal 3 s
  | none => s

/-- The salvage that starts with a loss (R456 to R472). With the domain down every array is unreadable. -/
def startSalvage (k : Nat) (cause : FatalCause) (shs : List Nat) (cmd : Option Nat) (s : State) : Salv :=
  { cause := cause, t0 := s.now, t0ptc := s.time.ptc, shs := shs, recs := s.recordsOf k, txns := (s.slice k).txns
    lostArrays := if cause = .power then salvArrays else []
    vict := ((s.slice k).victims.filter (fun x => x.sent || decide (cause ≠ .power))).map (fun x => x.laddr)
    c0 := s.time.cycles
    mirrorDone := !(s.buddyMirrors k)
    openSh := shs.filter (fun sh => s.shState sh == hmOpen)
    fenced := shs.isEmpty, cmd := cmd }

/-- The agents that an OPEN_EAVES shingle of this loss would wait for: those valid now whose partition is in its mask (R472). -/
def State.exitSetsFor (s : State) (shs : List Nat) : List (Nat × List Aid) :=
  if s.pkg.agents.isEmpty then []
  else shs.map (fun sh => (sh, ((s.pkg.agents.map (fun p => p.1)).filter (s.inMask sh)).map (BitVec.ofNat 11)))

/-- A gating action on the pair of a slice that is gone ends; the other slice of the pair stays powered (R196; log 91). -/
def gatingLost (k : Nat) (s : State) : State :=
  match s.pol.gating with
  | some g =>
    if g.pair = k / 2 then
      endGating 2 (s.modSlice (buddy k) (fun v => if v.st = SlState.poweringDown then { v with st := .on, wrapper := false, clamped := false } else v))
    else s
  | none => s

/-- The victim writes of slice `k` that no controller has accepted are not presented any more: their buffers have lost power (R116, R461). -/
def dropVictimWrites (k : Nat) (s : State) : State :=
  let gone (c : MemCmd) : Bool := c.slice == k && (match c.owner with
    | .victim _ => true
    | .txn _ | .through | .prep _ | .poison | .salvage | .range _ => false)
  s.each (List.range s.gh.memPorts) (fun s p => s.modMp p (fun m => { m with held := m.held.filter (fun c => !(gone c)) }))

/-- A slice is lost: SLICE_FATAL, the recovery period of R221 starts, the wrapper closes, its buddy starts write-through, its moves and gating action end, and the
fence of its shingles is named (R454 to R456). -/
def loseSlice (k : Nat) (cause : FatalCause) (engine thread : Nat) (cmd : Option Nat) (s : State) : State :=
  let s := raise { src := 0x0C, detail := .slc k (causeCode cause) 0 0 engine thread, acc := accInt } s
  let s := setRepl true 3 { s with pol := { s.pol with recovery := true } }
  let s := pairLost k s
  let s := s.each (List.range s.gh.slices) (fun s j => if (s.salv j).isSome then s.modSalv j (takeBack k) else s)
  let s := gatingLost k s
  let s := s.map.moves.foldl (leaveMove k) s
  let shs := (List.range 4096).filter (fun sh => hmSlice (s.map.pendingEntry sh) == k)
  let x := startSalvage k cause shs cmd s
  let exits := s.exitSetsFor shs
  let s := voidCredits k (detachMem k false (noteLost k 0x0C s))
  let s := s.modSlice k (fun v =>
    { v with st := .failed, wrapper := true, txns := [], deferred := [], thru := [], copyIn := [], wdat := [], salv := some x
             exitSets := v.exitSets.filter (fun e => !(shs.contains e.1)) ++ exits
             victims := if cause = .power then v.victims.filter (fun y => y.sent) else v.victims
             lfsr := if cause = .power then (Slice.init k).lfsr else v.lfsr, lfsrRun := v.lfsrRun && decide (cause ≠ .power) })
  let s := if cause = .power then dropVictimWrites k s else s
  let s := startWriteThrough k s
  setPhase k 1 (changeMap (shs.map (fun sh => (sh, hmEntry k hmFenced))) s)

/-- Whether a slice can be lost: powered or changing its power, and not under soft reset (R389, R454). -/
def SlState.losable : SlState → Bool
  | .on | .poweringUp | .poweringDown => true
  | .off | .reset | .failed | .disabled => false

/-- SLICE_FATAL (R454). FORCED comes only from SLICE_RESET, INJECTED only from FACTORY_INJECT. -/
def execSliceFatal (k : Nat) (cause : FatalCause) (s : State) : Host.Outcome State Fault Refusal :=
  .next (if (s.slice k).st.losable && decide (cause ≠ .forced) && decide (cause ≠ .injected) then loseSlice k cause 0 0 none s else s)

/-- Whether a transaction that occupies a thread waits on no message: no snoop, read, write, mirror update, CmpAck or response to an absorbed
writeback is outstanding (R454). -/
def Txn.waitsOnNothing (t : Txn) : Bool :=
  t.outs.isEmpty && decide (t.rd ≠ .queued) && t.writes == 0 && !t.mirror && t.ackFrom.isNone && t.absorbed.isEmpty

/-- Whether a thread of a slice has run for 65,536 cycles without a message to wait on (R454). -/
def Slice.hung (v : Slice) (now : Nat) : Bool :=
  v.txns.any (fun t => t.threaded && t.looked && t.waitsOnNothing && decide (t.ran + 65536 ≤ now))

/-- ENGINE_HANG (R454): a thread has retired no microinstruction for the limit. Engine and thread are those that hang. -/
def execEngineHang (k : Nat) (engine : BitVec 4) (thread : BitVec 2) (s : State) : Host.Outcome State Fault Refusal :=
  .next (if (s.slice k).st.losable && (s.slice k).hung s.time.cycles then loseSlice k .engineHang engine.toNat thread.toNat none s else s)

/-! ### The closed wrapper (R456, R502, R504) -/

/-- WRAPPER_PACKET: a request or writeback is answered, any other packet is discarded and counted. -/
def execWrapperPacket (k : Nat) (vc : VC) (s : State) : Host.Outcome State Fault Refusal :=
  .next (match (s.arrived k portSlice vc).head? with
    | none => s
    | some p =>
      if (s.slice k).wrapper then
        let s := s.dropArrived k portSlice vc
        match p.msg with
        | .req q src _ _ =>
          s.fromSlice k src (if p.vc = .gt then .gt else .rsp) p.gtc
            (.cmpErr q.aid q.txid 0 (if (s.slice k).st = .failed then rsSliceLost else rsIsolated))
        | .snp .. | .rsp .. | .cmpAck .. | .cmp .. | .cmpErr .. | .wbAck .. | .dat .. | .credit .. | .creditBack .. | .mirrorSet .. | .mirrorClr ..
        | .mirrorAck .. | .marker .. | .snpMarker .. | .sfCopy .. | .hub _ => s.modSlice k (fun v => { v with discards := v.discards + 1 })
      else s)

end Sys2Proof.Machine
end

