-- ==== Sys2Proof/Machine/PortCmd.lean ====
section
/-! DEFINITION. Sys2Proof/Machine/PortCmd.lean: the commands over CA ports and memory ports (R392 to R394). -/

namespace Sys2Proof.Machine

/-- Codes of the states of a CA port (R331). -/
def caStateCode : CaSt → Nat
  | .quiesced => 0
  | .bringup => 1
  | .active => 2
  | .quiescing => 3
  | .isolated => 4

/-- Sets what the word of a PORT_STATE selects at a CA port (R392). -/
def setCaFields (p : Nat) (w : W64) (s : State) : State :=
  if bit w 0 then tryBringup p (s.modCa p (fun c => { c with enable := bit w 1 })) else s

/-- Sets what the word of a PORT_STATE selects at a memory port (R392). -/
def MemPort.setFields (m : MemPort) (w : W64) : MemPort :=
  let m := if bit w 0 then { m with timeout := fld w 4 24 } else m
  if bit w 1 then { m with wakeDelay := fld w 32 20, never := bit w 52 } else m

/-- The reply word of a CA port (R393). -/
def CaPort.stateWord (c : CaPort) : W64 :=
  pack 64 [(0, caStateCode c.st), (3, b2n c.enable), (4, c.nag.toNat), (16, c.discards.toNat)]

/-- The reply words of a memory port (R393). -/
def MemPort.stateWords (m : MemPort) : List W64 :=
  let n (w : Bool) : Nat := (m.outst.filter (fun c => c.write == w)).length
  [pack 64 [(0, b2n m.failed), (1, b2n m.sr), (2, b2n m.wake), (4, m.timeout), (32, m.wakeDelay), (52, b2n m.never)],
   pack 64 [(0, n false), (16, n true)]]

/-- PORT_STATE (R392, R393). -/
def execPortState (c : Nat) (s : State) : Host.Outcome State Fault Refusal :=
  .next (runCmd c 0x18 (fun _ => true) (fun k s =>
    if k.uclass = 0 then
      let s := if k.ps.isEmpty then s else setCaFields k.tgt (k.par 0) s
      finish k stOk 0 [(s.ca k.tgt).stateWord] s
    else
      let s := if k.ps.isEmpty then s else s.modMp k.tgt (fun m => m.setFields (k.par 0))
      finish k stOk 0 (s.mp k.tgt).stateWords s) s)

/-- Whether a PORT_RESET is for a CA port, and asserts (R394). -/
def resetForm (ca assert : Bool) (k : Kcp) : Bool := decide (k.uclass = 0) == ca && bit (k.par 0) 0 == assert

/-- PORT_RESET of a CA port, ASSERT 1 (R394, R503). -/
def execPortResetCaAssert (c : Nat) (s : State) : Host.Outcome State Fault Refusal :=
  .next (runCmd c 0x19 (resetForm true true) (fun k s =>
    if (s.ca k.tgt).st = .isolated then finish k stConflict (caStateCode (s.ca k.tgt).st) [] s
    else finish k stOk 0 [] (isolatePort k.tgt s)) s)

/-- PORT_RESET of a CA port, ASSERT 0: the release starts the scans of R338; its reply follows when the port is QUIESCED (R394).
A further release of the port joins the one that runs. -/
def execPortResetCaRelease (c : Nat) (s : State) : Host.Outcome State Fault Refusal :=
  .next (runCmd c 0x19 (resetForm true false) (fun k s =>
    let p := k.tgt
    let x := s.ca p
    if x.st ≠ .isolated then finish k stConflict (caStateCode x.st) [] s
    else
      let s := (s.startCmd k id).modCa p (fun c => { c with relCmds := c.relCmds ++ [k.id] })
      let s := if x.relCmds.isEmpty then (s.modCa p (fun c => { c with scansDue := s.peerMask })).toJoined (.release p) else s
      s.each s.slicesUp (fun s j => cleanPass (x.agents.map (fun a => a.aid)).contains j s)) s)

/-- PORT_RESET of a memory port, ASSERT 1 (R347, R394). -/
def execPortResetMemAssert (c : Nat) (s : State) : Host.Outcome State Fault Refusal :=
  .next (runCmd c 0x19 (resetForm false true) (fun k s =>
    let p := k.tgt
    if (s.mp p).inReset then finish k stConflict 1 [] s
    else
      let s := s.modMp p (fun m => { m with abort := true, abortFrom := s.time.cycles, inReset := true, rdCred := 0, wrCred := 0 })
      finish k stOk 0 [] (failAll p s)) s)

/-- PORT_RESET of a memory port, ASSERT 0 (R347, R394): it waits until MPn_ABORT has been high for 16 CCLK cycles. -/
def execPortResetMemRelease (c : Nat) (s : State) : Host.Outcome State Fault Refusal :=
  .next (runCmd c 0x19 (resetForm false false) (fun k s =>
    let p := k.tgt
    let m := s.mp p
    if !m.inReset then finish k stConflict 0 [] s
    else if s.time.cycles < m.abortFrom + 16 then s
    else finish k stOk 0 [] (s.setMp p { m with abort := false, inReset := false, failed := false })) s)

end Sys2Proof.Machine
end

