-- ==== Sys2Proof/Machine/SliceCmd.lean ====
section
/-! DEFINITION. Sys2Proof/Machine/SliceCmd.lean: the state of slices, their soft reset, their power switches and gating actions
(R192 to R196, R389 to R391, R502, R505, R506). -/

namespace Sys2Proof.Machine

/-! ### SLICE_STATE (R389) -/

/-- The word of a slice. -/
def State.sliceWord (s : State) (k : Nat) : W64 :=
  let v := s.slice k
  let through := v.wt226 || s.map.moves.any (fun m => m.old == k && m.begun)
  pack 64 [(0, k), (6, slStateCode v.st), (10, bankCode v.bank), (12, b2n v.hcinit), (13, b2n through), (14, s.shingleCount k),
    (27, v.thr), (32, Nat.min ((s.now - v.since) / 1000000) (2 ^ 32 - 1))]

/-- SLICE_STATE. -/
def execSliceState (c : Nat) (s : State) : Host.Outcome State Fault Refusal :=
  .next (runCmd c 0x10 (fun _ => true) (fun k s => finish k stOk 0 ((targetSlices k s).map s.sliceWord) s) s)

/-! ### SLICE_POWER (R192, R390) -/

/-- Milliseconds of residency that a slice has still to run (R192). -/
def State.residencyLeft (s : State) (k : Nat) : Nat := ((s.slice k).since + 1000000000 - s.now + 999999) / 1000000

/-- Whether a slice of the instance is failed or a shingle OPEN_EAVES: no gating action starts then (R196). -/
def State.gateHeld (s : State) : Bool :=
  (List.range s.gh.slices).any (fun k => decide ((s.slice k).st = .failed)) || (List.range 4096).any (fun sh => s.shState sh == hmOpen)

/-- The MAX bound of policy GATING, at most half the slices (R197). -/
def State.gateMaxOf (s : State) : Nat := Nat.min s.pol.gateMax (s.gh.slices / 2)

/-- The reason why a gating action of a pair may not start, 0 when it may (R390). -/
def State.gateReason (s : State) (pair : Nat) (up : Bool) : Nat :=
  let a := s.slice (2 * pair)
  let b := s.slice (2 * pair + 1)
  let bad (x : SlState) : Bool := decide (x = .failed) || decide (x = .disabled) || decide (x = .reset)
  let n := s.poweredPairs.length
  let want : SlState := if up then .on else .off
  if !s.pol.gatePin then 1
  else if a.st = want ∧ b.st = want then 2
  else if bad a.st || bad b.st then 3
  else if s.residencyLeft (2 * pair) ≠ 0 ∨ s.residencyLeft (2 * pair + 1) ≠ 0 then 4
  else if (if up then decide (s.gateMaxOf < n + 1) else decide (n < s.pol.gateMin + 1)) then 5
  else if s.gateHeld then 6
  else if s.pol.gating.isSome then 7
  else 0

/-- Runs a SLICE_POWER of one direction (R390). -/
def powerCommand (up : Bool) (k : Kcp) (s : State) : State :=
  let pair := fld (k.par 0) 0 5
  let r := s.gateReason pair up
  if r ≠ 0 then
    finish k stConflict (r + 16 * Nat.max (s.residencyLeft (2 * pair)) (s.residencyLeft (2 * pair + 1))) [] s
  else
    let s := s.startCmd k id
    let g : Gating := { pair := pair, up := up, cmd := some k.id }
    { s with pol := { s.pol with gateVal := if up then s.pol.gateVal + 1 else s.pol.gateVal - 1, gating := some g } }

/-- SLICE_POWER with UP = 1. -/
def execSlicePowerUp (c : Nat) (s : State) : Host.Outcome State Fault Refusal :=
  .next (runCmd c 0x11 (fun k => bit (k.par 0) 8) (powerCommand true) s)

/-- SLICE_POWER with UP = 0. -/
def execSlicePowerDown (c : Nat) (s : State) : Host.Outcome State Fault Refusal :=
  .next (runCmd c 0x11 (fun k => !bit (k.par 0) 8) (powerCommand false) s)

/-! ### The gating action (R194, R195) -/

/-- The gating action of a pair in a direction, if it is the one in progress. -/
def State.gatingOf (s : State) (pair : Nat) (up : Bool) : Option Gating :=
  match s.pol.gating with
  | some g => if g.pair = pair ∧ g.up = up then some g else none
  | none => none

/-- GATING_POWER_DOWN (R194): the shingles of the pair move away. -/
def execGatingPowerDown (pair : Nat) (s : State) : Host.Outcome State Fault Refusal :=
  .next (match s.gatingOf pair false with
    | some g => gateOn { s with pol := { s.pol with gating := some { g with begun := true } } }
    | none => s)

/-- Whether a slice may be switched off: no shingle, no open entry, no Dirty line (R194). -/
def State.idleSlice (s : State) (k : Nat) : Bool :=
  let v := s.slice k
  decide (v.st = .on) && s.shingleCount k == 0 && v.txns.isEmpty && v.deferred.isEmpty && v.victims.isEmpty &&
    !(v.hcTag.any (fun x => x.2.hst == hsDirty)) && !(s.map.moves.any (fun m => m.old == k || m.new == k))

/-- GATING_SWITCH_OPEN (R194, R506): the power-down of both slices starts. -/
def execGatingSwitchOpen (s : State) : Host.Outcome State Fault Refusal :=
  .next (match s.pol.gating with
    | some g =>
      if !g.up && g.begun && s.idleSlice (2 * g.pair) && s.idleSlice (2 * g.pair + 1) then
        s.each [2 * g.pair, 2 * g.pair + 1] (fun s k => s.modSlice k (fun v => { v with st := .poweringDown, wrapper := true, clamped := true }))
      else s
    | none => s)

/-- SLICE_POWER_OFF_DONE (R24, R506): the slice keeps nothing; with both slices off the action ends. -/
def execSlicePowerOffDone (k : Nat) (s : State) : Host.Outcome State Fault Refusal :=
  .next (if (s.slice k).st = .poweringDown then
      let s := voidCredits k (detachMem k true (noteLost k 0x0D s))
      let s := s.modSlice k (fun v => { v.wiped k with st := .off, clamped := true, wrapper := false, since := s.now })
      match s.pol.gating with
      | some g => if !g.up && g.pair == k / 2 && decide ((s.slice (buddy k)).st = .off) then endGating 0 s else s
      | none => s
    else s)

/-- GATING_POWER_UP (R195, R505): the switches of the pair start to close. -/
def execGatingPowerUp (pair : Nat) (s : State) : Host.Outcome State Fault Refusal :=
  .next (match s.gatingOf pair true with
    | some g =>
      if g.begun then gateOn s
      else
        let s := { s with pol := { s.pol with gating := some { g with begun := true } } }
        s.each [2 * pair, 2 * pair + 1] (fun s k => s.modSlice k (fun v =>
          if v.st = .off then { v with st := .poweringUp, segTick := s.now } else v))
    | none => s)

/-- A slice that powers up or leaves soft reset sends its first credits to every ingress point that holds credits (R246). -/
def initCredits (k : Nat) (s : State) : State := s.each (s.ingresses.filter s.holdsCredits) (fun s i => sendFirst i k s)

/-- Whether a slice changes its power at bring-up, before its snoop filter is initialised in step 6 (R496, R505). -/
def State.atBringup (s : State) : Bool := decide (s.rst.step < 7)

/-- SLICE_DOMAIN_GOOD (R195, R218, R505): after its 8 segments have closed. At bring-up the slice stays clamped until step 6; at a
power-up its arrays are initialised, its bank is enabled when the instance's home cache is, and it takes part. -/
def execSliceDomainGood (k : Nat) (s : State) : Host.Outcome State Fault Refusal :=
  let v := s.slice k
  .next (if v.st = .poweringUp ∧ v.segTick + 7000 ≤ s.now then
      if s.atBringup then s.setSlice k { v with st := .on, lfsrRun := true, walkPos := 0, walkFrom := s.time.cycles }
      else
        let alone := !((s.slice (buddy k)).st.losable)
        let bank : BankSt := if s.pol.hcEnable then .on else .ready
        let s := s.setSlice k { v.wiped k with st := .on, lfsrRun := true, clamped := false, wrapper := false, since := s.now
                                               hcinit := true, bank := bank, wt226 := alone, ucVer := s.rst.ucVer
                                               walkFrom := s.time.cycles }
        gateOn (initCredits k s)
    else s)

/-- SLICE_POWER_TIMEOUT (R505): the slice is lost. At bring-up it is left out of the placement, and has no salvage. -/
def execSlicePowerTimeout (k : Nat) (s : State) : Host.Outcome State Fault Refusal :=
  let v := s.slice k
  .next (if v.st = .poweringUp ∧ v.segTick + 100000 ≤ s.now then
      if s.atBringup then
        let x : Salv := { cause := .power, t0 := s.now, t0ptc := s.time.ptc, fenced := true, flipped := true, decided := true
                          mirrorDone := true, lostArrays := salvArrays }
        let s := s.setSlice k { v with st := .failed, salv := some x }
        let s := s.modSlice (buddy k) (fun b => { b with wt226 := true })
        let s := raise { src := 0x0C, detail := .slc k (causeCode .power) 0 0 0 0, acc := accInt } s
        setRepl true 3 { s with pol := { s.pol with recovery := true } }
      else loseSlice k .power 0 0 none s
    else s)

/-! ### SLICE_RESET (R391, R502) -/

/-- Whether an assert of a slice is turned away (R391). -/
def State.resetBusy (s : State) (k : Nat) (force : Bool) : Bool :=
  decide ((s.slice k).st ≠ .on) || s.map.moves.any (fun m => m.old == k || m.new == k) ||
    (!force && decide (0 < s.shingleCount k))

/-- DETAIL of a STATE_CONFLICT of SLICE_RESET (R391). -/
def State.resetDetail (s : State) (k : Nat) : Nat := slStateCode (s.slice k).st + 16 * s.shingleCount k

/-- A slice enters soft reset: its wrapper closes and its buddy starts write-through (R391, R502). -/
def softReset (k : Nat) (s : State) : State :=
  let s := voidCredits k (detachMem k true (noteLost k 0x0C (gatingLost k s)))
  let s := s.modSlice k (fun v => { v.wiped k with st := .reset, wrapper := true })
  startWriteThrough k s

/-- SLICE_RESET with ASSERT = 1. With FORCE = 1 a slice that homes shingles is lost first; its reply follows when it is in soft
reset (R391, R454). -/
def execSliceResetAssert (c : Nat) (s : State) : Host.Outcome State Fault Refusal :=
  .next (runCmd c 0x12 (fun k => bit (k.par 0) 0) (fun k s =>
    let j := k.tgt
    if s.resetBusy j (bit (k.par 0) 1) then finish k stConflict (s.resetDetail j) [] s
    else if 0 < s.shingleCount j then
      let s := s.modSlice j (fun v => { v with lfsr := (Slice.init j).lfsr, lfsrRun := false })
      loseSlice j .forced 0 0 (some k.id) (s.startCmd k id)
    else finish k stOk 0 [] (softReset j s)) s)

/-- SLICE_RESET with ASSERT = 0: the initialisation starts (R391). -/
def execSliceResetRelease (c : Nat) (s : State) : Host.Outcome State Fault Refusal :=
  .next (runCmd c 0x12 (fun k => !bit (k.par 0) 0) (fun k s =>
    let j := k.tgt
    if (s.slice j).st ≠ .reset ∨ (s.slice j).lfsrRun then finish k stConflict (s.resetDetail j) [] s
    else (s.startCmd k id).modSlice j (fun v => { v with lfsrRun := true })) s)

/-- SLICE_RESET_INIT_DONE (R391, R502). -/
def execSliceResetInitDone (j : Nat) (s : State) : Host.Outcome State Fault Refusal :=
  let v := s.slice j
  .next (if v.st = .reset ∧ v.lfsrRun then
      let v := { v with sf := [], sfNru := [], sfRot := [], mirror := [], walkPos := 0, walkFrom := s.time.cycles }
      let s := s.setSlice j { v with st := .on, wrapper := false, clamped := false, wt226 := !((s.slice (buddy j)).st.losable) }
      let s := endWriteThrough (buddy j) (initCredits j s)
      match s.hub.inProg.find? (fun k => k.running && k.opc == 0x12 && k.tgt == j) with
      | some k => finish k stOk 0 [] s
      | none => s
    else s)

end Sys2Proof.Machine
end

