-- ==== Sys2Proof/Machine/Salvage.lean ====
section
/-! DEFINITION. Sys2Proof/Machine/Salvage.lean: the salvage of a lost slice: its records, its arrays, the mirror of its buddy, the
new homes of its shingles, and the open-eaves mode (R417, R418, R457 to R473). -/

namespace Sys2Proof.Machine

/-! ### What the salvage path has found (R457) -/

/-- Whether the path has answered for a word, or its array is unreadable. -/
def Salv.known (x : Salv) (a : SalvArray) (n : Nat) : Bool := x.read.contains (a, n) || x.lostArrays.contains a

/-- Whether a word has been read without an uncorrectable error. -/
def Salv.good (x : Salv) (a : SalvArray) (n : Nat) : Bool := x.read.contains (a, n) && !(x.lostWords.contains (a, n))

/-- Whether every word of an array that holds something has been read. -/
def Salv.readAll (x : Salv) (a : SalvArray) (keys : List Nat) : Bool := x.lostArrays.contains a || keys.all (fun n => x.known a n)

/-- The slots of a lost slice with a Dirty tag that was read (R461). -/
def Salv.dirtySlots (x : Salv) (v : Slice) : List Nat :=
  ((v.hcTag.filter (fun t => t.2.hst == hsDirty)).map (fun t => t.1)).filter (fun n => x.good .tags n)

/-- Whether the snoop filter has been read (R457). -/
def Salv.filterDone (x : Salv) (v : Slice) : Bool := x.readAll .snoopFilter (v.sf.map (fun e => e.1))

/-- Whether the tags, and the data of every Dirty line found, have been read (R457). -/
def Salv.cacheDone (x : Salv) (v : Slice) : Bool :=
  x.readAll .tags (v.hcTag.map (fun t => t.1)) && (x.dirtySlots v).all (fun n => x.known .data n)

/-! ### Writes and poison (R459, R461, R462, R468) -/

/-- Issues a write of salvage: poison, a whole line, or the enabled bytes of a partial write. -/
def salvIssue (k : Nat) (s : State) (w : LAddr × LineBuf × BitVec 64) : State :=
  if w.2.1.poison then memWrite k .salvage w.1 0 true s
  else if w.2.2 = BitVec.allOnes 64 then memWrite k .salvage w.1 w.2.1.data false s
  else memWriteP k .salvage w.1 w.2.1.data w.2.2 s

/-- Issues the writes that waited for those of R461, once those are issued. -/
def issueLate (k : Nat) (s : State) : State :=
  match s.salv k with
  | none => s
  | some x =>
    if x.mirrorDone && x.cacheDone (s.slice k) then
      x.late.foldl (salvIssue k) (s.modSalv k (fun x => { x with late := [] }))
    else s

/-- A write that a record gives: it follows the writes of R461. -/
def lateWrite (k : Nat) (l : LAddr) (b : LineBuf) (be : BitVec 64) (s : State) : State :=
  issueLate k (s.modSalv k (fun x => { x with late := x.late ++ [(l, b, be)] }))

/-- The event of a line that salvage poisons or reports. -/
def poisonEv (k : Nat) (l : LAddr) (a : Aid) (acc : Nat) : Ev := { src := 0x0E, detail := .line l k a, acc := acc }

/-- Poisons a line for a record, once (R459). -/
def poisonLate (k : Nat) (l : LAddr) (a : Aid) (acc : Nat) (s : State) : State :=
  match s.salv k with
  | none => s
  | some x =>
    if x.poisons.contains l then s
    else
      reportPoison (poisonEv k l a acc)
        (lateWrite k l (.whole 0 true) (BitVec.allOnes 64) (s.modSalv k (fun x => { x with poisons := x.poisons ++ [l] })))

/-- Poisons a line of the home cache (R461). -/
def poisonNow (k : Nat) (mirrored : Bool) (s : State) (l : LAddr) : State :=
  match s.salv k with
  | none => s
  | some x =>
    let s := s.modSalv k (fun x => { x with poisoned := x.poisoned + b2n mirrored })
    let s := memWrite k .salvage l 0 true s
    if x.poisons.contains l then s
    else reportPoison (poisonEv k l noAid accInt) (s.modSalv k (fun x => { x with poisons := x.poisons ++ [l] }))

/-! ### The records (R455, R458, R459) -/

/-- The dirty data of a transaction that has not been placed, as a write of salvage (R458). -/
def Txn.unplaced (t : Txn) : Option (LineBuf × BitVec 64) :=
  if t.place ≠ .due then none
  else
    match t.what with
    | .dirty => some (t.pdata, if t.partialW && t.use != .home && !t.pdata.poison then t.be else BitVec.allOnes 64)
    | .clean => if t.pdata.full then some (t.pdata, BitVec.allOnes 64) else none
    | .poison => some (.whole 0 true, BitVec.allOnes 64)
    | .nothing | .fill => none

/-- Whether a request can be completed from its tracker entry and its buffers: every response in, all data held (R458). An atomic whose data are in
is performed then. -/
def Txn.completable (t : Txn) (buf : Bool) : Bool :=
  let held := match t.use with
    | .home | .rsp => t.line.full && buf
    | .nothing | .fwd => true
    | .undecided => false
  decide (t.phase = .running) && t.settled && t.answered && !t.disc && !t.failed && held && (t.unplaced.isNone || buf)

/-- A line that a record leaves unsettled (R458). -/
def unsettle (k : Nat) (l : LAddr) (s : State) : State :=
  s.modSalv k (fun x => if x.unsettled.contains l then x else { x with unsettled := x.unsettled ++ [l] })

/-- A completed record: its post-grant copy is installed and its unplaced data written; without a readable buffer for them the line is poisoned
(R458, R459). -/
def completeRec (k : Nat) (t : Txn) (buf : Bool) (s : State) : State :=
  let ent := s.closingEnt k t
  let s := s.modSalv k (fun x => { x with copies := x.copies ++ [(t.l, ent)] })
  match t.unplaced with
  | some (b, be) => if buf || b.poison then lateWrite k t.l b be s else poisonLate k t.l t.aidOf t.q.op.acc s
  | none => s

/-- An answer of the wrapper for a record. -/
def recAnswer (k : Nat) (r : WRec) (v : VC) (m : Msg) (s : State) : State := s.fromSlice k r.src (if r.isGt then .gt else v) r.gtc m

/-- CmpErr(SLICE_LOST) for a record. -/
def recLost (k : Nat) (r : WRec) (s : State) : State := recAnswer k r .rsp (.cmpErr r.q.aid r.q.txid r.htid rsSliceLost) s

/-- Sends the chunks of a request that have not left: from the line, or, with none, as zero bytes with poison (R458). -/
def recChunks (k : Nat) (r : WRec) (sent : BitVec 4) (line : Option LineBuf) (s : State) : State :=
  let todo := (wrapOrder r.q.cidx).filter (fun i => !(sent.getLsbD i))
  let one (last : Bool) (s : State) (i : Nat) : State :=
    let poison := match line with
      | some b => b.poison
      | none => true
    let d : BitVec 128 := match line with
      | some b => if b.poison then 0 else chunkOf b.data i
      | none => 0
    recAnswer k r .dat (.dat 0 r.q.aid r.q.txid r.htid (BitVec.ofNat 2 i) last poison 0xFFFF#16 d) s
  todo.foldl (fun s i => one (some i == todo.getLast?) s i) s

/-- An atomic that has its line but has not run, as it stands when it has (R88, R458). -/
def Txn.performed (t : Txn) : Txn :=
  if t.q.op.isAtomic && !t.operated then
    let old := wordOf t.line.data t.q.widx.toNat
    let d := setWord t.line.data t.q.widx.toNat (atomicWord t.q.op old (wordOf t.wdata.data 0) (wordOf t.wdata.data 1))
    { t with operated := true, result := old, what := .dirty, pdata := .whole d false, place := .due }
  else t

/-- Completes a request whose Cmp has not left (R458). -/
def recComplete (k : Nat) (r : WRec) (t : Txn) (s : State) : State :=
  let t := t.performed
  let fromHome := decide (t.use = .home) || decide (t.use = .rsp)
  let s := if t.data && fromHome then recChunks k r t.sent (some t.line) s else s
  completeRec k t true (recAnswer k r .rsp (.cmp r.q.aid r.q.txid r.htid t.grant t.data t.result) s)

/-- What a record that is not completed does to its line (R459). `t`: its tracker entry when that is readable. -/
def recLine (k : Nat) (r : WRec) (t : Option Txn) (buf : Bool) (s : State) : State :=
  let l := r.q.laddr
  let s := unsettle k l s
  if r.q.op = .wbDirty ∨ r.q.op = .wbOwned then poisonLate k l r.q.aid r.q.op.acc s
  else
    match t with
    | none => if r.snooped then poisonLate k l r.q.aid r.q.op.acc s else s
    | some t =>
      let owner (a : Aid) : Bool := t.ent.owned && t.ent.own == a
      let brought := t.resps.any (fun x => x.brings || (x.lost && owner x.aid)) && decide (t.place ≠ .done) && decide (t.place ≠ .busy)
      let forwarded := t.resps.any (fun x => x.op == .rspIFwd && x.pd) && !r.cmp
      let awaits := t.outs.any (fun o => owner o.snp.aid)
      let s := if brought && t.rspd.full && buf then lateWrite k l t.rspd (BitVec.allOnes 64) s else s
      if (brought && !(t.rspd.full && buf)) || forwarded || awaits then poisonLate k l r.q.aid r.q.op.acc s else s

/-- A request's record (R458). -/
def recRequest (k : Nat) (r : WRec) (t : Option Txn) (buf : Bool) (s : State) : State :=
  let missing := r.data && r.chunks != 15#4
  if r.cmp && !missing then
    match t with
    | some t => completeRec k t buf s
    | none => recLine k r none buf s
  else if r.cmp then
    match t with
    | some t =>
      if buf && t.line.full then completeRec k t buf (recChunks k r r.chunks (some t.line) s)
      else recLine k r (some t) buf (reportPoison (poisonEv k r.q.laddr r.q.aid r.q.op.acc) (recChunks k r r.chunks none s))
    | none => recLine k r none buf (reportPoison (poisonEv k r.q.laddr r.q.aid r.q.op.acc) (recChunks k r r.chunks none s))
  else
    match t with
    | some t => if t.completable buf then recComplete k r t s else recLine k r (some t) buf (recLost k r s)
    | none => recLine k r none buf (recLost k r s)

/-- A writeback's record (R458). -/
def recWriteback (k : Nat) (r : WRec) (t : Option Txn) (buf : Bool) (s : State) : State :=
  match t with
  | some t =>
    if t.kind = .wb ∧ t.settled ∧ (t.unplaced.isNone ∨ buf) then
      completeRec k t buf (recAnswer k r .rsp (.wbAck r.q.aid r.q.txid r.htid false) s)
    else recLine k r (some t) buf (recLost k r s)
  | none => recLine k r none buf (recLost k r s)

/-- SALVAGE_RECORD (R458): the first record whose tracker entry and buffers the salvage path has answered for. -/
def execSalvageRecord (k : Nat) (s : State) : Host.Outcome State Fault Refusal :=
  .next (match s.salv k with
    | none => s
    | some x =>
      let e (r : WRec) : Nat := htidEntry r.htid
      match x.recs.find? (fun r => x.known .tracker (e r) && x.known .buffers (e r)) with
      | none => s
      | some r =>
        if (s.slice k).st ≠ .failed then s
        else
          let s := s.modSalv k (fun x => { x with recs := lremove (fun y => y == r) x.recs })
          let t := if x.good .tracker (e r) then x.txns.find? (fun t => t.e == e r) else none
          let buf := x.good .buffers (e r)
          if r.q.op.isWb then recWriteback k r t buf s else recRequest k r t buf s)

/-! ### The arrays (R457, R459 to R461) -/

/-- The victims of a lost slice whose write no controller has accepted and whose buffers are gone: their writes are dropped
and their lines poisoned (R116, R461). -/
def loseVictims (k : Nat) (lost : Nat → Bool) (s : State) : State :=
  let l := (s.slice k).victims.filter (fun x => !x.sent && lost x.e)
  let s := s.modSlice k (fun v => { v with victims := v.victims.filter (fun x => x.sent || !(lost x.e)) })
  let gone (c : MemCmd) : Bool := c.slice == k && l.any (fun x => c.owner == .victim x.e)
  let s := s.each (List.range s.gh.memPorts) (fun s p => s.modMp p (fun m => { m with held := m.held.filter (fun c => !(gone c)) }))
  (l.map (fun x => x.laddr)).foldl (poisonNow k true) s

/-- A word of the snoop filter (R460). -/
def readFilter (k addr : Nat) (bad : Bool) (s : State) : State :=
  let v := s.slice k
  let e := v.sfAt (addr / 16) (addr % 16)
  let double := match v.errAt 0 addr with
    | some x => !x.single
    | none => false
  if bad || double || !e.valid then
    let s := if bad && !double then s.modSlice k (fun v => { v with errs := v.errs.filter (fun x => !(x.array == 0 && x.addr == addr)) ++
        [{ array := 0, addr := addr, flip := 3 }] }) else s
    (s.candidates k (addr / 16) (addr % 16)).foldl (fun s l => unsettle k l s) s
  else if e.st = stFree then s
  else s.modSalv k (fun x => { x with installs := x.installs ++ [(sfLine (addr / 16) e.tag, e)] })

/-- The line of a slot. -/
def Slice.slotLine (v : Slice) (n : Nat) : LAddr := hcLine (n / 32) (v.tagAt (n / 32) (n % 32)).ltag

/-- A home-cache tag (R461). -/
def readSalvTag (k n : Nat) (bad : Bool) (s : State) : State :=
  let v := s.slice k
  let t := v.tagAt (n / 32) (n % 32)
  if v.wordBad 1 n bad || !t.valid then s.modSalv k (fun x => { x with lostWords := x.lostWords ++ [(.tags, n)] })
  else
    match s.salv k with
    | some x => if t.hst = hsDirty ∧ x.lostArrays.contains .data then poisonNow k false s (v.slotLine n) else s
    | none => s

/-- The data of a Dirty line whose tag was read (R461). -/
def readSalvData (k n : Nat) (bad : Bool) (s : State) : State :=
  let v := s.slice k
  let t := v.tagAt (n / 32) (n % 32)
  match s.salv k with
  | none => s
  | some x =>
    if t.hst ≠ hsDirty ∨ !(x.good .tags n) then s
    else if (slotWords (n % 32) t.fmt).any (fun i => v.wordBad 2 (dataAddr (n / 32) (n % 32 / 2) i) bad) then poisonNow k false s (v.slotLine n)
    else
      memWrite k .salvage (v.slotLine n) (v.lineAt (n / 32) (n % 32)) false
        (s.modSalv k (fun x => { x with written := x.written + 1 }))

/-- An array answers no more: it is unreadable for the rest of the salvage (R457). -/
def loseArray (k : Nat) (a : SalvArray) (s : State) : State :=
  let s := s.modSalv k (fun x => { x with lostArrays := x.lostArrays ++ [a] })
  match a with
  | .buffers => loseVictims k (fun e => match s.salv k with
      | some x => !(x.good .buffers e)
      | none => true) s
  | .data =>
    match s.salv k with
    | some x => (((x.dirtySlots (s.slice k)).filter (fun n => !(x.read.contains (.data, n)))).map (s.slice k).slotLine).foldl (poisonNow k false) s
    | none => s
  | .tracker | .snoopFilter | .tags => s

/-- Whether a read of the salvage path has a word to return: the entries of the tracker and the buffers, the ways of the filter, the
slots of the tags, the slots whose tag was read Dirty (R457). -/
def Salv.reads (x : Salv) (v : Slice) (a : SalvArray) (n : Nat) : Bool :=
  !(x.known a n) &&
  (match a with
   | .tracker | .buffers => decide (n < 2048)
   | .snoopFilter | .tags => decide (n < 65536)
   | .data => (x.dirtySlots v).contains n)

/-- SALVAGE_READ (R457): one read of the salvage path and what follows from it. -/
def execSalvageRead (k : Nat) (a : SalvArray) (n : Nat) (r : SalvRead) (s : State) : Host.Outcome State Fault Refusal :=
  .next (match s.salv k with
    | none => s
    | some x =>
      if (s.slice k).st ≠ .failed ∨ x.decided ∨ !(x.reads (s.slice k) a n) then s
      else
        match r with
        | .noWord => issueLate k (loseArray k a s)
        | .ok | .uncorrectable =>
          let bad := decide (r = .uncorrectable)
          let s := s.modSalv k (fun x => { x with
            read := x.read ++ [(a, n)]
            lostWords := if bad && (a == .tracker || a == .buffers) then x.lostWords ++ [(a, n)] else x.lostWords })
          issueLate k (match a with
            | .tracker => s
            | .buffers => if bad then loseVictims k (fun e => e == n) s else s
            | .snoopFilter => readFilter k n bad s
            | .tags => readSalvTag k n bad s
            | .data => readSalvData k n bad s))

/-! ### The mirror (R461, R469) -/

/-- Whether salvage poisons a line that the mirror names (R461): its tag cannot be read, and nothing else has settled it. -/
def State.mirrorPoisons (s : State) (k : Nat) (x : Salv) (m : LAddr × Nat) : Bool :=
  let v := s.slice k
  let shown := v.hcTag.any (fun t => t.2.hst != hsInvalid && t.2.ltag == hcLtag m.1 && t.1 / 32 == hcSet m.1 && x.good .tags t.1 &&
    !(x.lostWords.contains (.tags, t.1)))
  !(x.good .tags m.2) && !shown && !(x.vict.contains m.1)

/-- MIRROR_READ_DONE (R225, R461, R469): the words with a single-bit error are corrected, the poison writes are issued, then those that the
records gave; the mirror is empty. -/
def execMirrorReadDone (k : Nat) (s : State) : Host.Outcome State Fault Refusal :=
  .next (match s.salv k with
    | none => s
    | some x =>
      if (s.slice k).st ≠ .failed ∨ x.mirrorDone ∨ !(s.works (buddy k) || x.mirLines.isSome) ∨ !(x.cacheDone (s.slice k)) then s
      else
        let single := if s.works (buddy k) then ((s.slice (buddy k)).errs.filter (fun e => e.array == 4 && e.single)).map (fun e => e.addr) else []
        let s := single.foldl (fun s a => correctWord (buddy k) 4 a accInt s) s
        let l := ((x.mirLines.getD (s.mirrorLines k)).filter (s.mirrorPoisons k x)).map (fun m => m.1)
        let s := l.foldl (poisonNow k true) s
        let s := s.modSlice (buddy k) (fun b => { b with mirror := [] })
        issueLate k (s.modSalv k (fun x => { x with mirrorDone := true })))

/-! ### New homes (R460, R463 to R465) -/

/-- Shingles that a slice homes, with those that salvage has assigned to it and not flipped yet (R463). -/
def State.loadOf (s : State) (j : Nat) : Nat :=
  s.shingleCount j + lsum ((List.range s.gh.slices).map (fun k => match s.salv k with
    | some x => if x.flipped then 0 else (x.homes.filter (fun h => h.2 == j)).length
    | none => 0))

/-- The slice that the next shingle of a lost slice goes to (R463). -/
def State.newHome (s : State) (k : Nat) : Option Nat :=
  leastOf (fun j => s.loadOf j * 16384 + s.gh.hops j k * 64 + j) (s.powered.filter s.works)

/-- The new home that salvage has assigned to a shingle. -/
def Salv.homeOf (x : Salv) (sh : Nat) : Option Nat := (x.homes.find? (fun h => h.1 == sh)).map (fun h => h.2)

/-- The unsettled lines of a shingle in ascending order. -/
def Salv.linesOf (x : Salv) (sh : Nat) : List LAddr :=
  (ascending ((x.unsettled.filter (fun l => shingleOf l == sh)).map (fun l => l.toNat))).map (BitVec.ofNat 46)

/-- The shingles of one new home whose lines do not fit, given how many agents its lines reach so far (R464). -/
def overBudget (cost : Nat → Nat) : Nat → List Nat → List Nat
  | _, [] => []
  | n, sh :: l =>
    if cost sh = 0 then overBudget cost n l
    else if n + cost sh ≤ 65536 then overBudget cost (n + cost sh) l
    else (sh :: l).filter (fun x => decide (cost x ≠ 0))

/-- Agents that the line resolutions of a shingle reach (R464). -/
def State.resolveCost (s : State) (x : Salv) (sh : Nat) : Nat := lsum ((x.linesOf sh).map (fun l => (s.presentIn l).length))

/-- The shingles of a lost slice that enter OPEN_EAVES before the decision (R464, R465). One that was OPEN_EAVES stays so. -/
def State.openShingles (s : State) (x : Salv) : List Nat :=
  if x.lostArrays.contains .snoopFilter then x.shs
  else
    let news := ascending (x.homes.map (fun h => h.2))
    let excess := news.flatMap (fun j => overBudget (s.resolveCost x) 0 (x.shs.filter (fun sh => x.homeOf sh == some j && !(x.openSh.contains sh))))
    x.shs.filter (fun sh => x.openSh.contains sh || excess.contains sh)

/-- The open entry of a line (R465). -/
def State.openEnt (s : State) (l : LAddr) : SfEnt :=
  { tag := sfTag l, st := stS, mode := coarse, gen := s.pol.curgen, payload := budgetBits s.partOf (s.shmaskOf (shingleOf l)) }

/-- The entries that a shingle's new home receives: the open entries of an OPEN_EAVES shingle first, then, unless such a shingle
has unsettled lines, the post-grant copies and the entries read (R460, R465). -/
def State.entriesFor (s : State) (x : Salv) (sh : Nat) : List (LAddr × SfEnt) :=
  let isOpen := x.openSh.contains sh
  let opens := if isOpen then (x.poisons.filter (fun l => shingleOf l == sh)).map (fun l => (l, s.openEnt l)) else []
  let mine (e : LAddr × SfEnt) : Bool := shingleOf e.1 == sh && !(opens.any (fun o => o.1 == e.1))
  let kept := (x.installs.filter (fun e => mine e && !(x.unsettled.contains e.1) && !(x.copies.any (fun c => c.1 == e.1))))
  let copies := x.copies.filter (fun e => mine e && e.2.st != stFree && !(x.unsettled.contains e.1))
  if isOpen && !(x.linesOf sh).isEmpty then opens else opens ++ copies ++ kept

/-- Sends the entries of a shingle from the hub to its new home (R460). -/
def sendShingle (k : Nat) (s : State) (sh : Nat) : State :=
  match s.salv k with
  | none => s
  | some x =>
    match x.homeOf sh with
    | none => s
    | some j =>
      let es := s.entriesFor x sh
      let words := entryGroups (es.map (fun e => (sfAddr (sfSet e.1) 0, e.2)))
      let s := words.foldl (fun s l => s.injectHub .mgt hubAt (j, portSlice) l.length (.entries sh l)) s
      s.modSalv k (fun x => { x with sentSh := x.sentSh ++ [sh], toCopy := x.toCopy ++ es.map (fun e => (sh, e.1)) })

/-- SHINGLE_REHOME (R463): once the slice is fenced and read, the next shingle gets its new home; after the last one the entries of
every shingle are sent. -/
def execShingleRehome (k : Nat) (s : State) : Host.Outcome State Fault Refusal :=
  .next (match s.salv k with
    | none => s
    | some x =>
      let v := s.slice k
      let ready := decide (v.st = .failed) && x.fenced && !x.decided && x.recs.isEmpty && x.mirrorDone && x.filterDone v && x.cacheDone v
      match x.shs.find? (fun sh => (x.homeOf sh).isNone), s.newHome k with
      | some sh, some j =>
        if ready then
          let s := issueLate k (s.modSalv k (fun x => { x with homes := x.homes ++ [(sh, j)] }))
          match s.salv k with
          | none => s
          | some x =>
            if x.homes.length < x.shs.length then s
            else
              let s := s.modSalv k (fun x => { x with openSh := s.openShingles x })
              (x.shs.filter (fun sh => !(x.sentSh.contains sh))).foldl (sendShingle k) s
        else s
      | _, _ => s)

/-! ### Line resolutions (R464) -/

/-- The line resolutions that slice `j` still has to begin, for the lost slice of each: shingle ascending, then line (R464). -/
def State.resolvable (s : State) (j : Nat) : List (Nat × LAddr) :=
  (List.range s.gh.slices).flatMap (fun k => match s.salv k with
    | some x =>
      if x.decided || x.homes.length < x.shs.length then []
      else ((ascending x.shs).filter (fun sh => x.homeOf sh == some j && !(x.openSh.contains sh))).flatMap (fun sh =>
        ((x.linesOf sh).filter (fun l => !(x.begun.contains l))).map (fun l => (k, l)))
    | none => [])

/-- LINE_RESOLUTION: new home `j` begins the resolution of its next unsettled line; one runs at a time (R464). -/
def execLineResolution (j : Nat) (s : State) : Host.Outcome State Fault Refusal :=
  let v := s.slice j
  .next (match s.resolvable j with
    | [] => s
    | (k, l) :: _ =>
      if s.works j && !(v.txns.any (fun t => decide (t.kind = .lineRes))) && decide (s.homeUse j < 16) then
        let n := v.freeEntry
        let s := s.modSalv k (fun x => { x with begun := x.begun ++ [l] })
        activate j n (s.setSlice j (v.enter { e := n, kind := .lineRes, q := { laddr := l } }))
      else s)

/-! ### The decision (R465, R466) -/

/-- Whether the installs and line resolutions of a shingle are finished. -/
def State.shingleDone (s : State) (x : Salv) (sh : Nat) : Bool :=
  match x.homeOf sh with
  | none => false
  | some j =>
    x.sentSh.contains sh && !(x.toCopy.any (fun c => c.1 == sh)) &&
    (x.openSh.contains sh || (x.linesOf sh).all (fun l =>
      x.begun.contains l && !((s.slice j).txns.any (fun t => decide (t.kind = .lineRes) && t.l == l))))

/-- Whether salvage has nothing left to do before UNFENCE. -/
def State.salvageDone (s : State) (k : Nat) (x : Salv) : Bool :=
  let v := s.slice k
  x.fenced && x.recs.isEmpty && x.mirrorDone && x.filterDone v && x.cacheDone v && x.shs.all (s.shingleDone x)

/-- Gives every shingle that has none yet its new home, at the decision (R463, R466). -/
def rehomeRest (k : Nat) : Nat → State → State
  | 0, s => s
  | n + 1, s =>
    match s.salv k, s.newHome k with
    | some x, some j =>
      match x.shs.find? (fun sh => (x.homeOf sh).isNone) with
      | some sh => rehomeRest k n (s.modSalv k (fun x => { x with homes := x.homes ++ [(sh, j)] }))
      | none => s
    | _, _ => s

/-- The open entry of a poisoned line is installed, or put in front of what waits to be installed when no way is to be had (R465). -/
def installOpen (k j sh : Nat) (s : State) (l : LAddr) : State :=
  match installEnt j (sfSet l) (s.openEnt l) s with
  | some t => t
  | none =>
    (s.modSlice j (fun v => { v with copyIn := (sh, sfAddr (sfSet l) 0, (s.openEnt l).content) :: v.copyIn })).modSalv k (fun x =>
      { x with toCopy := x.toCopy ++ [(sh, l)] })

/-- A shingle that is not done at the decision enters OPEN_EAVES. The open entries of its poisoned lines take the place of theirs; with unsettled
lines left every other entry is dropped, else the rest is installed until the flip (R460, R465; log 48). -/
def openAtDecision (k : Nat) (s : State) (sh : Nat) : State :=
  match s.salv k with
  | none => s
  | some x =>
    match x.homeOf sh with
    | none => s
    | some j =>
      let unsettled := !(x.linesOf sh).isEmpty
      let goes (l : LAddr) : Bool := shingleOf l == sh && (unsettled || x.poisons.contains l)
      let s := s.setSlice j (((s.slice j).entriesOf sh).foldl (fun v e =>
        if v.sfPinned (e.1 / 16) (e.1 % 16) || !(goes (sfLine (e.1 / 16) e.2.tag)) then v else v.setSf (e.1 / 16) (e.1 % 16) {}) (s.slice j))
      let s := s.modSalv k (fun x =>
        { x with openSh := if x.openSh.contains sh then x.openSh else x.openSh ++ [sh]
                 toCopy := x.toCopy.filter (fun c => !(goes c.2)) })
      let s := (x.poisons.filter (fun l => shingleOf l == sh)).foldl (installOpen k j sh) s
      if unsettled || x.sentSh.contains sh then s else sendShingle k s sh

/-- A salvage has ended: PHASE is DONE, and the dirty count is taken from the DCNT fields of the slices that work (R472, R488). -/
def endSalvage (k : Nat) (s : State) : State :=
  let n := lsum (s.powered.map (fun j => lsum ((s.slice j).hcCtl.map (fun c => c.2.dcnt.toNat))))
  setPhase k 4 { s with rst := { s.rst with dirty := BitVec.ofNat 22 n } }

/-- SALVAGE_DECISION (R466): when salvage is done, or 480,000 ticks after the loss, every shingle is NORMAL or OPEN_EAVES and the
UNFENCE flip is named. -/
def execSalvageDecision (k : Nat) (s : State) : Host.Outcome State Fault Refusal :=
  .next (match s.salv k with
    | none => s
    | some x =>
      if (s.slice k).st ≠ .failed ∨ x.decided ∨ !x.fenced then s
      else if s.salvageDone k x ∨ x.t0 + 480000 ≤ s.now then
        let s := rehomeRest k x.shs.length s
        match s.salv k with
        | none => s
        | some x =>
          let s := (x.shs.filter (fun sh => !(s.shingleDone x sh))).foldl (openAtDecision k) s
          let s := s.modSalv k (fun x => { x with decided := true, mirrorDone := true })
          match s.salv k with
          | none => s
          | some x =>
            if x.shs.isEmpty then endSalvage k (s.modSalv k (fun x => { x with flipped := true }))
            else changeMap (x.homes.map (fun h => (h.1, hmEntry h.2 (if x.openSh.contains h.1 then hmOpen else hmNormal)))) s
      else s)

end Sys2Proof.Machine
end

