-- ==== Sys2Proof/Machine/Flip.lean ====
section
/-! DEFINITION. Sys2Proof/Machine/Flip.lean: the flips of the home map take effect, and the open-eaves mode ends (R44 to R53, R417,
R418, R466, R467, R472). -/

namespace Sys2Proof.Machine

/-! ### Marked writebacks (R467) -/

/-- Marks the writebacks that wait in an ingress buffer for these shingles of instance `peer`; none: of this instance. -/
def markEntries (shs : List Nat) (peer : Option (BitVec 3)) (l : List IngEntry) : List IngEntry :=
  l.map (fun x => if x.q.op.isWb && shs.contains x.sh && x.peer == peer then { x with mark := true } else x)

/-- Marks what the ingress points of this instance hold for shingles that a flip makes OPEN_EAVES. -/
def markHeld (shs : List Nat) (s : State) : State :=
  if shs.isEmpty then s else s.each s.ingresses (fun s i => s.setIngress i (markEntries shs none (s.ingressOf i)))

/-- Sets POISON in every chunk that a line packet header announces (R299). -/
def poisonHead (h : BitVec 128) : BitVec 128 := (List.range (lineChunks h)).foldl (fun h j => h ||| (1#128 <<< (51 + 4 * j))) h

/-- Poisons the data of the marked writebacks that wait for transmission on a link: each line packet behind its request. -/
def poisonTx (marked : Req → Bool) : List TxPkt → List TxPkt
  | [] => []
  | p :: l =>
    let rest := poisonTx marked l
    match p.slots with
    | [m] =>
      let q := decodeReq m
      let hit := (reqOpOf (fld m 0 6)).isSome && decide (fld m 0 6 < 0x20) && (q.op == .wbDirty || q.op == .wbOwned) && marked q
      let mine (y : TxPkt) : Bool := match y.slots with
        | h :: _ :: _ => fld h 0 2 == 2 && fld h 2 11 == q.aid.toNat && fld h 13 12 == q.txid.toNat
        | _ => false
      if hit then
        p :: lmodify mine (fun y => { y with slots := match y.slots with
          | h :: r => poisonHead h :: r
          | [] => [] }) rest
      else p :: rest
    | _ => p :: rest

/-- OPEN_EAVES_WB_MARK (R467): at a peer, 1,000 ticks before T_U: the writebacks at its CA ports and ridge units for those shingles
of instance `src`. -/
def execOpenEavesWbMark (shingles : List (BitVec 12)) (src : BitVec 3) (s : State) : Host.Outcome State Fault Refusal :=
  let shs := shingles.map (fun x => x.toNat)
  let s := s.each (List.range s.gh.caPorts) (fun s p => s.modCa p (fun c => { c with ingress := markEntries shs (some src) c.ingress }))
  let marked (q : Req) : Bool := shs.contains (shingleOf q.laddr) &&
    (match homeOf s.map.active q.laddr with
     | some (i, _) => i == src.toNat
     | none => false)
  .next (s.each (List.range s.gh.ridgePorts) (fun s r => s.modLink r (fun l => { l with txQ := poisonTx marked l.txQ })))

/-! ### HOME_MAP_FLIP (R44, R49, R53, R466) -/

/-- The old slice of a move is fenced: every ingress point injects a marker on each of four channels (R49). -/
def fenceMove (m : Move) (s : State) : State :=
  let s := s.modMove m.sh (fun m => { m with step := .drain, tf := s.now })
  s.ingresses.foldl (fun s i => fenceVcs.foldl (fun s v => s.toSlice i m.old v 0 (.marker i)) s) s

/-- What the entry of one shingle does to its move at the flip (R49, R53). -/
def flipMove (s : State) (x : Nat × BitVec 8) : State :=
  match s.moveOf x.1 with
  | none => s
  | some m =>
    match m.step with
    | .fenceWait => if x.2 = hmEntry m.old hmFenced then fenceMove m s else s
    | .unfenceWait => if x.2 = hmEntry m.new hmNormal then endMove m .ok (dropShingle m.old m.sh s) else s
    | .revertWait => if x.2 = hmEntry m.old hmNormal then endMove m m.ending (dropCopies m s) else s
    | .prepare | .drain | .copy => s

/-- The fence of a lost slice is in force (R456). -/
def flipFence (chg : List (Nat × BitVec 8)) (s : State) (k : Nat) : State :=
  match s.salv k with
  | none => s
  | some x =>
    if !x.fenced && chg.any (fun c => c.2 == hmEntry k hmFenced) && x.shs.all (fun sh => s.shState sh == hmFenced) then
      setPhase k 2 (s.modSalv k (fun x => { x with fenced := true }))
    else s

/-- A slice lost under FORCED is under soft reset from UNFENCE on, and the reply of its command is written (R391, R454). -/
def forcedReset (k : Nat) (cmd : Option Nat) (s : State) : State :=
  let s := (detachMem k true s).modSlice k (fun v => { v.wiped k with st := .reset, wrapper := true, clamped := false })
  s.endCmd cmd stOk 0 []

/-- The UNFENCE of a salvage is in force: the writebacks held for OPEN_EAVES shingles are marked, and the phase changes (R466, R467,
R472). -/
def flipUnfence (chg : List (Nat × BitVec 8)) (s : State) (k : Nat) : State :=
  match s.salv k with
  | none => s
  | some x =>
    if x.decided && !x.flipped && x.homes.any (fun h => chg.any (fun c => c.1 == h.1 && hmState c.2 != hmFenced)) then
      let s := markHeld x.openSh (s.modSalv k (fun x => { x with flipped := true, toCopy := [] }))
      let s := s.modSlice k (fun v => { v with exitSets := v.exitSets.filter (fun e => !(x.shs.contains e.1) || x.openSh.contains e.1) })
      let s := if x.openSh.isEmpty then endSalvage k s else setPhase k 3 s
      if x.cause = .forced then forcedReset k x.cmd s else s
    else s

/-- Shingles that leave OPEN_EAVES with the flip have no exit set any more; after the last one of a lost slice its PHASE is DONE (R472). -/
def flipExit (chg : List (Nat × BitVec 8)) (s : State) (k : Nat) : State :=
  let normal (sh : Nat) : Bool := s.shState sh == hmNormal && chg.any (fun c => c.1 == sh)
  let s := if (s.slice k).exitSets.any (fun e => normal e.1) then
      s.modSlice k (fun v => { v with exitSets := v.exitSets.filter (fun e => !(normal e.1)) }) else s
  match s.salv k with
  | none => s
  | some x =>
    let out (sh : Nat) : Bool := x.flipped && x.openSh.contains sh && normal sh
    if x.openSh.any out then
      let s := s.modSalv k (fun x => { x with openSh := x.openSh.filter (fun sh => !(out sh)) })
      if x.openSh.all out then endSalvage k s else s
    else s

/-- The entries of the map change over: CURGEN of the map flips, and the changed entries are copied into the generation that has
become inactive (R44). -/
def MapSt.turn (m : MapSt) (f : Flip) : MapSt :=
  { (m.write m.cur f.chg) with cur := !m.cur, gen := m.gen + 1, flip := some { f with flipped := true } }

/-- Whether a flip is named whose tick has come (R44). -/
def State.flipDue (s : State) : Bool :=
  match s.map.flip with
  | some f => !f.flipped && decide (f.tick ≤ s.now)
  | none => false

/-- The named entries come into force, with what the slices and moves do at their T_U and T_F (R44, R53, R472). -/
def turnMap (s : State) : State :=
  match s.map.flip with
  | none => s
  | some f =>
    let ks := List.range s.gh.slices
    let old := s
    let s := { s with map := s.map.turn f }
    let s := ks.foldl (flipExit f.chg) s
    let s := f.chg.foldl flipMove s
    let s := ks.foldl (flipFence f.chg) s
    endWaits old (ks.foldl (flipUnfence f.chg) s)

/-- HOME_MAP_FLIP (R44). Held requests go to the slice that the new entry names as INGRESS_SEND runs (R46). -/
def execHomeMapFlip (s : State) : Host.Outcome State Fault Refusal :=
  .next (if s.flipDue then turnMap (withdrawFailed s) else s)

/-! ### The end of the open-eaves mode (R418, R472) -/

/-- Whether the exit sets of a shingle are empty (R472). -/
def State.exitEmpty (s : State) (sh : Nat) : Bool :=
  (List.range s.gh.slices).all (fun k => (s.slice k).exitSets.all (fun e => e.1 != sh || e.2.isEmpty))

/-- OPEN_EAVES_EXIT (R472). -/
def execOpenEavesExit (sh : Nat) (s : State) : Host.Outcome State Fault Refusal :=
  .next (if s.shState sh = hmOpen ∧ s.exitEmpty sh ∧ hmState (s.map.pendingEntry sh) = hmOpen then
      changeMap [(sh, hmEntry (s.homeSlice sh) hmNormal)] s
    else s)

/-- Agents that have flushed their caches leave every exit set and the rejoin conditions of R311 (R418). -/
def flushed (as : List Aid) (s : State) : State :=
  let keep (l : List Aid) : List Aid := l.filter (fun a => !(as.contains a))
  let s := s.each (List.range s.gh.ridgePorts) (fun s r =>
    if (s.link r).agentsDue.isEmpty then s else s.modLink r (fun l => { l with agentsDue := keep l.agentsDue }))
  s.each (List.range s.gh.slices) (fun s k =>
    if (s.slice k).exitSets.isEmpty then s
    else s.modSlice k (fun v => { v with exitSets := v.exitSets.map (fun x => (x.1, keep x.2)) }))

/-- The AIDs that the words of an AGENT_FLUSH_NOTE name (R418). -/
def notedAids (ws : List W64) : List Aid :=
  ws.flatMap (fun w => ((List.range 4).filter (fun k => bit w (16 * k + 15))).map (fun k => w.extractLsb' (16 * k) 11))

/-- AGENT_FLUSH_NOTE (R418): the notes are taken here and carried to every joined instance; each later step of the command takes the next
acknowledgement, and with the last one the reply is written (log 14). -/
def execAgentFlushNote (c : Nat) (s : State) : Host.Outcome State Fault Refusal :=
  .next (match s.cmd c with
    | none => s
    | some k =>
      if k.opc ≠ 0x66 ∨ k.fwd.isSome then s
      else
        let as := notedAids k.ps
        let n := (ascending (as.map (fun a => a.toNat))).length
        if k.running then
          let left := (k.units.filter s.joinedPeers.contains).drop 1
          if left.isEmpty then finish k stOk n [] s else s.modCmd c (fun k => { k with units := left })
        else
          let s := flushed as s
          if s.joinedPeers.isEmpty then finish k stOk n [] s
          else (s.startCmd k (fun x => { x with units := s.joinedPeers })).toJoined (.flushNote as))

/-- AGENT_FLUSH_NOTE_RECEIVE (R418). -/
def execAgentFlushNoteReceive (src : BitVec 3) (aids : List (BitVec 11)) (s : State) : Host.Outcome State Fault Refusal :=
  .next ((flushed aids s).sendMgt src.toNat .flushAck)

/-- The words of a slice that has failed (R417). -/
def Salv.words (x : Salv) (k : Nat) : List W64 :=
  let cap (n : Nat) : Nat := Nat.min n (2 ^ 21 - 1)
  [pack 64 [(0, k), (6, x.phase), (16, x.openSh.length), (32, fld x.t0ptc 0 32)],
   pack 64 [(0, cap x.moved), (21, cap x.written), (42, cap x.poisoned)]]

/-- SALVAGE_STATUS (R417). -/
def execSalvageStatus (c : Nat) (s : State) : Host.Outcome State Fault Refusal :=
  .next (runCmd c 0x65 (fun _ => true) (fun k s =>
    finish k stOk 0 ((targetSlices k s).flatMap (fun j => match s.salv j with
      | some x => x.words j
      | none => [])) s) s)

end Sys2Proof.Machine
end

