-- ==== Sys2Proof/Machine/Digest.lean ====
section
/-! DEFINITION. Sys2Proof/Machine/Digest.lean: SHA-384 (FIPS 180-4, named by R428 and R441), CRC-32C (named by R491)
and the CRC-8 of R318. The constants and steps of SHA-384 and CRC-32C stand in those standards, not in the
spec: PRESUMED (log 18). -/

namespace Sys2Proof.Machine

/-! ### SHA-384 -/

/-- Round constants 0 to 9 of SHA-384, one after another, the first in the highest 64 bits. PRESUMED (FIPS 180-4). -/
def shaK0 : BitVec 640 := 0x428a2f98d728ae227137449123ef65cdb5c0fbcfec4d3b2fe9b5dba58189dbbc3956c25bf348b53859f111f1b605d019923f82a4af194f9bab1c5ed5da6d8118d807aa98a303024212835b0145706fbe#640

/-- Round constants 10 to 19 of SHA-384, one after another, the first in the highest 64 bits. PRESUMED (FIPS 180-4). -/
def shaK1 : BitVec 640 := 0x243185be4ee4b28c550c7dc3d5ffb4e272be5d74f27b896f80deb1fe3b1696b19bdc06a725c71235c19bf174cf692694e49b69c19ef14ad2efbe4786384f25e30fc19dc68b8cd5b5240ca1cc77ac9c65#640

/-- Round constants 20 to 29 of SHA-384, one after another, the first in the highest 64 bits. PRESUMED (FIPS 180-4). -/
def shaK2 : BitVec 640 := 0x2de92c6f592b02754a7484aa6ea6e4835cb0a9dcbd41fbd476f988da831153b5983e5152ee66dfaba831c66d2db43210b00327c898fb213fbf597fc7beef0ee4c6e00bf33da88fc2d5a79147930aa725#640

/-- Round constants 30 to 39 of SHA-384, one after another, the first in the highest 64 bits. PRESUMED (FIPS 180-4). -/
def shaK3 : BitVec 640 := 0x06ca6351e003826f142929670a0e6e7027b70a8546d22ffc2e1b21385c26c9264d2c6dfc5ac42aed53380d139d95b3df650a73548baf63de766a0abb3c77b2a881c2c92e47edaee692722c851482353b#640

/-- Round constants 40 to 49 of SHA-384, one after another, the first in the highest 64 bits. PRESUMED (FIPS 180-4). -/
def shaK4 : BitVec 640 := 0xa2bfe8a14cf10364a81a664bbc423001c24b8b70d0f89791c76c51a30654be30d192e819d6ef5218d69906245565a910f40e35855771202a106aa07032bbd1b819a4c116b8d2d0c81e376c085141ab53#640

/-- Round constants 50 to 59 of SHA-384, one after another, the first in the highest 64 bits. PRESUMED (FIPS 180-4). -/
def shaK5 : BitVec 640 := 0x2748774cdf8eeb9934b0bcb5e19b48a8391c0cb3c5c95a634ed8aa4ae3418acb5b9cca4f7763e373682e6ff3d6b2b8a3748f82ee5defb2fc78a5636f43172f6084c87814a1f0ab728cc702081a6439ec#640

/-- Round constants 60 to 69 of SHA-384, one after another, the first in the highest 64 bits. PRESUMED (FIPS 180-4). -/
def shaK6 : BitVec 640 := 0x90befffa23631e28a4506cebde82bde9bef9a3f7b2c67915c67178f2e372532bca273eceea26619cd186b8c721c0c207eada7dd6cde0eb1ef57d4f7fee6ed17806f067aa72176fba0a637dc5a2c898a6#640

/-- Round constants 70 to 79 of SHA-384, one after another, the first in the highest 64 bits. PRESUMED (FIPS 180-4). -/
def shaK7 : BitVec 640 := 0x113f9804bef90dae1b710b35131c471b28db77f523047d8432caab7b40c724933c9ebe0a15c9bebc431d67c49c100d4c4cc5d4becb3e42b6597f299cfc657e2a5fcb6fab3ad6faec6c44198c4a475817#640

/-- The 64-bit pieces of a long word, from the highest down. -/
def wordsDown {w : Nat} (n : Nat) (v : BitVec w) : List W64 := (List.range n).map (fun i => v.extractLsb' (64 * (n - 1 - i)) 64)

def shaK : List W64 := [shaK0, shaK1, shaK2, shaK3, shaK4, shaK5, shaK6, shaK7].flatMap (wordsDown 10)

/-- Initial hash value of SHA-384, eight words, the first in the highest 64 bits. PRESUMED (FIPS 180-4). -/
def shaH : BitVec 512 :=
  0xcbbb9d5dc1059ed8629a292a367cd5079159015a3070dd17152fecd8f70e593967332667ffc00b318eb44a8768581511db0c2e0d64f98fa747b5481dbefa4fa4#512

/-- XOR of a word rotated right by each of some distances. -/
def rotXor (l : List Nat) (x : W64) : W64 := l.foldl (fun acc n => acc ^^^ x.rotateRight n) 0

/-- A small sigma of the message schedule: two rotations and a shift. -/
def smallSigma (r q n : Nat) (x : W64) : W64 := rotXor [r, q] x ^^^ (x >>> n)

/-- The choice of `g` where `e` has a zero, of `f` where it has a one. -/
def shaPick (e f g : W64) : W64 := g ^^^ (e &&& (f ^^^ g))

/-- The majority of three bits, place by place. -/
def shaVote (a b c : W64) : W64 := (a &&& b) ||| (c &&& (a ||| b))

/-- One round over the eight working words: `x` is the sum of the round's constant and its message word. -/
def shaStep (x : W64) : List W64 → List W64
  | [a, b, c, d, e, f, g, h] =>
    let t := x + (h + rotXor [14, 18, 41] e) + shaPick e f g
    [t + rotXor [28, 34, 39] a + shaVote a b c, a, b, c, d + t, e, f, g]
  | l => l

/-- The message word that follows sixteen, oldest first. -/
def shaNext (w : List W64) : W64 :=
  let at_ (i : Nat) : W64 := w.getD i 0
  (at_ 0 + at_ 9) + (smallSigma 1 8 7 (at_ 1) + smallSigma 19 61 6 (at_ 14))

/-- The rounds of one block: `w` holds the next sixteen message words. -/
def shaRounds : List W64 → List W64 → List W64 → List W64
  | [], _, s => s
  | k :: ks, w, s => shaRounds ks (w.tail ++ [shaNext w]) (shaStep (k + w.headD 0) s)

/-- Absorbs `n` blocks of sixteen words. -/
def shaBlocks : Nat → List W64 → List W64 → List W64
  | 0, _, s => s
  | n + 1, ws, s => shaBlocks n (ws.drop 16) (List.zipWith (· + ·) s (shaRounds shaK (ws.take 16) s))

/-- Padding of a message of whole 64-bit words: a one bit, zeros, and the length in bits. -/
def shaPad (ws : List W64) : List W64 :=
  let z := (16 - (ws.length + 3) % 16) % 16
  ws ++ [0x8000000000000000#64] ++ List.replicate z 0 ++ [0, BitVec.ofNat 64 (64 * ws.length)]

/-- The digest that six words spell (R388). -/
def digestJoin (l : List W64) : BitVec 384 :=
  l.getD 0 0 ++ l.getD 1 0 ++ l.getD 2 0 ++ l.getD 3 0 ++ l.getD 4 0 ++ l.getD 5 0

/-- SHA-384 of a message given as big-endian 64-bit words. -/
def sha384 (ws : List W64) : BitVec 384 :=
  let p := shaPad ws
  digestJoin (shaBlocks (p.length / 16) p (wordsDown 8 shaH))

/-- The bytes of a word in the other order. -/
def swapBytes (v : W64) : W64 :=
  BitVec.ofNat 64 (lsum ((List.range 8).map (fun i => ((v.toNat >>> (8 * i)) % 256) <<< (8 * (7 - i)))))

/-- The digest of a sequence of words, each taken in little-endian byte order (R428). -/
def digestWords (ws : List W64) : BitVec 384 := sha384 (ws.map swapBytes)

/-- The six words of a digest, the most significant bytes first (R388). -/
def digestSplit (d : BitVec 384) : List W64 := wordsDown 6 d

/-! ### CRCs -/

/-- One step of CRC-32C, bits taken least significant first within each byte. PRESUMED (the usual
reflected form, polynomial 0x1EDC6F41). -/
def crc32cBit (c : BitVec 32) (b : Bool) : BitVec 32 :=
  let x := c.getLsbD 0 != b
  let c := c >>> 1
  if x then c ^^^ 0x82F63B78#32 else c

def crc32cByte (c : BitVec 32) (b : Nat) : BitVec 32 :=
  (List.range 8).foldl (fun c i => crc32cBit c (b.testBit i)) c

/-- CRC-32C of a list of bytes (R491). -/
def crc32c (l : List Nat) : BitVec 32 := ~~~ (l.foldl crc32cByte 0xFFFFFFFF#32)

/-- One bit of CRC-8 with polynomial x^8 + x^2 + x + 1 (R318). -/
def crc8Bit (c : BitVec 8) (b : Bool) : BitVec 8 :=
  let x := c.getLsbD 7 != b
  let c := c <<< 1
  if x then c ^^^ 0x07#8 else c

/-- CRC-8 of a 64-bit value, most significant bit first, initial value 0 (R318). -/
def crc8 (v : W64) : BitVec 8 := (List.range 64).foldl (fun c i => crc8Bit c (v.getLsbD (63 - i))) 0

end Sys2Proof.Machine
end

