-- ==== Sys2Proof/Machine/Scrub.lean ====
section
/-! DEFINITION. Sys2Proof/Machine/Scrub.lean: the patrol scrubbers, the refresh of mirror sets, the ageing walk, and the lines of
an OPEN resolution (R165 to R169, R219, R225, R234, R235). -/

namespace Sys2Proof.Machine

/-! ### The snoop filter (R169) -/

/-- Uncorrectable ways that a visit would have to open: it waits while the home-flow share has no room for them (R110, R164). -/
def State.scrubWaits (s : State) (k set : Nat) : Bool :=
  let n := ((List.range 16).filter ((s.slice k).sfBad set)).length
  decide (0 < n) && decide (16 < s.homeUse k + n)

/-- SF_SCRUB_VISIT (R169). The next visit is due one interval after this one. -/
def execSfScrubVisit (k : Nat) (s : State) : Host.Outcome State Fault Refusal :=
  let v := s.slice k
  .next (if s.works k && v.sfInt != 0 && decide (v.sfDue ≤ s.now) && s.bankFree k (v.sfWait.getD s.time.cycles) && !(s.scrubWaits k v.sfPos) then
      let set := v.sfPos
      let s := (bankServes k s).modSlice k (fun v => { v with sfPos := (set + 1) % 4096, sfDue := s.now + v.sfInt, sfWait := none })
      sfReadSet k set accScrub (sfParityCheck k set accScrub s)
    else s)

/-! ### The home cache and the mirror (R225, R234, R235) -/

/-- Corrects the single-bit errors of data words that no line of the set uses. -/
def scrubWords (k set : Nat) (s : State) : State :=
  s.each (List.range 128) (fun s i =>
    match (s.slice k).errAt 2 (set * 128 + i) with
    | some x => if x.single then correctWord k 2 (set * 128 + i) accScrub s else s
    | none => s)

/-- The data of a slot on patrol. A Dirty line that is lost is recovered by a home flow on it, which joins the line's chain behind an
active transaction (R106, R109, R234). -/
def patrolData (k set : Nat) (s : State) (slot : Nat) : State :=
  let v := s.slice k
  let l := hcLine set (v.tagAt set slot).ltag
  if v.dataLost set slot then
    if v.txns.any (fun t => decide (t.kind = .recover) && t.l == l) then s
    else
      let n := v.freeEntry
      activate k n (s.setSlice k (v.enter { e := n, kind := .recover, q := { laddr := l } }))
  else readData k set accScrub .poison s slot

/-- HC_SCRUB_VISIT (R235): tags, control word, data and mirror entries of one set. A bank whose arrays hold nothing yet is not
read. -/
def execHcScrubVisit (k : Nat) (s : State) : Host.Outcome State Fault Refusal :=
  let v := s.slice k
  let set := v.hcPos
  let lost := ((List.range 32).filter (fun t => v.tagBad set t || v.dataLost set t)).length
  .next (if s.works k && v.hcInt != 0 && decide (v.hcDue ≤ s.now) && s.bankFree k (v.hcWait.getD s.time.cycles) && (lost == 0 || decide (s.homeUse k + lost ≤ 16)) then
      let s := (bankServes k s).modSlice k (fun v => { v with hcPos := (set + 1) % 2048, hcDue := s.now + v.hcInt, hcWait := none })
      let s := if v.hcinit then
          let s := readCtl k set accScrub (s.each (List.range 32) (readTag k set accScrub))
          scrubWords k set (s.each (List.range 32) (patrolData k set))
        else s
      readMirror k set accScrub s
    else s)

/-- MIRROR_REFRESH (R225): slice `k` resends a set update for every Dirty line of a set, victims included (R461), and the mirror set
is rewritten from them. -/
def execMirrorRefresh (k set : Nat) (s : State) : Host.Outcome State Fault Refusal :=
  let b := buddy k
  .next (if (s.slice b).refresh.contains set ∧ s.works k ∧ s.works b then
      let v := s.slice k
      let s := s.modSlice b (fun m =>
        let m := (List.range 16).foldl (fun (m : Slice) i => { m with mirror := tdel (set * 16 + i) m.mirror }.heal 4 (set * 16 + i)) m
        { m with refresh := m.refresh.filter (fun x => x != set) })
      let dirty := (List.range 32).filter (fun t => (v.tagAt set t).hst == hsDirty)
      let s := dirty.foldl (fun s t => mirrorSet k set t (v.tagAt set t).ltag 2048 s) s
      let s := (v.victims.filter (fun x => x.set == set)).foldl (fun s x => mirrorSet k set x.slot (hcLtag x.laddr) 2048 s) s
      raise { src := 0x07, detail := .array 4 (set * 16) b 1, acc := accScrub } s
    else s)

/-! ### The ageing walk (R219) -/

/-- NRU_AGEING_WALK: 64 cycles after the last one, the NRU field of the next set is cleared. -/
def execNruAgeingWalk (k : Nat) (s : State) : Host.Outcome State Fault Refusal :=
  let set := (s.slice k).walkPos % 2048
  .next (if s.pol.nru && s.works k && decide ((s.slice k).walkFrom + 64 * ((s.slice k).walkPos + 1) ≤ s.time.cycles) then
      (readCtl k set accInt s).modSlice k (fun v => { (v.setCtl set { v.ctlAt set with nru := 0 }) with walkPos := v.walkPos + 1 })
    else s)

/-! ### OPEN resolutions (R165 to R167) -/

/-- An OPEN resolution takes up its next candidate line: it becomes that line's active transaction and is counted against the set
(R125, R167). -/
def openLine (k : Nat) (t : Txn) (l : LAddr) (s : State) : State :=
  let v := s.slice k
  let q : Req := { t.q with laddr := l }
  let t' : Txn := { t with q := q, phase := .running, settled := false, counted := true, act := v.nextArr, ran := s.time.cycles, todo := s.broadcast l
                           outs := [], resps := [], rspd := {}, nchunk := 0, what := .nothing, place := .none, use := .undecided
                           pdata := {}, snooped := false }
  advance k t.e (s.setSlice k { (v.setTxn t') with nextArr := v.nextArr + 1 })

/-- Whether the line that a resolution works on is done (R83, R167). -/
def Txn.lineDone (t : Txn) : Bool :=
  decide (t.phase = .running) && t.settled && t.answered && (t.place == .none || t.place == .done) && t.writes == 0 && !t.mirror &&
    (!t.fresh || t.way.isSome)

/-- Closes the line, in SF_I but for agents with a writeback in hand: its buffers are free, its writebacks are decided next, and its chain goes
on (R113, R167, R471). -/
def closeLine (k : Nat) (t : Txn) (s : State) : State :=
  let l := t.l
  let mine := t.absorbed.filter (fun w => w.q.laddr == l)
  let ent := s.closingEnt k t
  let s := match t.way with
    | some w => s.modSlice k (fun v => v.setSf (sfSet l) w ent)
    | none => s
  let s := s.modSlice k (fun v => { v with bufUsed := v.bufUsed - t.bufs, deferred := v.deferred ++ mine })
  let s := s.modTxn k t.e (fun t =>
    { t with phase := .chained, counted := false, bufs := 0, cands := t.cands.filter (fun x => x != l), settled := true, fresh := false, way := none
             absorbed := t.absorbed.filter (fun w => w.q.laddr != l) })
  grantRun k (passOn k l true s)

/-- Ends an OPEN resolution whose candidates have all closed (R167). -/
def endOpen (k : Nat) (t : Txn) (s : State) : State :=
  let s := s.modSlice k (fun v => { v with txns := v.txns.filter (fun x => x.e != t.e) })
  grantRun k (raise { src := if t.npois = 0 then 0x02 else 0x03, detail := .opn k (sfSet t.l) t.sway t.ncand t.npois, acc := t.found } s)

/-- A resolution that is to take up a line of a full set joins the set's admission list (R125). -/
def listOpen (k : Nat) (t : Txn) (l : LAddr) (s : State) : State :=
  let v := s.slice k
  let t' : Txn := { t with q := { t.q with laddr := l }, phase := .admission, act := v.nextArr }
  s.setSlice k (({ (v.setTxn t') with nextArr := v.nextArr + 1 }).count 0x14 1)

/-- Takes up the next candidate line: at once, when it is admitted already or the set has room, and from the admission list otherwise; a request
on the line that is active and has not looked up yet gives way first (R104, R125, R166, R167). -/
def takeUp (k : Nat) (t : Txn) (l : LAddr) (s : State) : State :=
  let v := s.slice k
  if t.phase = .admission ∨ (v.activeOn l).any (fun x => x.e != t.e) then s
  else if t.counted || !(v.setFull (sfSet l)) then openLine k t l s
  else listOpen k t l s

/-- OPEN_LINE_RESOLVE (R167): closes the line that is done, then takes up the next one, or ends the resolution. -/
def execOpenLineResolve (k e : Nat) (s : State) : Host.Outcome State Fault Refusal :=
  .next (match (s.slice k).txn e with
    | none => s
    | some t =>
      if t.kind ≠ .openRes ∨ !(s.works k) ∨ (t.phase = .running ∧ !t.lineDone) then s
      else
        let s := if t.phase = .running then closeLine k t s else s
        match (s.slice k).txn e with
        | none => s
        | some t =>
          match t.cands with
          | [] => endOpen k t s
          | l :: _ => takeUp k t l s)

end Sys2Proof.Machine
end

