-- ==== Sys2Proof/Machine/Link.lean ====
section
/-! DEFINITION. Sys2Proof/Machine/Link.lean: the link layer of a ridge port: flits received and sent, replays, retraining,
and the failure of a link (10). -/

namespace Sys2Proof.Machine

/-- Whether flits cross a link (R305). -/
def LinkSt.up : LinkSt → Bool
  | .linked | .joined | .duplicate => true
  | .off | .training | .retraining | .failed => false

/-- A PORT event of a ridge port (R447). -/
def ridgeEv (src r reason : Nat) (s : State) : Ev :=
  { src := src, detail := .port (144 + r) reason 0 (s.link r).peer.toNat (s.link r).peerV, acc := accLink }

/-! ### What a ridge unit delivers (R289, R291, R33, R130) -/

/-- Sends a packet from ridge unit `r` into its mesh. -/
def fromRidge (r node port : Nat) (vc : VC) (gtc : Nat) (m : Msg) (s : State) : State :=
  s.inject { vc := vc, dnode := node, dport := port, snode := s.gh.ridgeNode r, sport := portEave, gtc := gtc, msg := m }

/-- A message routed by an AID that is not valid: discarded, counted and reported (R291). -/
def strayLink (r : Nat) (a : Aid) (s : State) : State :=
  raise { src := 0x14, detail := .port (144 + r) 2 a (s.link r).peer.toNat (s.link r).peerV, acc := accLink } (discardLink r s)

/-- Returns `n` credits of a receive buffer (R301). -/
def Ridge.vacate (l : Ridge) (code n : Nat) : Ridge := { l with cret := tput code (tget (fun _ => 0) l.cret code + n) l.cret }

/-- Whether a request that arrives carries an answer at once: no home here, or the instance is lost (R33, R451). -/
def State.linkRefusal (s : State) (q : Req) : Option (BitVec 8) :=
  if s.err.lost then some rsSliceLost
  else
    match homeOf s.map.active q.laddr with
    | some (i, _) => if i = s.self then none else some rsNoHome
    | none => some rsNoHome

/-- A request arrives over a link: it takes an entry of the request ingress buffer, or is answered (R33, R47, R253). -/
def linkRequest (r : Nat) (gt : Bool) (gtc : Nat) (q : Req) (s : State) : State :=
  let x : IngEntry := { q := q, arr := s.now, isGt := gt, part := BitVec.ofNat 4 gtc }
  match s.linkRefusal q with
  | none => s.modLink r (fun l => { l with ingress := l.ingress ++ [x] })
  | some reason =>
    let s := answerAt (128 + r) reason x (s.modLink r (fun l => l.vacate (reqCode gt) 1))
    let s := if q.op.chunks = 0 then s else s.modLink r (fun l => { l with drop := l.drop ++ [(q.aid, q.txid)] })
    if reason = rsNoHome then raise (reqEv 0x12 q.laddr q.aid q.op) s else s

/-- A message for a slice of this instance. -/
def linkToHome (r : Nat) (vc : VC) (gtc : Nat) (h : BitVec 20) (m : Msg) (s : State) : State :=
  fromRidge r (htidSlice h) portSlice vc gtc m s

/-- A response for a slice of this instance: from an agent that has become unreachable, its entry cleared or not, it is discarded (R130). -/
def linkToSlice (r : Nat) (vc : VC) (gtc : Nat) (a : Aid) (h : BitVec 20) (m : Msg) (s : State) : State :=
  if s.pkg.unreach.contains a || (s.agentAt a).isNone then discardLink r s else linkToHome r vc gtc h m s

/-- A completion: it passes through the proxy entry that matches it to the requester's port (R252, R289). -/
def linkCompletion (r : Nat) (vc : VC) (gtc : Nat) (a : Aid) (t : BitVec 12) (h : BitVec 20) (keep : Bool) (m : Msg) (s : State) : State :=
  let mine (y : Proxy) : Bool := !y.answered && y.q.aid == a && y.q.txid == t
  match (s.link r).proxies.find? mine with
  | none => discardLink r s
  | some y =>
    if (s.agentAt a).isNone then strayLink r a (freeProxy r mine s)
    else
      if y.stale then discardLink r (freeProxy r mine s)
      else
        let s := if keep then s.modLink r (fun l => { l with proxies := lmodify mine (fun y => { y with answered := true, htid := h }) l.proxies })
          else freeProxy r mine s
        fromRidge r (y.port / 2) (portCa0 + y.port % 2) vc gtc m s

/-- Line data for the requester's port (R289). -/
def linkData (r : Nat) (vc : VC) (gtc : Nat) (a : Aid) (t : BitVec 12) (m : Msg) (s : State) : State :=
  match s.agentAt a with
  | some (i, p) =>
    if (s.link r).proxies.any (fun y => y.stale && y.q.aid == a && y.q.txid == t) then discardLink r s
    else if i = s.self then fromRidge r (p / 2) (portCa0 + p % 2) vc gtc m s
    else discardLink r s
  | none => strayLink r a s

/-- Request data: it fills the entry that waits for it, or is discarded with its request (R47, R64). -/
def linkReqData (r : Nat) (a : Aid) (t : BitVec 12) (cidx : BitVec 2) (poison : Bool) (be : BitVec 16) (d : BitVec 128) (s : State) : State :=
  let wants (x : IngEntry) : Bool := x.wants a t cidx
  s.modLink r (fun l => { l with ingress := lmodify wants (fun x => x.takeChunk cidx poison be d) l.ingress })

/-- Delivers one message that has arrived over a link (R289). -/
def linkDeliver (r : Nat) (vc : VC) (gtc : Nat) (s : State) (m : Msg) : State :=
  match m with
  | .req q .. => linkRequest r (decide (vc = .gt)) gtc q s
  | .snp .. | .snpMarker .. => s.modLink r (fun l => { l with snpIn := l.snpIn ++ [{ m := m, gt := decide (vc = .gt), gtc := gtc }] })
  | .rsp _ a h _ _ => linkToSlice r vc gtc a h m s
  | .cmpAck a h => linkToSlice r vc gtc a h m s
  | .cmp a t h g _ _ => linkCompletion r vc gtc a t h g.acked m s
  | .cmpErr a t h _ => linkCompletion r vc gtc a t h false m s
  | .wbAck a t h _ => linkCompletion r vc gtc a t h false m s
  | .dat kind a t h cidx _ poison be d =>
    if kind = 0 then linkData r vc gtc a t m s
    else if kind = 1 then linkToHome r vc gtc h m s
    else linkReqData r a t cidx poison be d s
  | .credit .. | .creditBack .. | .mirrorSet .. | .mirrorClr .. | .mirrorAck .. | .marker .. | .sfCopy .. | .hub _ => s

/-! ### Packets out of slots (R299, R301) -/

/-- Slots that a packet has, when its first slots tell; a GT packet of one slot may go on (R299). -/
def Ridge.packetLength (l : Ridge) (p : TxPkt) : Option Nat :=
  match p.slots with
  | [] => none
  | h :: rest =>
    let line := some (1 + lineChunks h)
    let waits (gt : Bool) : Bool := l.ingress.any (fun x => x.isGt == gt && x.missing != 0) || !l.drop.isEmpty
    match p.vc with
    | .snp | .rsp | .err => some 1
    | .dat => line
    | .mgt => some (1 + fld h 0 8)
    | .req => if waits false then line else some 1
    | .gt => if rest.isEmpty then none else line

/-- Whether a packet is a line packet: the request data and Dat that cross a link (R299). -/
def Ridge.isLine (l : Ridge) (p : TxPkt) : Bool :=
  decide (p.vc = .dat) || decide (1 < p.slots.length) || (decide (p.vc = .req) && l.packetLength p != some 1)

/-- Whether the first slot of a line packet is that of a request which was answered (R33, R64). -/
def Ridge.dropsLine (l : Ridge) (h : BitVec 128) : Bool :=
  fld h 0 2 == 2 && l.drop.contains (h.extractLsb' 2 11, h.extractLsb' 13 12)

/-- The receive buffer that the slots of a packet vacate at once: they empty into the mesh (R301). -/
def slotBuffer (gt : Bool) : Msg → Option Nat
  | .rsp .. | .cmpAck .. | .cmp .. | .cmpErr .. | .wbAck .. => some (bufCode 2 gt)
  | .dat kind .. => if kind = 2 then none else some (bufCode 4 gt)
  | .req .. | .snp .. | .credit .. | .creditBack .. | .mirrorSet .. | .mirrorClr .. | .mirrorAck .. | .marker .. | .snpMarker .. | .sfCopy ..
  | .hub _ => none

/-- An MGT packet is whole: its slots vacate the receive buffer, and it goes on to the hub, flit by flit. What it tells the hub is a command
of its own (R289, R299, R301; log 12). -/
def linkMgt (r : Nat) (p : TxPkt) (s : State) : State :=
  let s := s.modLink r (fun l => { l.vacate 6 p.slots.length with rxMgt := none })
  s.injectHub .mgt (s.gh.ridgeNode r, portEave) hubAt (Nat.min (p.slots.length - 1) 32) .fromPeer

/-- Takes a slot of an MGT packet, on a link that carries them (R299, R305). -/
def takeMgtSlot (r : Nat) (first : Bool) (x : BitVec 128) (s : State) : State :=
  let l := s.link r
  let p : TxPkt := match (if first then none else l.rxMgt) with
    | some p => { p with slots := p.slots ++ [x] }
    | none => { vc := .mgt, slots := [x] }
  if l.st = .duplicate then s
  else if l.packetLength p = some p.slots.length then linkMgt r p s
  else s.setLink r { l with rxMgt := some p }

/-- Delivers a whole packet of another channel. -/
def linkPacket (r : Nat) (p : TxPkt) (s : State) : State :=
  let gt := decide (p.vc = .gt)
  let l := s.link r
  let live := decide (l.st = .joined)
  match p.slots with
  | [] => s
  | h :: _ =>
    if l.isLine p then
      let ms := decodeLine p.slots
      if live && l.dropsLine h then
        s.modLink r (fun l => { l with drop := lremove (fun x => x == (h.extractLsb' 2 11, h.extractLsb' 13 12)) l.drop })
      else
        let s := match ms.head?.bind (slotBuffer gt) with
          | some c => s.modLink r (fun l => l.vacate c p.slots.length)
          | none => s
        if live then ms.foldl (linkDeliver r p.vc p.gtc) s else s
    else
      match decodeSlot h with
      | none => s
      | some m =>
        let s := match slotBuffer gt m with
          | some c => s.modLink r (fun l => l.vacate c 1)
          | none => s
        if live then linkDeliver r p.vc p.gtc s m else s

/-- The packet being received is complete when the next one starts, or the flit has an empty slot. -/
def closeRx (r : Nat) (s : State) : State :=
  match (s.link r).rxCur with
  | none => s
  | some p => linkPacket r p (s.modLink r (fun l => { l with rxCur := none }))

/-- Whether the packet being received may be complete already: one slot of GT. -/
def Ridge.rxMaybe (l : Ridge) : Bool :=
  match l.rxCur with
  | some p => (l.packetLength p).isNone
  | none => false

/-- Takes one slot of a PAYLOAD flit. A slot of MGT leaves a packet that is not complete as it is (R298, R299, R302). -/
def takeRxSlot (r : Nat) (s : State) (x : BitVec 8 × BitVec 128) : State :=
  match descVc x.1 with
  | none => closeRx r s
  | some .mgt => takeMgtSlot r (bit x.1 7) x.2 (if (s.link r).rxMaybe then closeRx r s else s)
  | some vc =>
    let s := if bit x.1 7 then closeRx r s else s
    let p : TxPkt := match (s.link r).rxCur with
      | some p => { p with slots := p.slots ++ [x.2] }
      | none => { vc := vc, gtc := fld x.1 3 4, slots := [x.2] }
    let s := s.modLink r (fun l => { l with rxCur := some p })
    if (s.link r).packetLength p = some p.slots.length then closeRx r s else s

/-! ### FLIT_RECEIVE (R297, R300 to R303, R321) -/

/-- The bytes that the CRC of a flit covers, in ascending order of their bits (R297). -/
def flitBytes (v : BitVec 992) : List Nat := (List.range 124).map (fun i => fld v (8 * i) 8)

/-- The CRC of a flit (R297). -/
def flitCrc (v : BitVec 992) : BitVec 32 := crc32c (flitBytes v)

/-- Signed value of 16 bits. -/
def signed16 (v : BitVec 16) : Int := v.toInt

/-- Drops the flits of the replay buffer that an ACKSEQ covers; an ACKSEQ that covers none makes no progress (R303, R304). -/
def Ridge.acked (l : Ridge) (a : BitVec 10) : Ridge :=
  if l.replay.any (fun x => x.1 == a) then
    let rest := (l.replay.dropWhile (fun x => x.1 != a)).drop 1
    let from_ := match l.replayFrom with
      | some n => if rest.any (fun x => x.1 == n) then some n else (rest.head?.map (fun x => x.1))
      | none => none
    { l with replay := rest, replayFrom := from_, stuckN := 0 }
  else l

/-- The stamp sample of a flit that starts a group, or the credits it returns (R297, R321). -/
def Ridge.takeHalf (l : Ridge) (ptc : W64) (f : Flit) : Ridge :=
  if f.gstart then { l with sum := l.sum + signed16 (ptc.extractLsb' 0 16 - f.half), num := l.num + 1 }
  else if fld f.half 0 3 = 7 then l
  else { l with txCred := tput (fld f.half 0 3) (tget (fun _ => 0) l.txCred (fld f.half 0 3) + fld f.half 3 8) l.txCred }

/-- A flit is discarded: the first after a good flit is answered with NAK (R303). -/
def Ridge.reject (l : Ridge) : Ridge := if l.rxBad then l else { l with rxBad := true, nakDue := true }

/-- The parts of a good flit that concern the link alone (R297, R300, R321). -/
def Ridge.takeGood (l : Ridge) (ptc : W64) (f : Flit) : Ridge :=
  let l := { l with rxBad := false }
  let l := if f.ackv then l.acked f.ackseq else l
  let l := l.takeHalf ptc f
  match f.ftype.toNat with
  | 2 =>
    let rec_ := f.slots.headD 0
    if fld rec_ 0 4 = 1 ∨ fld rec_ 0 4 = 2 ∨ fld rec_ 0 4 = 3 then { l with ctlIn := l.ctlIn ++ [rec_] } else l
  | 1 => { l with rxSeq := l.rxSeq + 1, ackV := true }.count 0x05 1
  | _ => l

/-- FLIT_RECEIVE (R303): the flit is taken whole, or discarded. -/
def execFlitReceive (r : Nat) (flit : BitVec 1024) (s : State) : Host.Outcome State Fault Refusal :=
  let l := s.link r
  let f := decodeFlit flit
  .next (if !l.st.up then s
    else if flitCrc (flit.extractLsb' 0 992) ≠ flit.extractLsb' 992 32 then
      s.setLink r ({ l.reject with crcErr := satAdd l.crcErr 1 }.count 0x09 1)
    else if f.ftype = 3 ∨ (f.ftype = 1 ∧ f.seq ≠ l.rxSeq) then s.setLink r l.reject
    else
      let s := s.setLink r (l.takeGood s.time.ptc f)
      let s := if f.ftype = 1 then (f.desc.zip f.slots).foldl (takeRxSlot r) s else s
      drainSnoops r s)

/-! ### Replays (R303) -/

/-- A replay starts from flit `n`; the first of an epoch raises an event (R303, R304). -/
def startReplay (r : Nat) (n : BitVec 10) (s : State) : State :=
  let l := s.link r
  let again := decide (l.stuckSeq = n) && decide (0 < l.stuckN)
  let v := { l with replayFrom := some n, replays := satAdd l.replays 1, stuckSeq := n, stuckN := if again then l.stuckN + 1 else 1 }
  let s := s.setLink r { v with replayedIn := some s.pol.lastB }
  if l.replayedIn = some s.pol.lastB then s else raise (ridgeEv 0x1A r 0 s) s

/-- NAK_RECEIVE (R303): the transmitter resends from EXPSEQ. -/
def execNakReceive (r : Nat) (s : State) : Host.Outcome State Fault Refusal :=
  let l := s.link r
  .next (match l.ctlIn with
    | x :: rest =>
      if fld x 0 4 = 1 then
        let n : BitVec 10 := x.extractLsb' 4 10
        let s := s.setLink r ({ l with ctlIn := rest }.acked (n - 1))
        if (s.link r).replay.any (fun y => y.1 == n) then startReplay r n s else s
      else s
    | [] => s)

/-- REPLAY_TIMEOUT (R303). -/
def execReplayTimeout (r : Nat) (s : State) : Host.Outcome State Fault Refusal :=
  let l := s.link r
  .next (match l.replay with
    | (n, _, t) :: _ => if l.st.up && l.replayFrom.isNone && decide (t + 2000 ≤ s.now) then startReplay r n s else s
    | [] => s)

/-! ### FLIT_TRANSMIT (R297 to R303) -/

/-- Credits that a packet needs: one for a request, one for each slot of the others (R301). -/
def TxPkt.cost (p : TxPkt) : Nat :=
  match p.buf with
  | none => 0
  | some c => if c < 2 then 1 else p.slots.length

/-- Whether the credits of a packet are held (R301). -/
def Ridge.affords (l : Ridge) (p : TxPkt) : Bool :=
  match p.buf with
  | none => true
  | some c => decide (p.cost ≤ tget (fun _ => 0) l.txCred c)

/-- The first packet of a channel, of a class when one is named, when its credits are held. -/
def Ridge.firstOf (l : Ridge) (vc : VC) (cls : Option Nat) : Option TxPkt :=
  match l.txQ.find? (fun p => decide (p.vc = vc) && (match cls with
    | some g => p.gtc == g
    | none => true)) with
  | some p => if l.affords p then some p else none
  | none => none

/-- The channels in the order of the round-robin, from the one after `last` (R302). -/
def linkOrder (last : Nat) : List VC :=
  let l := [VC.rsp, VC.dat, VC.snp, VC.req, VC.gt]
  l.drop last ++ l.take last

/-- The packet of the reserved GT class that goes in its slot (R302). -/
def Ridge.pickGt (l : Ridge) (res : Option Nat) : Option TxPkt :=
  match res with
  | some g => l.firstOf .gt (some g)
  | none => none

/-- The packet that the round-robin takes next (R302). -/
def Ridge.pick (l : Ridge) : Option TxPkt := (linkOrder l.txRr).findSome? (fun v => l.firstOf v none)

/-- Place of a channel in the round-robin. -/
def linkPlace : VC → Nat
  | .rsp => 1
  | .dat => 2
  | .snp => 3
  | .req => 4
  | .gt | .mgt | .err => 5

/-- Takes a packet for transmission, with its credits (R301). -/
def Ridge.begin_ (l : Ridge) (p : TxPkt) : Ridge :=
  { l with
    txQ := lremove (fun x => x == p) l.txQ
    txRr := if p.vc = .mgt then l.txRr else linkPlace p.vc % 5
    txCred := match p.buf with
      | none => l.txCred
      | some c => tput c (tget (fun _ => 0) l.txCred c - p.cost) l.txCred }

/-- The next slot of MGT: of the packet under way, else of the first one whose credits are held, at most one in every 4 flits (R302). -/
def Ridge.mgtSlot (l : Ridge) : Option ((BitVec 8 × BitVec 128) × Ridge) :=
  let put (first : Bool) (p : TxPkt) (l : Ridge) : (BitVec 8 × BitVec 128) × Ridge :=
    let left := p.slots.drop 1
    ((encodeDesc .mgt 0 first, p.slots.headD 0),
     { l with txMgt := if left.isEmpty then none else some { p with slots := left }, mgtGap := 0 })
  if l.mgtGap < 4 then none
  else
    match l.txMgt with
    | some p => some (put false p l)
    | none => (l.firstOf .mgt none).map (fun p => put true p (l.begin_ p))

/-- Fills the slots of a PAYLOAD flit; a link that is LINKED carries MGT alone (R299, R302, R305). -/
def fillSlots (res : Option Nat) : Nat → Ridge → List (BitVec 8 × BitVec 128) × Ridge
  | 0, l => ([], l)
  | n + 1, l =>
    let put (first : Bool) (p : TxPkt) (l : Ridge) : List (BitVec 8 × BitVec 128) × Ridge :=
      let left := p.slots.drop 1
      let l := { l with txCur := if left.isEmpty then none else some { p with slots := left } }
      let rest := fillSlots res n l
      ((encodeDesc p.vc p.gtc first, p.slots.headD 0) :: rest.1, rest.2)
    let mgt (other : List (BitVec 8 × BitVec 128) × Ridge) : List (BitVec 8 × BitVec 128) × Ridge :=
      match l.mgtSlot with
      | some x =>
        let rest := fillSlots res n x.2
        (x.1 :: rest.1, rest.2)
      | none => other
    if l.st ≠ .joined then mgt ([], l)
    else
      match l.txCur, l.pickGt res with
      | some p, _ => put false p l
      | none, some p => put true p (l.begin_ p)
      | none, none =>
        mgt (match l.pick with
          | some p => put true p (l.begin_ p)
          | none => ([], l))

/-- Pads to seven slots with empty ones (R298). -/
def padSlots (l : List (BitVec 8 × BitVec 128)) : List (BitVec 8 × BitVec 128) := (l ++ List.replicate 7 (emptyDesc, 0)).take 7

/-- The credit return that a flit carries: the lowest buffer with entries vacated (R301). -/
def Ridge.takeCret (l : Ridge) : BitVec 16 × Ridge :=
  match leastBelow (fun c => decide (0 < tget (fun _ => 0) l.cret c)) 7 with
  | none => (0, l)
  | some c =>
    let n := Nat.min (tget (fun _ => 0) l.cret c) 255
    (encodeCret c n, { l with cret := tput c (tget (fun _ => 0) l.cret c - n) l.cret })

/-- The header of a flit as it is transmitted now: group start, stamp or credits, acknowledgement (R297, R303). `again`: the credit
return that the flit carried when it was first sent. -/
def Ridge.frame (l : Ridge) (ptc : W64) (ftype : BitVec 2) (seq : BitVec 10) (again : Option (BitVec 16))
    (slots : List (BitVec 8 × BitVec 128)) : Flit × Ridge :=
  let start := decide (l.txGroup = 0)
  let h : BitVec 16 × Ridge := if start then (ptc.extractLsb' 0 16, l) else match again with
    | some c => (c, l)
    | none => l.takeCret
  let put := match again with
    | some c => if start && fld c 3 8 != 0 then h.2.vacate (fld c 0 3) (fld c 3 8) else h.2
    | none => h.2
  ({ ftype := ftype, gstart := start, ackv := l.ackV, seq := seq, ackseq := if l.ackV then l.rxSeq - 1 else 0, half := h.1
     desc := slots.map (fun x => x.1), slots := slots.map (fun x => x.2) },
   { put with txGroup := (l.txGroup + 1) % 8, mgtGap := Nat.min 4 (l.mgtGap + 1) })

/-- A flit with its CRC. -/
def Flit.bits (f : Flit) : BitVec 1024 := flitCrc f.body ++ f.body

/-- Whether a flit carried a credit return, and which (R297). -/
def Flit.cret (f : Flit) : Option (BitVec 16) := if f.gstart then none else some f.half

/-- Counts what a PAYLOAD flit carries (R520). -/
def Ridge.countSlots (l : Ridge) (slots : List (BitVec 8 × BitVec 128)) : Ridge :=
  let n := (slots.filter (fun x => (descVc x.1).isSome)).length
  let g := (slots.filter (fun x => descVc x.1 == some VC.gt)).length
  ((l.count 0x02 1).count 0x06 n).count 0x07 g

/-- A TIME record, made at transmission (R300). -/
def State.timeRecord (s : State) : BitVec 128 :=
  pack 128 [(0, 3), (4, s.time.ptc.toNat), (68, s.self), (71, s.rst.role.toNat), (73, b2n (s.pkg.timeSrc == s.inst)), (74, 0x31),
    (82, s.gh.code), (84, s.pkg.members.toNat)]

/-- The flit that a ridge unit sends next, and what becomes of its state: a replay, a record, a PAYLOAD flit, or IDLE (R302, R303). -/
def nextFlit (r : Nat) (s : State) : Flit × Ridge :=
  let l := s.link r
  let ptc := s.time.ptc
  let ctl (x : BitVec 128) (l : Ridge) : Flit × Ridge :=
    (l.count 0x04 1).frame ptc 2 0 none ((0, x) :: List.replicate 6 (0, 0))
  match l.replayFrom, l.replayFrom.bind (fun n => l.replay.find? (fun x => x.1 == n)) with
  | some n, some (_, bits, _) =>
    let f := decodeFlit bits
    let slots := f.desc.zip f.slots
    let last := match l.replay.getLast? with
      | some x => x.1 == n
      | none => true
    let l := (l.countSlots slots).count 0x08 1
    let x := { l with replayFrom := if last then none else some (n + 1) }.frame ptc 1 n f.cret slots
    (x.1, { x.2 with replay := lmodify (fun y => y.1 == n) (fun y => (y.1, x.1.bits, s.now)) x.2.replay })
  | _, _ =>
    if l.nakDue then ctl (pack 128 [(0, 1), (4, l.rxSeq.toNat)]) { l with nakDue := false }
    else
      match l.ctlOut with
      | x :: rest => ctl (if fld x 0 4 = 3 then s.timeRecord else x) { l with ctlOut := rest }
      | [] =>
        let b := s.battenSlot l.bat
        let res := if b.getLsbD 4 then some (fld b 0 4) else none
        let p := if (l.st = .joined ∨ l.st = .linked) ∧ l.replay.length < 256 then fillSlots res 7 l else ([], l)
        if p.1.isEmpty then (l.count 0x03 1).frame ptc 0 0 none (padSlots [])
        else
          let slots := padSlots p.1
          let n := l.txSeq
          let x := (p.2.countSlots slots).frame ptc 1 n none slots
          (x.1, { x.2 with txSeq := n + 1, replay := x.2.replay ++ [(n, x.1.bits, s.now)] })

/-- FLIT_TRANSMIT (R302): one cycle of RDGn_CLK. -/
def execFlitTransmit (r : Nat) (s : State) : Host.Outcome State Fault Refusal :=
  .next (if (s.link r).st.up then
      let x := nextFlit r s
      (s.setLink r x.2).emit (.flit r x.1.bits)
    else s)

/-! ### Training and retraining (R304, R306, R307, R406) -/

/-- A link enters LINKED: a flit group starts, a TIME record is due, its alignment is UNCAL (R297, R300, R323). -/
def Ridge.enterLinked (l : Ridge) (now : Nat) : Ridge :=
  { l with st := .linked, since := now, txGroup := 0, ctlOut := l.ctlOut ++ [3], timeNext := now + 100000, align := 0, okRun := 0, badRun := 0 }

/-- The state of a link that enters LINKED after training: nothing is in flight, every receive buffer of the peer is free, and a
TIME record is due (R300, R301, R306, R323). -/
def Ridge.linkedUp (l : Ridge) (now : Nat) : Ridge :=
  Ridge.enterLinked (now := now) { l with
    peerV := false, joinWanted := true, joinSent := false, joinIn := none, imageSent := false
    txSeq := 0, rxSeq := 0, replay := [], replayFrom := none, stuckN := 0, ackV := false, nakDue := false, rxBad := false, wdat := [], held := []
    txCred := [(0, 224), (1, 32), (2, 224), (3, 32), (4, 448), (5, 64), (6, 64)], cret := [], txQ := [], txCur := none
    txMgt := none, mgtGap := 4, rxCur := none, rxMgt := none, drop := [], ctlIn := [], ctlOut := []
    sum := 0, num := 0, mIn := none, win := none, theta := none, lam := 0, noneRun := 0, calSteps := 0 }

/-- PHY_TRAINED (R306, R406). -/
def execPhyTrained (r : Nat) (rate : BitVec 3) (s : State) : Host.Outcome State Fault Refusal :=
  let l := s.link r
  .next (if l.st = .training ∧ rate.toNat ≤ l.maxRate.toNat then
      State.endCmd (s.setLink r { (l.linkedUp s.now) with rate := rate, trainCmd := none }) l.trainCmd stOk 0 []
    else s)

/-- TRAIN_TIMEOUT (R332, R406). -/
def execTrainTimeout (r : Nat) (s : State) : Host.Outcome State Fault Refusal :=
  let l := s.link r
  .next (if l.st = .training ∧ l.since + 1000000 ≤ s.now then
      retryBringups (State.endCmd (s.setLink r { l with st := .off, trainCmd := none }) l.trainCmd stFailed 1 [])
    else s)

/-- A link enters RETRAINING: all state is held, and it gives no θ. RETRAINING is not quiesced, so the routers' drained state ends (R283, R304,
R305, R323). -/
def retrain (r : Nat) (s : State) : State :=
  let l := s.link r
  let v := { l with st := .retraining, was := l.st, since := s.now, align := 0, theta := none, okRun := 0, badRun := 0, noneRun := 0 }
  let s := { s with mesh := { s.mesh with drained := false } }
  raise (ridgeEv 0x1B r 0 s) (s.setLink r { v with sum := 0, num := 0, mIn := none })

/-- LINK_RETRAIN_ENTER (R304, R307). -/
def execLinkRetrainEnter (r : Nat) (lossOfLink : Bool) (s : State) : Host.Outcome State Fault Refusal :=
  .next (if (s.link r).st.up && (lossOfLink || decide (4 ≤ (s.link r).stuckN)) then retrain r s else s)

/-- The timeouts of what goes over a link start again from zero (R307). -/
def restartTimeouts (r : Nat) (s : State) : State :=
  s.each (List.range s.gh.slices) (fun s k =>
    if (s.slice k).txns.isEmpty then s
    else s.modSlice k (fun v => { v with txns := v.txns.map (fun t =>
      { t with
        outs := t.outs.map (fun o => if o.via = 128 + r then { o with start := s.now } else o)
        ackFrom := if t.src = 128 + r then t.ackFrom.map (fun _ => s.now) else t.ackFrom }) }))

/-- The generation counts of this instance, by kind (R313, R315). -/
def State.genCounts (s : State) : List Nat := (List.range 6).map (fun i => tget (fun _ => 0) s.pkg.gens i)

/-- RETRAIN_SUCCESS (R307): the link resumes from the peer's last ACKSEQ; one that was LINKED enters LINKED again (R297, R300). Different
generation counts fail it. -/
def execRetrainSuccess (r : Nat) (peerAck : BitVec 10) (peerGens : List Nat) (s : State) : Host.Outcome State Fault Refusal :=
  let l := s.link r
  .next (if l.st = .retraining then
      if l.was = .joined ∧ peerGens ≠ s.genCounts then failLink r 3 s
      else
        let v := l.acked peerAck
        let v := { v with st := l.was, since := s.now, replayFrom := v.replay.head?.map (fun x => x.1), stuckN := 0, rxBad := false }
        let v := if l.was = .linked then v.enterLinked s.now else v
        restartTimeouts r (s.setLink r v)
    else s)

/-- RETRAIN_TIMEOUT (R307). -/
def execRetrainTimeout (r : Nat) (s : State) : Host.Outcome State Fault Refusal :=
  .next (if (s.link r).st = .retraining ∧ (s.link r).since + 200000 ≤ s.now then failLink r 1 s else s)

/-! ### LINK_FAIL (R308 to R311) -/

/-- Whether the agent table places an AID on an instance. -/
def State.onInstance (s : State) (i : Nat) (a : Aid) : Bool :=
  match s.agentAt a with
  | some (j, _) => j == i
  | none => false

/-- Whether a packet that waits for a link is a message towards a requester (R308). -/
def TxPkt.towardsRequester (p : TxPkt) : Bool :=
  match p.slots with
  | [m] => fld m 0 6 == 0x3C || fld m 0 6 == 0x3D || fld m 0 6 == 0x3E
  | m :: _ => fld m 0 2 == 0
  | [] => false

/-- Answers a proxy entry whose completion has not passed (R308). -/
def failProxy (r : Nat) (s : State) (y : Proxy) : State :=
  if y.answered then s
  else
    let g := s.gtOf y.q.aid
    fromRidge r (y.port / 2) (portCa0 + y.port % 2) (if g.1 then .gt else .rsp) (if g.1 then g.2 else 0) (.cmpErr y.q.aid y.q.txid 0 rsLinkLost) s

/-- The requests that wait at CA port `p` for a proxy credit towards an instance no link leads to any more are answered (R292). -/
def failWaiting (peer : BitVec 3) (s : State) (p : Nat) : State :=
  let gone (x : IngEntry) : Bool := x.peer == some peer && (s.pathTo peer.toNat).isNone
  let l := (s.ca p).ingress.filter gone
  let s := if l.isEmpty then s else s.modCa p (fun c => { c with ingress := c.ingress.filter (fun x => !(gone x)) })
  l.foldl (fun s x => raise (reqEv 0x2C x.q.laddr x.q.aid x.q.op) (refuse p rsLinkLost x s)) s

/-- LINK_FAIL (R292, R308): every item that depends on the link is answered or discarded, the snoop credits for the link and the fence markers
beyond it are void, and the scans of R309 begin. -/
def execLinkFail (r : Nat) (s : State) : Host.Outcome State Fault Refusal :=
  let l := s.link r
  let bad (a : Aid) : Bool := s.onInstance l.duePeer.toNat a
  .next (if l.failDue then
      let n := (l.txQ.filter TxPkt.towardsRequester).length
      let v := { l with failDue := false, proxies := [], ingress := [], snpIn := [], snpOut := [], cred := [], txQ := [], txCur := none
                        wdat := [], held := [] }
      let free (q : Pool) (y : Proxy) : Pool := if y.guar then q else q.sub y.port
      let v := { v with txMgt := none, rxMgt := none, proxyPool := l.proxies.foldl free l.proxyPool }
      let v := { v with replay := [], replayFrom := none, rxCur := none, drop := [], ctlIn := [], ctlOut := [], txCred := [], cret := [] }
      let s := s.setLink r { v with discard := satAdd l.discard n }
      let s := l.proxies.foldl (failProxy r) s
      let s := s.each (List.range s.gh.caPorts) (failWaiting l.duePeer)
      let s := resolveAgents bad s
      let s := dropCredits (128 + r) s
      let beyond (m : BitVec 3 × Nat × Bool) : Bool := m.1 == l.duePeer
      let s := s.each (List.range s.gh.slices) (fun s k => s.modSlice k (fun v =>
        let creds := v.markCred.filter (fun m => m.2.2 != 128 + r)
        { v with marks := v.marks.filter (fun m => !(beyond m)), snpCred := v.snpCred.filter (fun x => x.1 != 128 + r), markCred := creds }))
      s.each s.slicesUp (fun s k => cleanPass bad k s)
    else s)

/-- LINK_FAIL_SCAN_DONE (R309, R311): what the scan of a slice left is revisited; when no entry names an agent beyond the link any
more, the scan has finished. -/
def execLinkFailScanDone (k r : Nat) (s : State) : Host.Outcome State Fault Refusal :=
  let l := s.link r
  let bad (a : Aid) : Bool := s.onInstance l.duePeer.toNat a
  .next (if l.scansDue.contains k && !l.failDue && s.works k then
      let s := cleanPass bad k s
      if (s.slice k).cleanOf bad then s.modLink r (fun l => { l with scansDue := l.scansDue.filter (fun j => j != k) }) else s
    else s)

end Sys2Proof.Machine
end

