-- ==== Sys2Proof/Machine/Reset.lean ====
section
/-! DEFINITION. Sys2Proof/Machine/Reset.lean: the two resets, release, straps, trim loading, bring-up and the
boot image (16), and the measurement log (R441 to R443). -/

namespace Sys2Proof.Machine

/-! ### Taking a reset -/

/-- Whether a reset taken now sets DIRTYLOST (R488). -/
def State.losesDirty (s : State) : Bool := s.rst.dirtyV && s.rst.dirty != 0

/-- What both resets leave (R489, R490): every field at its Reset value but the configuration, the clock, the TAP,
the commands that wait and the model's own counters. The nonce is renewed (R431). -/
def resetBase (s : State) : State :=
  { State.reset with
    gh := s.gh, inst := s.inst, tmcap := s.tmcap
    map := { base := List.range s.gh.slices }
    prot := { nonce := Config.freeNonce s.fresh }
    fresh := s.fresh + 1
    tdo := s.tdo, tapSel := s.tapSel
    out := s.out, pending := s.pending }

/-- The state after POR_N is taken (R478, R487 to R490): sticky fields take their Reset values, then DIRTYLOST and
TRIMINT are set as their rules say; the TAP is reset (R501). -/
def porState (s : State) : State :=
  { resetBase s with
    rst := { cPor := true, cPin := false, cDirty := s.losesDirty, cTrim := s.rst.loading }
    tapSel := true, tdo := 0 }

/-- The state after RESET_N is taken (R479, R487 to R490): sticky fields keep their values. -/
def pinState (s : State) : State :=
  { resetBase s with
    rst := { cPor := s.rst.cPor, cPin := true, cDirty := s.rst.cDirty || s.losesDirty,
             cTrim := s.rst.cTrim || s.rst.loading }
    err := { ferr := { s.err.ferr with cyc := none } } }

/-- POR_TAKEN: POR_N sampled low at 2 consecutive edges of PTC_REF (R478). -/
def execPorTaken (s : State) : Host.Outcome State Fault Refusal := .next (porState s)

/-- RESET_N_TAKEN: RESET_N sampled low at 96 consecutive edges of PTC_REF (R479). -/
def execResetNTaken (s : State) : Host.Outcome State Fault Refusal := .next (pinState s)

/-- VDD_RISE: the valid flag of the dirty count is 0 when VDD rises (R488). -/
def execVddRise (s : State) : Host.Outcome State Fault Refusal :=
  .next { s with rst := { s.rst with dirtyV := false } }

/-! ### Release (R480 to R486) -/

/-- The windows of the RSENSE converter, in ohms, by code (R485). -/
def rsenseWindows : List (Nat × Nat) :=
  [(960, 1040), (1162, 1258), (1411, 1529), (1709, 1851), (2064, 2236), (2506, 2714), (3034, 3286), (3677, 3983),
   (4454, 4826), (5395, 5845), (6538, 7082), (7920, 8580), (9600, 10400), (11620, 12580), (14110, 15290), (17090, 18510)]

/-- The code of a reading in ohms, when it falls in a window (R485). -/
def rsenseCode (ohm : Nat) : Option Nat :=
  leastBelow (fun i => decide ((rsenseWindows.getD i (1, 0)).1 ≤ ohm) && decide (ohm ≤ (rsenseWindows.getD i (1, 0)).2)) 16

/-- Roles, as coded in R387. -/
abbrev roleSecondary : BitVec 2 := 0
abbrev roleMaster : BitVec 2 := 1
abbrev roleStandby : BitVec 2 := 2
abbrev roleFree : BitVec 2 := 3

/-- The role that CLKMODE and the time-master capability give; CLKMODE 11 is treated as 00 (R319, R483). -/
def roleOf (clk : BitVec 2) (cap : Bool) : BitVec 2 :=
  match clk.toNat, cap with
  | 1, true => roleStandby
  | 1, false => roleSecondary
  | 2, _ => roleFree
  | _, true => roleMaster
  | _, false => roleSecondary

/-- The boot source after the substitutions of R482. -/
def bootSource (b role : BitVec 2) : BitVec 2 :=
  if b = 3 ∨ (b = 2 ∧ role = roleFree) then 0 else b

/-- A STRAP event (R446): CODE 1 BOOT, 2 CLKMODE, 3 capability. -/
def strapEvent (c : Bool) (code : Nat) : List Ev :=
  if c then [{ src := 0x2A, detail := .misc code (Config.miscValue 0x2A code), acc := accInt }] else []

/-- The state just after release with straps `x`, readings `r` and the sensed fuse (R480 to R486, R318, R492). -/
def releaseState (x : StrapSample) (r : Option Nat) (fuse : Bool) (s : State) : State :=
  let code : BitVec 4 := if x.cfgsrc then (match r with
    | some c => BitVec.ofNat 4 c
    | none => x.id) else x.id
  let cap := bit code 3
  let role := roleOf x.clkmode cap
  let test := x.testmode && !fuse
  let own := code.extractLsb' 0 3
  { s with
    inst := own
    tmcap := cap
    time := { s.time with ptc := 0, stepped := 0, loaded := false, syncSeen := false, frac := 0, cycles := 0 }
    pkg := { s.pkg with members := 1#8 <<< own.toNat, timeSrc := own }
    pol := { s.pol with nru := test }
    rst := { s.rst with
      inReset := false, boot := x.boot, clkmode := x.clkmode, cfgsrc := x.cfgsrc, idstrap := x.id, testmode := x.testmode
      rcode := BitVec.ofNat 4 (r.getD 0), rsout := r.isNone, code := code, field := fuse, test := test, role := role
      bootSrc := bootSource x.boot role, dirtyV := true, step := 1, loading := true, common := false, passOn := false
      segs := [], spares := [], seenPass := [] } }

/-- The STRAP events of a release (R319, R482, R483). -/
def releaseEvents (x : StrapSample) (s : State) : List Ev :=
  strapEvent (decide (s.rst.bootSrc ≠ x.boot)) 1 ++ strapEvent (decide (x.clkmode = 3)) 2 ++
  strapEvent ((decide (x.clkmode = 0) || decide (x.clkmode = 3)) && !s.tmcap) 3

/-- RESET_RELEASE: in factory test mode the replacement mode switches to NRU (R221). Released when the 16 strap samples agree and the two
conversions give one code; otherwise the count restarts and reset goes on (R480). -/
def execResetRelease (samples : List StrapSample) (ohm1 ohm2 : Nat) (fieldFuse : Bool) (s : State) :
    Host.Outcome State Fault Refusal :=
  .next (match samples with
    | [] => s
    | x :: l =>
      if s.rst.inReset && decide (samples.length = 16) && l.all (fun y => decide (y = x)) && decide (rsenseCode ohm1 = rsenseCode ohm2) then
        let t := releaseState x (rsenseCode ohm1) fieldFuse s
        let t := raiseAll (releaseEvents x t) t
        if t.rst.test then policyEvent 0 0x13 0xFF 2 0 1 t else t
      else s)

/-- MP_ABORT_FALL: 16 CCLK cycles after release MPn_ABORT falls at every memory port (R347, R496). -/
def execMpAbortFall (s : State) : Host.Outcome State Fault Refusal :=
  .next (if !s.rst.inReset && decide (16 ≤ s.time.cycles) then
      s.each (List.range s.gh.memPorts) (fun s m => s.modMp m (fun v => if v.inReset then v else { v with abort := false }))
    else s)

/-! ### Trim and repair (R491 to R495) -/

/-- The bytes that the CRC of a segment covers: SEG, NW and PAYLOAD, most significant first (R491). -/
def segBytes (seg : BitVec 8) (payload : List (BitVec 32)) : List Nat :=
  [seg.toNat, payload.length / 256 % 256, payload.length % 256] ++
    payload.flatMap (fun v => [fld v 24 8, fld v 16 8, fld v 8 8, fld v 0 8])

/-- Whether a segment checks: its CRC, and NW in range (R491). -/
def segChecks (seg : BitVec 8) (payload : List (BitVec 32)) (crc : BitVec 32) : Bool :=
  let n := payload.length
  decide (crc32c (segBytes seg payload) = crc) &&
    (if seg = 0xFF#8 then decide (n = 0) else decide (1 ≤ n) && decide (n ≤ (if seg = 0xC0#8 then 2048 else 512)))

def State.segOf (s : State) (k : Nat) : SegSt := tget (fun _ => SegSt.none) s.rst.segs k
def State.setSeg (s : State) (k : Nat) (v : SegSt) : State := { s with rst := { s.rst with segs := tput k v s.rst.segs } }

/-- Disables a slice: its switch stays open and its buddy runs in write-through until the next reset (R494, R495). -/
def disableSlice (k : Nat) (s : State) : State :=
  let s := (s.setSeg k .disabled).modSlice k (fun v => { v with st := .disabled })
  raise { src := 0x29, detail := .slc k 0 0 0 0 0, acc := accInt } (s.modSlice (buddy k) (fun v => { v with wt226 := true }))

/-- A slice segment failed its CRC or was missing from a pass: taken again once, then the slice is disabled (R494). -/
def segFails (s : State) (k : Nat) : State :=
  match s.segOf k with
  | .none => s.setSeg k .failedOnce
  | .failedOnce => disableSlice k s
  | .ok | .disabled => s

/-- Slices that trim loading has left enabled, before SLICEMASK is valid. -/
def State.trimEnabled (s : State) : List Nat :=
  (List.range s.gh.slices).filter (fun k => decide (s.segOf k ≠ .disabled))

/-- Loading is complete when every slice segment has checked or disabled its slice (R494); then the switches of the
enabled slices close, 8 slices at a time, 10 µs apart (R496, R505). With none enabled bring-up stops (R495). -/
def finishLoading (s : State) : State :=
  let all := (List.range s.gh.slices).all (fun k => decide (s.segOf k = .ok) || decide (s.segOf k = .disabled))
  if !all then s
  else
    let s := { s with rst := { s.rst with loading := false, loaded := true } }
    if s.trimEnabled.isEmpty then { s with rst := { s.rst with fail := 1 } }
    else
      s.trimEnabled.zipIdx.foldl (fun s p => s.modSlice p.1 (fun v =>
        { v with st := .poweringUp, segTick := s.now + 10000 * (p.2 / 8) })) s

/-- A segment is written into its shadow as it arrives; whether the shadow is valid is the segment's state (R236, R492). -/
def storeSegment (seg : BitVec 8) (payload : List (BitVec 32)) (s : State) : State :=
  { s with rst := { s.rst with shadow := tput seg.toNat payload s.rst.shadow } }

/-- Spare rows of an array in each slice (R236). -/
def spareRowsOf : Nat → Nat
  | 0 | 1 => 16
  | 2 => 32
  | 3 => 4
  | _ => 8

/-- The row replacements of a slice, as its segment records them, as far as each array has spare rows (R236, R491, R492; log 101). -/
def loadSpares (k : Nat) (payload : List (BitVec 32)) (s : State) : State :=
  let rows := (List.range 5).flatMap (fun a => ((Config.spareRows payload).filter (fun x => x.1 == a)).take (spareRowsOf a))
  { s with rst := { s.rst with spares := tput k rows s.rst.spares } }

/-- A common segment begins a pass; it is taken until one checks, after the slices are loaded too (R491, R492, R499). -/
def takeCommon (payload : List (BitVec 32)) (crc : BitVec 32) (s : State) : State :=
  let s := if s.rst.common then s else storeSegment 0xC0 payload s
  { s with rst := { s.rst with passOn := true, seenPass := [], passes := satAdd s.rst.passes 1,
                               common := s.rst.common || segChecks 0xC0 payload crc } }

/-- One segment of the trim and repair stream (R491 to R493): an end segment that does not check ends no pass. -/
def takeSegment (seg : BitVec 8) (payload : List (BitVec 32)) (crc : BitVec 32) (s : State) : State :=
  let k := seg.toNat
  if seg = 0xC0#8 then takeCommon payload crc s
  else if !s.rst.passOn then s
  else if k < s.gh.slices then
    let s := { s with rst := { s.rst with seenPass := k :: s.rst.seenPass } }
    if s.segOf k = .ok ∨ s.segOf k = .disabled then s
    else
      let s := storeSegment seg payload s
      finishLoading (if segChecks seg payload crc then loadSpares k payload (s.setSeg k .ok) else segFails s k)
  else if seg = 0xFF#8 ∧ segChecks seg payload crc then
    let missing := (List.range s.gh.slices).filter (fun k => !(s.rst.seenPass.contains k))
    finishLoading { missing.foldl segFails s with rst := { (missing.foldl segFails s).rst with passOn := false } }
  else s

/-- FUSE_SEGMENT: a whole trim or repair segment from FUSE_SI (R492, R494). -/
def execFuseSegment (seg : BitVec 8) (payload : List (BitVec 32)) (crc : BitVec 32) (s : State) :
    Host.Outcome State Fault Refusal :=
  .next (if s.rst.loading then takeSegment seg payload crc s
    else if seg = 0xC0#8 ∧ !s.rst.inReset then takeCommon payload crc s
    else s)

/-! ### Measurement (R441 to R443) -/

/-- Word 0 of a log entry (R388). -/
def logWord (index comp : Nat) (ver : BitVec 32) : W64 := pack 64 [(0, index % 65536), (16, comp), (24, ver.toNat)]

/-- Appends an entry to the measurement log and chains its digest; a full log takes none (R441 to R443). -/
def measure (comp : Nat) (ver : BitVec 32) (d : BitVec 384) (s : State) : State :=
  if s.prot.log.length ≥ 1024 then s
  else
    let e := swapBytes (logWord s.prot.log.length comp ver) :: digestSplit d
    { s with prot := { s.prot with
        log := s.prot.log ++ [{ comp := BitVec.ofNat 8 comp, ver := ver, digest := d }]
        chain := sha384 (digestSplit s.prot.chain ++ e) } }

/-! ### Bring-up (R496, R497) -/

def State.setStep (s : State) (n : Nat) : State := { s with rst := { s.rst with step := n } }

/-- A boot image fails a check: under BOOT 01 the push starts again from word 0 with REJ set, otherwise bring-up
stops until the next reset (R498, R499). -/
def rejectImage (fail : BitVec 3) (s : State) : State :=
  if s.rst.bootSrc = 1 then
    { s with rst := { s.rst with fail := fail, rej := true, wait := true, pushed := [], pushN := 0, image := [],
                                 imageV := false, fwRun := false, step := 3 } }
  else { s with rst := { s.rst with fail := fail } }

/-- Step 2 ends: SLICEMASK becomes valid, residency counts from here, and step 3 begins: the ridge ports of a role
other than FREE start training and under BOOT 01 the boot ROM takes pushed words (R306, R496, R498, R507). -/
def endStep2 (s : State) : State :=
  let en := s.trimEnabled
  if en.isEmpty || s.rst.loading then s
  else if en.any (fun k => decide ((s.slice k).st = .poweringUp)) then s
  else
    let mask : W64 := BitVec.ofNat 64 (lsum (en.map (fun k => 2 ^ k)))
    let s := s.each en (fun s k => s.modSlice k (fun v => { v with since := s.now }))
    let s := { s with rst := { s.rst with sliceMask := mask, step := 3, wait := decide (s.rst.bootSrc = 1) } }
    if s.rst.role = roleFree then s
    else s.each (List.range s.gh.ridgePorts) (fun s r => s.modLink r (fun v => { v with st := .training, since := s.now }))

/-- Step 3 ends when the image is in sequencer RAM; under BOOT 00 the boot ROM copies it from the image ROM (R497). -/
def endStep3 (s : State) : State :=
  if s.rst.bootSrc = 0 then
    { s with rst := { s.rst with image := Config.romImage, imageV := true, step := 4 } }
  else if s.rst.imageV then s.setStep 4
  else s

/-- Step 4: the firmware is measured, then its header and size are checked, then it starts (R441, R497, R499). -/
def endStep4 (s : State) : State :=
  let img := s.rst.image
  let s := measure 1 (Config.fwVersion img) (digestWords (Config.fwPart img)) s
  if 57856 < img.length then rejectImage 2 s
  else
    match Config.imageCheck img with
    | .badImage => rejectImage 2 s
    | .badConfig => rejectImage 3 s
    | .good =>
      { s with rst := { s.rst with fwVer := Config.fwVersion img, fwRun := true, step := 5, stepFrom := s.time.cycles } }

/-- Step 5: the microcode image is measured, then checked, then loaded into the control store of every powered slice,
which takes 16,384 cycles. -/
def endStep5 (s : State) : State :=
  let img := s.rst.image
  let sound := Config.ucodeCheck (Config.ucPart img)
  if sound && decide (s.time.cycles < s.rst.stepFrom + 16384) then s
  else
  let s := measure 2 (Config.ucVersion img) (digestWords (Config.ucPart img)) s
  if sound then
    let from_ := s.time.cycles
    let s := { s with rst := { s.rst with ucVer := Config.ucVersion img, rej := false, fail := 0, step := 6, stepFrom := from_ } }
    s.each (List.range s.gh.slices) (fun s k => s.modSlice k (fun v =>
      if v.st = .on then { v with ucVer := Config.ucVersion img } else v))
  else rejectImage 2 s

/-- Step 6: every snoop-filter way of every powered slice is free, the home map has its reset placement over the
powered slices, the home cache is OFF; the clamps open; it takes 4,096 cycles (R42, R496, R505). -/
def endStep6 (s : State) : State :=
  if s.time.cycles < s.rst.stepFrom + 4096 then s
  else
  let up := s.enabledSlices.filter (fun k => decide ((s.slice k).st = .on))
  let s := { s with map := { s.map with base := up, g0 := [], g1 := [] }, rst := { s.rst with step := 7 } }
  s.each up (fun s k => s.modSlice k (fun v =>
    { v with sf := [], sfNru := [], sfRot := [], bank := .off, hcinit := false, clamped := false, wrapper := false }))

/-- BRINGUP_STEP_DONE: the step in progress is done and the next begins (R496). A failed image or no slice stops
bring-up (R495, R499). -/
def execBringupStepDone (s : State) : Host.Outcome State Fault Refusal :=
  .next (if s.rst.inReset || (s.rst.fail != 0 && s.rst.bootSrc != 1) then s
    else
      match s.rst.step with
      | 1 => if s.time.cycles < 64 then s else s.setStep 2
      | 2 => endStep2 s
      | 3 => endStep3 s
      | 4 => endStep4 s
      | 5 => endStep5 s
      | 6 => endStep6 s
      | 7 => s.setStep 8
      | 8 => { s with rst := { s.rst with step := 9, ready := true } }
      | _ => s)

/-- BOOT_IMAGE_FROM_PEER: under BOOT 10 a peer's hub sends the image it runs, over a ridge link that is LINKED or
JOINED (R497). -/
def execBootImageFromPeer (r : Nat) (words : List W64) (s : State) : Host.Outcome State Fault Refusal :=
  .next (if s.rst.step = 3 ∧ s.rst.bootSrc = 2 ∧ ((s.link r).st = .linked ∨ (s.link r).st = .joined) then
      { s with rst := { s.rst with image := words, imageV := true } }
    else s)

/-- BOOT_PUSH_HI: stores one word of the image while WAIT is 1, up to word 57,855 (R498). -/
def execBootPushHi (w : Window) (v : BitVec 32) (s : State) : Host.Outcome State Fault Refusal :=
  .next (mgmtOnly w (fun s =>
    if s.rst.wait && decide (s.rst.pushN < 57856) then
      { s with rst := { s.rst with pushed := s.rst.pushed ++ [v ++ s.rst.bootLo], pushN := s.rst.pushN + 1 } }
    else s) s)

/-- BOOTCTL_DONE: the pushed image is complete and the boot ROM proceeds to step 4 (R498). -/
def execBootctlDone (w : Window) (s : State) : Host.Outcome State Fault Refusal :=
  .next (mgmtOnly w (fun s =>
    if s.rst.wait then
      { s with rst := { s.rst with image := s.rst.pushed, imageV := true, wait := false, step := 4 } }
    else s) s)

/-- BOOTCTL_RESTART: discards every word pushed (R498). -/
def execBootctlRestart (w : Window) (s : State) : Host.Outcome State Fault Refusal :=
  .next (mgmtOnly w (fun s =>
    if s.rst.wait then { s with rst := { s.rst with pushed := [], pushN := 0 } } else s) s)

end Sys2Proof.Machine
end

