-- ==== Sys2Proof/Machine/Time.lean ====
section
/-! DEFINITION. Sys2Proof/Machine/Time.lean: package time: the records of the links, the calibration of their latency and offset,
the discipline of the count, and PTC_SYNC (R317 to R323, R407). -/

namespace Sys2Proof.Machine

/-- Whether the instance has a JOINED link. -/
def State.hasJoined (s : State) : Bool := (List.range s.gh.ridgePorts).any (fun r => decide ((s.link r).st = .joined))

/-- The count takes a new value by a step: every pending deadline shifts with it, and every link is UNCAL (R320, R323). -/
def stepTo (v : W64) (s : State) : State :=
  let s := s.each ((List.range s.gh.ridgePorts).filter (fun r => (s.link r).align != 0)) (fun s r =>
    s.modLink r (fun l => { l with align := 0, okRun := 0, badRun := 0 }))
  { s with time := { s.time with ptc := v, stepped := s.time.stepped + ((v.toNat : Int) - (s.time.ptc.toNat : Int)) } }

/-- Rank of a role as a time source: MASTER, STANDBY, SECONDARY (R319). -/
def roleRank (r : BitVec 2) : Nat := if r = roleMaster then 2 else if r = roleStandby then 1 else 0

/-- Whether instance `a` of role `ra` goes before instance `b` of role `rb` as the time source (R319). -/
def rolePrior (ra : BitVec 2) (a : Nat) (rb : BitVec 2) (b : Nat) : Bool :=
  decide (roleRank rb < roleRank ra) || (decide (roleRank rb = roleRank ra) && decide (a < b))

/-! ### TIME records (R288, R300, R306, R320) -/

/-- TIME_RECORD_SEND (R300): every 100,000 ticks. -/
def execTimeRecordSend (r : Nat) (s : State) : Host.Outcome State Fault Refusal :=
  let l := s.link r
  .next (if l.st.up && decide (l.timeNext ≤ s.now) then s.setLink r { l with ctlOut := l.ctlOut ++ [3], timeNext := s.now + 100000 } else s)

/-- Whether another port is the peer route to an instance (R288). -/
def State.otherRoute (s : State) (r i : Nat) : Bool :=
  (List.range s.gh.ridgePorts).any (fun q =>
    let l := s.link q
    q != r && l.peerV && l.peer.toNat == i && (decide (l.st = .linked) || decide (l.st = .joined) || decide (l.st = .retraining)))

/-- Whether this end takes its time from the peer before a join: the peer is the source of its package, and this end is the newcomer
that joins it, or the lesser of two newcomers (R319, R320). -/
def State.takesTime (s : State) (peer : Nat) (role : BitVec 2) (source : Bool) (members : BitVec 8) : Bool :=
  !s.hasJoined && source && (decide (members ≠ 1#8 <<< peer) || rolePrior role peer s.rst.role s.self)

/-- State code of a link (R305). -/
def linkCode : LinkSt → Nat
  | .off => 0
  | .training => 1
  | .linked => 2
  | .joined => 3
  | .retraining => 4
  | .failed => 5
  | .duplicate => 6

/-- From READY on, the hub sends the image that it runs to a peer on a LINKED link that is in no package yet, once after each training (R497;
log 103). -/
def offerImage (r : Nat) (peer : BitVec 3) (members : BitVec 8) (s : State) : State :=
  let l := s.link r
  if s.rst.ready && decide (l.st = .linked) && !l.imageSent && members == 1#8 <<< peer.toNat then
    (s.setLink r { l with imageSent := true }).sendMgt peer.toNat (.image s.rst.image)
  else s

/-- TIME_RECORD (R36, R288, R300, R306, R320). -/
def execTimeRecord (r : Nat) (s : State) : Host.Outcome State Fault Refusal :=
  let l := s.link r
  .next (match l.ctlIn with
    | [] => s
    | x :: rest =>
      if fld x 0 4 ≠ 3 ∨ !l.st.up then s
      else
        let peer : BitVec 3 := x.extractLsb' 68 3
        let role : BitVec 2 := x.extractLsb' 71 2
        let l := { l with ctlIn := rest }
        if peer = s.inst then failLink r 2 (s.setLink r { l with peer := peer, peerV := true })
        else
          let dup := decide (l.st = .linked) && s.otherRoute r peer.toNat
          let v := { l with peer := peer, peerV := true }
          let v := if dup then { v with st := .duplicate, joinWanted := false, joinCmd := none } else v
          let s : State := { s.setLink r v with pkg := { s.pkg with
            roles := tput peer.toNat role s.pkg.roles, configs := tput peer.toNat (x.extractLsb' 82 2) s.pkg.configs } }
          let s := if dup then retryBringups (s.endCmd l.joinCmd stConflict (linkCode .duplicate) []) else s
          let s := offerImage r peer (x.extractLsb' 84 8) s
          if l.st = .linked ∧ l.calSteps = 0 ∧ s.takesTime peer.toNat role (x.getLsbD 73) (x.extractLsb' 84 8) then
            stepTo (x.extractLsb' 4 64) (s.modLink r (fun l => { l with calSteps := 1 }))
          else s)

/-! ### CAL records (R321, R323) -/

/-- The mean of a window in 1/16 tick, rounded towards zero, when it has at least 64 samples (R321; log 56). -/
def Ridge.mean (l : Ridge) : Option Int := if 64 ≤ l.num then some (Int.tdiv (16 * l.sum) (l.num : Int)) else none

/-- An estimate as a CAL record carries it (R300). -/
def encodeEst : Option Int → Nat
  | none => 0x800000
  | some v => (BitVec.ofInt 24 v).toNat

/-- The estimate of a CAL record (R300). -/
def decodeEst (v : BitVec 24) : Option Int := if v = 0x800000#24 then none else some v.toInt

/-- A link's alignment becomes LOST (R323). -/
def alignLost (r : Nat) (s : State) : State :=
  if (s.link r).align = 3 then s else raise (ridgeEv 0x1E r 0 s) (s.modLink r (fun l => { l with align := 3 }))

/-- CAL_WINDOW_END (R321): at each multiple of 2,048 ticks. A window without a θ breaks a run of consecutive windows; eight of them lose the
alignment (R323). DESIGN CHOICE (log 97): WIN of the window that ends at tick 2,048 × (n + 1) is n; R300 gives no formula for it. -/
def execCalWindowEnd (r : Nat) (s : State) : Host.Outcome State Fault Refusal :=
  let l := s.link r
  let win : BitVec 16 := BitVec.ofNat 16 (s.ptcNow / 2048 - 1)
  .next (if l.st.up && decide (s.ptcNow % 2048 = 0) && decide (l.win ≠ some win) then
      let rec_ : BitVec 128 := pack 128 [(0, 2), (4, encodeEst l.mean), (28, Nat.min l.num 65535), (44, win.toNat)]
      let v := { l with ctlOut := l.ctlOut ++ [rec_], mIn := l.mean, win := some win, sum := 0, num := 0, noneRun := l.noneRun + 1 }
      let v := if l.noneRun = 0 then v else { v with okRun := 0, badRun := 0 }
      let s := s.setLink r v
      if 8 < v.noneRun then alignLost r s else s
    else s)

/-- A new θ changes the alignment state of a link (R323). -/
def alignBy (r : Nat) (theta : Int) (s : State) : State :=
  let l := s.link r
  let n := theta.natAbs
  let v := { l with noneRun := 0, okRun := if n ≤ 32 then l.okRun + 1 else 0, badRun := if 128 < n then l.badRun + 1 else 0 }
  let s := s.setLink r v
  if 4 ≤ v.okRun then
    let s := s.modLink r (fun l => { l with align := 1 })
    if l.align = 3 then raise (ridgeEv 0x1F r 0 s) s else s
  else if 2 ≤ v.badRun then alignLost r s
  else if l.align = 1 ∧ 32 < n ∧ n ≤ 128 then s.modLink r (fun l => { l with align := 2 })
  else s

/-- Rounds 1/16 ticks to the nearest tick. -/
def nearest (v : Int) : Int := (v + 8) / 16

/-- What a θ does to the count: the second step before a join, or the next corrections (R320, R321). -/
def useTheta (r : Nat) (theta : Int) (s : State) : State :=
  let l := s.link r
  if l.calSteps = 1 ∧ !s.hasJoined then
    let v : Int := (s.time.ptc.toNat : Int) + nearest theta
    stepTo (BitVec.ofInt 64 v) (s.modLink r (fun l => { l with calSteps := 2, okRun := 0, badRun := 0 }))
  else if s.pkg.timeSrc ≠ s.inst ∧ l.peer = s.pkg.timeSrc ∧ s.peerPort l.peer.toNat = some r then
    let c := theta.tdiv 16
    { s with time := { s.time with corrN := Nat.min c.natAbs 2, corrUp := decide (0 < c) } }
  else s

/-- CAL_RECORD (R321). -/
def execCalRecord (r : Nat) (s : State) : Host.Outcome State Fault Refusal :=
  let l := s.link r
  .next (match l.ctlIn with
    | [] => s
    | x :: rest =>
      if fld x 0 4 ≠ 2 ∨ !l.st.up then s
      else
        let s := s.setLink r { l with ctlIn := rest }
        match l.mIn, decodeEst (x.extractLsb' 4 24) with
        | some a, some b =>
          if some (x.extractLsb' 44 16) = l.win then
            let theta := (b - a).tdiv 2
            let lam := (b + a).tdiv 2
            useTheta r theta (alignBy r theta (s.modLink r (fun l => { l with theta := some theta, lam := lam })))
          else s
        | _, _ => s)

/-! ### The count (R318, R321) -/

/-- TIME_CORRECTION (R321): at a multiple of 1,000 ticks a tick is added, or the next one is omitted. -/
def execTimeCorrection (s : State) : Host.Outcome State Fault Refusal :=
  .next (if s.ptcNow % 1000 = 0 ∧ 0 < s.time.corrN ∧ s.time.corrAt ≠ some s.time.ptc then
      let t := { s.time with corrN := s.time.corrN - 1, corrAt := some s.time.ptc }
      { s with time := if t.corrUp then { t with ptc := t.ptc + 1 } else { t with omit_ := true } }
    else s)

/-- PTC_SYNC_FRAME (R318). The start bit is bit 73 of the operand, the stop bit is bit 0. -/
def execPtcSyncFrame (frame : BitVec 74) (s : State) : Host.Outcome State Fault Refusal :=
  let v : W64 := frame.extractLsb' 9 64
  .next (if s.rst.inReset ∨ s.rst.role ≠ roleMaster ∨ frame.getLsbD 73 ∨ !(frame.getLsbD 0) then s
    else if crc8 v ≠ frame.extractLsb' 1 8 then { s with time := { s.time with syncBad := satAdd s.time.syncBad 1 } }
    else if !s.time.syncSeen && !s.hasJoined then
      let s := stepTo v s
      { s with time := { s.time with syncSeen := true, loaded := true } }
    else
      let s := { s with time := { s.time with syncSeen := true } }
      if v = s.time.ptc then s
      else
        let d : BitVec 56 := BitVec.ofInt 56 ((v.toNat : Int) - (s.time.ptc.toNat : Int))
        raise { src := 0x20, detail := .misc 1 d.toNat, acc := accInt } s)

/-! ### PTC_STATUS and RIDGE_STATE (R405, R407) -/

/-- θ of a link in a 24-bit field; zero when there is none. -/
def Ridge.thetaField (l : Ridge) : Nat :=
  match l.theta with
  | some t => (BitVec.ofInt 24 t).toNat
  | none => 0

/-- λ of a link in a 24-bit field; zero when there is no θ. -/
def Ridge.lamField (l : Ridge) : Nat := if l.theta.isSome then (BitVec.ofInt 24 l.lam).toNat else 0

/-- PTC_STATUS (R407). -/
def execPtcStatus (c : Nat) (s : State) : Host.Outcome State Fault Refusal :=
  .next (runCmd c 0x4A (fun _ => true) (fun k s =>
    let w2 : W64 := pack 64 [(0, s.rst.role.toNat), (2, s.pkg.timeSrc.toNat), (5, b2n (s.pkg.timeSrc == s.inst)), (6, b2n s.time.loaded),
      (8, s.time.syncBad.toNat)]
    let port (r : Nat) : W64 :=
      let l := s.link r
      if r < s.gh.ridgePorts ∧ l.theta.isSome then
        pack 64 [(0, l.thetaField), (24, l.lamField), (48, l.align.toNat), (50, 1)]
      else 0
    finish k stOk 0 (s.time.ptc :: w2 :: (List.range 8).map port) s) s)

/-- RIDGE_STATE (R405). -/
def execRidgeState (c : Nat) (s : State) : Host.Outcome State Fault Refusal :=
  .next (runCmd c 0x48 (fun _ => true) (fun k s =>
    let l := s.link k.tgt
    let w1 : W64 := pack 64 [(0, linkCode l.st), (3, l.peer.toNat), (6, b2n l.peerV), (8, l.align.toNat), (10, l.refuse.toNat),
      (16, l.rate.toNat), (24, l.thetaField), (48, b2n l.theta.isSome)]
    finish k stOk 0 [w1, pack 64 [(0, l.lamField)], l.replays ++ l.crcErr, l.discard.setWidth 64] s) s)

end Sys2Proof.Machine
end

