-- ==== Sys2Proof/Machine/Policy.lean ====
section
/-! DEFINITION. Sys2Proof/Machine/Policy.lean: epochs, the decisions of the policies, and regroups (06, R401 to R403). -/

namespace Sys2Proof.Machine

/-! ### Epochs (R170, R171, R173) -/

/-- EPOCH_LEN in ticks (R170). -/
def State.epochLen (s : State) : Nat := s.pol.epochMs * 1000000

/-- The number of the current epoch (R175). -/
def State.epoch (s : State) : Nat := s.ptcNow / s.epochLen

/-- The calibration master: the joined instance with the lowest ID (R172). -/
def State.calMaster (s : State) : Nat := (leastBelow (fun i => s.isMember i || i == s.self) 8).getD s.self

/-- A slice copies its calibration counters and sample table and clears them (R171). -/
def Slice.takeSnapshot (v : Slice) : Slice := { v with snap := v.calib, calib := {} }

/-- Whether a link of this instance to a joined instance is failed or retraining (R172). -/
def State.linkDown (s : State) : Bool :=
  (List.range s.gh.ridgePorts).any (fun r =>
    let l := s.link r
    l.peerV && s.isMember l.peer.toNat && (decide (l.st = .retraining) || decide (l.st = .failed)))

/-- The counting period ends (R171, R173). DESIGN CHOICE (log 60): the read utilisation of a memory port, which R190 does not define, is the
MRds presented at it over the CCLK cycles of the period. -/
def endPeriod (s : State) : State :=
  let bad := s.linkDown
  let reads := lmax ((List.range s.gh.memPorts).map (fun m => (s.mp m).readUtil))
  let s := s.each s.powered (fun s k => s.modSlice k Slice.takeSnapshot)
  let s := s.each (List.range s.gh.memPorts) (fun s m => if (s.mp m).readUtil = 0 then s else s.modMp m (fun x => { x with readUtil := 0 }))
  { s with pol := { s.pol with snapDue := true, lastB := s.ptcNow, linkBad := bad, readSnap := (reads, s.time.cycles - s.pol.readFrom),
                               readFrom := s.time.cycles } }

/-- Whether every salvage has finished and no shingle is OPEN_EAVES (R221). -/
def State.recovered (s : State) : Bool :=
  (List.range s.gh.slices).all (fun k => match s.salv k with
    | some x => x.phase == 0 || x.phase == 4
    | none => true) && (List.range 4096).all (fun sh => s.shState sh != hmOpen)

/-- The periods of NRU mode that end at an epoch boundary, and the return to RANDOM mode when none is left (R221). -/
def endRepl (boundary : Nat) (s : State) : State :=
  let start := match s.pol.startFrom with
    | some f => if f + s.epochLen ≤ boundary then none else some f
    | none => none
  let recovery := s.pol.recovery && !s.recovered
  let s := { s with pol := { s.pol with startFrom := start, recovery := recovery } }
  if start.isSome || recovery || s.rst.test then s else setRepl false 4 s

/-- The first multiple of a span of milliseconds after a tick. -/
def multipleAfter (t ms : Nat) : Nat := (t / (ms * 1000000) + 1) * (ms * 1000000)

/-- The boundary after a tick: of the length in force, or the first of a length that waits for it (R170). -/
def boundaryOf (ms : Nat) (new : Option Nat) (t : Nat) : Nat :=
  match new with
  | some m => Nat.min (multipleAfter t ms) (multipleAfter t m)
  | none => multipleAfter t ms

def State.boundaryAfter (s : State) (t : Nat) : Nat := boundaryOf s.pol.epochMs s.pol.epochNew t

/-- A new EPOCH_LEN takes effect at a boundary of its own grid (R170, R402). -/
def useEpoch (boundary : Nat) (s : State) : State :=
  match s.pol.epochNew with
  | some m =>
    if boundary % (m * 1000000) = 0 then
      let old := s.pol.epochMs
      let c := s.pol.epochCmd
      let s : State := { s with pol := { s.pol with epochMs := m, epochNew := none, epochCmd := none } }
      let s := if m = old then s else policyEvent 1 0x30 0xFF 0 old m s
      s.endCmd c stOk 0 []
    else s
  | none => s

/-- EPOCH_BOUNDARY (R170, R171, R221). An early end leaves the epoch grid as it is (R173). -/
def execEpochBoundary (early : Bool) (s : State) : Host.Outcome State Fault Refusal :=
  .next (if early then endPeriod s
    else if s.pol.epochNext ≤ s.ptcNow then
      let b := s.pol.epochNext
      let s := useEpoch b (endPeriod (endRepl b s))
      { s with pol := { s.pol with epochs := s.pol.epochs + 1, epochNext := s.boundaryAfter s.ptcNow } }
    else s)

/-! ### The local decisions (R189 to R193) -/

/-- Whether an adaptive threshold is lowered, raised or kept (R189). `q`: the spurious share in percent, as a fraction. -/
def thresholdStep (v : Slice) (num den : Nat) : Nat :=
  let total := Nat.max 1 v.snap.biTotal.toNat
  let refill := v.snap.biRefill.toNat
  if v.thrHist % 4 ≠ 0 then v.thr
  else if total ≤ 4 * refill ∧ 2 * num < den ∧ v.thrMin < v.thr then v.thr - 1
  else if (20 * refill ≤ total ∨ 3 * den ≤ 4 * num) ∧ v.thr < v.thrMax then v.thr + 1
  else v.thr

/-- The spurious share of a slice's discovery snoops, as a fraction; with no sample the spec gives none (R189, log 28). -/
def spuriousShare (k boundary : Nat) (l : List Sample) : Nat × Nat :=
  let den := lsum (l.map (fun x => x.ssize))
  if den = 0 then (Config.emptyShare k boundary, 100) else (lsum (l.map (fun x => x.ssize - x.hcnt)), den)

/-- Decides the threshold of a slice; in one that is not powered T stays, which counts as a boundary without a change (R189). DESIGN CHOICE
(log 60): the decisions of CALIBRATE_NOW (R173) count as a boundary among the last 2. -/
def decideThreshold (s : State) (k : Nat) : State :=
  let v := s.slice k
  if v.st ≠ .on ∧ v.thrHist = 0 then s
  else if v.thrPin ∨ v.st ≠ .on then s.setSlice k { v with thrHist := 2 * v.thrHist % 4 }
  else
    let q := spuriousShare k s.pol.lastB v.snap.samples
    let n := thresholdStep v q.1 q.2
    let s := s.setSlice k { v with thr := n, thrHist := (2 * v.thrHist + b2n (n != v.thr)) % 4 }
    if n = v.thr then s else policyEvent 3 0x10 k 0 v.thr n s

/-- Sum of a table of calibration counters over the slices. -/
def State.sumOf (s : State) (f : Calib → Nat) : Nat := lsum (s.powered.map (fun k => f (s.slice k).snap))

/-- The speculation bit of an AID range after a boundary (R190). -/
def specStep (old : Bool) (snp rspi reads cycles : Nat) : Bool :=
  if snp < 64 then old
  else if snp ≤ 8 * rspi ∧ 100 * reads < 70 * cycles then true
  else if 16 * rspi < snp ∨ 85 * cycles ≤ 100 * reads then false
  else old

/-- Decides the speculation bit of a range (R190). -/
def decideSpec (s : State) (n : Nat) : State :=
  if bit s.pol.specPin n then s
  else
    let old := bit s.pol.specBits n
    let at_ (f : Calib → Tbl (BitVec 32)) : Nat := s.sumOf (fun c => (tget (fun _ => 0) (f c) n).toNat)
    let new := specStep old (at_ (fun c => c.specSnp)) (at_ (fun c => c.specRspI)) s.pol.readSnap.1 s.pol.readSnap.2
    if new = old then s
    else policyEvent 4 0x11 n 0 (b2n old) (b2n new) { s with pol := { s.pol with specBits := s.pol.specBits ^^^ (1#128 <<< n) } }

/-- The insertion mode after a boundary, within its bounds (R191, R197). -/
def streamStep (old fills hits lo hi : Nat) : Nat :=
  let want := if fills < 1024 then old else if 32 * hits < fills then 2 else if 4 * hits < fills then 1 else 0
  Nat.max lo (Nat.min hi want)

/-- Decides the insertion mode of streaming fills (R191). -/
def decideStream (s : State) : State :=
  if s.pol.streamPin then s
  else
    let n := streamStep s.pol.stream (s.sumOf (fun c => c.sfill.toNat)) (s.sumOf (fun c => c.shit.toNat)) s.pol.streamMin s.pol.streamMax
    if n = s.pol.stream then s
    else policyEvent 5 0x12 0xFF 0 s.pol.stream n { s with pol := { s.pol with stream := n } }

/-! ### Gating (R192, R193, R198) -/

/-- The fraction of a slice's slots that were not STARVED_FRONT, and its STARVED_BACK fraction (R193). -/
def Slice.busyShare (v : Slice) : Rat := (v.snap.busy : Rat) / (v.snap.span : Rat)
def Slice.backShare (v : Slice) : Rat := (v.snap.back : Rat) / (v.snap.span : Rat)

/-- The pairs whose slices are both in a state and meet residency (R192). -/
def State.pairsReady (s : State) (st : SlState) : List Nat :=
  (List.range (s.gh.slices / 2)).filter (fun j =>
    let ok (k : Nat) : Bool := decide ((s.slice k).st = st) && s.residencyLeft k == 0
    ok (2 * j) && ok (2 * j + 1))

/-- The unpowered pair that is powered up next: the longest residency, the lowest number on a tie (R193). -/
def State.nextUp (s : State) : Option Nat := leastOf (fun j => Nat.max (s.slice (2 * j)).since (s.slice (2 * j + 1)).since) (s.pairsReady .off)

/-- The pair of a list with the least summed busy share, the highest number on a tie (R193). -/
def leastBusy (f : Nat → Rat) : List Nat → Option Nat
  | [] => none
  | a :: l =>
    match leastBusy f l with
    | none => some a
    | some b => if f a < f b then some a else some b

/-- The powered pair that is powered down next (R193). -/
def State.nextDown (s : State) : Option Nat :=
  leastBusy (fun j => (s.slice (2 * j)).busyShare + (s.slice (2 * j + 1)).busyShare) (s.pairsReady .on)

/-- Starts a gating action (R193). -/
def startGate (pair : Nat) (up : Bool) (s : State) : State := { s with pol := { s.pol with gating := some { pair := pair, up := up } } }

/-- Goes on with the gating action in progress, or starts the one that the value or the bounds of policy GATING ask for, when one may start
(R192, R194, R195, R197, R198). -/
def driveGate (s : State) : State :=
  let n := s.poweredPairs.length
  let want := if s.pol.gatePin then s.pol.gateVal else Nat.max s.pol.gateMin (Nat.min s.gateMaxOf n)
  if s.pol.gating.isSome then gateOn s
  else if !s.rst.ready || want == n || s.gateHeld then s
  else if n < want then
    match s.nextUp with
    | some j => startGate j true s
    | none => s
  else
    match s.nextDown with
    | some j => startGate j false s
    | none => s

/-- What the boundary decides about gating: an action for an adaptive instance (R193). DESIGN CHOICE (log 94): with N = 2, where the rule divides by
zero, L × N / (N − 2) is taken as 0, below 50%. -/
def decideGating (s : State) : State :=
  let ks := s.powered
  let n : Rat := (ks.length : Rat)
  let sum : Rat := (ks.map (fun k => (s.slice k).busyShare)).foldl (· + ·) 0
  let load := sum / n
  let back (lim : Rat) : Bool := ks.any (fun k => decide (lim < (s.slice k).backShare))
  let pairs := s.poweredPairs.length
  let low := decide (load * n / (n - 2) < 1 / 2) && !(back (1 / 10))
  let s := { s with pol := { s.pol with lowRun := if low then s.pol.lowRun + 1 else 0 } }
  if s.pol.gatePin || s.pol.gating.isSome || s.gateHeld then s
  else if (7 / 10 < load ∨ back (1 / 5)) ∧ pairs < s.gateMaxOf then
    match s.nextUp with
    | some j => startGate j true s
    | none => s
  else if 10 ≤ s.pol.lowRun ∧ s.pol.gateMin < pairs then
    match s.nextDown with
    | some j => startGate j false s
    | none => s
  else s

/-! ### Regroups: the candidate map (R180, R181) -/

/-- A sample as the master counts it: HCNT and the holders named (R177). -/
abbrev Held := Nat × List (BitVec 11)

/-- Samples whose holders include both of two agents (R180). -/
def weight (ss : List Held) (x y : Nat) : Nat :=
  (ss.filter (fun h => h.2.contains (BitVec.ofNat 11 x) && h.2.contains (BitVec.ofNat 11 y))).length

/-- Sum of the weights between two clusters (R180). -/
def linkWeight (ss : List Held) (a b : List Nat) : Nat := lsum (a.flatMap (fun x => b.map (weight ss x)))

/-- Lowest AID of a cluster; clusters are kept in ascending order. -/
def lowest (c : List Nat) : Nat := c.headD 0

/-- Puts a cluster into a list kept in order of lowest AIDs. -/
def putCluster (c : List Nat) : List (List Nat) → List (List Nat)
  | [] => [c]
  | d :: l => if lowest c < lowest d then c :: d :: l else d :: putCluster c l

/-- The first element of a list with the greatest key. -/
def firstMost {α : Type} (key : α → Nat) (l : List α) : Option α :=
  l.foldl (fun b x => match b with
    | none => some x
    | some y => if key y < key x then some x else some y) none

/-- The pairs of clusters of a list, by the lowest AID. DESIGN CHOICE (log 82): tied pairs that share their lowest AID stand in the order of the
second cluster's lowest AID. -/
def clusterPairs : List (List Nat) → List (List Nat × List Nat)
  | [] => []
  | c :: l => l.map (fun d => (c, d)) ++ clusterPairs l

/-- Merges the pair of clusters with the largest weight, while one qualifies and more than `k` clusters are left (R180). -/
def mergeClusters (ss : List Held) (cap k : Nat) : Nat → List (List Nat) → List (List Nat)
  | 0, cs => cs
  | n + 1, cs =>
    if cs.length ≤ k then cs
    else
      let good := (clusterPairs cs).filter (fun x => decide (x.1.length + x.2.length ≤ cap) && decide (0 < linkWeight ss x.1 x.2))
      match firstMost (fun x => linkWeight ss x.1 x.2) good with
      | none => cs
      | some (a, b) =>
        mergeClusters ss cap k n (putCluster (ascending (a ++ b)) (cs.filter (fun c => c != a && c != b)))

/-- Adds an agent to the cluster with the most room (R180). -/
def addRoomy (cap : Nat) (cs : List (List Nat)) (x : Nat) : List (List Nat) :=
  match firstMost (fun c => cap - c.length) cs with
  | none => [[x]]
  | some c => putCluster (ascending (x :: c)) (cs.filter (fun d => d != c))

/-- Dissolves the smallest clusters until `k` are left (R180). -/
def dissolve (cap k : Nat) : Nat → List (List Nat) → List (List Nat)
  | 0, cs => cs
  | n + 1, cs =>
    if cs.length ≤ k then cs
    else
      match firstMost (fun c => 2048 - c.length) cs with
      | none => cs
      | some z => dissolve cap k n (z.foldl (addRoomy cap) (cs.filter (fun c => c != z)))

/-- Members of a cluster that a bundle holds. -/
def inBundle (bundle : Nat → Nat) (c : List Nat) (b : Nat) : Nat := (c.filter (fun x => bundle x == b)).length

/-- Gives each cluster a bundle of the budget, a different one each (R180). DESIGN CHOICE (log 82): where clusters want the same bundle, the
pair of a cluster and a bundle with the most members over all clusters goes first. -/
def giveBundles (bundle : Nat → Nat) : Nat → List (List Nat) → List Nat → List (List Nat × Nat)
  | 0, _, _ => []
  | n + 1, cs, bs =>
    match firstMost (fun x => inBundle bundle x.1 x.2) (cs.flatMap (fun c => bs.map (fun b => (c, b)))) with
    | none => []
    | some (c, b) => (c, b) :: giveBundles bundle n (cs.filter (fun d => d != c)) (bs.filter (fun d => d != b))

/-- The clusters of the present agents of one partition with the bundles they are given (R180). -/
def clustersOf (ss : List Held) (bundle : Nat → Nat) (agents budget : List Nat) : List (List Nat × Nat) :=
  let k := budget.length
  if k = 0 ∨ agents.isEmpty then []
  else
    let cap := (agents.length + k - 1) / k
    let cs := mergeClusters ss cap k agents.length (agents.map (fun a => [a]))
    let cs := dissolve cap k cs.length cs
    giveBundles bundle cs.length cs budget

/-- Present AIDs, in ascending order. -/
def State.presentAids (s : State) : List Nat := s.pkg.agents.map (fun x => x.1)

/-- The candidate map as clusters with their bundles, of every partition (R180). -/
def State.candidateMap (s : State) (ss : List Held) : List (List Nat × Nat) :=
  (List.range 16).flatMap (fun p =>
    clustersOf ss (s.pol.bundle s.pol.curgen) (s.presentAids.filter (fun a => (s.partOf a).toNat == p)) (budgetOf s.partOf p))

/-- Estimated cost of a map (R181). -/
def mapCost (present : List Nat) (bundle : Nat → Nat) (ss : List Held) : Int :=
  (ss.map (fun h =>
    let bs := ascending (h.2.map (fun a => bundle a.toNat))
    ((present.filter (fun a => bs.contains (bundle a))).length : Int) - (h.1 : Int))).foldl (· + ·) 0

/-- A map with some agents moved to a bundle. -/
def movedTo (bundle : Nat → Nat) (l : List (Nat × Nat)) (a : Nat) : Nat :=
  match l.find? (fun x => x.1 == a) with
  | some x => x.2
  | none => bundle a

/-- Applies the moves of the candidate map, cluster by cluster, in descending order of the cost each saves, up to MAXMOVE (R181). -/
def applyMoves (maxMove : Nat) : List (List (Nat × Nat)) → List (Nat × Nat) → List (Nat × Nat)
  | [], acc => acc
  | m :: l, acc => if maxMove < acc.length + m.length then acc else applyMoves maxMove l (acc ++ m)

/-- Inserts by descending key; equal keys keep their order. -/
def insertDown {α : Type} (key : α → Int) (x : α) : List α → List α
  | [] => [x]
  | y :: l => if key y < key x then x :: y :: l else y :: insertDown key x l

/-- Whether an AID was moved in the last HOLD epochs before the boundary of the computation (R181). -/
def State.heldAid (s : State) (a : Nat) : Bool :=
  match s.pol.movedAt.find? (fun x => x.1 == a) with
  | some x => decide (0 < s.pol.hold) && decide (s.pol.rgEpochs ≤ x.2 + s.pol.hold)
  | none => false

/-- The moves of a regroup and the costs of the current and the new map (R181). DESIGN CHOICE (log 82): what a cluster saves is measured on the
current map with its own moves alone, without those of the clusters applied before it. -/
def State.regroupMoves (s : State) (ss : List Held) : List (Nat × Nat) × Int × Int :=
  let b := s.pol.bundle s.pol.curgen
  let present := s.presentAids
  let cur := mapCost present b ss
  let moves (c : List Nat × Nat) : List (Nat × Nat) := (c.1.filter (fun a => b a != c.2 && !(s.heldAid a))).map (fun a => (a, c.2))
  let saves (m : List (Nat × Nat)) : Int := cur - mapCost present (movedTo b m) ss
  let l := ((s.candidateMap ss).map moves).filter (fun m => !m.isEmpty)
  let ms := applyMoves s.pol.maxMove (l.foldl (fun acc m => insertDown saves m acc) []) []
  (ms, cur, mapCost present (movedTo b ms) ss)

/-- Whether a regroup goes ahead (R181). -/
def State.gains (s : State) (cur new : Int) : Bool :=
  decide (new < cur) && decide ((s.pol.gainMin : Int) ≤ cur - new) && decide ((s.pol.hyst : Int) * cur ≤ 100 * (cur - new))

/-! ### The course of a regroup (R179, R182 to R185) -/

/-- A regroup that is not computed, or comes to nothing (R179, R199). -/
def skipRegroup (reason : Nat) (s : State) : State := policyEvent 2 0x02 0xFF reason 0 (s.epoch % 65536) s

/-- Ends the CALIBRATE_NOWs of a list (R403). -/
def endCals (named : Bool) (l : List Nat) (s : State) : State := l.foldl (fun s c => s.endCmd (some c) stOk (b2n named) []) s

/-- Ends the CALIBRATE_NOWs whose regroup has been computed: its flip is named, or it comes to nothing (R403). -/
def endCalibrate (named : Bool) (s : State) : State := endCals named s.pol.calRuns { s with pol := { s.pol with calRuns := [] } }

/-- The decisions of a shortened period are made: where a regroup is computed, its outcome decides the reply (R403). -/
def calDecided (computes : Bool) (s : State) : State :=
  let l := s.pol.calCmds
  let p := { s.pol with calCmds := [] }
  if computes then { s with pol := { p with calRuns := p.calRuns ++ l } } else endCals false l { s with pol := p }

/-- Whether an AID's bundle is outside the budget of its partition: the partition table and the current map differ (R179). -/
def State.mapStale (s : State) : Bool :=
  let z := budgetSizes s.partOf
  let first (p : Nat) : Nat := lsum (z.take p)
  (List.range 2048).any (fun a =>
    let p := (s.partOf a).toNat
    let b := s.pol.bundle s.pol.curgen a
    decide (b < first p) || decide (first p + z.getD p 0 ≤ b))

/-- Why no regroup is computed at this boundary, 0 when one is (R172, R179, R183, R438). In a transition it is 6. DESIGN CHOICE (log 60): where
several others hold at once the first of 7, 1, 2, 3 and 6 is reported. -/
def State.regroupReason (s : State) : Nat :=
  if s.prot.trans then 6
  else if decide (s.pol.rg = .computing) then 7
  else if s.pol.regroupPin then 1
  else if !s.pol.otherFree || decide (s.pol.rg ≠ .idle) then 2
  else if s.pol.linkBad then 3
  else if s.mapStale then 6
  else 0

/-- The instance's own samples of a boundary (R172). -/
def State.ownSamples (s : State) : List Sample := s.powered.flatMap (fun k => (s.slice k).snap.samples)

/-- A table of per-bundle sums over the slices (R172). -/
def State.bundleSums (s : State) (f : Calib → Tbl (BitVec 32)) : Tbl (BitVec 32) :=
  (List.range 64).foldl (fun t b =>
    tset (fun _ => 0) b (BitVec.ofNat 32 (Nat.min (s.sumOf (fun c => (tget (fun _ => 0) (f c) b).toNat)) (2 ^ 32 - 1))) t) []

/-- What the master does at a boundary: it begins a regroup computation, or skips it (R179, R183). -/
def beginRegroup (s : State) : State :=
  let r := s.regroupReason
  if r ≠ 0 then calDecided false (skipRegroup r s)
  else calDecided true { s with pol := { s.pol with rg := .computing, rgFrom := s.pol.lastB, rgEpochs := s.pol.epochs, rgForced := false, rgSamples := s.ownSamples } }

/-- What the summaries of the other instances tell the master: a link of one of them was failed or retraining at the boundary (R172). -/
def State.peersBad (s : State) : Bool := decide (s.calMaster = s.self) && !s.peers.isEmpty && Config.peerLinksBad s.pol.lastB

/-- CALIBRATION_DECISIONS (R171, R172). -/
def execCalibrationDecisions (s : State) : Host.Outcome State Fault Refusal :=
  .next (if s.pol.snapDue then
      let s := { s with pol := { s.pol with snapDue := false, linkBad := s.pol.linkBad || s.peersBad } }
      let s := (List.range s.gh.slices).foldl decideThreshold s
      let s := (List.range 128).foldl decideSpec s
      let s := driveGate (decideGating (decideStream s))
      if s.calMaster = s.self then beginRegroup s
      else calDecided false <| s.sendMgt s.calMaster (.summary (s.bundleSums (fun c => c.sent)) (s.bundleSums (fun c => c.spur)) s.ownSamples s.pol.linkBad)
    else s)

/-- A sample with the holders that its entry names: the first eight (R177). -/
def Sample.held (x : Sample) : Held := (x.hcnt, x.holders.take 8)

/-- The map of the current generation with some AIDs moved. -/
def PolSt.moveAids (p : PolSt) (l : List (Nat × Nat)) : Tbl (BitVec 6) :=
  l.foldl (fun t x => tset (fun a => BitVec.ofNat 6 (a / 32)) x.1 (BitVec.ofNat 6 x.2) t) (if p.curgen then p.map1 else p.map0)

/-- Writes a map into the inactive generation (R184). -/
def PolSt.writeMap (p : PolSt) (m : Tbl (BitVec 6)) : PolSt := if p.curgen then { p with map0 := m } else { p with map1 := m }

/-- Bundle of an AID in a map. -/
def bundleIn (m : Tbl (BitVec 6)) (a : Nat) : Nat := (tget (fun x => BitVec.ofNat 6 (x / 32)) m a).toNat

/-- Whether every bundle of a map is pure under a partition table (R143). -/
def pureUnder (part : Nat → BitVec 4) (m : Tbl (BitVec 6)) : Bool :=
  let step (x : List (Option (BitVec 4)) × Bool) (a : Nat) : List (Option (BitVec 4)) × Bool :=
    match x.1.getD (bundleIn m a) none with
    | none => (x.1.set (bundleIn m a) (some (part a)), x.2)
    | some p => (x.1, x.2 && p == part a)
  ((List.range 2048).foldl step (List.replicate 64 none, true)).2

/-- The map that a forced regroup rebuilds from the new partition table (R178, R187). -/
def State.newMap (s : State) : Tbl (BitVec 6) := formMap s.newPartOf

/-- Whether a map is that of the forced regroup of the transition under way (R187, R440). -/
def State.forcedMap (s : State) (m : Tbl (BitVec 6)) : Bool :=
  s.prot.trans && (List.range 2048).any (fun a => s.newPartOf a != s.partOf a) && (List.range 2048).all (fun a => bundleIn m a == bundleIn s.newMap a)

/-- Whether every bundle of a map is pure under the partition table in force once the map is current (R143, R440). -/
def State.mapPure (s : State) (m : Tbl (BitVec 6)) : Bool := if s.forcedMap m then pureUnder s.newPartOf m else pureUnder s.partOf m

/-- The regroup under way comes to nothing (R182, R199, R403, R438). -/
def dropRegroup (reason : Nat) (s : State) : State :=
  endCalibrate false (skipRegroup reason { s with pol := { s.pol with rg := .idle, rgSamples := [] } })

/-- The new map goes to every slice of every joined instance, into the inactive generation; each acknowledges it (R16, R184). An instance whose
membership is still to come receives it after the flip (R186). -/
def writeNewMap (m : Tbl (BitVec 6)) (s : State) : State :=
  let others := s.joinedPeers.filter (fun i => !(s.isMember i))
  let late := others.foldl (fun v i => v ||| (1#8 <<< i)) s.pol.lateMaps
  let s : State := { s with pol := { s.pol.writeMap m with rg := .written, rgMap := m, rgSamples := [], lateMaps := late
                                                           rgAwait := s.pkg.members ||| (1#8 <<< s.self) } }
  let s := s.slicesUp.foldl (fun s k => s.sendHub .mgt hubAt (k, portSlice) .write) s
  s.toPeers (.bundleMap m)

/-- REGROUP_COMPUTE_DONE (R180, R181, R184, R438): the new map is written, or the regroup is skipped. -/
def execRegroupComputeDone (more : List (Nat × List (BitVec 11))) (s : State) : Host.Outcome State Fault Refusal :=
  .next (if s.pol.rg = .computing then
      let ss := s.pol.rgSamples.map Sample.held ++ more
      let m := s.regroupMoves ss
      if s.prot.trans then dropRegroup 6 s
      else if s.gains m.2.1 m.2.2 then writeNewMap (s.pol.moveAids m.1) { s with pol := { s.pol with rgMoves := m.1.length } }
      else dropRegroup 4 s
    else s)

/-- REGROUP_TIMEOUT (R182). -/
def execRegroupTimeout (s : State) : Host.Outcome State Fault Refusal :=
  .next (if s.pol.rg = .computing ∧ s.pol.rgFrom + 40000000 ≤ s.ptcNow then
      dropRegroup 5 s
    else s)

/-- The instance whose acknowledgement of the new map is taken next, of those that are members (R184). -/
def State.nextWritten (s : State) : Option Nat :=
  leastBelow (fun i => bit (s.pol.rgAwait &&& (s.pkg.members ||| (1#8 <<< s.self))) i) 8

/-- Every slice of every instance has the new map: the flip tick is named (R184). -/
def nameRegroup (s : State) : State :=
  let t := s.ahead 10000
  let s : State := { s.used with pol := { s.pol with rg := .named, lateMaps := s.pol.lateMaps &&& ~~~s.pkg.members } }
  endCalibrate true (genIssue { kind := .bundle, issuer := s.inst, tick := t, payload := .bundle s.pol.rgMap } (t - 5000) s)

/-- REGROUP_MAP_WRITTEN (R184, R438): the slices of one more instance have the new map. When all have, the flip tick is named; a regular regroup
does not go on in a transition. -/
def execRegroupMapWritten (s : State) : Host.Outcome State Fault Refusal :=
  .next (if s.pol.rg = .written then
      if s.prot.trans && !s.pol.rgForced then dropRegroup 6 s
      else
        let s := match s.nextWritten with
          | some i => { s with pol := { s.pol with rgAwait := s.pol.rgAwait &&& ~~~(1#8 <<< i) } }
          | none => s
        if s.nextWritten.isNone then nameRegroup s else s
    else s)

/-- The AIDs whose bundle differs between the current map and another. -/
def PolSt.changed (p : PolSt) (m : Tbl (BitVec 6)) : List Nat :=
  (List.range 2048).filter (fun a => (tget (fun x => BitVec.ofNat 6 (x / 32)) m a).toNat != p.bundle p.curgen a)

/-- The flip of the bundle map: the new map is in force in the generation that was inactive, and every slice starts its sweep
(R184, R185). -/
def applyBundle (m : Tbl (BitVec 6)) (s : State) : State :=
  let moved := s.pol.changed m
  let p := s.pol.writeMap m
  let p := { p with curgen := !p.curgen, otherFree := false, rg := .sweeping, rgAwait := s.pkg.members ||| (1#8 <<< s.self), movedAt := moved.foldl (fun t a => tput a p.epochs t) p.movedAt }
  let s : State := { (s.dropDue .bundle).bumpGen .bundle with pol := p }
  let s := if p.rgForced then policyEvent 2 0x03 0xFF 0 0 (s.epoch % 65536) s else s
  s.each s.slicesUp (fun s k => s.modSlice k (fun v => { v with genSweep := true, genAt := s.time.cycles }))

/-! ### The generation sweep (R146, R151, R152, R185) -/

/-- Whether an entry is a COARSE one of the old generation. -/
def SfEnt.old (p : PolSt) (e : SfEnt) : Bool := e.st != stFree && e.mode == coarse && e.gen != p.curgen

/-- Converts one way (R151, R152). -/
def sweepWay (k set : Nat) (s : State) (way : Nat) : State :=
  let v := s.slice k
  let e := v.sfAt set way
  if e.old s.pol && !(v.sfPinned set way) then s.setSlice k (v.setSf set way (regen s.pol e)) else s

/-- GEN_SWEEP_SET (R152, R185): one set in every 8 cycles, in a bank cycle with no lookup or, 64 cycles after the set was due, in any. The set is
converted within the step, so that no lookup waits for it (log 90). -/
def execGenSweepSet (k set : Nat) (s : State) : Host.Outcome State Fault Refusal :=
  let v := s.slice k
  .next (if v.genSweep && s.works k && decide (set < 4096) && decide (v.genAt ≤ s.time.cycles) && s.bankFree k v.genAt then
      let s := sfReadSet k set accInt ((bankServes k s).modSlice k (fun v => { v with genAt := s.time.cycles + 8 }))
      (List.range 16).foldl (sweepWay k set) s
    else s)

/-- Whether nothing in the instance carries the old generation: arrays, tracker entries, back-invalidations, moves, salvage (R146). -/
def State.oldGone (s : State) : Bool :=
  let old := SfEnt.old s.pol
  (List.range s.gh.slices).all (fun k =>
    let v := s.slice k
    v.sf.all (fun x => !(old x.2)) && v.copyIn.all (fun c => !(old (entOf c.2.2))) && v.txns.all (fun t => !(old t.ent)) &&
    (match v.salv with
     | some x => x.installs.all (fun y => !(old y.2)) && x.copies.all (fun y => !(old y.2))
     | none => true)) &&
  s.inMesh.all (fun p => match p.msg with
    | .sfCopy _ es | .hub (.entries _ es) => es.all (fun c => !(old (entOf c.2)))
    | _ => true)

/-- The instance holds nothing of the old generation any more: its sweeps end and its report is in (R185). -/
def reportFree (s : State) : State :=
  let s := s.each (List.range s.gh.slices) (fun s k => if (s.slice k).genSweep then s.modSlice k (fun v => { v with genSweep := false }) else s)
  { s with pol := { s.pol with rgAwait := s.pol.rgAwait &&& ~~~(1#8 <<< s.self) } }

/-- The instance whose report that the old generation is free is taken next: this one once it is so, else the awaited peer with the lowest
ID, whose hub has sent it (R146, R185). -/
def State.nextFree (s : State) : Option Nat :=
  if bit s.pol.rgAwait s.self && s.oldGone then some s.self else leastBelow (fun i => i != s.self && bit s.pol.rgAwait i) 8

/-- REGROUP_DONE (R185): one instance reports the old generation free. When every joined instance has reported, the master marks the generation
free and raises the event. -/
def execRegroupDone (s : State) : Host.Outcome State Fault Refusal :=
  let free (s : State) : State := { s with pol := { s.pol with rg := .idle, otherFree := true, rgForced := false } }
  .next (if s.pol.rg = .sweeping then
      if s.calMaster ≠ s.self then
        if s.oldGone then (free (reportFree s)).sendMgt s.calMaster .genFree else s
      else
        let s := match s.nextFree with
          | some i => if i = s.self then reportFree s else { s with pol := { s.pol with rgAwait := s.pol.rgAwait &&& ~~~(1#8 <<< i) } }
          | none => s
        if s.pol.rgAwait &&& (s.pkg.members ||| (1#8 <<< s.self)) = 0 then policyEvent 2 0x01 0xFF 0 s.pol.rgMoves (s.epoch % 65536) (free s)
        else s
    else s)

/-- CALIBRATE_NOW (R173, R403). -/
def execCalibrateNow (c : Nat) (s : State) : Host.Outcome State Fault Refusal :=
  .next (runCmd c 0x3B (fun _ => true) (runAt s.calMaster (fun k s =>
    if s.pol.rg = .named then finish k stConflict 1 [] s
    else if s.pol.rg = .sweeping then finish k stConflict 2 [] s
    else
      let s := s.startCmd k id
      State.toPeers (endPeriod { s with pol := { s.pol with calCmds := s.pol.calCmds ++ [k.id] } }) .calibrate)) s)

/-- BUNDLE_MAP_READ (R401). -/
def execBundleMapRead (c : Nat) (s : State) : Host.Outcome State Fault Refusal :=
  .next (runCmd c 0x38 (fun _ => true) (fun k s =>
    let w := k.par 0
    let first := fld w 16 11
    let count := if fld w 32 12 = 0 then 2048 - first else fld w 32 12
    let gen := if bit w 1 then s.pol.curgen else bit w 0
    let busy := decide (s.pol.rg = .named) || decide (s.pol.rg = .sweeping) || (s.holdOf .bundle).isSome
    let head : W64 := pack 64 [(0, b2n s.pol.curgen), (1, b2n gen), (2, b2n (gen != s.pol.curgen && s.pol.otherFree)), (3, b2n busy)]
    let word (i : Nat) : W64 :=
      pack 64 ((List.range 10).map (fun j => (6 * j, if 10 * i + j < count then s.pol.bundle gen (first + 10 * i + j) else 0)))
    finish k stOk 0 (head :: (List.range ((count + 9) / 10)).map word) s) s)

/-- A setting word (R402). -/
def settingWord (pid : Nat) (pinned : Bool) (value lo hi : Nat) : W64 :=
  pack 64 [(0, pid), (8, b2n pinned), (16, value % 65536), (32, lo % 65536), (48, hi % 65536)]

/-- The value and the mode of a policy now, and its setting word (R402). `t`: a slice or a range. -/
def State.setting (s : State) (pid t : Nat) : Nat × Bool × W64 :=
  let p := s.pol
  let v := s.slice t
  let pairs := if p.gatePin then p.gateVal else s.poweredPairs.length
  match pid with
  | 1 => (p.epochMs, false, settingWord 1 false p.epochMs 0 0)
  | 2 => (0, p.regroupPin, settingWord 2 p.regroupPin 0 0 0)
  | 3 => (v.thr, v.thrPin, settingWord 3 v.thrPin v.thr v.thrMin v.thrMax)
  | 4 => (b2n (bit p.specBits t), bit p.specPin t, settingWord 4 (bit p.specPin t) (b2n (bit p.specBits t)) 0 0)
  | 5 => (p.stream, p.streamPin, settingWord 5 p.streamPin p.stream p.streamMin p.streamMax)
  | _ => (pairs, p.gatePin, settingWord 6 p.gatePin pairs p.gateMin s.gateMaxOf)

/-- The unit that a TARGET reads a policy of: all read the first. -/
def Kcp.unit (k : Kcp) : Nat := if k.tgt = 0xFF then 0 else k.tgt

/-- DETAIL of the conflicts of POLICY_SET (R402). -/
def State.policyDetail (s : State) (k : Kcp) : Nat :=
  let x := s.setting (fld (k.par 0) 0 8) k.unit
  x.1 % 65536 + 65536 * b2n x.2.1

/-- A value after R198: the pinned value, or the current value moved to the nearest bound. -/
def clamped (pinned : Bool) (value cur lo hi : Nat) : Nat := if pinned then value else Nat.max lo (Nat.min hi cur)

/-- Sets the threshold policy of one slice (R198). -/
def setThreshold (w : W64) (s : State) (k : Nat) : State :=
  let v := s.slice k
  let n := clamped (bit w 8) (fld w 16 16) v.thr (fld w 32 16) (fld w 48 16)
  let s := s.setSlice k { v with thrPin := bit w 8, thrMin := fld w 32 16, thrMax := fld w 48 16, thr := n }
  if n = v.thr then s else policyEvent 3 0x30 k 0 v.thr n s

/-- Sets the speculation policy of one range (R198). -/
def setSpec (w : W64) (s : State) (n : Nat) : State :=
  let old := bit s.pol.specBits n
  let new := if bit w 8 then bit w 16 else old
  let m : BitVec 128 := 1#128 <<< n
  let set_ (b : Bool) (x : BitVec 128) : BitVec 128 := if b then x ||| m else x &&& ~~~m
  let s := { s with pol := { s.pol with specPin := set_ (bit w 8) s.pol.specPin, specBits := set_ new s.pol.specBits } }
  if new = old then s else policyEvent 4 0x30 n 0 (b2n old) (b2n new) s

/-- Sets the insertion policy (R198). -/
def setStream (w : W64) (s : State) : State :=
  let old := s.pol.stream
  let n := clamped (bit w 8) (fld w 16 16) old (fld w 32 16) (fld w 48 16)
  let s := { s with pol := { s.pol with streamPin := bit w 8, streamMin := fld w 32 16, streamMax := fld w 48 16, stream := n } }
  if n = old then s else policyEvent 5 0x30 0xFF 0 old n s

/-- Sets the gating policy; the change is made by gating actions (R198). -/
def setGating (w : W64) (s : State) : State :=
  let cur := s.poweredPairs.length
  let n := clamped (bit w 8) (fld w 16 16) cur (fld w 32 16) (fld w 48 16)
  let s := { s with pol := { s.pol with gatePin := bit w 8, gateMin := fld w 32 16, gateMax := fld w 48 16, gateVal := n } }
  driveGate (if n = cur then s else policyEvent 6 0x30 0xFF 0 cur n s)

/-- Pairs with no failed slice (R198). -/
def State.goodPairs (s : State) : Nat :=
  ((List.range (s.gh.slices / 2)).filter (fun j =>
    decide ((s.slice (2 * j)).st ≠ .failed) && decide ((s.slice (2 * j + 1)).st ≠ .failed))).length

/-- Issues a change of EPOCH_LEN; the reply waits until it is in force (R170, R402). DESIGN CHOICE (log 94): while an earlier change is issued or waits
for its first boundary, another is refused BUSY with DETAIL 1. -/
def setEpoch (k : Kcp) (ms : Nat) (s : State) : State :=
  if s.calMaster ≠ s.self then finish k stConflict (s.policyDetail k) [] s
  else if (s.holdOf .epoch).isSome || s.pol.epochNew.isSome then finish k stBusy 1 [] s
  else
    let t := s.ahead 10000
    let s : State := { (s.startCmd k id).used with pol := { s.pol with epochCmd := some k.id } }
    genIssue { kind := .epoch, issuer := s.inst, tick := t, payload := .epoch ms } (t - 5000) s

/-- A new EPOCH_LEN waits for the first boundary of its own grid; until then the boundaries of the old one still fall (R170). -/
def applyEpoch (ms : Nat) (s : State) : State :=
  let s := (s.dropDue .epoch).bumpGen .epoch
  let s : State := { s with pol := { s.pol with epochNew := some ms } }
  { s with pol := { s.pol with epochNext := Nat.min s.pol.epochNext (multipleAfter s.ptcNow ms) } }

/-- Sets the regroup policy (R198). -/
def setRegroup (k : Kcp) (s : State) : State :=
  let x := k.par 1
  let p := { s.pol with regroupPin := bit (k.par 0) 8, maxMove := fld x 0 8, hold := fld x 8 4, gainMin := fld x 16 16, hyst := fld x 32 7 }
  finish k stOk 0 [] { s with pol := p }

/-- POLICY_SET (R198, R385, R402). -/
def execPolicySet (c : Nat) (s : State) : Host.Outcome State Fault Refusal :=
  .next (runCmd c 0x39 (fun _ => true) (fun k s =>
    let w := k.par 0
    let lo := fld w 32 16
    let crossed := decide (fld w 48 16 < lo)
    let no := finish k stConflict (s.policyDetail k) [] s
    match fld w 0 8 with
    | 1 => setEpoch k (fld w 16 16) s
    | 2 => runAt s.calMaster setRegroup k s
    | 3 => if crossed then no else finish k stOk 0 [] ((targetSlices k s).foldl (setThreshold w) s)
    | 4 => finish k stOk 0 [] ((if k.tgt = 0xFF then List.range 128 else [k.tgt]).foldl (setSpec w) s)
    | 5 => if crossed then no else finish k stOk 0 [] (setStream w s)
    | _ => if crossed || decide (s.goodPairs < lo) then no else finish k stOk 0 [] (setGating w s)) s)

/-- The reply of POLICY_READ (R402). -/
def readPolicy (k : Kcp) (s : State) : State :=
  let pid := fld (k.par 0) 0 8
  let d := tget (fun _ => ((0 : W64), (0 : W64))) s.pol.decisions pid
  let w2 : W64 := if pid = 2 then
      pack 64 [(0, s.pol.maxMove), (8, s.pol.hold), (16, s.pol.gainMin), (32, s.pol.hyst)] else 0
  let thr (i : Nat) : W64 := pack 64 ((List.range 16).map (fun j => (4 * j, if 16 * i + j < s.gh.slices then (s.slice (16 * i + j)).thr else 0)))
  let more : List W64 :=
    if k.tgt ≠ 0xFF then []
    else if pid = 3 then (List.range ((s.gh.slices + 15) / 16)).map thr
    else if pid = 4 then [s.pol.specBits.extractLsb' 0 64, s.pol.specBits.extractLsb' 64 64]
    else []
  finish k stOk 0 ((s.setting pid k.unit).2.2 :: w2 :: d.1 :: d.2 :: more) s

/-- POLICY_READ (R385, R402). -/
def execPolicyRead (c : Nat) (s : State) : Host.Outcome State Fault Refusal :=
  .next (runCmd c 0x3A (fun _ => true) (fun k s =>
    if fld (k.par 0) 0 8 = 2 then runAt s.calMaster readPolicy k s else readPolicy k s) s)

end Sys2Proof.Machine
end

