-- ==== Sys2Proof/Machine/Ridge.lean ====
section
/-! DEFINITION. Sys2Proof/Machine/Ridge.lean: the commands of a ridge port and the joining of two packages (R306, R311, R313, R314,
R406, R436). -/

namespace Sys2Proof.Machine

/-! ### The join record (R313) -/

/-- Whether ADMIT lets ridge port `r` join with an instance (R436). -/
def State.admitsLink (s : State) (r : Nat) (peer : BitVec 3) : Bool := bit s.prot.admitMask (8 * r + peer.toNat)

/-- Whether this end meets the rejoin conditions of R311 towards an instance: the scans have finished and every agent that was present
here at the failure has come back or has been flushed. -/
def State.flushOk (s : State) (peer : BitVec 3) : Bool :=
  (List.range s.gh.ridgePorts).all (fun r =>
    let l := s.link r
    l.duePeer != peer || (!l.failDue && (l.scansDue.filter s.works).isEmpty && l.agentsDue.isEmpty))

/-- The join record of this end for the link of port `r` (R313). -/
def State.joinRecord (s : State) (r : Nat) (accept : Bool) : JoinRec :=
  let l := s.link r
  { inst := s.inst, hwver := 0x31, newcomer := !s.hasJoined, members := s.pkg.members
    agents := (s.pkg.agents.filter (fun x => x.2.1 == s.inst)).map (fun x => (BitVec.ofNat 11 x.1, x.2.2))
    regions := regionList s.map.active, rgen := s.map.rgen
    map0 := s.pol.map0, map1 := s.pol.map1, curgen := s.pol.curgen
    parts := s.prot.part, gtMask := s.prot.gtMask, maskGen := s.prot.maskGen
    epochMs := s.pol.epochMs, epochNew := s.pol.epochNew, master := BitVec.ofNat 3 s.calMaster, timeSrc := s.pkg.timeSrc, roleOfSender := s.rst.role
    batten := l.bat, gens := s.genCounts, flushOk := s.flushOk l.peer, accept := accept }

/-! ### Refusals (R314, R436) -/

/-- Whether this end adopts the package state of the other (R313). -/
def State.adopts (s : State) (rec : JoinRec) : Bool := !s.hasJoined && (!rec.newcomer || decide (rec.inst.toNat < s.self))

/-- Whether the other end adopts the state of this one (R313). -/
def State.isAdopted (s : State) (rec : JoinRec) : Bool := rec.newcomer && (s.hasJoined || decide (s.self < rec.inst.toNat))

/-- Whether some entry of a region table is valid. -/
def anyRegion (l : List (W64 × W64)) : Bool := l.any (fun e => bit e.1 63)

/-- Whether a partition table is other than the reset default. -/
def partsSet (t : Tbl (BitVec 4)) (gt : BitVec 16) : Bool := t.any (fun x => x.2 != 0) || gt != 0

/-- The code for which a join is refused, or 0 (R314); 7 when the other end does not take the link (R436). The conditions are taken in
the order of their codes (log 62). -/
def State.refusal (s : State) (rec : JoinRec) : Nat :=
  let mine := anyRegion (regionList s.map.active) || partsSet s.prot.part s.prot.gtMask
  let theirs := anyRegion rec.regions || partsSet rec.parts rec.gtMask
  if rec.hwver ≠ 0x31 then 1
  else if s.hasJoined && !rec.newcomer && rec.members &&& s.pkg.members == 0 then 2
  else if rec.agents.any (fun a => match s.agentAt a.1 with
    | some (i, _) => i != rec.inst.toNat
    | none => false) then 3
  else if (s.adopts rec && mine) || (s.isAdopted rec && theirs) then 4
  else if s.hasJoined && !rec.newcomer && rec.gens != s.genCounts then 5
  else if !(s.flushOk rec.inst) || !rec.flushOk then 6
  else if !rec.accept then 7
  else 0

/-- The amber event of a refused join (R314, R436). -/
def refusedEv (r code : Nat) (s : State) : Ev := ridgeEv 0x1D r code s

/-- A refused join: the link stays LINKED, a JOIN that waits for it fails, and ports no longer wait for it (R314, R332, R406). -/
def refuseJoin (r code : Nat) (s : State) : State :=
  let c := (s.link r).joinCmd
  let s := s.modLink r (fun l => { l with refuse := BitVec.ofNat 4 code, joinWanted := false, joinSent := false, joinIn := none, joinCmd := none })
  retryBringups (State.endCmd (raise (refusedEv r code s) s) c stFailed code [])

/-! ### Success (R246, R313, R319) -/

/-- The newcomer takes the package state of the other end; each of its links takes its schedules as it joins (R40, R186, R278, R313). -/
def adopt (r : Nat) (rec : JoinRec) (s : State) : State :=
  let p : PolSt := { s.pol with map0 := rec.map0, map1 := rec.map1, curgen := rec.curgen, epochMs := rec.epochMs
                                epochNew := rec.epochNew, epochNext := boundaryOf rec.epochMs rec.epochNew s.ptcNow }
  let k : PkgSt := { s.pkg with timeSrc := rec.timeSrc, gens := rec.gens.zipIdx.map (fun x => (x.2, x.1)) }
  let t : ProtSt := { s.prot with part := rec.parts, gtMask := rec.gtMask, maskGen := rec.maskGen }
  let m : MapSt := { s.map with active := regionOfList rec.regions, rgen := rec.rgen }
  State.each { s with pol := p, pkg := k, prot := t, map := m } (List.range s.gh.ridgePorts) (fun s q => s.modLink q (fun l => { l with batDue := true }))

/-- The time source of two newcomers (R319). -/
def sourceOfTwo (rec : JoinRec) (s : State) : State :=
  let mine := rolePrior s.rst.role s.self rec.roleOfSender rec.inst.toNat
  { s with pkg := { s.pkg with timeSrc := if mine then s.inst else rec.inst } }

/-- The agents of the other end are placed there, in place of what this end holds of that instance (R291, R313). -/
def takeAgents (rec : JoinRec) (s : State) : State :=
  let others := s.pkg.agents.filter (fun x => x.2.1 != rec.inst)
  { s with pkg := { s.pkg with agents := rec.agents.foldl (fun t a => tput a.1.toNat (rec.inst, a.2) t) others } }

/-- The membership change that is due is issued, when none is under way here (R313, R315). -/
def issueGrowth (s : State) : State :=
  let mask := s.pkg.members ||| s.pkg.grow ||| (1#8 <<< s.self)
  if s.pkg.grow = 0 ∨ (s.holdOf .member).isSome then s
  else if mask = s.pkg.members then { s with pkg := { s.pkg with grow := 0 } }
  else
    let t := s.ahead 10000
    let s : State := { s.used with pkg := { s.pkg with grow := 0 } }
    genIssue { kind := .member, issuer := s.inst, tick := t, payload := .members mask } (t - 5000) s

/-- A membership change is due when the mask grows: at the end that the other adopts, without adoption at the lower ID (R313, R315). -/
def growMembers (rec : JoinRec) (adopted lower : Bool) (s : State) : State :=
  if adopted || lower then
    issueGrowth { s with pkg := { s.pkg with grow := s.pkg.grow ||| rec.members ||| (1#8 <<< rec.inst.toNat) } }
  else s

/-- Whether a new map is written whose flip is to come, or a new EPOCH_LEN is issued (R170, R184, R186). -/
def State.mapDue (s : State) : Bool := decide (s.pol.rg = .written) || (s.holdOf .bundle).isSome || (s.holdOf .epoch).isSome

/-- An instance is to receive the maps after the flip, or EPOCH_LEN after its change (R170, R186). -/
def State.lateFor (s : State) (i : Nat) : State := { s with pol := { s.pol with lateMaps := s.pol.lateMaps ||| (1#8 <<< i) } }

/-- A join succeeds: the link is JOINED, the state is adopted, and its credits flow (R246, R283, R313, R314). -/
def joinLink (r : Nat) (rec : JoinRec) (s : State) : State :=
  let adopting := s.adopts rec
  let adopted := s.isAdopted rec
  let both := !s.hasJoined && rec.newcomer
  let lower := !adopting && decide (s.self < rec.inst.toNat)
  let c := (s.link r).joinCmd
  let s := if adopting then adopt r rec s else s
  let s := if both then sourceOfTwo rec s else s
  let s := if adopted && s.mapDue then s.lateFor rec.inst.toNat else s
  let s := takeAgents rec s
  let s := purgeCredits (128 + r) { s with mesh := { s.mesh with drained := false } }
  let s := s.modLink r (fun l =>
    { l with st := .joined, since := s.now, cred := [], refuse := 0, joinWanted := false, joinSent := false, joinIn := none, joinCmd := none
             bat := if l.batDue then rec.batten else l.bat, batSh := if l.batDue then rec.batten else l.batSh, batDue := false })
  let s := s.each s.slicesUp (fun s k => sendFirst (128 + r) k s)
  retryBringups ((growMembers rec adopted lower s).endCmd c stOk 0 [])

/-- Decides a join when both records are exchanged (R313, R314). -/
def decideJoin (r : Nat) (s : State) : State :=
  match (s.link r).joinIn with
  | none => s
  | some rec =>
    let code := s.refusal rec
    if code = 0 then joinLink r rec s else refuseJoin r code s

/-- The end does not take the link: it starts no join; a join record is answered so, and a JOIN that has waited is turned away (R436). -/
def notAdmitted (r : Nat) (s : State) : State :=
  let l := s.link r
  let t := s.setLink r { l with joinWanted := false, joinIn := none, joinCmd := none }
  let t := if l.joinIn.isSome then t.sendMgt l.peer.toNat (.join (s.joinRecord r false)) else t
  let t := if l.joinCmd.isSome then State.endCmd (raise (refusedEv r 7 t) t) l.joinCmd stConflict (0x200 + linkCode l.st) [] else t
  retryBringups t

/-- Carries a join on as far as it goes: it starts on a LINKED link whose peer is known, once the firmware runs and no partition
transition is under way (R306, R313, R438, R496). -/
def tryJoin (r : Nat) (s : State) : State :=
  let l := s.link r
  if l.st = .linked ∧ l.peerV ∧ l.joinWanted ∧ s.rst.fwRun ∧ !s.prot.trans ∧ !s.err.lost then
    if l.joinSent then decideJoin r s
    else if s.admitsLink r l.peer then
      decideJoin r ((s.setLink r { l with joinSent := true }).sendMgt l.peer.toNat (.join (s.joinRecord r true)))
    else notAdmitted r s
  else s

/-- Starts the joins that can start now, and the membership change that has waited for another one. -/
def startJoins (s : State) : State :=
  issueGrowth (s.each (List.range s.gh.ridgePorts) (fun s r => if (s.link r).joinWanted then tryJoin r s else s))

/-- Takes both generations of the bundle map and CURGEN after a flip, or EPOCH_LEN after its change, that this instance, newly joined, did not
take part in, with the generation counts (R170, R186); its entries of the old generation are swept as any other's (R185). -/
def takeMaps (rec : JoinRec) (s : State) : State :=
  let p := { s.pol with map0 := rec.map0, map1 := rec.map1, curgen := rec.curgen, epochMs := rec.epochMs, epochNew := rec.epochNew
                        epochNext := boundaryOf rec.epochMs rec.epochNew s.ptcNow }
  let s : State := { s with pkg := { s.pkg with gens := rec.gens.zipIdx.map (fun x => (x.2, x.1)) } }
  if s.pol.curgen = rec.curgen then { s with pol := p }
  else
    let s : State := { s with pol := { p with otherFree := false, rg := .sweeping, rgAwait := 1#8 <<< s.self } }
    s.each s.slicesUp (fun s k => s.modSlice k (fun v => { v with genSweep := true, genAt := s.time.cycles }))

/-- Sends the package state to the instances that joined while a change of it was under way; while another still is, they are sent it again
after that (R170, R186). -/
def sendLate (s : State) : State :=
  let due := (List.range 8).filter (fun i => bit s.pol.lateMaps i)
  let s : State := if s.mapDue then s else { s with pol := { s.pol with lateMaps := 0 } }
  due.foldl (fun s i => match s.peerPort i with
    | some r => s.sendMgt i (.join (s.joinRecord r true))
    | none => s) s

/-- JOIN_RECORD (R313): the record of the peer's hub. Before the TIME record has named the peer it is kept for the decision. On a link that is
JOINED it brings the maps after a flip (R186). -/
def execJoinRecord (r : Nat) (rec : JoinRec) (s : State) : Host.Outcome State Fault Refusal :=
  let l := s.link r
  .next (if l.st = .linked ∧ (!l.peerV ∨ rec.inst = l.peer) then
      tryJoin r (s.setLink r { l with joinIn := some rec, joinWanted := true })
    else if l.st = .joined ∧ rec.inst = l.peer then takeMaps rec s
    else s)

/-! ### RIDGE_TRAIN (R306, R406) -/

/-- The conflict that every operation of RIDGE_TRAIN returns outside its states (R306). -/
def ridgeConflict (k : Kcp) (s : State) : State := finish k stConflict (linkCode (s.link k.tgt).st) [] s

/-- RIDGE_TRAIN with OP 00 (R306, R406). The ridge ports of an instance whose role is FREE stay OFF (R319). -/
def execRidgeTrainTrain (c : Nat) (s : State) : Host.Outcome State Fault Refusal :=
  .next (runCmd c 0x49 (fun k => fld (k.par 0) 0 2 == 0) (fun k s =>
    let l := s.link k.tgt
    if (l.st = .off ∨ l.st = .failed ∨ l.st = .duplicate) ∧ s.rst.role ≠ roleFree then
      (s.startCmd k id).setLink k.tgt
        { l with st := .training, since := s.now, maxRate := BitVec.ofNat 3 (fld (k.par 0) 4 3), trainCmd := some k.id, peerV := false }
    else ridgeConflict k s) s)

/-- Whether QUIESCE is accepted (R306). -/
def State.canQuiesce (s : State) (r : Nat) : Bool :=
  let l := s.link r
  decide (l.st = .joined) && (List.range s.gh.caPorts).all (fun p => caQuiesced (s.ca p).st) && l.proxies.isEmpty && l.ingress.isEmpty

/-- RIDGE_TRAIN with OP 01 (R297, R300, R306, R323): the credits of R246 are withdrawn. -/
def execRidgeTrainQuiesce (c : Nat) (s : State) : Host.Outcome State Fault Refusal :=
  .next (runCmd c 0x49 (fun k => fld (k.par 0) 0 2 == 1) (fun k s =>
    let r := k.tgt
    if s.canQuiesce r then
      let s := s.modLink r (fun l => { l.enterLinked s.now with cred := [], joinWanted := false, joinSent := false, joinIn := none })
      finish k stOk 0 [] (dropCredits (128 + r) s)
    else ridgeConflict k s) s)

/-- RIDGE_TRAIN with OP 10 (R306, R406, R436). -/
def execRidgeTrainJoin (c : Nat) (s : State) : Host.Outcome State Fault Refusal :=
  .next (runCmd c 0x49 (fun k => fld (k.par 0) 0 2 == 2) (fun k s =>
    let r := k.tgt
    let l := s.link r
    if l.st = .linked ∨ (l.st = .duplicate ∧ !(s.otherRoute r l.peer.toNat)) then
      if l.peerV && !(s.admitsLink r l.peer) then
        finish k stConflict (0x200 + linkCode l.st) [] (raise (refusedEv r 7 s) s)
      else if l.joinCmd.isSome then ridgeConflict k s
      else
        let v := if l.st = .linked then l else l.enterLinked s.now
        tryJoin r ((s.startCmd k id).setLink r { v with joinWanted := true, joinCmd := some k.id })
    else ridgeConflict k s) s)

/-- RIDGE_TRAIN with OP 11 (R306). A TRAIN or JOIN cannot be under way beside it (R384). -/
def execRidgeTrainOff (c : Nat) (s : State) : Host.Outcome State Fault Refusal :=
  .next (runCmd c 0x49 (fun k => fld (k.par 0) 0 2 == 3) (fun k s =>
    let r := k.tgt
    let l := s.link r
    if l.st = .joined ∨ l.st = .retraining then ridgeConflict k s
    else
      finish k stOk 0 [] (retryBringups (s.setLink r { l with st := .off, since := s.now, peerV := false, joinWanted := false, joinSent := false
                                                              joinIn := none, theta := none, ctlIn := [], ctlOut := [] }))) s)

end Sys2Proof.Machine
end

