-- ==== Sys2Proof/Machine/Prot.lean ====
section
/-! DEFINITION. Sys2Proof/Machine/Prot.lean: the measurement log, dual-party changes, partition transitions and microcode activation
(14, R388, R408 to R412). -/

namespace Sys2Proof.Machine

/-- MEASURE_READ (R388, R443). -/
def execMeasureRead (c : Nat) (s : State) : Host.Outcome State Fault Refusal :=
  .next (runCmd c 0x03 (fun _ => true) (fun k s =>
    let w := k.par 0
    let first := fld w 0 16
    let l := (s.prot.log.drop first).take (fld w 16 8)
    let entry (x : MLog × Nat) : List W64 := logWord (first + x.2) x.1.comp.toNat x.1.ver :: digestSplit x.1.digest
    finish k stOk 0 (BitVec.ofNat 64 s.prot.log.length :: digestSplit s.prot.chain ++ l.zipIdx.flatMap entry) s) s)

/-! ### Staging (R408, R411) -/

/-- Writes words into a staging buffer; LAST fixes its length at the end of this write, a write without LAST leaves it open (R408). -/
def Stage.write (b : Stage) (offset : Nat) (first last : Bool) (ws : List W64) : Stage :=
  let old : Stage := if first then {} else b
  let stop := offset + ws.length
  let words := ws.zipIdx.foldl (fun t x => tset (fun _ => 0) (offset + x.2) x.1 t) old.words
  { words := words, len := if last then stop else Nat.max old.len stop, last := last }

/-- The words of a staging buffer up to its length. -/
def Stage.block (b : Stage) : List W64 := (List.range b.len).map (tget (fun _ => 0) b.words)

def ProtSt.stage (p : ProtSt) : Window → Stage
  | .hostp => p.stH
  | .mgmtp => p.stM

def ProtSt.setStage (p : ProtSt) (w : Window) (b : Stage) : ProtSt :=
  match w with
  | .hostp => { p with stH := b }
  | .mgmtp => { p with stM := b }

/-! ### The change block (R427 to R429) -/

/-- Payload words of a record type (R427). -/
def recordLen (t : Nat) : Option Nat :=
  match t with
  | 1 | 2 | 3 | 4 | 6 => some 1
  | 5 => some 7
  | _ => none

/-- Whether the payload of a record holds a field out of range (R427, R429). -/
def payloadBad (t : Nat) (w : W64) : Bool :=
  match t with
  | 1 => fld w 16 12 == 0 || decide (2048 < fld w 16 12) || decide (2048 < fld w 0 11 + fld w 16 12)
  | 3 => fld w 16 13 == 0 || decide (4096 < fld w 16 13) || decide (4096 < fld w 0 12 + fld w 16 13)
  | _ => false

/-- The index of the first failing word of `n` records that start at word `i` (R429). -/
def recordsBad : Nat → Nat → List W64 → Option Nat
  | 0, i, ws => if ws.isEmpty then none else some i
  | _ + 1, i, [] => some i
  | n + 1, i, h :: ws =>
    match recordLen (fld h 0 8) with
    | none => some i
    | some m =>
      if fld h 8 8 ≠ m then some i
      else if ws.length < m then some (i + 1 + ws.length)
      else if payloadBad (fld h 0 8) (ws.headD 0) then some (i + 1)
      else recordsBad n (i + 1 + m) (ws.drop m)

/-- The index of the first failing word of a block (R429). -/
def blockBad (ws : List W64) : Option Nat :=
  let h := ws.headD 0
  if fld h 0 8 ≠ 1 ∨ fld h 8 8 = 0 then some 0 else recordsBad (fld h 8 8) 1 (ws.drop 1)

/-- A record of a change block: RTYPE, INST and its payload. -/
abbrev Rec := Nat × Nat × List W64

/-- The records of a block that parses. -/
def recordsOf : Nat → List W64 → List Rec
  | 0, _ => []
  | _ + 1, [] => []
  | n + 1, h :: ws =>
    let m := (recordLen (fld h 0 8)).getD 0
    (fld h 0 8, fld h 16 3, ws.take m) :: recordsOf n (ws.drop m)

def blockRecords (ws : List W64) : List Rec := recordsOf (fld (ws.headD 0) 8 8) (ws.drop 1)

/-! ### Proposals (R409, R410, R431 to R433) -/

def winCode : Window → Nat
  | .hostp => 0
  | .mgmtp => 1

/-- PEND of PROT_STATUS (R410). -/
def ProtSt.pendCode (p : ProtSt) : Nat :=
  match p.pend with
  | none => 0
  | some x => winCode x.win + 1

/-- A grey event of a proposal: 1 commit, 2 expiry, 3 withdrawal; amber: 4 mismatch, 5 stale nonce, 6 wrong digest (R433, R447). -/
def protEv (outcome : Nat) (w : Window) (s : State) : Ev :=
  { src := if outcome < 4 then 0x24 else 0x25, detail := .prot outcome (winCode w) s.prot.commits.toNat, acc := accCmd }

/-- The engine draws a new nonce (R431, log 7). -/
def renewNonce (s : State) : State := { s.used with prot := { s.prot with nonce := Config.freeNonce s.fresh } }

/-- A pending proposal ends: the nonce is renewed and LAST tells how (R431, R433). -/
def endPending (last : Nat) (s : State) : State :=
  renewNonce { s with prot := { s.prot with pend := none, last := BitVec.ofNat 4 last } }

/-- A pending proposal at its deadline expires (R432, R433). -/
def expire (s : State) : State :=
  match s.prot.pend with
  | some p =>
    if p.deadline ≤ s.now then
      let s := endPending 2 { s with prot := { s.prot with expNonce := some s.prot.nonce } }
      raise (protEv 2 p.win s) s
    else s
  | none => s

/-- PROT_EXPIRE (R432). -/
def execProtExpire (s : State) : Host.Outcome State Fault Refusal := .next (expire s)

/-- PROT_PROPOSE with FLAGS[0] = 1 (R408, R429, R430). -/
def execProtProposeStage (c : Nat) (s : State) : Host.Outcome State Fault Refusal :=
  .next (runCmd c 0x50 (fun k => k.flag 0) (fun k s =>
    let s := expire s
    let w := k.par 0
    let mine := match s.prot.pend with
      | some p => decide (p.win = k.win)
      | none => false
    if mine then finish k stConflict 0 [] s
    else
      let b := (s.prot.stage k.win).write (fld w 0 12) (bit w 12) (bit w 13) (k.ps.drop 1)
      match (if b.last then blockBad b.block else none) with
      | some i => finish k stFailed (i % 4096 + 0x8000) [] { s with prot := s.prot.setStage k.win { b with last := false } }
      | none => finish k stOk b.len [] { s with prot := s.prot.setStage k.win b }) s)

/-- The block that is being applied here, if any (R434). -/
def State.activeBlk (s : State) : Option Blk := s.prot.blks.find? (fun b => decide (b.phase ≠ .waiting) && decide (b.phase ≠ .issued))

/-- Issues the oldest waiting block, when no block is under way (R434, R435): T_S is at least 2,000,000 ticks ahead. -/
def issueBlock (s : State) : State :=
  match s.prot.blks with
  | b :: rest =>
    if b.phase = .waiting ∧ b.retryAt ≤ s.now ∧ (s.holdOf .partition).isNone ∧ !s.prot.trans then
      let t := s.ahead 2000000
      let s : State := { s.used with prot := { s.prot with blks := { b with phase := .issued, ts := t } :: rest } }
      genIssue { kind := .partition, issuer := s.inst, tick := t, payload := .block b.words (digestWords b.words) } (t - 5000) s
    else s
  | [] => s

/-- A committed block: both windows' LAST is cleared, and the block of the HOSTP buffer is carried to the package (R433, R434). -/
def commitBlock (k : Kcp) (s : State) : State :=
  let words := s.prot.stH.block
  let p := { s.prot with commits := s.prot.commits + 1, stH := { s.prot.stH with last := false }, stM := { s.prot.stM with last := false } }
  let s := endPending 1 { s with prot := { p with blks := p.blks ++ [{ words := words, issuer := s.inst, retryAt := s.now }] } }
  issueBlock (finish k stOk 0 [] (raise (protEv 1 k.win s) s))

/-- A denial that keeps the proposals: a stale nonce or a wrong digest (R409, R433). -/
def denyProposal (k : Kcp) (detail outcome : Nat) (s : State) : State := finish k stDenied detail [] (raise (protEv outcome k.win s) s)

/-- Decides a proposal, which meets an expired one first (R409, R432). -/
def propose (k : Kcp) (s : State) : State :=
  let s := expire s
  let nonce := k.par 0
  let digest := digestJoin (k.ps.drop 1)
  let b := s.prot.stage k.win
  let mine := match s.prot.pend with
    | some p => decide (p.win = k.win)
    | none => false
  if !b.last || mine then finish k stConflict s.prot.pendCode [] s
  else if s.prot.expNonce = some nonce then finish k stExpired 0 [] s
  else if nonce ≠ s.prot.nonce then denyProposal k 2 5 s
  else if digest ≠ digestWords b.block then denyProposal k 3 6 s
  else
    match s.prot.pend with
    | none =>
      let p : Pend := { win := k.win, digest := digest, deadline := s.now + 100000000 }
      finish k stAwaiting ((s.ptcNow + 100000000) % 2 ^ 24) [] { s with prot := { s.prot with pend := some p } }
    | some p =>
      if p.digest = digest then commitBlock k s
      else
        let s := endPending 4 s
        finish k stDenied 4 [] (raise (protEv 4 k.win s) s)

/-- PROT_PROPOSE with FLAGS[0] = 0 (R409). -/
def execProtPropose (c : Nat) (s : State) : Host.Outcome State Fault Refusal :=
  .next (runCmd c 0x50 (fun k => !k.flag 0) propose s)

/-- PROT_STATUS (R410). -/
def execProtStatus (c : Nat) (s : State) : Host.Outcome State Fault Refusal :=
  .next (runCmd c 0x51 (fun _ => true) (fun k s =>
    let p := s.prot
    let w1 : W64 := pack 64 [(0, p.pendCode), (4, p.last.toNat), (16, p.commits.toNat)]
    let deadline : W64 := match p.pend with
      | some x => BitVec.ofInt 64 ((x.deadline : Int) + s.time.stepped)
      | none => 0
    let digest := match p.pend with
      | some x => digestSplit x.digest
      | none => List.replicate 6 0
    finish k stOk 0 (w1 :: p.nonce :: deadline :: digest ++ [pack 64 [(0, p.stH.len), (32, p.stM.len)]]) s) s)

/-- PROT_WITHDRAW (R410, R432, R433). -/
def execProtWithdraw (c : Nat) (s : State) : Host.Outcome State Fault Refusal :=
  .next (runCmd c 0x52 (fun _ => true) (fun k s =>
    let s := expire s
    match s.prot.pend with
    | some p =>
      if p.win = k.win then
        let s := endPending 3 s
        finish k stOk 0 [] (raise (protEv 3 k.win s) s)
      else finish k stConflict 0 [] s
    | none => finish k stConflict 0 [] s) s)

/-- PROT_RETRY (R434). -/
def execProtRetry (s : State) : Host.Outcome State Fault Refusal :=
  .next (issueBlock s)

/-! ### What the records do (R427, R435, R437) -/

/-- The partition table after the records (R427). -/
def partsAfter (t : Tbl (BitVec 4)) (rs : List Rec) : Tbl (BitVec 4) :=
  rs.foldl (fun t x =>
    let w := x.2.2.headD 0
    if x.1 = 1 then (List.range (fld w 16 12)).foldl (fun t i => tset (fun _ => 0) (fld w 0 11 + i) (w.extractLsb' 32 4) t) t else t) t

/-- The GT mask after the records. -/
def gtAfter (m : BitVec 16) (rs : List Rec) : BitVec 16 :=
  rs.foldl (fun m x => if x.1 = 2 then (x.2.2.headD 0).extractLsb' 0 16 else m) m

/-- The shingle masks of instance `i` after the records. -/
def masksAfter (i : Nat) (t : Tbl (BitVec 16)) (rs : List Rec) : Tbl (BitVec 16) :=
  rs.foldl (fun t x =>
    let w := x.2.2.headD 0
    if x.1 = 3 ∧ x.2.1 = i then
      (List.range (fld w 16 13)).foldl (fun t j => tset (fun _ => 0xFFFF#16) (fld w 0 12 + j) (w.extractLsb' 32 16) t) t
    else t) t

/-- What ADMIT_SET, UCODE_AUTH and DEBUG do in the instance they name (R435 to R437). -/
def applyInstant (s : State) (x : Rec) : State :=
  let w := x.2.2.headD 0
  if x.2.1 ≠ s.self then s
  else
    match x.1 with
    | 4 => { s with prot := { s.prot with admitMask := w } }
    | 5 => { s with prot := { s.prot with uc := some (w.extractLsb' 0 32, digestJoin (x.2.2.drop 1)) } }
    | 6 => { s with prot := { s.prot with dbg := bit w 0 } }
    | _ => s

/-- Whether a block holds a record that takes effect at T_A (R435). -/
def changesTables (rs : List Rec) : Bool := rs.any (fun x => decide (x.1 = 1 ∨ x.1 = 2 ∨ x.1 = 3))

/-- Whether a transition moves an AID to another partition (R187, R440). -/
def State.movesAids (s : State) : Bool := (List.range 2048).any (fun a => s.newPartOf a != s.partOf a)

/-- A block has finished; the next one is issued (R434). -/
def endBlock (s : State) : State :=
  issueBlock { s with prot := { s.prot with blks := lremove (fun b => decide (b.phase ≠ .waiting)) s.prot.blks } }

/-- A block starts to apply, at T_S (R435, R438, R439). -/
def startTransition (words : List W64) (issuer : BitVec 3) (s : State) : State :=
  let s := (s.dropDue .partition).bumpGen .partition
  let rs := blockRecords words
  let s := rs.foldl applyInstant s
  let b : Blk := { words := words, issuer := issuer, phase := .sweeping }
  let own := s.prot.blks.any (fun b => decide (b.phase = .issued))
  let blks := if own && decide (issuer = s.inst) then lmodify (fun b => decide (b.phase = .issued)) (fun x => { b with ts := x.ts }) s.prot.blks
    else b :: s.prot.blks
  if changesTables rs then
    let p := s.prot
    let q := { p with trans := true, newPart := partsAfter p.part rs, newGt := gtAfter p.gtMask rs, blks := blks }
    let s : State := { s with prot := { q with newMask := masksAfter s.self p.shmask rs } }
    s.each s.slicesUp (fun s k => s.modSlice k (fun v => { v with partSweep := true }))
  else endBlock { s with prot := { s.prot with blks := blks } }

/-- PARTITION_TRANSITION_START (R435, R438). -/
def execPartitionTransitionStart (s : State) : Host.Outcome State Fault Refusal :=
  .next (match s.dueHold .partition with
    | some h =>
      match h.chg.payload with
      | .block words _ => startTransition words h.chg.issuer s
      | .region _ | .bundle _ | .batten | .epoch _ | .members _ | .timeSource _ => s
    | none => s)

/-! ### The partition sweep (R439) -/

/-- The bundles of a map that hold an AID whose partition changes. -/
def State.impureBits (s : State) (gen : Bool) : W64 :=
  (List.range 2048).foldl (fun v a => if s.newPartOf a != s.partOf a then v ||| (1#64 <<< s.pol.bundle gen a) else v) 0

/-- Whether the sweep back-invalidates an entry (R439). `imp`: the bundles of generations 0 and 1 that change. -/
def State.sweepHits (s : State) (imp : W64 × W64) (l : LAddr) (e : SfEnt) : Bool :=
  let loses (a : Aid) : Bool := !((s.newMaskOf (shingleOf l)).getLsbD (s.newPartOf a.toNat).toNat)
  e.st != stFree && (e.mode == fine || e.mode == coarse) &&
    ((s.snoopSet l e).any loses || (e.mode == coarse && e.payload &&& (if e.gen then imp.2 else imp.1) != 0))

/-- Takes one way in the sweep: a home flow back-invalidates its entry; pinned and reserved ways are left for a revisit (R439). -/
def partSweepWay (imp : W64 × W64) (k : Nat) (s : State) (addr : Nat) : State :=
  let v := s.slice k
  let set := addr / 16
  let way := addr % 16
  let e := v.sfAt set way
  let l := sfLine set e.tag
  if s.sweepHits imp l e && !(v.sfPinned set way) && decide (s.homeUse k < 16) && !(s.fencedAt (shingleOf l)) then
    startBackInv k set way s
  else s

/-- Whether no entry of a slice has to go any more, those of its transactions included (R439). -/
def State.sweptOf (s : State) (imp : W64 × W64) (k : Nat) : Bool :=
  let v := s.slice k
  v.sf.all (fun x => !(s.sweepHits imp (sfLine (x.1 / 16) x.2.tag) x.2)) &&
  v.copyIn.all (fun c => !(s.sweepHits imp (sfLine (c.2.1 / 16) (entOf c.2.2).tag) (entOf c.2.2))) && v.txns.all (fun t => !(s.sweepHits imp t.l t.ent))

/-- Whether no entry on its way between slices has to go (R439). -/
def State.sweptInMesh (s : State) (imp : W64 × W64) : Bool :=
  s.inMesh.all (fun p => match p.msg with
    | .sfCopy _ es | .hub (.entries _ es) => es.all (fun c => !(s.sweepHits imp (sfLine (c.1 / 16) (entOf c.2).tag) (entOf c.2)))
    | _ => true)

/-- The instance reports its finished sweep to the committing engine (R439). -/
def reportSweep (b : Blk) (s : State) : State :=
  let mine := decide (b.issuer = s.inst)
  let upd (x : Blk) : Blk := { x with phase := .reported, reports := if mine then x.reports ||| (1#8 <<< s.self) else x.reports }
  let s := { s with prot := { s.prot with blks := lmodify (fun x => decide (x.phase = .sweeping)) upd s.prot.blks } }
  if mine then s else s.sendMgt b.issuer.toNat .sweepReport

/-- PARTITION_SWEEP_DONE (R439): what the sweep of a slice left is revisited; when nothing is left in any slice, the instance reports. -/
def execPartitionSweepDone (k : Nat) (s : State) : Host.Outcome State Fault Refusal :=
  .next (match s.activeBlk with
    | some b =>
      if b.phase = .sweeping ∧ s.works k then
        let imp := (s.impureBits false, s.impureBits true)
        let s := ((s.slice k).sf.map (fun x => x.1)).foldl (partSweepWay imp k) s
        let s := s.modSlice k (fun v => { v with partSweep := !(s.sweptOf imp k) })
        if s.slicesUp.all (fun j => !(s.slice j).partSweep && s.sweptOf imp j) && s.sweptInMesh imp then reportSweep b s else s
      else s
    | none => s)

/-- What the committing engine does when every instance has reported: it names T_A, or has the forced regroup started (R187, R440). -/
def allReported (s : State) : State :=
  let put (ph : BlkPhase) (t : Option Nat) (s : State) : State :=
    { s with prot := { s.prot with blks := lmodify (fun x => decide (x.phase = .reported)) (fun x => { x with phase := ph, ta := t }) s.prot.blks } }
  if s.movesAids then
    let s := put .regroup none s
    if s.calMaster = s.self then s else s.sendMgt s.calMaster .forceRegroup
  else
    let t := s.ahead 10000
    State.toPeers (put .named (some t) s.used) (.activateAt t)

/-- PARTITION_SWEEP_REPORT (R440). `src` is the instance that reports; this instance's own report is in its block. -/
def execPartitionSweepReport (src : BitVec 3) (s : State) : Host.Outcome State Fault Refusal :=
  .next (match s.activeBlk with
    | some b =>
      if b.issuer = s.inst ∧ (b.phase = .sweeping ∨ b.phase = .reported) then
        let add (x : Blk) : Blk := if src = s.inst then x else { x with reports := x.reports ||| (1#8 <<< src.toNat) }
        let s := { s with prot := { s.prot with blks := lmodify (fun x => decide (x.phase = b.phase)) add s.prot.blks } }
        match s.activeBlk with
        | some b => if b.phase = .reported ∧ s.pkg.members &&& ~~~b.reports = 0 then allReported s else s
        | none => s
      else s
    | none => s)

/-! ### T_A (R187, R440) -/

/-- FORCED_REGROUP (R187, R440): at the calibration master, as soon as the inactive generation is free. A regular regroup whose flip is not
named yet gives way, and is reported as skipped for the pending partition (R438, log 67). -/
def execForcedRegroup (s : State) : Host.Outcome State Fault Refusal :=
  .next (match s.activeBlk with
    | some b =>
      let reported := if b.issuer = s.inst then decide (b.phase = .regroup) else decide (b.phase = .reported)
      let unnamed := s.pol.rg = .idle ∨ s.pol.rg = .computing ∨ (s.pol.rg = .written ∧ !s.pol.rgForced)
      if s.calMaster = s.self ∧ s.prot.trans ∧ reported ∧ s.movesAids ∧ unnamed ∧ s.pol.otherFree then
        let m := s.newMap
        let s := if s.pol.rg = .idle then s else endCalibrate false (skipRegroup 6 s)
        writeNewMap m { s with pol := { s.pol with rgForced := true, rgMoves := (s.pol.changed m).length } }
      else s
    | none => s)

/-- The new partition table, GT mask and shingle masks are active; the transition is over (R438, R440). -/
def activateTables (s : State) : State :=
  let p := s.prot
  let q := { p with part := p.newPart, gtMask := p.newGt, shmask := p.newMask, newPart := [], newGt := 0, newMask := [], trans := false }
  let s : State := { s with prot := { q with maskGen := p.maskGen + b2n (decide (p.newMask ≠ p.shmask)) } }
  startJoins (endBlock s)

/-- The flip of a regroup that is due, with its map. -/
def State.dueFlip (s : State) : Option (Tbl (BitVec 6)) :=
  match s.dueHold .bundle with
  | some h =>
    match h.chg.payload with
    | .bundle m => some m
    | .region _ | .batten | .epoch _ | .block .. | .members _ | .timeSource _ => none
  | none => none

/-- A flip at F. A map with a bundle that is not pure is not made current. The flip of a forced regroup is T_A, so the new tables are
activated with it (R143, R184, R440). -/
def flipNow (m : Tbl (BitVec 6)) (s : State) : State :=
  if !(s.mapPure m) then s.dropDue .bundle
  else if s.forcedMap m then activateTables (sendLate (applyBundle m s))
  else sendLate (applyBundle m s)

/-- GEN_FLIP (R184). -/
def execGenFlip (s : State) : Host.Outcome State Fault Refusal :=
  .next (match s.dueFlip with
    | some m => flipNow m s
    | none => s)

/-- The block that is being applied goes into its last phase, with T_A (R440). -/
def nameTa (t : Nat) (s : State) : State :=
  { s with prot := { s.prot with blks := lmodify (fun x => decide (x.phase = .reported)) (fun x => { x with phase := .named, ta := some t }) s.prot.blks } }

/-- PARTITION_ACTIVATE (R440): at T_A. A member is told T_A by the committing engine, which is a step of its own before it (log 95); where
AIDs move, it is the flip tick. -/
def execPartitionActivate (s : State) : Host.Outcome State Fault Refusal :=
  .next (match s.activeBlk with
    | some b =>
      if s.movesAids then
        match s.dueFlip with
        | some m => flipNow m s
        | none => s
      else
        match b.ta with
        | some t => if b.phase = .named ∧ t ≤ s.ptcNow then activateTables s else s
        | none => if b.issuer ≠ s.inst ∧ b.phase = .reported then nameTa (s.ahead 0) s.used else s
    | none => s)

/-! ### Microcode (R411, R412, R437, R441, R443) -/

/-- UCODE_STAGE (R411). -/
def execUcodeStage (c : Nat) (s : State) : Host.Outcome State Fault Refusal :=
  .next (runCmd c 0x58 (fun _ => true) (fun k s =>
    let w := k.par 0
    let b := s.prot.ucSt.write (fld w 0 16) (bit w 16) (bit w 17) (k.ps.drop 1)
    finish k stOk b.len [] { s with prot := { s.prot with ucSt := b } }) s)

/-- The first slice of a list starts to switch; with none left UCVER shows the new version and the command ends (R386, R412, R532). -/
def nextSwitch (c : Nat) (l : List Nat) (s : State) : State :=
  match l with
  | j :: _ => { s.modSlice j (fun v => { v with ucSwitch := true }) with prot := { s.prot with ucAct := some (c, j, s.time.cycles) } }
  | [] =>
    let s := { s with prot := { s.prot with ucAct := none }, rst := { s.rst with ucVer := s.prot.ucNew } }
    match s.cmd c with
    | some k => finishUnits k 0 [] s
    | none => s

/-- UCODE_ACTIVATE (R412, R437, R441, R443): the authorisation is used up once the digest has matched. -/
def execUcodeActivate (c : Nat) (s : State) : Host.Outcome State Fault Refusal :=
  .next (runCmd c 0x59 (fun _ => true) (fun k s =>
    let img := s.prot.ucSt.block
    if !s.prot.ucSt.last then finish k stConflict 0 [] s
    else
      match s.prot.uc with
      | none => finish k stDenied 5 [] s
      | some (_, d) =>
        if digestWords img ≠ d then finish k stDenied 6 [] s
        else
          let s := { s with prot := { s.prot with uc := none } }
          if 1024 ≤ s.prot.log.length then finish k stFailed 8 [] s
          else
            let s := measure 3 (Config.ucVersion img) (digestWords img) s
            if !(Config.ucodeCheck img) then finish k stFailed 7 [] s
            else
              let s := { s with prot := { s.prot with ucNew := Config.ucVersion img } }
              nextSwitch k.id s.slicesUp (s.startCmd k (fun x => { x with units := s.slicesUp }))) s)

/-- Whether no thread runs in a slice (R412). -/
def Slice.threadsIdle (v : Slice) : Bool :=
  !(v.txns.any (fun t => t.threaded && (decide (t.phase = .running) || decide (t.phase = .bufWait))))

/-- UCODE_SLICE_SWITCH (R412): a load takes 16,384 cycles. A slice lost on the way is passed over (R386). -/
def execUcodeSliceSwitch (s : State) : Host.Outcome State Fault Refusal :=
  .next (match s.prot.ucAct with
    | some (c, j, t) =>
      let rest := s.slicesUp.filter (fun k => decide (j < k))
      if !(s.works j) then nextSwitch c rest s
      else if (s.slice j).threadsIdle && decide (t + 16384 ≤ s.time.cycles) then
        nextSwitch c rest (s.modSlice j (fun v => { v with ucSwitch := false, ucVer := s.prot.ucNew }))
      else s
    | none => s)

end Sys2Proof.Machine
end

