-- ==== Sys2Proof/Machine/Gen.lean ====
section
/-! DEFINITION. Sys2Proof/Machine/Gen.lean: the generation protocol at issuer and members, and the change of the time source (R315,
R316, R319). -/

namespace Sys2Proof.Machine

/-- The change of a kind that this instance issues, if any. -/
def State.issueOf (s : State) (k : GenKind) : Option GenIss := s.pkg.issue.find? (fun x => decide (x.chg.kind = k))

/-- The issuer's own record of a change goes. -/
def State.dropIssue (s : State) (k : GenKind) : State :=
  { s with pkg := { s.pkg with issue := s.pkg.issue.filter (fun x => decide (x.chg.kind ≠ k)) } }

/-! ### What an aborted change leaves at its issuer (R39, R199, R276, R402, R434) -/

/-- Why a change does not go ahead: a change of a lower instance ID overlaps it, or an instance has not acknowledged in time. -/
inductive AbortWhy where
  | overlapped
  | missing (inst : Nat)
  deriving DecidableEq, Repr

/-- Reports an aborted change as its command gives. DESIGN CHOICE (log 58): a region commit that an instance has not acknowledged by its
deadline reports LOST_TO_PEER; R39 names no result for it. DESIGN CHOICE (log 94): a regular regroup whose flip is aborted raises REGROUP_SKIPPED with
reason 3 LINK; R199 names no outcome for it. -/
def onAbort (k : GenKind) (why : AbortWhy) (s : State) : State :=
  match k with
  | .region => { s with map := { s.map with commit := none, result := resLost } }
  | .batten =>
    let t := { s with pkg := { s.pkg with battenCmd := none } }
    match why with
    | .overlapped => t.endCmd s.pkg.battenCmd stBusy 2 []
    | .missing i => t.endCmd s.pkg.battenCmd stFailed i []
  | .epoch => State.endCmd { s with pol := { s.pol with epochCmd := none } } s.pol.epochCmd stFailed 0 []
  | .bundle =>
    let t := { s with pol := { s.pol with rg := .idle, rgForced := false } }
    if s.pol.rgForced then t else skipRegroup 3 t
  | .partition =>
    let back (b : Blk) : Blk := { b with phase := .waiting, retryAt := s.now + 1000000 }
    { s with prot := { s.prot with blks := lmodify (fun b => decide (b.phase = .issued)) back s.prot.blks } }
  | .member => s

/-- The mask of an aborted membership change is still due (R313). -/
def keepGrowth (c : GenChange) (s : State) : State :=
  match c.payload with
  | .members mask => { s with pkg := { s.pkg with grow := s.pkg.grow ||| mask } }
  | .region _ | .bundle _ | .batten | .epoch _ | .block .. | .timeSource _ => s

/-- The issuer aborts its change, armed or not: nothing changes anywhere (R315). -/
def genAbort (c : GenChange) (why : AbortWhy) (s : State) : State :=
  let s := (s.changePeers c).foldl (fun s i => s.sendMgt i (.abort c.kind s.inst)) ((s.dropIssue c.kind).dropHold c)
  keepGrowth c (onAbort c.kind why s)

/-! ### PREP, ACK, ARM and ABORT (R315) -/

/-- Whether a member can take a change: its tick is to come; the digest of a block is that of its words, and no block is being applied; every
bundle of a map is pure (R143, R434). -/
def State.prepOk (s : State) (c : GenChange) : Bool :=
  decide (s.ptcNow < c.tick) &&
  (match c.payload with
   | .block words digest => decide (digestWords words = digest) && !s.prot.trans
   | .bundle m => s.mapPure m
   | .region _ | .batten | .epoch _ | .members _ | .timeSource _ => true)

/-- Whether a change that is held here, armed or not, gives way to a new one that overlaps it (R39, R315). -/
def givesWay (h : GenHold) (c : GenChange) : Bool := decide (c.issuer.toNat ≤ h.chg.issuer.toNat)

/-- A held change gives way: one of this instance is aborted (R315). -/
def displace (h : GenHold) (s : State) : State := if h.chg.issuer = s.inst then genAbort h.chg .overlapped s else s.dropHold h.chg

/-- Answers PREP. -/
def answerPrep (c : GenChange) (ok : Bool) (s : State) : State := s.sendMgt c.issuer.toNat (.answer c.kind ok)

/-- The map of a regroup is written into the inactive generation (R184). -/
def writePrep (c : GenChange) (s : State) : State :=
  match c.payload with
  | .bundle m => { s with pol := { s.pol.writeMap m with lateMaps := s.pol.lateMaps &&& ~~~s.pkg.members } }
  | .region _ | .batten | .epoch _ | .block .. | .members _ | .timeSource _ => s

/-- Stores a change and answers ACK; a change that it displaces is dropped (R315). -/
def takePrep (c : GenChange) (s : State) : State :=
  let s := match s.pendingHold c.kind with
    | some h => displace h s
    | none => s
  answerPrep c true (writePrep c { s with pkg := { s.pkg with hold := s.pkg.hold ++ [{ chg := c }] } })

/-- GEN_PREP (R315, R434). -/
def execGenPrep (chg : GenChange) (s : State) : Host.Outcome State Fault Refusal :=
  .next (if chg.issuer = s.inst then s
    else
      let room := match s.pendingHold chg.kind with
        | some h => givesWay h chg
        | none => true
      if room && s.prepOk chg then takePrep chg s else answerPrep chg false s)

/-- Every member has acknowledged in time: ARM goes out, and the issuer is armed (R315). -/
def armIssue (x : GenIss) (s : State) : State :=
  let k := x.chg.kind
  let s := s.dropIssue k
  let s := { s with pkg := { s.pkg with hold := lmodify (fun h => decide (h.chg = x.chg)) (fun h => { h with armed := true }) s.pkg.hold } }
  (s.changePeers x.chg).foldl (fun s i => s.sendMgt i (.arm k s.inst)) s

/-- GEN_ACK (R39, R276, R315). -/
def execGenAck (k : GenKind) (src : BitVec 3) (ok : Bool) (s : State) : Host.Outcome State Fault Refusal :=
  .next (match s.issueOf k with
    | none => s
    | some x =>
      if !ok then genAbort x.chg .overlapped s
      else
        let x := { x with acks := x.acks ||| (1#8 <<< src.toNat) }
        if (s.changePeers x.chg).all (fun i => bit x.acks i) && decide (s.ptcNow ≤ x.deadline) then armIssue x s
        else { s with pkg := { s.pkg with issue := lmodify (fun y => decide (y.chg.kind = k)) (fun _ => x) s.pkg.issue } })

/-- GEN_ACK_DEADLINE (R276, R315). -/
def execGenAckDeadline (k : GenKind) (s : State) : Host.Outcome State Fault Refusal :=
  .next (match s.issueOf k with
    | some x =>
      if x.deadline ≤ s.ptcNow then
        genAbort x.chg (.missing (((s.changePeers x.chg).find? (fun i => !(bit x.acks i))).getD 0)) s
      else s
    | none => s)

/-- GEN_ARM (R315): the first ARM is relayed once to every other member. -/
def execGenArm (k : GenKind) (issuer : BitVec 3) (s : State) : Host.Outcome State Fault Refusal :=
  .next (match s.holdFrom k issuer with
    | some h =>
      if issuer ≠ s.inst ∧ !h.armed then
        let s := { s with pkg := { s.pkg with hold := lmodify (fun x => decide (x = h)) (fun x => { x with armed := true }) s.pkg.hold } }
        (s.changePeers h.chg).foldl (fun s i => s.sendMgt i (.arm k issuer)) s
      else s
    | none => s)

/-- GEN_ABORT (R315): of a change that was not acknowledged, or, armed already, has given way. -/
def execGenAbort (k : GenKind) (issuer : BitVec 3) (s : State) : Host.Outcome State Fault Refusal :=
  .next (match s.holdFrom k issuer with
    | some h => if issuer ≠ s.inst then s.dropHold h.chg else s
    | none => s)

/-! ### T (R315, R316) -/

/-- The membership change (R315, R532). -/
def applyMembers (mask : BitVec 8) (s : State) : State :=
  let s := (s.dropDue .member).bumpGen .member
  { s with pkg := { s.pkg with members := mask ||| (1#8 <<< s.self) } }

/-- The time source changes; the old one has left the package (R319). -/
def applySource (i : BitVec 3) (s : State) : State :=
  let s := (s.dropDue .member).bumpGen .member
  { s with pkg := { s.pkg with timeSrc := i, members := s.pkg.members &&& ~~~(1#8 <<< s.pkg.timeSrc.toNat) } }

/-- Applies a change of any kind at T. -/
def applyChange (c : GenChange) (s : State) : State :=
  match c.payload with
  | .region l => applyRegion l c.issuer s
  | .bundle m => flipNow m s
  | .batten => applyBatten s
  | .epoch ms => sendLate (applyEpoch ms s)
  | .block words _ => startTransition words c.issuer s
  | .members mask => applyMembers mask s
  | .timeSource i => applySource i s

/-- GEN_APPLY (R315, R316). -/
def execGenApply (k : GenKind) (s : State) : Host.Outcome State Fault Refusal :=
  .next (match s.dueHold k with
    | some h => applyChange h.chg s
    | none => s)

/-- GEN_LOST (R315): neither ARM nor ABORT has come by T − 1,000. -/
def execGenLost (k : GenKind) (s : State) : Host.Outcome State Fault Refusal :=
  .next (match s.pendingHold k with
    | some h =>
      if !h.armed && h.chg.issuer != s.inst && decide (h.chg.tick ≤ s.ptcNow + 1000) then
        raise { src := 0x21, detail := .misc (Config.miscValue 0x21 0 % 256) (Config.miscValue 0x21 1), acc := accInt } (s.dropHold h.chg)
      else s
    | none => s)

/-! ### The time source (R319) -/

/-- Whether this instance keeps a link to instance `i` that is JOINED or RETRAINING. -/
def State.keepsLink (s : State) (i : BitVec 3) : Bool :=
  (List.range s.gh.ridgePorts).any (fun r =>
    let l := s.link r
    l.peerV && l.peer == i && l.carries)

/-- The members that remain without the time source. -/
def State.remaining (s : State) : List Nat := (List.range 8).filter (fun i => s.isMember i && i != s.pkg.timeSrc.toNat)

/-- The role of an instance, as its TIME records give it. -/
def State.roleFor (s : State) (i : Nat) : BitVec 2 := if i = s.self then s.rst.role else tget (fun _ => 0) s.pkg.roles i

/-- The remaining instance with the highest role, the lowest ID on a tie (R319). -/
def State.nextSource (s : State) : Nat :=
  (s.remaining.foldl (fun b i => match b with
    | none => some i
    | some j => if rolePrior (s.roleFor i) i (s.roleFor j) j then some i else b) (none : Option Nat)).getD s.self

/-- TIME_SOURCE_CHANGE (R319): the lowest remaining instance issues the change. -/
def execTimeSourceChange (newSrc : BitVec 3) (s : State) : Host.Outcome State Fault Refusal :=
  .next (if s.pkg.timeSrc ≠ s.inst ∧ !(s.keepsLink s.pkg.timeSrc) ∧ s.remaining.head? = some s.self ∧ newSrc.toNat = s.nextSource ∧
      (s.holdOf .member).isNone then
      let t := s.ahead 10000
      genIssue { kind := .member, issuer := s.inst, tick := t, payload := .timeSource newSrc } (t - 5000) s.used
    else s)

end Sys2Proof.Machine
end

