-- ==== Sys2Proof/Machine/Inject.lean ====
section
/-! DEFINITION. Sys2Proof/Machine/Inject.lean: FACTORY_INJECT (R421, R475, R476) and the DBG port (R352, R353, R501). -/

namespace Sys2Proof.Machine

/-! ### FACTORY_INJECT -/

/-- The array and the word address of an injection: the array of the source's ARRAY detail, and for BUF_UE, which has a LINE detail, the data
buffers. The detail of HC_CE may name several arrays, so its location carries ARRAY and WADDR as that detail does (R446, R447, R453, R476;
log 66). -/
def injectPlace (src loc : Nat) : Option (Nat × Nat) :=
  match src with
  | 0x01 => some (0, loc)
  | 0x04 => if loc % 16 = 1 ∨ loc % 16 = 2 ∨ loc % 16 = 3 ∨ loc % 16 = 6 then some (loc % 16, loc / 16 % 1048576) else none
  | 0x07 => some (4, loc)
  | 0x0A => some (8, loc)
  | 0x0B => some (6, loc)
  | _ => none

/-- Whether a source has an array to inject into (R476). -/
def hasArray (src : Nat) : Bool := src == 0x01 || src == 0x04 || src == 0x07 || src == 0x0A || src == 0x0B

/-- Words of an array that an injection reaches: 8 for each entry's data buffer, one for each set of NRU and ROT (R160, R236, R453). -/
def injectWords (a : Nat) : Nat := if a = 8 then 4096 else if a = 6 then 16384 else arrayWords a

/-- Inverts bits of a stored word without changing its check bits (R476). -/
def Slice.flipBits (array addr : Nat) (m : BitVec 2) (v : Slice) : Slice :=
  let rest := v.errs.filter (fun e => !(e.array == array && e.addr == addr))
  let old := match v.errAt array addr with
    | some e => e.flip
    | none => 0
  let f := old ^^^ m
  { v with errs := if f = 0 then rest else rest ++ [{ array := array, addr := addr, flip := f }] }

/-- Inverts bits of the NRU word of a set: one bit breaks its parity, two do not (R160, R476). -/
def Slice.flipNru (set : Nat) (m : BitVec 2) (v : Slice) : Slice :=
  let w := tget (fun _ => 0) v.sfNru set ^^^ m.setWidth 16
  let bad := if m = 3#2 then v.sfParity
    else if v.sfParity.contains set then v.sfParity.filter (fun x => x != set) else set :: v.sfParity
  { v with sfNru := tset (fun _ => 0) set w v.sfNru, sfParity := bad }

/-- A single-bit or double-bit error in an array of a powered slice (R476). -/
def injectArrayFault (array addr unit : Nat) (m : BitVec 2) (s : State) : State :=
  if (s.slice unit).st = .on then s.modSlice unit (if array = 8 then Slice.flipNru addr m else Slice.flipBits array addr m) else s

/-- How many units a source with a fault of its own has: slices, ports, memory ports, ridge ports, queues or the instance (R476; log 66). -/
def faultUnits (g : Gh) (src : Nat) : Option Nat :=
  match src with
  | 0x0B | 0x0C => some g.slices
  | 0x13 => some g.caPorts
  | 0x17 | 0x18 | 0x19 => some g.memPorts
  | 0x1B | 0x1C | 0x1E => some g.ridgePorts
  | 0x22 => some 256
  | 0x27 | 0x28 => some 6
  | _ => none

/-- The oldest outstanding read of a memory port fails, as with MPn_RD_ERR (R343, R476). -/
def failOldestRead (p : Nat) (s : State) : State :=
  match (s.mp p).outst.find? (fun c => !c.write && !c.void) with
  | some c => failRead true c (s.modMp p (fun m => { m with outst := m.outst.map (fun x => if x = c then { c with void := true } else x) }))
  | none => s

/-- The oldest outstanding write of a memory port fails, as with MPn_WA_ERR (R120, R343, R476). -/
def failOldestWrite (p : Nat) (s : State) : State :=
  match (s.mp p).outst.find? (fun c => c.write && !c.void) with
  | some c =>
    let s := s.modMp p (fun m => { m with outst := m.outst.map (fun x => if x = c then { c with void := true } else x) })
    endWriteThrough c.slice (grantRun c.slice (failWrite c s))
  | none => s

/-- The fault of a source as if it had been detected (R476). A unit that cannot have it is left as it is. A location below 16,384 names a cell of
the pool, whose link word or parity is found wrong at its next read; beyond, CELL_POOL loses the list of queue UNIT (R366, R377; log 66). -/
def ownFault (src unit loc : Nat) (s : State) : State :=
  match src with
  | 0x0B =>
    if (s.slice unit).st = .on then readBuf unit (loc / 8) [loc % 8] (s.modSlice unit (Slice.flipBits 6 loc 3)) else s
  | 0x0C => if (s.slice unit).st.losable then loseSlice unit .injected 0 0 none s else s
  | 0x13 =>
    if (s.ca unit).st = .isolated then s
    else raise { src := 0x13, detail := .port unit 1 0 0 false, acc := accSnoop } (isolatePort unit s)
  | 0x17 => failOldestRead unit s
  | 0x18 => failOldestWrite unit s
  | 0x19 => if (s.mp unit).failed then s else failPort unit 1 s
  | 0x1B => if (s.link unit).st.up then retrain unit s else s
  | 0x1C => if (s.link unit).st.up || decide ((s.link unit).st = .retraining) then failLink unit 1 s else s
  | 0x1E => if (s.link unit).st.up then alignLost unit s else s
  | 0x27 => if loc < 16384 then { s with hub := { s.hub with linkCe := loc :: s.hub.linkCe } } else s
  | 0x28 =>
    if loc < 16384 then { s with hub := { s.hub with badCells := loc :: s.hub.badCells } }
    else if s.hub.rebuild.isSome then s
    else loseQueue (queueAt unit) s
  | _ => loseInstance (raise { src := 0x22, detail := .misc 1 (Config.miscValue 0x22 1), acc := accInt } s)

/-- The INJECT event: the CODE carries SRC and KIND (R447). -/
def injectEv (src kind : Nat) : Ev :=
  { src := 0x2B, detail := .misc (src + 64 * kind) (Config.miscValue 0x2B (src + 64 * kind)), acc := accCmd }

/-- FACTORY_INJECT (R421, R475, R476): INJECT is raised first. -/
def execFactoryInject (c : Nat) (s : State) : Host.Outcome State Fault Refusal :=
  .next (runCmd c 0x7E (fun _ => true) (fun k s =>
    let w := k.par 0
    let src := fld w 0 6
    let kind := fld w 8 2
    let unit := fld w 16 8
    let loc := fld (k.par 1) 0 32
    let no (word bit : Nat) : State := finish k stBadParam (badDetail word bit) [] s
    if kind < 2 then
      if !(hasArray src) then no 1 8
      else if s.gh.slices ≤ unit then no 1 16
      else
        match injectPlace src loc with
        | none => no 2 0
        | some x =>
          if injectWords x.1 ≤ x.2 then no 2 0
          else finish k stOk 0 [] (injectArrayFault x.1 x.2 unit (if kind = 0 then 1 else 3) (raise (injectEv src kind) s))
    else
      match faultUnits s.gh src with
      | none => no 1 8
      | some n =>
        if n ≤ unit then no 1 16
        else if src = 0x0B ∧ injectWords 6 ≤ loc then no 2 0
        else finish k stOk 0 [] (ownFault src unit loc (raise (injectEv src kind) s))) s)

/-! ### The DBG port -/

/-- The configuration part number (R352). -/
def Gh.part : Gh → Nat
  | .gh16 => 0x0160
  | .gh32 => 0x0320
  | .gh48 => 0x0480
  | .gh64 => 0x0640

/-- IDCODE (R352). -/
def State.idcode (s : State) : W64 := pack 64 [(28, 3), (12, s.gh.part), (1, Config.manufacturer.toNat), (0, 1)]

/-- Whether the DBG network is unlocked: by a committed change, or in factory test mode (R353, R437). -/
def State.debugOpen (s : State) : Bool := s.prot.dbg || s.rst.test

/-- TAP_ACCESS (R352, R353, R501). A locked instrument, and the router scan of an instance that is not drained, reads as zero and ignores writes.
What an instrument of the unlocked network returns is free, and what a write does there is not in the spec (log 9). -/
def execTapAccess (acc : TapAccess) (s : State) : Host.Outcome State Fault Refusal :=
  match acc with
  | .trst => .next { s with tapSel := true, tdo := 0 }
  | .idcode => .next { s with tapSel := true, tdo := s.idcode }
  | .bypass tdi => .next { s with tapSel := false, tdo := BitVec.ofNat 64 (b2n tdi) }
  | .ident => .next { s with tapSel := false, tdo := Config.instrument 0 0 }
  | .instrument n write _ =>
    if s.debugOpen && (s.mesh.drained || !(Config.routerScan n)) then
      if write then .refused .debugInstrument
      else .next { s.used with tapSel := false, tdo := Config.instrument (n + 1) s.fresh }
    else if write then .next { s with tapSel := false }
    else .next { s with tapSel := false, tdo := 0 }

end Sys2Proof.Machine
end

