-- ==== Sys2Proof/Machine/Dispatch.lean ====
section
/-! DEFINITION. Sys2Proof/Machine/Dispatch.lean: the meaning of each command, one arm each. -/

namespace Sys2Proof.Machine

/-- The effect of a command on everything but the queue. -/
def exec (i : Instr) (s : State) : Host.Outcome State Fault Refusal :=
  match i with
  | .echo c => Sys2Proof.Machine.execEcho c s
  | .identify c => Sys2Proof.Machine.execIdentify c s
  | .measureRead c => Sys2Proof.Machine.execMeasureRead c s
  | .sliceState c => Sys2Proof.Machine.execSliceState c s
  | .slicePowerUp c => Sys2Proof.Machine.execSlicePowerUp c s
  | .slicePowerDown c => Sys2Proof.Machine.execSlicePowerDown c s
  | .sliceResetAssert c => Sys2Proof.Machine.execSliceResetAssert c s
  | .sliceResetRelease c => Sys2Proof.Machine.execSliceResetRelease c s
  | .portState c => Sys2Proof.Machine.execPortState c s
  | .portResetCaAssert c => Sys2Proof.Machine.execPortResetCaAssert c s
  | .portResetCaRelease c => Sys2Proof.Machine.execPortResetCaRelease c s
  | .portResetMemAssert c => Sys2Proof.Machine.execPortResetMemAssert c s
  | .portResetMemRelease c => Sys2Proof.Machine.execPortResetMemRelease c s
  | .hcInvalidateAll c => Sys2Proof.Machine.execHcInvalidateAll c s
  | .hcEnable c => Sys2Proof.Machine.execHcEnable c s
  | .hcDisable c => Sys2Proof.Machine.execHcDisable c s
  | .invalRange c => Sys2Proof.Machine.execInvalRange c s
  | .flushRange c => Sys2Proof.Machine.execFlushRange c s
  | .wayLock c => Sys2Proof.Machine.execWayLock c s
  | .wayUnlock c => Sys2Proof.Machine.execWayUnlock c s
  | .lineQuery c => Sys2Proof.Machine.execLineQuery c s
  | .flushLine c => Sys2Proof.Machine.execFlushLine c s
  | .shingleQuery c => Sys2Proof.Machine.execShingleQuery c s
  | .shingleMove c => Sys2Proof.Machine.execShingleMove c s
  | .bundleMapRead c => Sys2Proof.Machine.execBundleMapRead c s
  | .policySet c => Sys2Proof.Machine.execPolicySet c s
  | .policyRead c => Sys2Proof.Machine.execPolicyRead c s
  | .calibrateNow c => Sys2Proof.Machine.execCalibrateNow c s
  | .battenLoad c => Sys2Proof.Machine.execBattenLoad c s
  | .battenCommit c => Sys2Proof.Machine.execBattenCommit c s
  | .routerDrain c => Sys2Proof.Machine.execRouterDrain c s
  | .probeSet c => Sys2Proof.Machine.execProbeSet c s
  | .ridgeState c => Sys2Proof.Machine.execRidgeState c s
  | .ridgeTrainTrain c => Sys2Proof.Machine.execRidgeTrainTrain c s
  | .ridgeTrainQuiesce c => Sys2Proof.Machine.execRidgeTrainQuiesce c s
  | .ridgeTrainJoin c => Sys2Proof.Machine.execRidgeTrainJoin c s
  | .ridgeTrainOff c => Sys2Proof.Machine.execRidgeTrainOff c s
  | .ptcStatus c => Sys2Proof.Machine.execPtcStatus c s
  | .protProposeStage c => Sys2Proof.Machine.execProtProposeStage c s
  | .protPropose c => Sys2Proof.Machine.execProtPropose c s
  | .protStatus c => Sys2Proof.Machine.execProtStatus c s
  | .protWithdraw c => Sys2Proof.Machine.execProtWithdraw c s
  | .ucodeStage c => Sys2Proof.Machine.execUcodeStage c s
  | .ucodeActivate c => Sys2Proof.Machine.execUcodeActivate c s
  | .errSeveritySetThreshold c => Sys2Proof.Machine.execErrSeveritySetThreshold c s
  | .errSeveritySet c => Sys2Proof.Machine.execErrSeveritySet c s
  | .errLogRead c => Sys2Proof.Machine.execErrLogRead c s
  | .ferrClear c => Sys2Proof.Machine.execFerrClear c s
  | .remapLoad c => Sys2Proof.Machine.execRemapLoad c s
  | .remapRead c => Sys2Proof.Machine.execRemapRead c s
  | .salvageStatus c => Sys2Proof.Machine.execSalvageStatus c s
  | .agentFlushNote c => Sys2Proof.Machine.execAgentFlushNote c s
  | .scrubConfig c => Sys2Proof.Machine.execScrubConfig c s
  | .perfConfig c => Sys2Proof.Machine.execPerfConfig c s
  | .factoryInject c => Sys2Proof.Machine.execFactoryInject c s
  | .cmdDataHi w v priv => Sys2Proof.Machine.execCmdDataHi w v priv s
  | .cmdEndHi w v priv => Sys2Proof.Machine.execCmdEndHi w v priv s
  | .kcpTake w => Sys2Proof.Machine.execKcpTake w s
  | .forwardedReply c status detail words => Sys2Proof.Machine.execForwardedReply c status detail words s
  | .forwardTimeout c => Sys2Proof.Machine.execForwardTimeout c s
  | .cmdTruncate w => Sys2Proof.Machine.execCmdTruncate w s
  | .queuePop w q priv => Sys2Proof.Machine.execQueuePop w q priv s
  | .qFlushCmdq w priv => Sys2Proof.Machine.execQFlushCmdq w priv s
  | .qFlushRplq w priv => Sys2Proof.Machine.execQFlushRplq w priv s
  | .qFlushEvq w priv => Sys2Proof.Machine.execQFlushEvq w priv s
  | .qFlushLoft w priv => Sys2Proof.Machine.execQFlushLoft w priv s
  | .flushComplete w f => Sys2Proof.Machine.execFlushComplete w f s
  | .qownerWrite w v priv => Sys2Proof.Machine.execQownerWrite w v priv s
  | .queueOwnerSwitch q => Sys2Proof.Machine.execQueueOwnerSwitch q s
  | .quotaWrite w q v priv => Sys2Proof.Machine.execQuotaWrite w q v priv s
  | .errOutPulseEnd => Sys2Proof.Machine.execErrOutPulseEnd s
  | .errpinWrite w v priv => Sys2Proof.Machine.execErrpinWrite w v priv s
  | .regionCommit w v peersQuiesced priv => Sys2Proof.Machine.execRegionCommit w v peersQuiesced priv s
  | .regionTableActivate => Sys2Proof.Machine.execRegionTableActivate s
  | .perfCapture w user priv => Sys2Proof.Machine.execPerfCapture w user priv s
  | .perfctlWrite w v priv => Sys2Proof.Machine.execPerfctlWrite w v priv s
  | .snpTimeoutWrite w v priv => Sys2Proof.Machine.execSnpTimeoutWrite w v priv s
  | .halfLatchRead w r priv => Sys2Proof.Machine.execHalfLatchRead w r priv s
  | .bootPushHi w v => Sys2Proof.Machine.execBootPushHi w v s
  | .bootctlDone w => Sys2Proof.Machine.execBootctlDone w s
  | .bootctlRestart w => Sys2Proof.Machine.execBootctlRestart w s
  | .registerWrite w off v priv => Sys2Proof.Machine.execRegisterWrite w off v priv s
  | .porTaken => Sys2Proof.Machine.execPorTaken s
  | .resetNTaken => Sys2Proof.Machine.execResetNTaken s
  | .resetRelease samples ohm1 ohm2 fieldFuse => Sys2Proof.Machine.execResetRelease samples ohm1 ohm2 fieldFuse s
  | .mpAbortFall => Sys2Proof.Machine.execMpAbortFall s
  | .fuseSegment seg payload crc => Sys2Proof.Machine.execFuseSegment seg payload crc s
  | .bringupStepDone => Sys2Proof.Machine.execBringupStepDone s
  | .bootImageFromPeer r words => Sys2Proof.Machine.execBootImageFromPeer r words s
  | .sliceDomainGood sl => Sys2Proof.Machine.execSliceDomainGood sl s
  | .slicePowerTimeout sl => Sys2Proof.Machine.execSlicePowerTimeout sl s
  | .slicePowerOffDone sl => Sys2Proof.Machine.execSlicePowerOffDone sl s
  | .capActiveRise p => Sys2Proof.Machine.execCapActiveRise p s
  | .adv p msg => Sys2Proof.Machine.execAdv p msg s
  | .advCheck p => Sys2Proof.Machine.execAdvCheck p s
  | .advack p => Sys2Proof.Machine.execAdvack p s
  | .capActiveFall p => Sys2Proof.Machine.execCapActiveFall p s
  | .portQuiesceComplete p => Sys2Proof.Machine.execPortQuiesceComplete p s
  | .portReleaseScanDone p => Sys2Proof.Machine.execPortReleaseScanDone p s
  | .agentTableUpdate src aid valid cap => Sys2Proof.Machine.execAgentTableUpdate src aid valid cap s
  | .caRequest p msg => Sys2Proof.Machine.execCaRequest p msg s
  | .caDatiChunk p hdr data => Sys2Proof.Machine.execCaDatiChunk p hdr data s
  | .caRspiMessage p msg => Sys2Proof.Machine.execCaRspiMessage p msg s
  | .ingressSend ip d => Sys2Proof.Machine.execIngressSend ip d s
  | .creditArrive ip => Sys2Proof.Machine.execCreditArrive ip s
  | .creditIdleReturn ip sl grant => Sys2Proof.Machine.execCreditIdleReturn ip sl grant s
  | .sliceInputRequest sl gt => Sys2Proof.Machine.execSliceInputRequest sl gt s
  | .txnActivate sl e => Sys2Proof.Machine.execTxnActivate sl e s
  | .chainHeadActivate sl l => Sys2Proof.Machine.execChainHeadActivate sl l s
  | .admissionRelease sl set => Sys2Proof.Machine.execAdmissionRelease sl set s
  | .bufferAcquire sl => Sys2Proof.Machine.execBufferAcquire sl s
  | .sfWayReserve sl e => Sys2Proof.Machine.execSfWayReserve sl e s
  | .snoopIssue sl e => Sys2Proof.Machine.execSnoopIssue sl e s
  | .snoopDeliver p aid => Sys2Proof.Machine.execSnoopDeliver p aid s
  | .snoopResponse sl gt => Sys2Proof.Machine.execSnoopResponse sl gt s
  | .homeDat sl gt => Sys2Proof.Machine.execHomeDat sl gt s
  | .cmpack sl gt => Sys2Proof.Machine.execCmpack sl gt s
  | .writebackArrive sl gt => Sys2Proof.Machine.execWritebackArrive sl gt s
  | .atomicOperate sl e => Sys2Proof.Machine.execAtomicOperate sl e s
  | .placement sl e => Sys2Proof.Machine.execPlacement sl e s
  | .mirrorUpdate sl => Sys2Proof.Machine.execMirrorUpdate sl s
  | .mirrorUpdateAck sl => Sys2Proof.Machine.execMirrorUpdateAck sl s
  | .mirrorRefresh sl set => Sys2Proof.Machine.execMirrorRefresh sl set s
  | .txnClose sl e => Sys2Proof.Machine.execTxnClose sl e s
  | .memCmdPresent m write => Sys2Proof.Machine.execMemCmdPresent m write s
  | .memCreditReturn m write => Sys2Proof.Machine.execMemCreditReturn m write s
  | .memReadChunk m tag valid data poison err => Sys2Proof.Machine.execMemReadChunk m tag valid data poison err s
  | .memWriteAck m tag err => Sys2Proof.Machine.execMemWriteAck m tag err s
  | .memTimeout m => Sys2Proof.Machine.execMemTimeout m s
  | .memSrEnter m => Sys2Proof.Machine.execMemSrEnter m s
  | .memSrExit m => Sys2Proof.Machine.execMemSrExit m s
  | .memWakeRaise m => Sys2Proof.Machine.execMemWakeRaise m s
  | .memWakeDeadline m => Sys2Proof.Machine.execMemWakeDeadline m s
  | .snoopTimeoutCheck => Sys2Proof.Machine.execSnoopTimeoutCheck s
  | .unreachableNotice aid cmpAck => Sys2Proof.Machine.execUnreachableNotice aid cmpAck s
  | .routerPacket n o dataLane err => Sys2Proof.Machine.execRouterPacket n o dataLane err s
  | .loftRecord n => Sys2Proof.Machine.execLoftRecord n s
  | .battenSwitch => Sys2Proof.Machine.execBattenSwitch s
  | .routerDrainEmpty => Sys2Proof.Machine.execRouterDrainEmpty s
  | .fenceMarker sl vc => Sys2Proof.Machine.execFenceMarker sl vc s
  | .homeMapFlip => Sys2Proof.Machine.execHomeMapFlip s
  | .flipCopyAck => Sys2Proof.Machine.execFlipCopyAck s
  | .movePrepareDone sh => Sys2Proof.Machine.execMovePrepareDone sh s
  | .moveDrainDone sh => Sys2Proof.Machine.execMoveDrainDone sh s
  | .sfEntryInstall sl => Sys2Proof.Machine.execSfEntryInstall sl s
  | .moveCopyDone sh => Sys2Proof.Machine.execMoveCopyDone sh s
  | .moveDecisionDeadline sh => Sys2Proof.Machine.execMoveDecisionDeadline sh s
  | .epochBoundary early => Sys2Proof.Machine.execEpochBoundary early s
  | .calibrationDecisions => Sys2Proof.Machine.execCalibrationDecisions s
  | .regroupComputeDone more => Sys2Proof.Machine.execRegroupComputeDone more s
  | .regroupTimeout => Sys2Proof.Machine.execRegroupTimeout s
  | .regroupMapWritten => Sys2Proof.Machine.execRegroupMapWritten s
  | .genFlip => Sys2Proof.Machine.execGenFlip s
  | .genSweepSet sl set => Sys2Proof.Machine.execGenSweepSet sl set s
  | .regroupDone => Sys2Proof.Machine.execRegroupDone s
  | .forcedRegroup => Sys2Proof.Machine.execForcedRegroup s
  | .gatingPowerDown pair => Sys2Proof.Machine.execGatingPowerDown pair s
  | .gatingSwitchOpen => Sys2Proof.Machine.execGatingSwitchOpen s
  | .gatingPowerUp pair => Sys2Proof.Machine.execGatingPowerUp pair s
  | .sfScrubVisit sl => Sys2Proof.Machine.execSfScrubVisit sl s
  | .hcScrubVisit sl => Sys2Proof.Machine.execHcScrubVisit sl s
  | .openLineResolve sl e => Sys2Proof.Machine.execOpenLineResolve sl e s
  | .nruAgeingWalk sl => Sys2Proof.Machine.execNruAgeingWalk sl s
  | .flitReceive r flit => Sys2Proof.Machine.execFlitReceive r flit s
  | .nakReceive r => Sys2Proof.Machine.execNakReceive r s
  | .replayTimeout r => Sys2Proof.Machine.execReplayTimeout r s
  | .linkRetrainEnter r lossOfLink => Sys2Proof.Machine.execLinkRetrainEnter r lossOfLink s
  | .phyTrained r rate => Sys2Proof.Machine.execPhyTrained r rate s
  | .trainTimeout r => Sys2Proof.Machine.execTrainTimeout r s
  | .retrainSuccess r peerAck peerGens => Sys2Proof.Machine.execRetrainSuccess r peerAck peerGens s
  | .retrainTimeout r => Sys2Proof.Machine.execRetrainTimeout r s
  | .linkFail r => Sys2Proof.Machine.execLinkFail r s
  | .timeRecord r => Sys2Proof.Machine.execTimeRecord r s
  | .timeRecordSend r => Sys2Proof.Machine.execTimeRecordSend r s
  | .calWindowEnd r => Sys2Proof.Machine.execCalWindowEnd r s
  | .calRecord r => Sys2Proof.Machine.execCalRecord r s
  | .timeCorrection => Sys2Proof.Machine.execTimeCorrection s
  | .ptcSyncFrame frame => Sys2Proof.Machine.execPtcSyncFrame frame s
  | .joinRecord r rec => Sys2Proof.Machine.execJoinRecord r rec s
  | .genPrep chg => Sys2Proof.Machine.execGenPrep chg s
  | .genAck k src ok => Sys2Proof.Machine.execGenAck k src ok s
  | .genAckDeadline k => Sys2Proof.Machine.execGenAckDeadline k s
  | .genArm k issuer => Sys2Proof.Machine.execGenArm k issuer s
  | .genAbort k issuer => Sys2Proof.Machine.execGenAbort k issuer s
  | .genApply k => Sys2Proof.Machine.execGenApply k s
  | .genLost k => Sys2Proof.Machine.execGenLost k s
  | .timeSourceChange newSrc => Sys2Proof.Machine.execTimeSourceChange newSrc s
  | .protExpire => Sys2Proof.Machine.execProtExpire s
  | .protRetry => Sys2Proof.Machine.execProtRetry s
  | .partitionTransitionStart => Sys2Proof.Machine.execPartitionTransitionStart s
  | .partitionSweepReport src => Sys2Proof.Machine.execPartitionSweepReport src s
  | .partitionActivate => Sys2Proof.Machine.execPartitionActivate s
  | .engineHang sl engine thread => Sys2Proof.Machine.execEngineHang sl engine thread s
  | .sliceFatal sl cause => Sys2Proof.Machine.execSliceFatal sl cause s
  | .wrapperPacket sl vc => Sys2Proof.Machine.execWrapperPacket sl vc s
  | .salvageRecord sl => Sys2Proof.Machine.execSalvageRecord sl s
  | .salvageRead sl a addr r => Sys2Proof.Machine.execSalvageRead sl a addr r s
  | .mirrorReadDone sl => Sys2Proof.Machine.execMirrorReadDone sl s
  | .shingleRehome sl => Sys2Proof.Machine.execShingleRehome sl s
  | .lineResolution sl => Sys2Proof.Machine.execLineResolution sl s
  | .salvageDecision sl => Sys2Proof.Machine.execSalvageDecision sl s
  | .openEavesWbMark shingles src => Sys2Proof.Machine.execOpenEavesWbMark shingles src s
  | .openEavesExit sh => Sys2Proof.Machine.execOpenEavesExit sh s
  | .vddRise => Sys2Proof.Machine.execVddRise s
  | .bankPassDone c => Sys2Proof.Machine.execBankPassDone c s
  | .rangeScanDone c => Sys2Proof.Machine.execRangeScanDone c s
  | .wayLockDone c => Sys2Proof.Machine.execWayLockDone c s
  | .sliceResetInitDone sl => Sys2Proof.Machine.execSliceResetInitDone sl s
  | .ucodeSliceSwitch => Sys2Proof.Machine.execUcodeSliceSwitch s
  | .writeThroughScanDone sl => Sys2Proof.Machine.execWriteThroughScanDone sl s
  | .linkFailScanDone sl r => Sys2Proof.Machine.execLinkFailScanDone sl r s
  | .partitionSweepDone sl => Sys2Proof.Machine.execPartitionSweepDone sl s
  | .forwardedCommand src ref header params => Sys2Proof.Machine.execForwardedCommand src ref header params s
  | .agentFlushNoteReceive src aids => Sys2Proof.Machine.execAgentFlushNoteReceive src aids s
  | .agentTableClearAck p src => Sys2Proof.Machine.execAgentTableClearAck p src s
  | .cellPoolRebuildDone => Sys2Proof.Machine.execCellPoolRebuildDone s
  | .flitTransmit r => Sys2Proof.Machine.execFlitTransmit r s
  | .tapAccess acc => Sys2Proof.Machine.execTapAccess acc s

end Sys2Proof.Machine
end

