-- ==== Sys2Proof/Machine/Tick.lean ====
section
/-! DEFINITION. Sys2Proof/Machine/Tick.lean: one tick of package time, which is what a step on an empty queue is (log 2): the count, the
core clock, the LFSRs and the counters that add in every cycle (R218, R317, R321, R483, R509 to R520). -/

namespace Sys2Proof.Machine

/-! ### The clocks -/

/-- The frequency of CCLK in MHz during the next tick: the integrator's, within 0.8 to 2.4 GHz (R18, R20; log 2). -/
def State.mhz (s : State) : Nat := 800 + Config.cclk s.ptcNow % 1601

/-- CCLK cycles of the next tick, and the rest that the tick after it begins with (R20, R483). -/
def State.cyclesNext (s : State) : Nat × Nat :=
  if s.rst.clkmode = 2 then (2, 0) else ((s.time.frac + s.mhz) / 1000, (s.time.frac + s.mhz) % 1000)

/-- The count takes its next value; a correction omits one tick (R317, R321). -/
def TimeSt.advance (t : TimeSt) (cycles frac : Nat) : TimeSt :=
  { t with ptc := if t.omit_ then t.ptc else t.ptc + 1, omit_ := false, cycles := t.cycles + cycles, frac := frac }

/-- One step of a slice's LFSR (R218). -/
def lfsrNext (v : BitVec 16) : BitVec 16 := if v.getLsbD 0 then (v >>> 1) ^^^ 0xB400#16 else v >>> 1

/-- `n` steps of a slice's LFSR. -/
def lfsrSteps : Nat → BitVec 16 → BitVec 16
  | 0, v => v
  | n + 1, v => lfsrSteps n (lfsrNext v)

/-! ### What a slice counts in every cycle (R510, R512, R518, R174) -/

/-- Whether something waits at the input of a slice for an entry of a share of the escape reserve: a writeback-class message, a fill that needs
a Dirty victim, or a home flow, the move of a shingle and a patrol visit among them (R110). -/
def State.escapeWait (s : State) (k : Nat) : Bool :=
  let v := s.slice k
  let isWb (p : Pkt) : Bool := match p.msg with
    | .req q .. => q.op.isWb
    | _ => false
  (decide (32 ≤ v.wbEntries) && ((s.atSlice k .req false).any isWb || (s.atSlice k .req true).any isWb)) ||
  (decide (16 ≤ s.victimUse k) && v.txns.any (fun t => decide (t.place = .due))) ||
  (decide (16 ≤ s.homeUse k) && s.map.moves.any (fun m => m.old == k && !m.begun)) ||
  (v.sfWait.isSome && s.scrubWaits k v.sfPos)

/-- Whether a demand flag is set for a slice (R249). -/
def State.demanded (s : State) (k : Nat) : Bool := !(s.slice k).shared.demand.isEmpty || !(s.slice k).grants.demand.isEmpty

/-- The oldest open tracker entry of a slice. -/
def Slice.oldest (v : Slice) : Option Txn :=
  v.txns.foldl (fun b t => match b with
    | none => some t
    | some x => if t.arr < x.arr then some t else b) none

/-- MRds outstanding from a slice (R518). -/
def State.readsOut (s : State) (k : Nat) : Nat :=
  lsum ((List.range s.gh.memPorts).map (fun m => ((s.mp m).outst.filter (fun c => !c.write && c.slice == k)).length))

/-- Counts the slots and the events of `n` cycles of a powered slice (R509 to R512, R518). The messages taken have their slots first. -/
def countSlice (n k : Nat) (s : State) : State :=
  let v := s.slice k
  let taken := v.slots.take n
  let wasted := (taken.filter id).length
  let retired := taken.length - wasted
  let idle := n - taken.length
  let demand := s.demanded k
  let escape := s.escapeWait k
  let buffer := decide (0 < s.bufsAwaited k)
  let isBack := demand || escape || buffer
  let back := if isBack then idle else 0
  let front := idle - back
  let mem : Bool := match v.oldest with
    | some t => decide (t.rd = .queued)
    | none => false
  let waiting := (v.txns.filter (fun t => decide (t.phase = .admission))).length
  let open_ := v.txns.length + v.deferred.length + v.victims.length + lsum (v.txns.map (fun t => t.absorbed.length))
  let adds : List (Nat × Nat) := [(0x01, n), (0x02, retired), (0x03, wasted), (0x04, front), (0x05, back), (0x06, if demand then back else 0), (0x07, if escape then back else 0),
    (0x08, if buffer then back else 0), (0x09, if mem then back else 0), (0x15, n * waiting), (0x16, n * open_), (0x44, n * s.readsOut k)]
  let perf := adds.foldl (fun t x => bumpEvent x.1 x.2 t) (bumpFixed 11 back (bumpFixed 10 front (bumpFixed 9 wasted (bumpFixed 8 retired v.perf))))
  let c := { v.calib with busy := v.calib.busy + (n - front), back := v.calib.back + back, span := v.calib.span + n }
  s.setSlice k { v with slots := v.slots.drop n, perf := perf, calib := c }

/-- Notes the cycle in which a visit of a patrol scrubber has become due (R169, R235). -/
def dueFrom (interval due : Nat) (w : Option Nat) (s : State) : Option Nat :=
  if interval = 0 ∨ s.now < due then none else some (w.getD s.time.cycles)

/-- Whether a slice counts slots: it is powered, not in soft reset and not failed (R512). -/
def State.counts (s : State) (k : Nat) : Bool :=
  (decide ((s.slice k).st = .on) && s.works k) || (decide ((s.slice k).st = .poweringDown) && !s.err.lost)

/-- One slice over `n` cycles. -/
def tickSlice (n : Nat) (s : State) (k : Nat) : State :=
  let v := s.slice k
  let s := if v.lfsrRun then s.setSlice k { v with lfsr := lfsrSteps n v.lfsr } else s
  if s.counts k then
    let s := countSlice n k s
    let v := s.slice k
    let sf := dueFrom v.sfInt v.sfDue v.sfWait s
    let hc := dueFrom v.hcInt v.hcDue v.hcWait s
    if sf = v.sfWait ∧ hc = v.hcWait then s else s.setSlice k { v with sfWait := sf, hcWait := hc }
  else s

/-! ### What ports and links count in every cycle (R519, R520) -/

/-- Whether the oldest entry of a port waits for a slice credit (R247). -/
def State.creditWait (s : State) (p : Nat) : Bool :=
  match (s.ca p).ingress with
  | [] => false
  | x :: _ => s.waitsFor (s.homeSlice x.sh) x && !((s.credAt p (s.homeSlice x.sh)).tracker x && (s.credAt p (s.homeSlice x.sh)).data x)

/-- Whether a request of a port waits for a proxy credit (R252). -/
def State.proxyWait (s : State) (p : Nat) : Bool :=
  (s.ca p).ingress.any (fun x => match x.peer with
    | some i => (match s.pathTo i.toNat with
      | some r => (s.proxyFor p r).isNone
      | none => false)
    | none => false)

/-- Whether a snoop is held for lack of the agent's credit (R251). -/
def CaPort.scredWait (c : CaPort) : Bool :=
  c.snpBuf.any (fun x => match x.m with
    | .snp _ a .. => c.agents.any (fun y => y.aid == a && y.free == 0)
    | _ => false)

/-- One CA port over `n` cycles; under PORT_RESET it counts nothing (R516). -/
def tickPort (n : Nat) (s : State) (p : Nat) : State :=
  let c := s.ca p
  if c.perf.isEmpty || decide (c.st = .isolated) then s
  else
    let adds : List (Nat × Nat) := [(0x01, n), (0x04, if 64 ≤ c.ingress.length then n else 0), (0x05, n * c.ingress.length),
      (0x06, if s.creditWait p then n else 0), (0x07, if s.proxyWait p then n else 0), (0x09, if c.scredWait then n else 0)]
    s.setCa p { c with perf := adds.foldl (fun t x => bumpEvent x.1 x.2 t) c.perf }

/-- One ridge unit over `n` cycles. -/
def tickRidge (n : Nat) (s : State) (r : Nat) : State :=
  let l := s.link r
  if l.perf.isEmpty then s
  else
    let held := l.txQ.any (fun p => !(l.affords p))
    let adds : List (Nat × Nat) := [(0x01, n), (0x0A, if held then n else 0), (0x0B, n * l.proxies.length)]
    s.setLink r { l with perf := adds.foldl (fun t x => bumpEvent x.1 x.2 t) l.perf }

/-! ### A tick -/

/-- The slice that switches its microcode and the cycle from which its control store loads: the load begins once its threads are idle
(R412). -/
def State.loadsFrom (s : State) : Option (Nat × Nat × Nat) :=
  s.prot.ucAct.map (fun x => (x.1, x.2.1, if (s.slice x.2.1).threadsIdle then x.2.2 else s.time.cycles))

/-- The oldest fence marker of each slice that is on its way leaves the peer's incoming snoop buffer, when it does: its credit returns (R290;
log 89). -/
def returnMarks (s : State) : State :=
  s.each (List.range s.gh.slices) (fun s k =>
    match (s.slice k).markCred with
    | [] => s
    | m :: rest => if Config.markLeft s.ptcNow then giveSnp k m.2.2 (s.modSlice k (fun v => { v with markCred := rest })) else s)

/-- One tick of package time. The commands that wait stay; whatever a tick makes due is a command of its own, except what the hub does by
itself: a gating action that the bounds ask for (R198), the joins of links that have become LINKED (R306, R496), and the reports that wait
for room in EVQ (R468). -/
def tick (s : State) : State :=
  if s.rst.inReset then s
  else
    let c := s.cyclesNext
    let s := { s with time := s.time.advance c.1 c.2 }
    let s := { s with prot := { s.prot with ucAct := s.loadsFrom } }
    let s := s.each (List.range s.gh.slices) (tickSlice c.1)
    let s := s.each (List.range s.gh.caPorts) (tickPort c.1)
    let s := s.each (List.range s.gh.ridgePorts) (tickRidge c.1)
    drainBacklog (startJoins (driveGate (returnMarks s)))

end Sys2Proof.Machine
end

