-- ==== Sys2Proof/Safety.lean ====
section
/-! DEFINITION. Sys2Proof/Safety.lean: what claims mean by a well-formed state and by a safe step. -/

namespace Sys2Proof.Machine

/-- The arrays of a slice (R135, R202 to R205, R224) are in canonical form: places strictly rising, no entry equal to what a place that is
not listed reads as. -/
def Slice.arraysWf (v : Slice) : Bool :=
  Canonical (fun _ => {}) v.sf && Canonical (fun _ => {}) v.hcTag && Canonical (fun _ => 0) v.hcData &&
  Canonical (fun _ => {}) v.hcCtl && Canonical (fun _ => {}) v.mirror

/-- Both generations of the home map (R43) are in canonical form over the reset placement. -/
def MapSt.wf (m : MapSt) : Bool := Canonical (basePlace m.base) m.g0 && Canonical (basePlace m.base) m.g1

/-- The stored data of the block is in canonical form, so that equal contents are equal data: the tables of the units are listed by strictly
rising number, and every memory of the block is in canonical form. -/
def State.wf (s : State) : Bool :=
  Sorted s.slices && s.slices.all (fun x => x.2.arraysWf) && Sorted s.cas && Sorted s.mps && Sorted s.rdg && s.map.wf

/-- A safe step: the block takes the command at the front of its queue without a fault and without a refusal. -/
def State.stepsTo (s t : State) : Prop := step s = .next t

/-- Whether a command is one of the two resets, which alone end the loss of the instance (R451, R478, R479). -/
def isReset : Instr → Bool
  | .porTaken | .resetNTaken => true
  | _ => false

end Sys2Proof.Machine
end

