-- ==== Sys2Proof/Certificates/Slice0/Obligations.lean ====
section
/-! DEFINITION. Sys2Proof/Certificates/Slice0/Obligations.lean: the statements about the model that the provers prove. -/

open Sys2Proof Sys2Proof.Machine

/-! ### Every form of the table answers a next state -/

/-- For every state and every operands, each command of the table answers a next state: SLICE_POWER in both directions, POR_TAKEN,
RESET_N_TAKEN, SLICE_DOMAIN_GOOD and the 213 other forms, whatever the state holds. The one exception is a TAP_ACCESS that writes an
instrument while the debug access is open: R353 leaves what an instrument does to the implementation, and the block refuses it by name.
A locked instrument, and the scan of a router whose instance is not drained, ignore the write (R283, R353). The effect that each form
has where it completes is stated form by form. (R4, R353.) -/
def Obligations.EveryCommandAnswersANextState : Prop :=
  (∀ (s : State) (c : Instr), (∀ n d, c = .tapAccess (.instrument n true d) → s.debugOpen = false ∨ (s.mesh.drained = false ∧ Config.routerScan n = true)) → ∃ t : State, exec c s = .next t) ∧
  (∀ (s : State) (n : Nat) (d : W64), s.debugOpen = true → exec (.tapAccess (.instrument n true d)) s =
    if s.mesh.drained = false ∧ Config.routerScan n = true then .next { s with tapSel := false } else .refused .debugInstrument) ∧
  (∀ (s : State) (c up : Nat), ∃ t u v w x : State, exec (.slicePowerUp c) s = .next t ∧ exec (.slicePowerDown c) s = .next u ∧
    exec .porTaken s = .next v ∧ exec .resetNTaken s = .next w ∧ exec (.sliceDomainGood up) s = .next x)

/-- MEASURE_READ, LINE_QUERY, SHINGLE_QUERY, BUNDLE_MAP_READ, POLICY_READ, RIDGE_STATE, PTC_STATUS, PROT_STATUS, REMAP_READ,
SALVAGE_STATUS, SLICE_STATE and PORT_STATE always answer a next state, which differs from the state before in the hub alone, and in what
is sent to another instance over the mesh. (13_command_reference.md, R371, R385.) -/
def Obligations.QueriesChangeOnlyReplies : Prop :=
  ∀ (c : Nat) (i : Instr) (s : State), i ∈ [.measureRead c, .lineQuery c, .shingleQuery c, .bundleMapRead c, .policyRead c, .ridgeState c, .ptcStatus c,
      .protStatus c, .remapRead c, .salvageStatus c, .sliceState c, .portState c] →
    ∃ t : State, exec i s = .next t ∧ ({ t with hub := s.hub, out := s.out, mesh := s.mesh, fresh := s.fresh } : State) = s

/-! ### The machine -/

/-- For every command c and every state whose queue has c at its front, a step is the effect of c on the state with the rest of the
queue. (00_scope.md, 12_command_queues.md.) -/
def Obligations.StepRunsFrontCommand : Prop :=
  ∀ (s : State) (c : Instr) (rest : List Instr), s.pending = c :: rest → step s = exec c { s with pending := rest }

/-- On an empty queue a step in reset changes nothing; out of reset the count of package time rises by one, or stays where the master
omits a tick (R321), and the core clock goes on by the cycles of one tick: two under CLKMODE 10 (R483), else those of a frequency of 800
to 2,400 MHz. Slices, CA ports and ridge units count what they count in every cycle, then the hub starts what is due by itself. Each
slice that waits for the credit of a marker which has left the buffer of the peer may receive it, as a free value says (log 89). While a
slice that switches its microcode still has a thread running, the cycles of its load count from the tick. That a step on an empty queue
is a tick is the choice of the model (log 2). (R317, R321, R483, R20, R412.) -/
def Obligations.EmptyQueueTicks : Prop :=
  ∀ s : State, s.pending = [] →
    (s.rst.inReset = true → step s = .next s) ∧
    (s.rst.inReset = false → ∃ u mhz, 800 ≤ mhz ∧ mhz ≤ 2400 ∧ step s = .next (drainBacklog (startJoins (driveGate (returnMarks u)))) ∧
      u.time = { s.time with
        ptc := if s.time.omit_ then s.time.ptc else s.time.ptc + 1
        omit_ := false
        cycles := s.time.cycles + (if s.rst.clkmode = 2 then 2 else (s.time.frac + mhz) / 1000)
        frac := if s.rst.clkmode = 2 then 0 else (s.time.frac + mhz) % 1000 } ∧
      (s.prot.ucAct = none → u.prot.ucAct = none) ∧
      (∀ c j t, s.prot.ucAct = some (c, j, t) → u.prot.ucAct = some (c, j, if (s.slice j).threadsIdle then t else u.time.cycles)) ∧
      { u with time := s.time, prot := { u.prot with ucAct := s.prot.ucAct }, slices := s.slices, cas := s.cas, rdg := s.rdg } = s)

/-- The rows of the table give no bits: no word decodes to a command, and a state with a word placed in front is the state itself.
(00_scope.md.) -/
def Obligations.NoWordSpellsACommand : Prop :=
  ∀ nbits w : Nat, decodeTableWord nbits w = none ∧ ∀ s : State, s.withFetchWord nbits w = s

/-! ### The cell pool, replies and command packets (12) -/

/-- The header word of a reply holds VALID 1, the opcode of the command answered, the number of reply words that follow, its TAG, the
status and DETAIL in the bits of R359, which cover the whole word; the header of a flush reply has opcode 0, LEN 1, TAG 0 and the code
of the queue in DETAIL, and one word with the packets discarded, saturating at 0xFFFF, and the marks COLLECTED and TRUNCATED follows; no
command uses the opcodes 0x00 and 0x7F. (R359, R360.) -/
def Obligations.ReplyHeaderLayout : Prop :=
  (∀ op len tag st d : Nat, op < 128 → len < 256 → tag < 65536 → st < 256 → d < 2 ^ 24 →
    let h := replyHeader op len tag st d
    bit h 63 = true ∧ fld h 56 7 = op ∧ fld h 48 8 = len ∧ fld h 32 16 = tag ∧ fld h 24 8 = st ∧ fld h 0 24 = d) ∧
  (∀ (s : State) (k : Kcp) (st d : Nat) (ws : List W64), k.remote = none → s.hub.rebuild = none →
    s.hub.fits (rplqOf k.win) (ws.length + 1) = true → s.hub.awaits (rplqOf k.win) = false →
    ∃ p : QPkt, ((finish k st d ws s).hub.queue (rplqOf k.win)).waiting = (s.hub.queue (rplqOf k.win)).waiting ++ [p] ∧
      p.cells.map (fun c => c.data) = replyHeader k.op.toNat ws.length k.tag.toNat st d :: ws) ∧
  (∀ (q : QCode) (f : FlushSt), ∃ w : W64, flushReply q f = [replyHeader 0 1 0 stFlushed (qCode q), w] ∧ qCode q < 8 ∧
    fld w 0 16 = Nat.min f.pkts 0xFFFF ∧ fld w 16 16 = 0 ∧ bit w 32 = f.collected ∧ bit w 33 = f.truncated ∧ fld w 34 30 = 0) ∧
  (∀ s : State, s.inCommandSet 0x00 = false ∧ s.inCommandSet 0x7F = false)

/-- The end of a command of this instance, with the free list intact, room for the reply below the quota of its queue and no reply of
that queue waiting for room, takes it out of progress and appends one packet of its priority to the reply queue of its window: the
header of R359, then the words, the end mark on the last word alone (R365, R371). The other five queues, both windows and every part of
the block but the hub stay. Without one of these the reply waits in the hub, whole and in order, until it can be written (R367, R377;
that a reply without room waits is the reading of the model, log 100). The reply of a command forwarded from another instance goes back
to it instead, over MGT, when a ridge link leads there (R289, R385). (R289, R359, R366, R367, R370, R371, R377, R385.) -/
def Obligations.FinishWritesReply : Prop :=
  ∀ (s : State) (k : Kcp) (st d : Nat) (ws : List W64),
    (k.remote = none → s.hub.rebuild = none → s.hub.fits (rplqOf k.win) (ws.length + 1) = true → s.hub.awaits (rplqOf k.win) = false →
      ∃ h : HubSt, finish k st d ws s = { s with hub := h } ∧
        h.inProg = lremove (fun x => x.id == k.id) s.hub.inProg ∧
        (∃ p : QPkt, (h.queue (rplqOf k.win)).waiting = (s.hub.queue (rplqOf k.win)).waiting ++ [p] ∧
          p.prio = k.prio.toNat ∧ p.grey = false ∧
          p.cells.map (fun c => c.data) = replyHeader k.op.toNat ws.length k.tag.toNat st d :: ws ∧
          p.cells.map (fun c => c.fin) = List.replicate ws.length false ++ [true] ∧
          ∀ c ∈ p.cells, c.ptag = false ∧ c.par = parOf c.data) ∧
        (h.queue (rplqOf k.win)).begun = (s.hub.queue (rplqOf k.win)).begun ∧
        (∀ q, q ≠ rplqOf k.win → h.queue q = s.hub.queue q) ∧ h.host = s.hub.host ∧ h.mgm = s.hub.mgm) ∧
    (k.remote = none → (s.hub.rebuild ≠ none ∨ s.hub.fits (rplqOf k.win) (ws.length + 1) = false ∨ s.hub.awaits (rplqOf k.win) = true) →
      finish k st d ws s = { s with hub := { s.hub with
        inProg := lremove (fun x => x.id == k.id) s.hub.inProg
        waiting := s.hub.waiting ++
          [.packet (rplqOf k.win) k.prio.toNat false (replyHeader k.op.toNat ws.length k.tag.toNat st d :: ws)] } }) ∧
    (∀ i ref, k.remote = some (i, ref) →
      let gone : State := { s with hub := { s.hub with inProg := lremove (fun x => x.id == k.id) s.hub.inProg } }
      let u := finish k st d ws s
      (s.inst ≠ i → s.peerPort i.toNat = none → u = gone) ∧
      (s.inst ≠ i → s.peerPort i.toNat ≠ none → u.out = s.out ++ [.mgt i (.fwdReply ref (BitVec.ofNat 8 st) (BitVec.ofNat 24 d) ws)] ∧
        { u with out := s.out, mesh := s.mesh, fresh := s.fresh } = gone))

/-- An admitted write of CMD_DATA_HI, or of CMD_END_HI with an end mark, pushes one word: CMD_DATA_LO below, the written value above.
During a rebuild of the free list the word waits. A partly written command whose window has pushed no word for 1,000,000 ticks is
closed: its cells are free, and it is answered POISONED 0x2, or, when a flush collects it, the flush notes that it was truncated. A
reply to a forwarded command is written through its sender; without one for 10,000,000 ticks the command returns FAILED 0x3; a command
that another instance forwards is in progress here with the reference under which its reply goes back, when it is one of those that R385
forwards (POLICY commands 0x27 and 0x28, 0x3B, and 0x39 or 0x3A of the kind 2); another opcode is not taken (the choice of the model,
log 15). (R349, R364, R365, R377, R379, R380, R385.) -/
def Obligations.WordsAndForwardedCommands : Prop :=
  (∀ (s : State) (w : Window) (v : BitVec 32) (priv : Bool), s.rst.inReset = false → (w = .hostp → priv = true) →
     let a := s.answer w false 0
     let word : W64 := v ++ (s.hub.win w).cmdLo
     (s.hub.rebuild = none →
       exec (.cmdDataHi w v priv) s = .next { a with hub := storeWord w word false s.now a.hub } ∧
       exec (.cmdEndHi w v priv) s = .next { a with hub := closePacket w (storeWord w word true s.now a.hub) }) ∧
     (s.hub.rebuild ≠ none →
       exec (.cmdDataHi w v priv) s = .next { a with hub := { a.hub with waiting := a.hub.waiting ++ [.push w word false] } } ∧
       exec (.cmdEndHi w v priv) s = .next { a with hub := { a.hub with waiting := a.hub.waiting ++ [.push w word true] } })) ∧
  (∀ (s : State) (w : Window) (o : OpenPkt), (s.hub.win w).opn = some o → o.last + 1000000 ≤ s.now →
     let h := (s.hub.setWin w { s.hub.win w with opn := none }).release o.cells
     let prio : Nat := if bit o.hdr 63 ∧ fld o.hdr 48 8 ≤ 64 then fld o.hdr 30 2 else 0
     let reply : W64 := replyHeader (fld o.hdr 56 7) 0 (fld o.hdr 32 16) stPoisoned 2
     (o.collect = false → exec (.cmdTruncate w) s = .next { s with hub := h.writePacket (rplqOf w) prio false [reply] }) ∧
     (o.collect = true → exec (.cmdTruncate w) s = .next
       { s with hub := h.setWin w { h.win w with flushCmd := (h.win w).flushCmd.map (fun f => { f with truncated := true }) } })) ∧
  (∀ (s : State) (c : Nat) (k : Kcp) (t : Nat) (st : BitVec 8) (d : BitVec 24) (ws : List W64) (src : BitVec 3) (ref : Nat) (hd : W64),
     (s.cmd c = some k → k.fwd = some t →
       exec (.forwardedReply c st d ws) s = .next (finish k st.toNat d.toNat ws s)) ∧
     (s.cmd c = some k → k.fwd = some t → t + 10000000 ≤ s.now →
       exec (.forwardTimeout c) s = .next (finish k stFailed 3 [] s)) ∧
     (let op := fld hd 56 7
      let forwards := op = 0x27 ∨ op = 0x28 ∨ op = 0x3B ∨ ((op = 0x39 ∨ op = 0x3A) ∧ fld (ws.headD 0) 0 8 = 2)
      (¬forwards → exec (.forwardedCommand src ref hd ws) s = .next s) ∧
      (forwards → exec (.forwardedCommand src ref hd ws) s = .next { s with hub := { s.hub with
       nextCmd := s.hub.nextCmd + 1
       inProg := s.hub.inProg ++ [{
         id := s.hub.nextCmd
         win := .mgmtp
         op := BitVec.ofNat 7 (fld hd 56 7)
         tag := BitVec.ofNat 16 (fld hd 32 16)
         prio := BitVec.ofNat 2 (fld hd 30 2)
         flags := BitVec.ofNat 6 (fld hd 24 6)
         target := BitVec.ofNat 8 (fld hd 16 8)
         ps := ws
         remote := some (src, ref) }] } })))

/-- A packet that reaches its end mark is discarded with LEN_EXCEEDS when LEN is above 64, with MALFORMED when VALID is 0 or the end
mark is not on word LEN, with BUSY 0x10 when it overran its queue; one that a flush collects is discarded without a reply; any other
becomes the youngest waiting packet of its queue with the priority of its header. From READY onwards, with fewer than 16 commands of the
queue in progress and 264 cells free in the reply queue, the sequencer takes the packet of the highest priority, the oldest within it. A
poisoned word gives POISONED 1, an opcode outside the set BAD_OPCODE, a failing check of R382 its status and DETAIL; a packet that
passes is in progress with the fields of its header. (R358, R365, R367, R370, R374, R379, R381, R382.) -/
def Obligations.PacketsAreCheckedAndTaken : Prop :=
  (∀ (h : HubSt) (w : Window) (o : OpenPkt), (h.win w).opn = some o →
     let h0 := h.setWin w { h.win w with opn := none }
     let fail (st d : Nat) : HubSt := (h0.release o.cells).writePacket (rplqOf w)
       (if bit o.hdr 63 ∧ fld o.hdr 48 8 ≤ 64 then fld o.hdr 30 2 else 0) false
       [replyHeader (fld o.hdr 56 7) 0 (fld o.hdr 32 16) st d]
     let form : Nat := fld o.hdr 48 8 + Nat.min (o.count - 1) 0xFFFF * 256
     (o.collect = false → 64 < fld o.hdr 48 8 → closePacket w h = fail stLenExceeds form) ∧
     (o.collect = false → fld o.hdr 48 8 ≤ 64 → (bit o.hdr 63 = false ∨ o.count - 1 ≠ fld o.hdr 48 8) →
       closePacket w h = fail stMalformed form) ∧
     (o.collect = false → fld o.hdr 48 8 ≤ 64 → bit o.hdr 63 = true → o.count - 1 = fld o.hdr 48 8 →
       closePacket w h = if o.overrun then fail stBusy 0x10 else h0.enqueue (cmdqOf w) (fld o.hdr 30 2) false o.cells) ∧
     (o.collect = true → ((closePacket w h).queue (cmdqOf w)).waiting = (h.queue (cmdqOf w)).waiting ∧
       ((closePacket w h).queue (rplqOf w)).waiting = (h.queue (rplqOf w)).waiting)) ∧
  (∀ (s : State) (w : Window) (p : QPkt), s.rst.ready = true → s.hub.inProgressOf w < 16 →
     s.hub.cellsHeld (rplqOf w) + 264 ≤ (s.hub.queue (rplqOf w)).quota.toNat → (s.hub.win w).flushCmd = none → s.hub.rebuild = none →
     s.hub.linkBad ≠ some (cmdqOf w) → bestPkt (s.hub.queue (cmdqOf w)).waiting = some p →
     let k : Kcp := { kcpOf s.hub.nextCmd w (p.cells.map (fun c => c.data)) with prio := BitVec.ofNat 2 p.prio }
     let s1 := raiseAll (cellEvents (cmdqOf w) s.hub p.cells)
       { s with hub := (s.hub.setQueue (cmdqOf w) ((s.hub.queue (cmdqOf w)).without p)).release p.cells }
     exec (.kcpTake w) s = .next (
       if p.cells.any (fun c => c.ptag || s.hub.cellBad c) then finish k stPoisoned 1 [] s1
       else if s1.inCommandSet k.opc = false then finish k stBadOpcode 0 [] s1
       else match commandCheck k s1 with
         | some (st, d) => finish k st d [] s1
         | none => { s1 with hub := { s1.hub with inProg := s1.hub.inProg ++ [k], nextCmd := s1.hub.nextCmd + 1 } }))

/-- An admitted read of a DATA_LO register by the owner of its queue, with the free list intact, returns the next word of the packet
begun; when none is begun it begins the waiting packet of the highest priority, the oldest within it; with none waiting it returns the
idle item. During a rebuild of the free list the read waits. The low half is returned, the high half and the tags END, POISON and IDLE
are latched. A read by a window that is not the owner returns the idle item and pops nothing. What waits for room in the queues goes on
afterwards. An admitted write of a flush field that is not pending, of the window that reads the queue, discards the waiting packets at
once and is pending with their number; a flush of the command queue collects the packet being written; a flush of EVQ or LOFT clears its
drop count. When no packet of the queue is begun and no packet is collected any more, FLUSH_COMPLETE writes the two words of R360 with
priority 3 and the flush is over. (R360, R366, R371, R372, R373, R374, R376, R377, R378, R379.) -/
def Obligations.QueuesArePoppedAndFlushed : Prop :=
  (∀ (s : State) (w : Window) (q : QSel) (priv : Bool), s.rst.inReset = false → (w = .hostp → priv = true) →
     let qc := selQueue w q
     let a := s.answer w false 0
     (s.hub.rebuild ≠ none → exec (.queuePop w q priv) s = .next { a with hub := { a.hub with waiting := a.hub.waiting ++ [.pop w q] } }) ∧
     (s.hub.rebuild = none →
     let idle : State := { a with hub := latchPop w q 0 4 a.hub }
     let got (c : Cell) (rest : List Cell) (h : HubSt) : State :=
       let left : HubSt := (h.setQueue qc { h.queue qc with begun := if c.fin then none else some rest }).release [c]
       raiseAll (cellEvents qc h [c]) { a with hub := latchPop w q c.data (pack 3 [(0, b2n c.fin), (1, b2n (c.ptag || h.cellBad c))]) left }
     (s.hub.owns w q = false → exec (.queuePop w q priv) s = .next (resume idle)) ∧
     (s.hub.owns w q = true → s.hub.linkBad ≠ some qc → ∀ c rest,
       (s.hub.queue qc).begun = some (c :: rest) → exec (.queuePop w q priv) s = .next (resume (got c rest a.hub))) ∧
     (s.hub.owns w q = true → s.hub.linkBad ≠ some qc → (s.hub.queue qc).begun = none → ∀ p c rest,
       bestPkt (s.hub.queue qc).waiting = some p → p.cells = c :: rest →
       exec (.queuePop w q priv) s = .next (resume (got c rest
         (a.hub.setQueue qc { (a.hub.queue qc).without p with begun := some (c :: rest) })))) ∧
     (s.hub.owns w q = true → s.hub.linkBad ≠ some qc → (s.hub.queue qc).begun = none → bestPkt (s.hub.queue qc).waiting = none →
       exec (.queuePop w q priv) s = .next (resume idle)) ∧
     (s.hub.owns w q = true → s.hub.linkBad = some qc → exec (.queuePop w q priv) s = .next (resume (loseQueue qc idle)))) ∧
     (∀ t : State, t.hub.rebuild = none → t.hub.waiting = [] → resume t = drainBacklog t)) ∧
  (∀ (s : State) (w : Window) (priv : Bool), s.rst.inReset = false → (w = .hostp → priv = true) →
     let a := s.answer w false 0
     let gone (q : QCode) : HubSt := (a.hub.setQueue q { a.hub.queue q with waiting := [] }).release
       ((s.hub.queue q).waiting.flatMap (fun p => p.cells))
     let n (q : QCode) : FlushSt := { pkts := (s.hub.queue q).waiting.length }
     let flushed (q : QCode) (f : Win → Win) : HubSt := (gone q).setWin w (f ((gone q).win w))
     let collected : Option OpenPkt := (s.hub.win w).opn.map (fun o => { o with collect := true })
     ((s.hub.win w).flushCmd = none → exec (.qFlushCmdq w priv) s =
       .next { a with hub := flushed (cmdqOf w) (fun x => { x with flushCmd := some (n (cmdqOf w)), opn := collected }) }) ∧
     ((s.hub.win w).flushRpl = none → exec (.qFlushRplq w priv) s =
       .next (resume { a with hub := flushed (rplqOf w) (fun x => { x with flushRpl := some (n (rplqOf w)) }) })) ∧
     ((s.hub.win w).flushEvq = none → s.hub.owns w .evq = true → exec (.qFlushEvq w priv) s =
       .next (resume { a with
         err := { s.err with evqDrop := 0 }
         hub := flushed .evq (fun x => { x with flushEvq := some (n .evq) }) })) ∧
     ((s.hub.win w).flushLoft = none → s.hub.owns w .loft = true → exec (.qFlushLoft w priv) s =
       .next { a with
         err := { s.err with loftDrop := 0 }
         hub := flushed .loft (fun x => { x with flushLoft := some (n .loft) }) }) ∧
     (∀ f x, (s.hub.win w).flushOf f = some x → (s.hub.queue (flushQueue w f)).begun = none →
       (f = .cmdq → ∀ o, (s.hub.win w).opn = some o → o.collect = false) →
       let reply : List W64 := [replyHeader 0 1 0 stFlushed (qCode (flushQueue w f)),
         pack 64 [(0, Nat.min x.pkts 0xFFFF), (32, b2n x.collected), (33, b2n x.truncated)]]
       exec (.flushComplete w f) s =
         .next { s with hub := (s.hub.setWin w ((s.hub.win w).setFlush f none)).writePacket (rplqOf w) 3 false reply }))

/-- A write of QOWNER asks for new owners, which take effect when no packet of that queue is begun. A written quota takes effect and
clears REJ when it is a multiple of 64, at least the minimum of the queue, and the six quotas sum to no more than 16,384; any other sets
REJ and keeps the quota; what waits for room goes on under the new quota. At the end of a rebuild the accesses that waited are done in
order, then the events and replies that waited are written. Outside the user page an access through HOSTP without privilege, and every
access while the block is in reset, is answered with an error and data zero, and nothing else changes. (R349, R351, R369, R372, R377,
R500.) -/
def Obligations.OwnersQuotasAndRefusals : Prop :=
  (∀ (s : State) (v : BitVec 32) (priv : Bool) (q : QCode), s.rst.inReset = false →
     let a := s.answer .mgmtp false 0
     let n := fld v 0 15
     let least : QCode → Nat
       | .hcq | .mcq => 128
       | .hrq | .mrq => 320
       | .evq => 256
       | .loft => 0
     let sum := s.hub.hcq.quota.toNat + s.hub.mcq.quota.toNat + s.hub.hrq.quota.toNat + s.hub.mrq.quota.toNat + s.hub.evq.quota.toNat +
       s.hub.loft.quota.toNat
     exec (.qownerWrite .mgmtp v priv) s = .next { a with hub := { a.hub with evqWant := bit v 0, loftWant := bit v 1 } } ∧
     (s.hub.evq.begun = none → exec (.queueOwnerSwitch .evq) s = .next { s with hub := { s.hub with evqOwn := s.hub.evqWant } }) ∧
     (s.hub.loft.begun = none → exec (.queueOwnerSwitch .loft) s = .next { s with hub := { s.hub with loftOwn := s.hub.loftWant } }) ∧
     (s.hub.evq.begun ≠ none → exec (.queueOwnerSwitch .evq) s = .next s) ∧
     (s.hub.loft.begun ≠ none → exec (.queueOwnerSwitch .loft) s = .next s) ∧
     exec (.quotaWrite .mgmtp q v priv) s = .next (resume
       { a with hub := a.hub.setQueue q (if n % 64 = 0 ∧ least q ≤ n ∧ sum - (s.hub.queue q).quota.toNat + n ≤ 16384
         then { a.hub.queue q with quota := BitVec.ofNat 15 n, rej := false } else { a.hub.queue q with rej := true }) }) ∧
     (s.hub.rebuild ≠ none → exec .cellPoolRebuildDone s =
       .next (drainBacklog (s.hub.waiting.foldl runWaiting { s with hub := { s.hub with rebuild := none, waiting := [] } }))) ∧
     (s.hub.rebuild = none → exec .cellPoolRebuildDone s = .next s)) ∧
  (∀ (s : State) (w : Window) (priv : Bool) (v : BitVec 32), (s.rst.inReset = true ∨ (w = .hostp ∧ priv = false)) →
     let no := Host.Outcome.next (φ := Fault) (ρ := Refusal) { s with hub := s.hub.setWin w { s.hub.win w with err := true, rdata := 0 } }
     exec (.cmdDataHi w v priv) s = no ∧ exec (.cmdEndHi w v priv) s = no ∧ (∀ q, exec (.queuePop w q priv) s = no) ∧
     exec (.qFlushCmdq w priv) s = no ∧ exec (.qFlushRplq w priv) s = no ∧ exec (.qFlushEvq w priv) s = no ∧
     exec (.qFlushLoft w priv) s = no ∧ exec (.qownerWrite w v priv) s = no ∧ (∀ q, exec (.quotaWrite w q v priv) s = no) ∧
     exec (.errpinWrite w v priv) s = no ∧ (∀ pq, exec (.regionCommit w v pq priv) s = no) ∧ exec (.perfctlWrite w v priv) s = no ∧
     exec (.snpTimeoutWrite w v priv) s = no ∧ (∀ r, exec (.halfLatchRead w r priv) s = no) ∧ exec (.perfCapture w false priv) s = no ∧
     (∀ off : BitVec 16, off.toNat < 0xF000 → exec (.registerWrite w off v priv) s = no))

/-! ### Registers (18) -/

/-- A write of 1 to the drive bit raises ERR_OUT at once and withdraws a deferred write; a write of 0 lowers it, or during a pulse is
deferred to its end; a write in the cycle in which an error has raised the pin, or a HOSTP write in the cycle of a MGMTP write, changes
nothing of it (R530, R534). At the end of the pulse a deferred write takes effect and the pin follows the drive bit. A snoop timeout
from 10 to 10,000 takes effect; any other is reserved and keeps the value. An admitted read of the _LO location of the admission mask
(of the ridge ports that the configuration has), of the address or the PTC of the first-error capture, or of the slice mask returns bits
[31:0], and keeps bits [63:32] in the holding register of that window, so that the two halves spell the value. Before the firmware step
of bring-up is done, the value of every one of them but the slice mask is that of its reset. A capture puts the selected counter, its
overflow bit and the count of package time into the read registers; a counter that the configuration lacks reads as none. Before the
firmware step of bring-up is done a capture reads zero and captures nothing (R500). A privileged HOSTP write opens or closes the user
page. PERF_CONFIG applies its words in order to the counters of every unit that it names, and replies OK. (R8, R356, R420, R452, R500,
R515, R522, R525, R527, R529, R530, R534.) -/
def Obligations.ReadsOfRegisters : Prop :=
  (∀ (s : State) (w : Window) (v : BitVec 32) (priv : Bool),
     (s.rst.inReset = false → (w = .hostp → priv = true) →
       exec (.errpinWrite w v priv) s = .next { s.answer w false 0 with err :=
         { (if s.err.raisedAt = some s.time.cycles ∨ (w = .hostp ∧ s.err.mgmtAt = some s.time.cycles) then s.err
            else if bit v 0 then { s.err with drive := true, pin := true, deferW := false }
            else if s.err.pulseEnd.isSome then { s.err with deferW := true } else { s.err with drive := false, pin := false }) with
           mgmtAt := if w = .mgmtp then some s.time.cycles else s.err.mgmtAt } }) ∧
     (∀ t, s.err.pulseEnd = some t → t ≤ s.now → exec .errOutPulseEnd s = .next { s with err := { s.err with
       pulseEnd := none
       deferW := false
       drive := s.err.drive && !s.err.deferW
       pin := s.err.drive && !s.err.deferW } }) ∧
     (s.rst.inReset = false → exec (.snpTimeoutWrite .mgmtp v priv) s = .next
       { s.answer .mgmtp false 0 with hub := { (s.answer .mgmtp false 0).hub with
         snpTo := if 10 ≤ fld v 0 16 ∧ fld v 0 16 ≤ 10000 then v.extractLsb' 0 16 else s.hub.snpTo } }) ∧
     (s.rst.inReset = false → priv = true → exec (.snpTimeoutWrite .hostp v priv) s = .next (s.answer .hostp false 0))) ∧
  (∀ (s : State) (w : Window) (r : HalfReg) (priv : Bool), s.rst.inReset = false → (w = .hostp → priv = true) →
     ∃ t, exec (.halfLatchRead w r priv) s = .next t ∧ (t.hub.win w).err = false ∧
       (let u := if 5 ≤ s.rst.step then s else { State.reset with gh := s.gh }
       let v : W64 := match r with
         | .admitMask => u.prot.admitMask &&& BitVec.ofNat 64 (2 ^ (8 * s.gh.ridgePorts) - 1)
         | .ferrAddr => u.err.ferr.addr.setWidth 64
         | .ferrPtc => u.err.ferr.ptc
         | .slicemask => s.rst.sliceMask
       let hi : BitVec 32 := match r with
         | .admitMask => (t.hub.win w).admitHi
         | .ferrAddr => (t.hub.win w).faddrHi
         | .ferrPtc => (t.hub.win w).fptcHi
         | .slicemask => (t.hub.win w).smaskHi
       hi ++ (t.hub.win w).rdata = v) ∧
       { t with hub := s.hub } = s ∧ (∀ w', w' ≠ w → t.hub.win w' = s.hub.win w') ∧
       (∀ q, t.hub.queue q = s.hub.queue q)) ∧
  (∀ (s : State) (w : Window) (v : BitVec 32) (priv : Bool) (c : Nat) (k : Kcp),
     (s.rst.inReset = false → s.rst.step < 5 → (w = .hostp → priv = true) → exec (.perfCapture w false priv) s = .next (s.answer w false 0)) ∧
     (s.rst.inReset = false → s.rst.step < 5 → s.hub.perfUser = true → exec (.perfCapture .hostp true priv) s = .next (s.answer .hostp false 0)) ∧
     (s.rst.inReset = false → 5 ≤ s.rst.step → (w = .hostp → priv = true) → ∃ t p, exec (.perfCapture w false priv) s = .next t ∧
       (t.hub.win w).perf = p ∧ (t.hub.win w).rdata = p.lo ∧ p.stamp = s.time.ptc ∧ p.cls = (s.hub.win w).perf.cls ∧
       (match selectCtr (s.hub.win w).perf s with
        | none => p.lo = 0 ∧ bit p.hi 30 = true ∧ bit p.hi 31 = false
        | some x => p.lo = x.val.extractLsb' 0 32 ∧ p.hi.extractLsb' 0 16 = x.val.extractLsb' 32 16 ∧ bit p.hi 31 = x.ovf ∧ bit p.hi 30 = false)) ∧
     (s.rst.inReset = false → 5 ≤ s.rst.step → s.hub.perfUser = true → ∃ t, exec (.perfCapture .hostp true priv) s = .next t ∧
       t.hub.user.stamp = s.time.ptc ∧ t.hub.host.rdata = t.hub.user.lo ∧ { t with hub := s.hub } = s) ∧
     (s.rst.inReset = false → priv = true → exec (.perfctlWrite .hostp v priv) s =
       .next { s.answer .hostp false 0 with hub := { (s.answer .hostp false 0).hub with perfUser := bit v 0 } }) ∧
     (s.rst.inReset = false → exec (.perfctlWrite .mgmtp v priv) s = .next (s.answer .mgmtp false 0)) ∧
     (s.newCmd c 0x70 = some k → exec (.perfConfig c) s =
       .next (finish k stOk 0 [] ((perfUnits s.gh k).foldl (configUnit k) s))))

/-- An admitted write replaces what is writable at its offset: CMD_DATA_LO; PERF_SEL, whose reserved CLASS keeps the previous one;
RSTCAUSE, whose bits a 1 clears, through MGMTP; BOOT_PUSH_LO through MGMTP; a staging entry of the region table through MGMTP, whose
reserved bits stay zero; and PERFU_SEL of an open user page. A write through MGMTP to an offset that no register of the write map takes
changes nothing but the answer of the access: the identification registers and every read-only register keep their values. (R8, R11,
R31, R351, R487, R521, R527, R536.) -/
def Obligations.WritesOfRegisters : Prop :=
  (∀ (s : State) (v : BitVec 32) (priv : Bool), s.rst.inReset = false → 5 ≤ s.rst.step →
     let sel (p : PerfWin) : PerfWin :=
       { p with cls := if 3 < fld v 0 3 then p.cls else v.extractLsb' 0 3, unit := v.extractLsb' 8 7, ctr := v.extractLsb' 16 4 }
     (∀ w : Window, (w = .hostp → priv = true) →
       let a := s.answer w false 0
       exec (.registerWrite w 0x0100 v priv) s = .next { a with hub := a.hub.setWin w { a.hub.win w with cmdLo := v } } ∧
       exec (.registerWrite w 0x0300 v priv) s = .next { a with hub := a.hub.setWin w { a.hub.win w with perf := sel (s.hub.win w).perf } }) ∧
     (let a := s.answer .mgmtp false 0;
       exec (.registerWrite .mgmtp 0x0024 v priv) s = .next { a with rst := { s.rst with
         cPor := s.rst.cPor && !bit v 0
         cPin := s.rst.cPin && !bit v 1
         cDirty := s.rst.cDirty && !bit v 2
         cTrim := s.rst.cTrim && !bit v 3 } } ∧
       exec (.registerWrite .mgmtp 0x0030 v priv) s = .next { a with rst := { s.rst with bootLo := v } } ∧
       (∀ n < 128, ∃ m, exec (.registerWrite .mgmtp (BitVec.ofNat 16 (0x1000 + 4 * n)) v priv) s =
           .next { a with map := { s.map with stage := m } } ∧
         (∀ j < 32, j ≠ n / 4 → regionAt m j = regionAt s.map.stage j) ∧
         regionAt m (n / 4) = (
           let e := regionAt s.map.stage (n / 4)
           let put (x mask : W64) : W64 := (if n % 2 = 1 then v ++ x.extractLsb' 0 32 else x.extractLsb' 32 32 ++ v) &&& mask
           if n % 4 < 2 then (put e.1 0x803FFFFF003FFFFF#64, e.2) else (e.1, put e.2 0x000007F7FFFFFF1F#64)))) ∧
     (s.hub.perfUser = true → exec (.registerWrite .hostp 0xF000 v priv) s =
       .next { s.answer .hostp false 0 with hub := { (s.answer .hostp false 0).hub with user := sel s.hub.user } })) ∧
  (∀ (s : State) (off : BitVec 16) (v : BitVec 32) (priv : Bool),
     off ≠ 0x0100 → off ≠ 0x0300 → off ≠ 0x0024 → off ≠ 0x0030 → (off < 0x1000 ∨ 0x1200 ≤ off) →
     ∃ e, exec (.registerWrite .mgmtp off v priv) s = .next { s with hub := { s.hub with mgm := { s.hub.mgm with err := e, rdata := 0 } } })

/-- While no commit is in progress, a write of GO through MGMTP checks the staging table: a table that breaks the format is rejected
with REJECT_FORMAT, one that changes live granules while an agent is not quiesced with REJECT_LIVE, one that overlaps a change of a
lower instance ID with LOST_TO_PEER, each changing nothing else; one accepted is carried to the members with an activation tick at least
10,000 ticks ahead. At its tick the armed table is active, RGEN has risen by one, and a commit that started here reports ACCEPTED. (R35,
R36, R37, R38, R39, R315, R531.) -/
def Obligations.RegionTableCommits : Prop :=
  ∀ (s : State) (v : BitVec 32) (pq priv : Bool), s.rst.inReset = false →
    let a := s.answer .mgmtp false 0
    (bit v 0 = true → s.map.commit = none → regionFormatBad s s.map.stage = true →
      exec (.regionCommit .mgmtp v pq priv) s = .next { a with map := { s.map with result := 1 } }) ∧
    (bit v 0 = true → s.map.commit = none → regionFormatBad s s.map.stage = false → regionOnlyAdds s.map.active s.map.stage = false →
      (s.unquiesced ≠ 0 ∨ pq = false) → exec (.regionCommit .mgmtp v pq priv) s = .next { a with map := { s.map with result := 2 } }) ∧
    (bit v 0 = true → s.map.commit = none → regionFormatBad s s.map.stage = false →
      (regionOnlyAdds s.map.active s.map.stage = true ∨ (s.unquiesced = 0 ∧ pq = true)) → (∀ h, s.pendingHold .region = some h → s.self ≤ h.chg.issuer.toNat) →
      ∃ t tick, exec (.regionCommit .mgmtp v pq priv) s = .next t ∧ t.map.commit = some { tbl := s.map.stage, tick := tick } ∧
        s.ptcNow + 10000 ≤ tick ∧ t.map.active = s.map.active ∧ t.map.rgen = s.map.rgen) ∧
    ((bit v 0 = false ∨ s.map.commit ≠ none) → exec (.regionCommit .mgmtp v pq priv) s = .next a) ∧
    (bit v 0 = true → s.map.commit = none → regionFormatBad s s.map.stage = false →
      (regionOnlyAdds s.map.active s.map.stage = true ∨ (s.unquiesced = 0 ∧ pq = true)) →
      (∃ h, s.pendingHold .region = some h ∧ h.chg.issuer.toNat < s.self) →
      exec (.regionCommit .mgmtp v pq priv) s = .next { a with map := { s.map with result := 3 } }) ∧
    (∀ h l, s.dueHold .region = some h → h.chg.payload = .region l → l.length ≤ 32 →
      ∃ t, exec .regionTableActivate s = .next t ∧ t.map.rgen = s.map.rgen + 1 ∧
        (∀ n, regionAt t.map.active n = l.getD n (0, 0)) ∧
        (h.chg.issuer = s.inst → t.map.commit = none ∧ t.map.result = 0) ∧
        (h.chg.issuer ≠ s.inst → t.map.commit = s.map.commit ∧ t.map.result = s.map.result) ∧ t.slices = s.slices ∧ t.cas = s.cas)

/-! ### Hub commands: identification, errors, repair, scrubbing (13) -/

/-- ECHO replies OK with its parameter words unchanged, in order. IDENTIFY replies OK with the versions 3.1, the configuration, the
instance, the role, the straps, the slice count and the members, the slice mask, and the firmware and microcode versions.
ERR_SEVERITY_SET sets the ERR_OUT threshold or, word by word, the severities of the sources named. ERR_LOG_READ replies the four words
of the capture and, when asked, the counts of the sources. FERR_CLEAR clears the capture whose PTC is given and returns its overflow
count; with no capture it returns 0; with another PTC it conflicts and clears nothing. (R381, R387, R413, R414, R415, R448, R449, R532.)
-/
def Obligations.EchoIdentifyAndErrors : Prop :=
  (∀ (s : State) (c : Nat) (k : Kcp),
     (s.newCmd c 0x01 = some k → exec (.echo c) s = .next (finish k stOk 0 k.ps s)) ∧
     (s.newCmd c 0x02 = some k → exec (.identify c) s = .next (finish k stOk 0
       [pack 64 [(0, 0x31), (8, 0x31), (16, s.gh.code), (18, s.inst.toNat), (21, b2n s.tmcap), (22, s.rst.role.toNat),
         (24, s.rst.boot.toNat), (26, b2n s.rst.test), (27, b2n s.rst.field), (28, s.enabledSlices.length), (40, s.pkg.members.toNat)],
        s.rst.sliceMask, pack 64 [(0, s.rst.fwVer.toNat), (32, s.rst.ucVer.toNat)]] s))) ∧
  (∀ (s : State) (c : Nat) (k : Kcp),
     (s.newCmd c 0x60 = some k → k.flag 0 = true → exec (.errSeveritySetThreshold c) s =
       .next (finish k stOk 0 [] { s with err := { s.err with thr := (k.par 0).extractLsb' 0 3 } })) ∧
     (s.newCmd c 0x60 = some k → k.flag 0 = false → exec (.errSeveritySet c) s =
       .next (finish k stOk 0 [] { s with err := { s.err with
         sev := k.ps.foldl (fun t v => tset sevDefault (fld v 0 6) (v.extractLsb' 8 3) t) s.err.sev } })) ∧
     (s.newCmd c 0x61 = some k → exec (.errLogRead c) s = .next (finish k stOk 0 (
       [pack 64 [(0, s.err.ferr.addr.toNat), (63, b2n s.err.ferr.valid)],
        pack 64 [(0, s.err.ferr.mtype.toNat), (4, s.err.ferr.mid.toNat), (16, s.err.ferr.acc.toNat), (20, s.err.ferr.src.toNat),
          (26, s.err.ferr.sev.toNat), (32, s.err.ferr.inst.toNat)],
        s.err.ferr.ptc, s.err.ferr.ovf.setWidth 64] ++ (if k.flag 0 then countWords s.err else [])) s)) ∧
     (s.newCmd c 0x62 = some k → s.err.ferr.valid = false → exec (.ferrClear c) s = .next (finish k stOk 0 [0] s)) ∧
     (s.newCmd c 0x62 = some k → s.err.ferr.valid = true → s.err.ferr.ptc = k.par 0 → exec (.ferrClear c) s =
       .next (finish k stOk 0 [s.err.ferr.ovf.setWidth 64] { s with err := { s.err with ferr := {} } })) ∧
     (s.newCmd c 0x62 = some k → s.err.ferr.valid = true → s.err.ferr.ptc ≠ k.par 0 → exec (.ferrClear c) s =
       .next (finish k stConflict (fld s.err.ferr.ptc 0 24) [] s)))

/-- REMAP_LOAD conflicts while the bank of the slice it names is not OFF or READY or an agent is not quiesced, and so does one of every
slice while an agent is not quiesced; otherwise it loads its entries in order into the slices they name and replies OK when all fit,
PARTIAL with the counts of loaded and refused when not. REMAP_READ replies the entries of a slice by array and word address, two in a
word. SCRUB_CONFIG sets both intervals of every slice named, and a stopped scrubber is due one interval from now. (R237, R238, R416,
R419.) -/
def Obligations.RepairAndScrubCommands : Prop :=
  ∀ (s : State) (c : Nat) (k : Kcp),
    (s.newCmd c 0x63 = some k → k.tgt ≠ 0xFF →
      let rs := k.ps.flatMap (fun w => (remapOf (w.extractLsb' 0 32)).toList ++ (remapOf (w.extractLsb' 32 32)).toList)
      exec (.remapLoad c) s = .next (
        if 1 < bankCode (s.slice k.tgt).bank ∨ s.unquiesced ≠ 0 then
          finish k stConflict (k.tgt + bankCode (s.slice k.tgt).bank * 64 + (s.unquiesced % 256) * 256) [] s
        else
          let r := loadRemaps rs 0 s
          if r.1 = rs.length then finish k stOk 0 [] r.2
          else finish k stPartial (r.1 % 256 + (rs.length - r.1) * 256) [] r.2)) ∧
    (s.newCmd c 0x63 = some k → k.tgt = 0xFF → s.unquiesced ≠ 0 → ∃ d, exec (.remapLoad c) s = .next (finish k stConflict d [] s)) ∧
    (∀ rs : List Remap, (loadRemaps rs 0 s).1 ≤ rs.length ∧ (∀ j, (∀ r ∈ rs, r.slice.toNat ≠ j) → (loadRemaps rs 0 s).2.slice j = s.slice j)) ∧
    (s.newCmd c 0x64 = some k → exec (.remapRead c) s =
      .next (finish k stOk 0 (pairWords (((s.slice k.tgt).remaps.foldr remapInsert []).map Remap.word)) s)) ∧
    (s.newCmd c 0x67 = some k → ∃ u, exec (.scrubConfig c) s = .next (finish k stOk 0 [] u) ∧
      (∀ j, u.slice j = if j ∈ targetSlices k s then
        { s.slice j with
          sfInt := fld (k.par 0) 0 32
          hcInt := fld (k.par 0) 32 32
          sfDue := if (s.slice j).sfInt = 0 then s.now + fld (k.par 0) 0 32 else (s.slice j).sfDue
          hcDue := if (s.slice j).hcInt = 0 then s.now + fld (k.par 0) 32 32 else (s.slice j).hcDue } else s.slice j) ∧
      { u with slices := s.slices } = s)

/-! ### Slices and ports: state, power and reset (06, 11, 13, 16) -/

/-- SLICE_STATE replies OK with one word for the slice, or for every slice under TARGET 0xFF: its number, state, bank, initialisation,
write-through, shingles, threshold and residency in milliseconds; it changes nothing but the hub. PORT_STATE of a memory port sets its
timeout and its wake delay where the word selects them and replies its two words; of a CA port it sets the enable where selected, which
may start bring-up, and replies its word. (R389, R392, R393.) -/
def Obligations.StateReplies : Prop :=
  (∀ (s : State) (c : Nat) (k : Kcp), s.newCmd c 0x10 = some k →
     exec (.sliceState c) s = .next (finish k stOk 0
       ((if k.tgt = 0xFF then List.range s.gh.slices else [k.tgt]).map (fun j =>
         let v := s.slice j
         let state : Nat := match v.st with
           | .on => 0
           | .off => 1
           | .poweringUp => 2
           | .poweringDown => 3
           | .reset => 4
           | .failed => 5
           | .disabled => 6
         let bank : Nat := match v.bank with
           | .off => 0
           | .ready => 1
           | .on => 2
           | .draining => 3
         pack 64 [(0, j), (6, state), (10, bank), (12, b2n v.hcinit), (13, b2n (v.wt226 || s.map.moves.any (fun m => m.old == j && m.begun))),
           (14, s.shingleCount j), (27, v.thr), (32, Nat.min ((s.now - v.since) / 1000000) (2 ^ 32 - 1))])) s)) ∧
  (∀ (s : State) (c : Nat) (k : Kcp), s.newCmd c 0x18 = some k →
     (k.uclass ≠ 0 → ∃ m, exec (.portState c) s = .next (finish k stOk 0 m.stateWords (if k.ps = [] then s else s.setMp k.tgt m)) ∧
       m = (if k.ps = [] then s.mp k.tgt else { s.mp k.tgt with
         timeout := if bit (k.par 0) 0 then fld (k.par 0) 4 24 else (s.mp k.tgt).timeout
         wakeDelay := if bit (k.par 0) 1 then fld (k.par 0) 32 20 else (s.mp k.tgt).wakeDelay
         never := if bit (k.par 0) 1 then bit (k.par 0) 52 else (s.mp k.tgt).never })) ∧
     (k.uclass = 0 → (k.ps = [] ∨ bit (k.par 0) 0 = false) →
       exec (.portState c) s = .next (finish k stOk 0 [(s.ca k.tgt).stateWord] s)) ∧
     (k.uclass = 0 → k.ps ≠ [] → bit (k.par 0) 0 = true →
       let t := tryBringup k.tgt (s.setCa k.tgt { s.ca k.tgt with enable := bit (k.par 0) 1 })
       exec (.portState c) s = .next (finish k stOk 0 [(t.ca k.tgt).stateWord] t)))

/-- An assert conflicts while the slice is not ON, while a move of it is in progress, or, without FORCE, while it homes shingles.
Without shingles the slice is wiped, in RESET, its wrapper closed, and its buddy writes through; with FORCE a slice that homes shingles
is lost first. A release starts the initialisation of a slice in RESET; at its end the slice is ON with an empty filter and mirror,
unwrapped, and the command replies OK. When the arrays of a slice in RESET have been initialised the slice is ON, its wrapper open, its
filter and mirror empty; its credits go out, its buddy ends write-through, and the release that runs replies OK. PORT_RESET with ASSERT
1 isolates a CA port that is not isolated, and raises MPn_ABORT at a memory port that is not in reset, ending everything outstanding
there; both reply OK. With ASSERT 0 the release of an isolated CA port runs until its scans are done, those of every joined peer among
them, and a memory port whose MPn_ABORT has been high for 16 cycles leaves reset. A port already in the state asked for gives a
conflict. (R338, R347, R391, R394, R454, R502, R503.) -/
def Obligations.SoftResets : Prop :=
  (∀ (s : State) (c : Nat) (k : Kcp), s.newCmd c 0x12 = some k →
     let j := k.tgt
     let v := s.slice j
     let busy : Prop := v.st ≠ .on ∨ s.map.moves.any (fun m => m.old == j || m.new == j) = true ∨ (bit (k.par 0) 1 = false ∧ 0 < s.shingleCount j)
     let detail := slStateCode v.st + 16 * s.shingleCount j
     (bit (k.par 0) 0 = true → busy → exec (.sliceResetAssert c) s = .next (finish k stConflict detail [] s)) ∧
     (bit (k.par 0) 0 = true → ¬busy → s.shingleCount j = 0 →
       ∃ t, exec (.sliceResetAssert c) s = .next (finish k stOk 0 [] t) ∧ (t.slice j).st = .reset ∧ (t.slice j).wrapper = true ∧
         (t.slice j).sf = [] ∧ (t.slice j).hcTag = [] ∧ (t.slice j).txns = [] ∧ (t.slice (buddy j)).wt226 = true) ∧
     (bit (k.par 0) 0 = true → ¬busy → 0 < s.shingleCount j →
       exec (.sliceResetAssert c) s = .next (loseSlice j .forced 0 0 (some k.id)
         ((s.startCmd k id).setSlice j { v with lfsr := 0x5A5A#16 ^^^ BitVec.ofNat 16 j, lfsrRun := false }))) ∧
     (bit (k.par 0) 0 = false → (v.st ≠ .reset ∨ v.lfsrRun = true) →
       exec (.sliceResetRelease c) s = .next (finish k stConflict detail [] s)) ∧
     (bit (k.par 0) 0 = false → v.st = .reset → v.lfsrRun = false →
       exec (.sliceResetRelease c) s = .next ((s.startCmd k id).setSlice j { v with lfsrRun := true }))) ∧
  (∀ (s : State) (j : Nat), (s.slice j).st = .reset → (s.slice j).lfsrRun = true →
     ∃ u, { u with slices := s.slices } = s ∧ (∀ i, i ≠ j → u.slice i = s.slice i) ∧
       (u.slice j).st = .on ∧ (u.slice j).wrapper = false ∧ (u.slice j).clamped = false ∧ (u.slice j).sf = [] ∧ (u.slice j).mirror = [] ∧
       (let t := endWriteThrough (buddy j) (initCredits j u)
        exec (.sliceResetInitDone j) s = .next (match t.hub.inProg.find? (fun k => k.running && k.opc == 0x12 && k.tgt == j) with
          | some k => finish k stOk 0 [] t
          | none => t))) ∧
  (∀ (s : State) (c : Nat) (k : Kcp), s.newCmd c 0x19 = some k →
     (k.uclass = 0 → bit (k.par 0) 0 = true → exec (.portResetCaAssert c) s = .next (
       if (s.ca k.tgt).st = .isolated then finish k stConflict 4 [] s else finish k stOk 0 [] (isolatePort k.tgt s))) ∧
     (k.uclass = 0 → bit (k.par 0) 0 = false → (s.ca k.tgt).st ≠ .isolated →
       exec (.portResetCaRelease c) s = .next (finish k stConflict (caStateCode (s.ca k.tgt).st) [] s)) ∧
     (k.uclass = 0 → bit (k.par 0) 0 = false → (s.ca k.tgt).st = .isolated →
       ∃ u : State, exec (.portResetCaRelease c) s =
           .next (u.slicesUp.foldl (fun s j => cleanPass ((s.ca k.tgt).agents.map (fun a => a.aid)).contains j s) u) ∧
         u.ca k.tgt = { s.ca k.tgt with
           relCmds := (s.ca k.tgt).relCmds ++ [k.id]
           scansDue := if (s.ca k.tgt).relCmds = [] then s.peerMask else (s.ca k.tgt).scansDue } ∧ u.cmd c = some { k with running := true } ∧
         (∀ p, p ≠ k.tgt → u.ca p = s.ca p) ∧ u.slices = s.slices ∧ u.mesh.eject = s.mesh.eject) ∧
     (k.uclass ≠ 0 → bit (k.par 0) 0 = true → exec (.portResetMemAssert c) s = .next (
       if (s.mp k.tgt).inReset then finish k stConflict 1 [] s
       else finish k stOk 0 [] (failAll k.tgt (s.setMp k.tgt { s.mp k.tgt with
         abort := true
         abortFrom := s.time.cycles
         inReset := true
         rdCred := 0
         wrCred := 0 })))) ∧
     (k.uclass ≠ 0 → bit (k.par 0) 0 = false → (s.mp k.tgt).inReset = false →
       exec (.portResetMemRelease c) s = .next (finish k stConflict 0 [] s)) ∧
     (k.uclass ≠ 0 → bit (k.par 0) 0 = false → (s.mp k.tgt).inReset = true → (s.mp k.tgt).abortFrom + 16 ≤ s.time.cycles →
       exec (.portResetMemRelease c) s = .next (finish k stOk 0 []
         (s.setMp k.tgt { s.mp k.tgt with abort := false, inReset := false, failed := false }))))

/-- SLICE_POWER conflicts with the first of the reasons of R390 that holds, and with the residency that is left; with none it moves the
GATING value by one and starts the gating action of the pair, whose end writes the reply. A power-down moves the shingles of its pair
away; when both slices are idle their wrappers close, their outputs are clamped and their switches open, and each slice that is off
keeps nothing and is clamped; a power-up starts the switches of the slices that are off. A slice whose 8 segments have closed is on: at
bring-up with its LFSR running, later with its arrays wiped, unclamped and with credits; one that is not good after 100,000 ticks is
lost. At the end of a power-down a slice is OFF, clamped and wiped: its filter, cache and mirror read as empty. At bring-up a slice
whose segments have closed is ON with its LFSR running and stays clamped; later it is ON, unclamped, with its arrays empty and its bank
on when the home cache is. A slice that is not good after 100,000 ticks at bring-up is failed, and its buddy writes through. (R24, R190,
R192, R194, R195, R196, R197, R218, R226, R390, R505, R506.) -/
def Obligations.SlicePower : Prop :=
  (∀ (s : State) (c : Nat) (k : Kcp) (up : Bool), s.newCmd c 0x11 = some k → bit (k.par 0) 8 = up →
     let pair := fld (k.par 0) 0 5
     let a := s.slice (2 * pair)
     let b := s.slice (2 * pair + 1)
     let want : SlState := if up then .on else .off
     let bad (x : Slice) : Prop := x.st = .failed ∨ x.st = .disabled ∨ x.st = .reset
     let pairs := s.poweredPairs.length
     let left := Nat.max (s.residencyLeft (2 * pair)) (s.residencyLeft (2 * pair + 1))
     let no (r : Nat) : Prop :=
       (up = true → exec (.slicePowerUp c) s = .next (finish k stConflict (r + 16 * left) [] s)) ∧
       (up = false → exec (.slicePowerDown c) s = .next (finish k stConflict (r + 16 * left) [] s))
     let atEnd : Prop := if up then Nat.min s.pol.gateMax (s.gh.slices / 2) < pairs + 1 else pairs < s.pol.gateMin + 1
     (s.pol.gatePin = false → no 1) ∧
     (s.pol.gatePin = true → a.st = want → b.st = want → no 2) ∧
     (s.pol.gatePin = true → ¬(a.st = want ∧ b.st = want) → (bad a ∨ bad b) → no 3) ∧
     (s.pol.gatePin = true → ¬(a.st = want ∧ b.st = want) → ¬(bad a ∨ bad b) → left ≠ 0 → no 4) ∧
     (s.pol.gatePin = true → ¬(a.st = want ∧ b.st = want) → ¬(bad a ∨ bad b) → left = 0 → atEnd → no 5) ∧
     (s.pol.gatePin = true → ¬(a.st = want ∧ b.st = want) → ¬(bad a ∨ bad b) → left = 0 → ¬atEnd → s.gateHeld = true → no 6) ∧
     (s.pol.gatePin = true → ¬(a.st = want ∧ b.st = want) → ¬(bad a ∨ bad b) → left = 0 → ¬atEnd → s.gateHeld = false →
       s.pol.gating ≠ none → no 7) ∧
     (s.pol.gatePin = true → ¬(a.st = want ∧ b.st = want) → ¬(bad a ∨ bad b) → left = 0 → ¬atEnd → s.gateHeld = false →
       s.pol.gating = none →
       (up = true → exec (.slicePowerUp c) s = .next { s.startCmd k id with pol := { s.pol with
         gateVal := s.pol.gateVal + 1
         gating := some { pair := pair, up := true, cmd := some k.id } } }) ∧
       (up = false → exec (.slicePowerDown c) s = .next { s.startCmd k id with pol := { s.pol with
         gateVal := s.pol.gateVal - 1
         gating := some { pair := pair, up := false, cmd := some k.id } } }))) ∧
  (∀ (s : State) (g : Gating), s.pol.gating = some g →
     let run : State := { s with pol := { s.pol with gating := some { g with begun := true } } }
     let both := [2 * g.pair, 2 * g.pair + 1]
     (g.up = false → exec (.gatingPowerDown g.pair) s = .next (gateOn run)) ∧
     (g.up = false → g.begun = true → s.idleSlice (2 * g.pair) = true → s.idleSlice (2 * g.pair + 1) = true →
       ∃ t, exec .gatingSwitchOpen s = .next t ∧
         (∀ j, t.slice j = if j ∈ both then { s.slice j with st := .poweringDown, wrapper := true, clamped := true } else s.slice j) ∧ { t with slices := s.slices } = s) ∧
     (g.up = true → g.begun = false →
       ∃ t, exec (.gatingPowerUp g.pair) s = .next t ∧
         (∀ j, t.slice j = if j ∈ both ∧ (s.slice j).st = .off then { s.slice j with st := .poweringUp, segTick := s.now } else s.slice j) ∧
         { t with slices := s.slices } = run) ∧
     (g.up = true → g.begun = true → exec (.gatingPowerUp g.pair) s = .next (gateOn s))) ∧
  (∀ (s : State) (j : Nat),
     ((s.slice j).st = .poweringDown → s.pol.gating = none →
       ∃ t, exec (.slicePowerOffDone j) s = .next t ∧ (t.slice j).st = .off ∧ (t.slice j).clamped = true ∧ (t.slice j).wrapper = false ∧
         (t.slice j).since = s.now ∧ (t.slice j).sf = [] ∧ (t.slice j).hcTag = [] ∧ (t.slice j).mirror = [] ∧ (t.slice j).txns = []) ∧
     ((s.slice j).st = .poweringUp → (s.slice j).segTick + 7000 ≤ s.now → s.rst.step < 7 →
       exec (.sliceDomainGood j) s = .next (s.setSlice j { s.slice j with
         st := .on
         lfsrRun := true
         walkPos := 0
         walkFrom := s.time.cycles })) ∧
     ((s.slice j).st = .poweringUp → (s.slice j).segTick + 7000 ≤ s.now → 7 ≤ s.rst.step →
       ∃ u, exec (.sliceDomainGood j) s = .next (gateOn (initCredits j u)) ∧ { u with slices := s.slices } = s ∧
         (∀ i, i ≠ j → u.slice i = s.slice i) ∧ (u.slice j).st = .on ∧ (u.slice j).clamped = false ∧ (u.slice j).lfsrRun = true ∧
         (u.slice j).hcinit = true ∧ (u.slice j).bank = (if s.pol.hcEnable then .on else .ready) ∧ (u.slice j).sf = [] ∧
         (u.slice j).hcTag = []) ∧
     ((s.slice j).st = .poweringUp → (s.slice j).segTick + 100000 ≤ s.now → 7 ≤ s.rst.step →
       exec (.slicePowerTimeout j) s = .next (loseSlice j .power 0 0 none s)) ∧
     ((s.slice j).st = .poweringUp → (s.slice j).segTick + 100000 ≤ s.now → s.rst.step < 7 →
       ∃ t, exec (.slicePowerTimeout j) s = .next t ∧ (t.slice j).st = .failed ∧ (t.slice (buddy j)).wt226 = true ∧ t.pol.recovery = true))

/-! ### Reset, trim and bring-up (16) -/

/-- Right after reset the block is in reset at step 1 of bring-up, the count of package time is zero and not loaded, the cell pool has
the quotas of R369, no queue holds a packet, no command is in progress, the severity threshold is 3, the snoop timeout 100, every region
entry is invalid, no AID has a partition, no port is enabled beyond its reset value, and nothing waits. (R40, R356, R364, R369, R372,
R422, R452, R478, R489, R490.) -/
def Obligations.ResetStateValues : Prop :=
  State.reset.rst.inReset = true ∧ State.reset.rst.step = 1 ∧ State.reset.rst.ready = false ∧ State.reset.rst.fail = 0 ∧
  State.reset.rst.cPor = true ∧ State.reset.rst.cPin = false ∧ State.reset.time.ptc = 0 ∧ State.reset.time.loaded = false ∧
  (∀ q, (State.reset.hub.queue q).waiting = [] ∧ (State.reset.hub.queue q).begun = none ∧ (State.reset.hub.queue q).rej = false ∧
    (State.reset.hub.queue q).quota.toNat = match q with
      | .hcq | .mcq => 1024
      | .hrq | .mrq => 2048
      | .evq => 4096
      | .loft => 6144) ∧
  (∀ w, (State.reset.hub.win w).cmdLo = 0 ∧ (State.reset.hub.win w).opn = none) ∧ State.reset.hub.inProg = [] ∧
  State.reset.hub.evqOwn = false ∧ State.reset.hub.loftOwn = false ∧ State.reset.hub.snpTo = 100 ∧
  State.reset.err.thr = 3 ∧ State.reset.err.lost = false ∧ State.reset.err.pin = false ∧ State.reset.err.drive = false ∧
  State.reset.err.ferr.valid = false ∧ State.reset.err.evqDrop = 0 ∧ State.reset.err.loftDrop = 0 ∧
  (∀ n, regionAt State.reset.map.active n = (0, 0) ∧ regionAt State.reset.map.stage n = (0, 0)) ∧ State.reset.map.rgen = 0 ∧
  (∀ a, State.reset.partOf a = 0) ∧ State.reset.pending = []

/-- Either reset puts every part of the block in its reset state, in reset and with nothing in progress, and keeps the commands that
wait, the configuration and what the ports have seen. POR_TAKEN sets the cause POR; RESET_N_TAKEN keeps the sticky causes and the first-
error capture and sets the cause PIN; both note the loss of Dirty lines and an interrupted trim load. (R478, R479, R487, R488, R489,
R490, R535.) -/
def Obligations.ResetsKeepSticky : Prop :=
  ∀ s : State,
    (∃ t, exec .porTaken s = .next t ∧ t.rst.cPor = true ∧ t.rst.cPin = false ∧ t.rst.cDirty = s.losesDirty ∧ t.rst.cTrim = s.rst.loading ∧
      t.err = State.reset.err ∧ t.tdo = 0 ∧ t.rst.inReset = true ∧ t.rst.step = 1 ∧ t.hub = State.reset.hub ∧ t.map = { State.reset.map with base := List.range s.gh.slices } ∧
      t.pol = State.reset.pol ∧ t.pkg = State.reset.pkg ∧ t.mesh = State.reset.mesh ∧ t.slices = [] ∧ t.cas = [] ∧ t.mps = [] ∧ t.rdg = [] ∧
      t.time.ptc = 0 ∧ t.pending = s.pending ∧ t.gh = s.gh ∧ t.out = s.out) ∧
    (∃ t, exec .resetNTaken s = .next t ∧ t.rst.cPor = s.rst.cPor ∧ t.rst.cPin = true ∧
      t.rst.cDirty = (s.rst.cDirty || s.losesDirty) ∧ t.rst.cTrim = (s.rst.cTrim || s.rst.loading) ∧
      { t.err.ferr with cyc := s.err.ferr.cyc } = s.err.ferr ∧ t.err.lost = false ∧ t.err.pin = false ∧ t.rst.inReset = true ∧ t.rst.step = 1 ∧
      t.hub = State.reset.hub ∧ t.map = { State.reset.map with base := List.range s.gh.slices } ∧ t.pol = State.reset.pol ∧ t.pkg = State.reset.pkg ∧ t.slices = [] ∧ t.cas = [] ∧
      t.mps = [] ∧ t.rdg = [] ∧ t.time.ptc = 0 ∧ t.pending = s.pending ∧ t.gh = s.gh ∧ t.out = s.out ∧ t.tdo = s.tdo)

/-- In reset, with 16 strap samples that agree and two conversions of one code, the block is released: it takes its instance number and
time-master capability from the code, its role from CLKMODE, its boot source, its package of one member, and starts the count at zero.
Otherwise nothing changes. At VDD rise the dirty count is not valid. Sixteen cycles after release MPn_ABORT falls at every memory port
that no command holds in reset. A common segment starts a pass and counts it, also after loading, and is stored until one has checked;
while loading is in progress the segment of a slice whose CRC and length check is stored, makes that slice OK and loads its spare rows,
which a free value reads out of it (log 101); one that fails a second time disables its slice, whose buddy writes through; once every
slice is decided the enabled slices power up, 8 at a time. An end segment ends the pass once its CRC and length check. A segment of a
slice outside a pass, or after loading, changes nothing. (R318, R319, R347, R480, R481, R482, R483, R485, R488, R491, R494, R495.) -/
def Obligations.ReleaseAndTrim : Prop :=
  (∀ (s : State) (x : StrapSample) (l : List StrapSample) (a b : Nat) (fuse : Bool),
     let code : BitVec 4 := if x.cfgsrc then (match rsenseCode a with
       | some c => BitVec.ofNat 4 c
       | none => x.id) else x.id
     (s.rst.inReset = true → l.length = 15 → (∀ y ∈ l, y = x) → rsenseCode a = rsenseCode b →
       ∃ t, exec (.resetRelease (x :: l) a b fuse) s = .next t ∧ t.rst.inReset = false ∧ t.rst.step = 1 ∧ t.rst.loading = true ∧
         t.rst.code = code ∧ t.inst = code.extractLsb' 0 3 ∧ t.tmcap = bit code 3 ∧ t.rst.boot = x.boot ∧ t.rst.clkmode = x.clkmode ∧
         t.rst.field = fuse ∧ t.rst.test = (x.testmode && !fuse) ∧
         t.rst.role = (if x.clkmode = 1 then (if bit code 3 then 2 else 0) else if x.clkmode = 2 then 3 else if bit code 3 then 1 else 0) ∧
         t.rst.bootSrc = (if x.boot = 3 ∨ (x.boot = 2 ∧ t.rst.role = 3) then 0 else x.boot) ∧ t.rst.dirtyV = true ∧
         t.time.ptc = 0 ∧ t.time.loaded = false ∧ t.pkg.members = 1#8 <<< t.inst.toNat ∧ t.slices = s.slices) ∧
     ((s.rst.inReset = false ∨ l.length ≠ 15 ∨ (∃ y ∈ l, y ≠ x) ∨ rsenseCode a ≠ rsenseCode b) → exec (.resetRelease (x :: l) a b fuse) s = .next s) ∧
     exec .vddRise s = .next { s with rst := { s.rst with dirtyV := false } } ∧
     (s.rst.inReset = false → 16 ≤ s.time.cycles → ∃ t, exec .mpAbortFall s = .next t ∧ { t with mps := s.mps } = s ∧
       ∀ m < s.gh.memPorts, t.mp m = if (s.mp m).inReset then s.mp m else { s.mp m with abort := false })) ∧
  (∀ (s : State) (seg : BitVec 8) (pl : List (BitVec 32)) (crc : BitVec 32),
     (s.rst.loading = false → (seg ≠ 0xC0 ∨ s.rst.inReset = true) → exec (.fuseSegment seg pl crc) s = .next s) ∧
     ((s.rst.loading = true ∨ s.rst.inReset = false) → seg = 0xC0 → exec (.fuseSegment seg pl crc) s = .next { s with rst := { s.rst with
       shadow := if s.rst.common then s.rst.shadow else tput 0xC0 pl s.rst.shadow
       passOn := true
       seenPass := []
       passes := satAdd s.rst.passes 1
       common := s.rst.common || segChecks seg pl crc } }) ∧
     (s.rst.loading = true → seg ≠ 0xC0 → s.rst.passOn = false → exec (.fuseSegment seg pl crc) s = .next s) ∧
     (s.rst.loading = true → s.rst.passOn = true → seg.toNat < s.gh.slices → s.segOf seg.toNat = .none → segChecks seg pl crc = true →
       ∃ t, exec (.fuseSegment seg pl crc) s = .next (finishLoading t) ∧ t.segOf seg.toNat = .ok ∧
         t.rst.shadow = tput seg.toNat pl s.rst.shadow ∧ (∀ j, j ≠ seg.toNat → t.segOf j = s.segOf j) ∧
         t.slices = s.slices ∧
         t.rst.spares = tput seg.toNat ((List.range 5).flatMap (fun a =>
           ((Config.spareRows pl).filter (fun r => r.1 == a)).take (spareRowsOf a))) s.rst.spares) ∧
     (s.rst.loading = true → s.rst.passOn = true → seg.toNat < s.gh.slices → s.segOf seg.toNat = .failedOnce → segChecks seg pl crc = false →
       ∃ t, exec (.fuseSegment seg pl crc) s = .next (finishLoading t) ∧ t.segOf seg.toNat = .disabled ∧ (t.slice seg.toNat).st = .disabled ∧
         (t.slice (buddy seg.toNat)).wt226 = true) ∧
     (s.rst.loading = true → seg = 0xFF → s.gh.slices ≤ 0xC0 → segChecks seg pl crc = false → exec (.fuseSegment seg pl crc) s = .next s) ∧
     (s.rst.loading = true → s.rst.passOn = true → seg = 0xFF → segChecks seg pl crc = true → (∀ j < s.gh.slices, j ∈ s.rst.seenPass) → s.gh.slices ≤ 0xC0 →
       exec (.fuseSegment seg pl crc) s = .next (finishLoading { s with rst := { s.rst with passOn := false } })))

/-- Out of reset and without a failure, step 1 ends after 64 cycles, step 2 when every slice left enabled has powered up, step 3 when
the image is in RAM, step 4 with the firmware measured and checked, step 5 after 16,384 cycles with the microcode measured, checked and
loaded, step 6 after 4,096 cycles with the home map placed over the powered slices and their filters empty, step 7 at once, and step 8
with READY. A failing image is rejected. Under BOOT 01, while WAIT is 1, a write of BOOT_PUSH_HI through MGMTP stores one word, up to
57,856 of them; DONE ends the push and step 4 begins; RESTART discards every word. Without WAIT these change nothing, and through HOSTP
they are refused. Under BOOT 10 the image of a peer that is linked is taken in step 3. (R42, R351, R441, R442, R496, R497, R498, R499,
R527.) -/
def Obligations.BringUp : Prop :=
  (∀ s : State, s.rst.inReset = false → (s.rst.fail = 0 ∨ s.rst.bootSrc = 1) →
     (s.rst.step = 1 → 64 ≤ s.time.cycles → exec .bringupStepDone s = .next { s with rst := { s.rst with step := 2 } }) ∧
     (s.rst.step = 2 → s.rst.loading = false → s.trimEnabled ≠ [] → (∀ j ∈ s.trimEnabled, (s.slice j).st ≠ .poweringUp) →
       ∃ t, exec .bringupStepDone s = .next t ∧ t.rst.step = 3 ∧ t.rst.wait = decide (s.rst.bootSrc = 1) ∧
         (∀ j ∈ s.trimEnabled, (t.slice j).since = s.now) ∧
         (s.rst.role ≠ 3 → ∀ r < s.gh.ridgePorts, (t.link r).st = .training) ∧ (s.rst.role = 3 → t.rdg = s.rdg)) ∧
     (s.rst.step = 3 → s.rst.bootSrc = 0 → exec .bringupStepDone s = .next { s with rst := { s.rst with
       image := Config.romImage
       imageV := true
       step := 4 } }) ∧
     (s.rst.step = 3 → s.rst.bootSrc ≠ 0 → s.rst.imageV = true → exec .bringupStepDone s = .next { s with rst := { s.rst with step := 4 } }) ∧
     (s.rst.step = 4 → s.rst.image.length ≤ 57856 → Config.imageCheck s.rst.image = .good →
       ∃ t, exec .bringupStepDone s = .next t ∧ t.rst.step = 5 ∧ t.rst.stepFrom = s.time.cycles ∧ t.rst.fwRun = true ∧ t.rst.fwVer = Config.fwVersion s.rst.image ∧
         t.prot = (measure 1 (Config.fwVersion s.rst.image) (digestWords (Config.fwPart s.rst.image)) s).prot) ∧
     (s.rst.step = 4 → (57856 < s.rst.image.length ∨ Config.imageCheck s.rst.image ≠ .good) →
       ∃ f t, exec .bringupStepDone s = .next t ∧ t.rst.fail = f ∧ f ≠ 0 ∧ (s.rst.bootSrc = 1 → t.rst.wait = true ∧ t.rst.rej = true ∧ t.rst.step = 3)) ∧
     (s.rst.step = 5 → Config.ucodeCheck (Config.ucPart s.rst.image) = true → s.rst.stepFrom + 16384 ≤ s.time.cycles →
       ∃ t, exec .bringupStepDone s = .next t ∧ t.rst.step = 6 ∧ t.rst.stepFrom = s.time.cycles ∧ t.rst.ucVer = Config.ucVersion s.rst.image ∧
         ∀ j < s.gh.slices, (s.slice j).st = .on → (t.slice j).ucVer = Config.ucVersion s.rst.image) ∧
     (s.rst.step = 6 → s.rst.stepFrom + 4096 ≤ s.time.cycles → ∃ t, exec .bringupStepDone s = .next t ∧ t.rst.step = 7 ∧ t.map.g0 = [] ∧ t.map.g1 = [] ∧
       ∀ j ∈ s.enabledSlices, (s.slice j).st = .on → j ∈ t.map.base ∧ (t.slice j).sf = [] ∧ (t.slice j).clamped = false) ∧
     (s.rst.step = 7 → exec .bringupStepDone s = .next { s with rst := { s.rst with step := 8 } }) ∧
     (s.rst.step = 8 → exec .bringupStepDone s = .next { s with rst := { s.rst with step := 9, ready := true } })) ∧
  (∀ (s : State) (v : BitVec 32) (r : Nat) (ws : List W64), s.rst.inReset = false →
     let a := s.answer .mgmtp false 0
     (exec (.bootPushHi .hostp v) s = .next (s.answer .hostp true 0) ∧ exec (.bootctlDone .hostp) s = .next (s.answer .hostp true 0) ∧
       exec (.bootctlRestart .hostp) s = .next (s.answer .hostp true 0)) ∧
     (s.rst.wait = true → s.rst.pushN < 57856 → exec (.bootPushHi .mgmtp v) s =
       .next { a with rst := { s.rst with pushed := s.rst.pushed ++ [v ++ s.rst.bootLo], pushN := s.rst.pushN + 1 } }) ∧
     (s.rst.wait = true → exec (.bootctlDone .mgmtp) s = .next { a with rst := { s.rst with
       image := s.rst.pushed
       imageV := true
       wait := false
       step := 4 } }) ∧
     (s.rst.wait = true → exec (.bootctlRestart .mgmtp) s = .next { a with rst := { s.rst with pushed := [], pushN := 0 } }) ∧
     (s.rst.wait = false → exec (.bootPushHi .mgmtp v) s = .next a ∧ exec (.bootctlDone .mgmtp) s = .next a ∧
       exec (.bootctlRestart .mgmtp) s = .next a) ∧
     (s.rst.step = 3 → s.rst.bootSrc = 2 → ((s.link r).st = .linked ∨ (s.link r).st = .joined) →
       exec (.bootImageFromPeer r ws) s = .next { s with rst := { s.rst with image := ws, imageV := true } }))

/-! ### CA ports: bring-up, messages, credits (08, 10, 11) -/

/-- A quiesced, enabled port whose ACTIVE pin rises enters BRINGUP with 16 response credits once the instance is ready and holds its
region table. ADVs are taken up to the number that the first announces; one whose first NAG is reserved is answered BAD_FIELD at once,
every later one SEQUENCE. When all are there and accepted, the agent table holds them and every peer is told; when one is refused all
are answered and the port raises PORT_PROTOCOL. Successive steps take the acknowledgements of the peers that are joined (log 14); when
all have acknowledged, each ADV is answered ACCEPTED and the port is ACTIVE with 64 request and 16 data credits and no stale ones; if
its ACTIVE pin has fallen meanwhile it begins to leave at once, and if the bring-up was abandoned the entries are cleared. When ACTIVE
falls an active port is QUIESCING, takes no more requests, and sends its fence markers; a bring-up before its entries are written is
over at once, and after that, while the acknowledgement of a peer is out, it is abandoned: the entries are cleared once all have
acknowledged, and it is over when every peer has acknowledged the clearing. A quiescing port whose markers are in, with no snoop held
and every delivered snoop answered, is QUIESCED with its agents cleared from the table. The release of an isolated port ends in QUIESCED
when no entry names its agents and every joined peer has scanned its filters for them; an instance that scans for a peer tells it when
no entry is left. When the ACTIVE of a port of a peer falls every working slice holds a fence marker for it until it has been sent. A
port that becomes QUIESCED while its ACTIVE is high starts bring-up again when it may. A peer that changes the agent table is applied
and acknowledged. (R246, R291, R325, R331, R332, R333, R334, R335, R336, R337, R338, R394.) -/
def Obligations.PortsComeAndGo : Prop :=
  (∀ (s : State) (p : Nat) (m : BitVec 128),
     let c := s.ca p
     let a := decodeAdv m
     let fresh : Prop := c.refused = false ∧ c.written = false ∧ c.abandoned = false
     (c.st = .quiesced → c.enable = true → s.rst.ready = true → s.joining = false → exec (.capActiveRise p) s =
       .next (s.setCa p { c with active := true, st := .bringup, rspiCrd := 16, advs := [], refused := false, written := false, abandoned := false, nag := 0 })
       ) ∧
     ((c.st ≠ .quiesced ∨ c.enable = false ∨ s.rst.ready = false ∨ s.joining = true) →
       exec (.capActiveRise p) s = .next (s.setCa p { c with active := true })) ∧
     (c.st = .bringup → c.rspiCrd ≠ 0 → fld m 0 6 = 0x39 → c.abandoned = false → c.refused = false →
       (c.advs = [] → a.badNag = false → exec (.adv p m) s = .next (s.setCa p { c with advs := [a], nag := a.nag })) ∧
       (c.advs = [] → a.badNag = true → exec (.adv p m) s = .next (portProtocol p 1 a.aid (sendRspo p (pack 128 [(0, 0x3A), (6, a.aid.toNat), (17, 2)])
         (s.setCa p { c with refused := true })))) ∧
       (c.advs ≠ [] → c.advs.length < c.nag.toNat → exec (.adv p m) s = .next (s.setCa p { c with advs := c.advs ++ [a] }))) ∧
     (c.st = .bringup → c.rspiCrd ≠ 0 → fld m 0 6 = 0x39 → c.abandoned = false → c.refused = true →
       exec (.adv p m) s = .next (sendRspo p (pack 128 [(0, 0x3A), (6, a.aid.toNat), (17, 3)]) s)) ∧
     (c.st = .bringup → fresh → c.advs ≠ [] → c.advs.length = c.nag.toNat → (∀ x ∈ s.advResults c.advs, x.2 = 0) →
       ∃ t, exec (.advCheck p) s = .next t ∧ (t.ca p).written = true ∧ (t.ca p).st = .bringup ∧ (t.ca p).tableAcks = s.peerMask ∧
         (t.ca p).agents = c.advs.map (fun x => { aid := x.aid, scred := x.scred.toNat, free := x.scred.toNat }) ∧
         (∀ x ∈ c.advs, tget (fun _ => ((0 : BitVec 3), (0 : BitVec 7))) t.pkg.agents x.aid.toNat = (s.inst, BitVec.ofNat 7 p)) ∧ t.slices = s.slices) ∧
     (c.st = .bringup → fresh → c.advs ≠ [] → c.advs.length = c.nag.toNat → (∃ x ∈ s.advResults c.advs, x.2 ≠ 0) →
       ∃ t, exec (.advCheck p) s = .next t ∧ (t.ca p).refused = true ∧ (t.ca p).st = .bringup ∧ t.pkg.agents = s.pkg.agents) ∧
     (let m := c.tableAcks &&& s.peerMask
      let left := m &&& (m - 1)
      (c.st = .bringup → c.written = true → left ≠ 0 → exec (.advack p) s = .next (s.setCa p { c with tableAcks := left })) ∧
      (c.st = .bringup → c.written = true → left = 0 → c.abandoned = true →
       ∃ t, exec (.advack p) s = .next t ∧ (∀ x ∈ c.advs, ∀ e ∈ t.pkg.agents, BitVec.ofNat 11 e.1 ≠ x.aid) ∧
         (s.joinedPeers ≠ [] → (t.ca p).st = .bringup ∧ (t.ca p).written = false ∧ (t.ca p).awaitPeers = s.peerMask)) ∧
      (c.st = .bringup → c.written = true → left = 0 → c.abandoned = false → c.active = false →
       ∃ t, exec (.advack p) s = .next t ∧ (t.ca p).st = .quiescing ∧ (t.ca p).agents = c.agents) ∧
      (c.st = .bringup → c.written = true → left = 0 → c.abandoned = false → c.active = true →
       ∃ t, exec (.advack p) s = .next t ∧ (t.ca p).st = .active ∧ (t.ca p).ready = true ∧ (t.ca p).reqCrd = 64 ∧ (t.ca p).datiCrd = 16 ∧
         (t.ca p).ingress = [] ∧ (t.ca p).snpOut = [] ∧ (t.ca p).cred = [] ∧ (t.ca p).agents = c.agents ∧ t.mesh.drained = false))) ∧
  (∀ (s : State) (p : Nat) (src : BitVec 3) (aid : BitVec 11) (cap : BitVec 7),
     let c := s.ca p
     let fall := Instr.capActiveFall p
     (p < 128 → (c.st = .isolated ∨ c.st = .quiesced ∨ c.st = .quiescing) → exec fall s = .next (s.setCa p { c with active := false })) ∧
     (p < 128 → c.st = .active → ∃ t, exec fall s = .next t ∧ (t.ca p).st = .quiescing ∧ (t.ca p).reqCrd = 0 ∧ (t.ca p).active = false ∧
       (t.ca p).markers = [] ∧ (∀ k ∈ s.slicesUp, (s.self, k) ∈ (t.ca p).markersDue) ∧ t.slices = s.slices ∧ t.pkg = s.pkg) ∧
     (p < 128 → c.st = .bringup → c.abandoned = true → exec fall s = .next (s.setCa p { c with active := false })) ∧
     (p < 128 → c.st = .bringup → c.abandoned = false → c.written = false → exec fall s = .next (s.setCa p (CaPort.quiesce { c with active := false }))) ∧
     (p < 128 → c.st = .bringup → c.written = true → c.abandoned = false → c.tableAcks &&& s.peerMask = 0 →
       exec fall s = .next (s.setCa p { c with active := false })) ∧
     (p < 128 → c.st = .bringup → c.written = true → c.abandoned = false → c.tableAcks &&& s.peerMask ≠ 0 →
       ∃ t, exec fall s = .next t ∧ t.ca p = { c with active := false, abandoned := true } ∧ t.pkg = s.pkg ∧ t.slices = s.slices) ∧
     (c.st = .bringup → c.abandoned = true → c.written = false → c.awaitPeers &&& ~~~(1#8 <<< src.toNat) = 0 →
       exec (.agentTableClearAck p src) s = .next (tryBringup p (s.setCa p c.quiesce))) ∧
     (c.st = .bringup → c.abandoned = true → c.written = false → c.awaitPeers &&& ~~~(1#8 <<< src.toNat) ≠ 0 → exec (.agentTableClearAck p src) s =
       .next (s.setCa p { c with awaitPeers := c.awaitPeers &&& ~~~(1#8 <<< src.toNat) })) ∧
     (c.st = .quiescing → s.markersIn c = true → c.snpBuf = [] → (∀ x ∈ c.snpOut, x.due ≠ none) →
       exec (.portQuiesceComplete p) s = .next (tryBringup p (dropCredits p (clearAgents p (s.aidsOf p) (s.setCa p c.quiesce))))) ∧
     (c.quiesce.st = .quiesced ∧ c.quiesce.ready = false ∧ c.quiesce.reqCrd = 0 ∧ c.quiesce.rspiCrd = 0 ∧ c.quiesce.datiCrd = 0 ∧
       c.quiesce.cred = [] ∧ c.quiesce.ingress = [] ∧ c.quiesce.agents = c.agents) ∧
     (p < 128 → c.st = .isolated → c.relCmds ≠ [] →
       let m := c.scansDue &&& s.peerMask
       let left := m &&& (m - 1)
       let gone (x : Aid) : Bool := c.agents.any (fun a => a.aid == x)
       ∃ t : State, t = s.slicesUp.foldl (fun s k => cleanPass gone k s) s ∧
         ((left ≠ 0 ∨ ∃ k ∈ t.slicesUp, (t.slice k).cleanOf gone = false) → exec (.portReleaseScanDone p) s =
           .next (t.setCa p { t.ca p with scansDue := left })) ∧
         (left = 0 → (∀ k ∈ t.slicesUp, (t.slice k).cleanOf gone = true) → exec (.portReleaseScanDone p) s = .next (tryBringup p
           (c.relCmds.foldl (fun s i => s.endCmd (some i) stOk 0 [])
             (t.setCa p { (t.ca p).quiesce with relCmds := [], scansDue := 0 }))))) ∧
     (p < 128 → src ≠ s.inst →
       let gone (x : Aid) : Bool := match s.agentAt x with
         | some (j, q) => j == src.toNat && q == p
         | none => false
       ∃ t : State, t = s.slicesUp.foldl (fun s k => cleanPass gone k s) s ∧
         exec (.portReleaseScanDone (128 * (src.toNat + 1) + p)) s =
           .next (if t.slicesUp.all (fun k => (t.slice k).cleanOf gone) then t.sendMgt src.toNat (.released p) else t)) ∧
     (∃ t : State, exec (.agentTableUpdate src aid true cap) s = .next (t.sendMgt src.toNat (.agentAck true)) ∧
       tget (fun _ => ((0 : BitVec 3), (0 : BitVec 7))) t.pkg.agents aid.toNat = (src, cap) ∧ aid ∉ t.pkg.unreach) ∧
     exec (.agentTableUpdate src aid false cap) s = .next (State.sendMgt (peerQuiesced src cap.toNat (resolveAgents (fun a => a == aid)
       { s with pkg := { s.pkg with agents := tdel aid.toNat s.pkg.agents } })) src.toNat (.agentAck false)) ∧
     (p < 128 → exec (.capActiveFall (128 * (s.inst.toNat + 1) + p)) s = .next s) ∧
     (p < 128 → src ≠ s.inst → ∃ t, exec (.capActiveFall (128 * (src.toNat + 1) + p)) s = .next t ∧ t.cas = s.cas ∧ t.pkg = s.pkg ∧
       (∀ k ∈ s.slicesUp, ∃ sent, (src, p, sent) ∈ (t.slice k).marks) ∧ (∀ k, k ∉ s.slicesUp → t.slice k = s.slice k)))

/-- A request spends a credit: one whose AID, opcode, home or route fails the checks of the port is answered with CmpErr, any other
waits at the port with its class, partition and peer. A chunk of request data goes into the request that waits for it. A response of an
agent of the port is matched to the snoop delivered to it, gives back the snoop credit, and travels to the slice of its entry in the
class of the snoop; a CmpAck travels to the slice of its entry in the class that its transaction had. A held snoop is delivered when its
agent has a credit. At an isolated port a request is not taken, and data and responses are discarded and counted. (R64, R66, R91, R130,
R251, R289, R326, R327, R328, R329, R440, R503.) -/
def Obligations.PortMessages : Prop :=
  ∀ (s : State) (p : Nat) (m : BitVec 128) (hdr : BitVec 160) (d : BitVec 256),
    let c := s.ca p
    let discard (v : CaPort) : CaPort := { v with discards := satAdd v.discards 1 }
    (c.st = .isolated → exec (.caRequest p m) s = .next s ∧ exec (.caRspiMessage p m) s = .next (s.setCa p (discard c)) ∧
      (bit hdr 0 = true → bit hdr 80 = true → exec (.caDatiChunk p hdr d) s = .next ((s.setCa p (discard c)).setCa p (discard (discard c)))) ∧
      (bit hdr 0 ≠ bit hdr 80 → exec (.caDatiChunk p hdr d) s = .next (s.setCa p (discard c)))) ∧
    (c.st ≠ .isolated → c.reqCrd ≠ 0 → s.reqCheck p m = none → ∃ t x, exec (.caRequest p m) s = .next t ∧
      (t.ca p).ingress = c.ingress ++ [x] ∧ (t.ca p).reqCrd = c.reqCrd - 1 ∧ x.q = decodeReq m ∧ x.arr = s.now ∧
      x.isGt = (s.gtOf x.q.aid).1 ∧ { t with cas := s.cas } = s) ∧
    (c.st ≠ .isolated → c.reqCrd ≠ 0 → ∀ reason ev, s.reqCheck p m = some (reason, ev) → ∃ t, exec (.caRequest p m) s = .next t ∧
      (t.ca p).ingress = c.ingress ∧ .rspo p (encodeCmpErr (decodeReq m).aid (decodeReq m).txid 0 reason) ∈ t.out ∧ t.slices = s.slices) ∧
    (c.st ≠ .isolated → s.datiFree p ≠ 0 → ∀ a t h ci la po be dd x,
      decodeDat (hdr.extractLsb' 0 80) (d.extractLsb' 0 128) = some (.dat 2 a t h ci la po be dd) →
      decodeDat (hdr.extractLsb' 80 80) (d.extractLsb' 128 128) = none → s.ownAid p a = true →
      c.dataDrop = [] → c.ingress.find? (fun x => x.wants a t ci) = some x → ∃ u, exec (.caDatiChunk p hdr d) s = .next u ∧
      u.ca p = { c.count 0x0A 1 with
        beats := c.beats + 1
        ingress := lmodify (fun x => x.wants a t ci)
          (fun x => { x with d := x.d.take ci dd po, be := x.be ||| ((be.setWidth 64) <<< (16 * ci.toNat)) }) c.ingress } ∧
      (∀ q, q ≠ p → u.ca q = s.ca q) ∧ { u with cas := s.cas } = s) ∧
    (c.st ≠ .isolated → s.rspiFree p ≠ 0 → ∀ op a h pd wb x, decodeRsp m = some (.rsp op a h pd wb) → s.ownAid p a = true →
      c.snpOut.find? (fun x => x.aid == a && x.htid == h && x.due.isNone) = some x → htidInst h = s.self → p < 128 →
      ∃ u : State, exec (.caRspiMessage p m) s = .next (u.inject { vc := if x.gt then .gt else .rsp, gtc := x.gtc, snode := p / 2, sport := portCa0 + p % 2, dnode := htidSlice h, dport := portSlice, msg := .rsp op a h pd wb }) ∧
        { u with cas := s.cas } = s ∧ (u.ca p).agents = (c.freeSnoop a).agents) ∧
    (c.st ≠ .isolated → s.rspiFree p ≠ 0 → ∀ a h, decodeRsp m = some (.cmpAck a h) → s.ownAid p a = true →
      let g : Bool × Nat := match c.acks.find? (fun x => x.1 == h) with
        | some x => x.2
        | none => (false, 0)
      exec (.caRspiMessage p m) s = .next (routeCa p (htidInst h) (htidSlice h, portSlice) (if g.1 then .gt else .rsp) g.2 none
        (.cmpAck a h) (s.setCa p { c with acks := lremove (fun x => x.1 == h) c.acks }))) ∧
    (∀ aid x a op h l ci ra rt, c.snpBuf.find? (SnpIn.dests aid) = some x → c.agents.find? (fun a => a.aid == aid) = some a →
      x.m = .snp op aid h l ci ra rt → 0 < a.free → (c.st = .active ∨ c.st = .quiescing) →
      ∃ v, exec (.snoopDeliver p aid) s = .next ((s.setCa p v).emit (.snp p (encodeSnp op aid h l ci ra rt))) ∧
        v.snpBuf = lremove (SnpIn.dests aid) c.snpBuf ∧ v.agents = c.agents.map (fun y => if y.aid = aid then { y with free := y.free - 1 } else y) ∧
        v.ingress = c.ingress ∧ v.st = c.st)

/-- The grants of a slice run before an ingress point sends to it. What the point sends next is denied with CmpErr(DENIED) when the
partition of its agent may not reach the shingle, else it is sent with the credits it spends; with nothing to send only the demand is
noted. A request for a peer home goes to the ridge unit under a proxy credit. A credit that arrives at a point that holds credits, from
a slice that works, is added to its kind; any other is void. The oldest shared or grant credit, unused for 1,000 ticks, goes back to its
slice on RSP. (R34, R241, R243, R246, R247, R249, R250, R252, R424.) -/
def Obligations.CreditsAreSpentAndReturned : Prop :=
  ∀ (s : State) (i k : Nat),
    let u := grantRun k s
    (s.err.lost = false → u.nextFor i k = none → exec (.ingressSend i (.slice k)) s = .next (noteDemand k u)) ∧
    (s.err.lost = false → ∀ x, u.nextFor i k = some (x, true) → exec (.ingressSend i (.slice k)) s =
      .next (noteDemand k (raise (reqEv 0x23 x.q.laddr x.q.aid x.q.op) (answerAt i rsDenied x (leaveIngress i x u))))) ∧
    (s.err.lost = false → ∀ x, u.nextFor i k = some (x, false) → ∃ t, exec (.ingressSend i (.slice k)) s = .next (noteDemand k t) ∧
      t.slices = u.slices ∧ t.ingressOf i = lremove (fun y => y == x) (u.ingressOf i)) ∧
    (s.err.lost = false → i < 128 → let v := proxyRun k s
      ∀ x g, (v.ca i).ingress.find? (fun x => x.peer == some (v.link k).peer) = some x → x.whole = true →
      (v.link k).st = .joined → v.proxyFor i k = some g → ∃ t, exec (.ingressSend i (.ridge k)) s = .next t ∧
        (t.link k).proxies = (v.link k).proxies ++ [{ q := x.q, port := i, guar := g }] ∧
        (t.ca i).ingress = lremove (fun y => y == x) (v.ca i).ingress) ∧
    (∀ x c n, (s.arrived (s.ingressAt i).1 (s.ingressAt i).2 .rsp).head? = some x → x.msg = .credit k c n →
      let t := s.dropArrived (s.ingressAt i).1 (s.ingressAt i).2 .rsp
      exec (.creditArrive i) s = .next (if t.holdsCredits i = true ∧ t.works k = true then
        noteDemand k (t.setCredAt i k ((t.credAt i k).gain c n t.now)) else t)) ∧
    (0 < (s.credAt i k).shared → s.waitingFor k i = [] → (s.credAt i k).sharedFrom.headD 0 + 1000 ≤ s.now → s.works k = true →
      exec (.creditIdleReturn i k false) s = .next (State.toSlice
        (s.setCredAt i k { s.credAt i k with
          shared := (s.credAt i k).shared - 1
          sharedFrom := (s.credAt i k).sharedFrom.drop 1 }) i k .rsp 0 (.creditBack i .shared))) ∧
    (0 < (s.credAt i k).grant → s.waitingFor k i = [] → (s.credAt i k).grantFrom.headD 0 + 1000 ≤ s.now → s.works k = true →
      exec (.creditIdleReturn i k true) s = .next (State.toSlice
        (s.setCredAt i k { s.credAt i k with
          grant := (s.credAt i k).grant - 1
          grantFrom := (s.credAt i k).grantFrom.drop 1 }) i k .rsp 0 (.creditBack i .grant)))

/-! ### Transactions of a slice (03, 04, 05, 07, 08) -/

/-- A request that a working slice takes at its input, once the chunks of its data have arrived there, gets a free entry: it joins the
chain of a busy line, else the admission list of a full set, else it is active and counted. The head of a chain with nothing before it
becomes active, or joins the admission list when it is not counted and the set is full; an atomic at the head of a chain follows the
atomics before it that have operated on the resident line (R88); the oldest of an admission list is admitted when the set counts fewer
than 15. A ready transaction makes its lookup, if a thread of its engine is free, in a slot of its own when it had to wait; the first
that waits for data buffers takes them when they are free and none waits before it. (R88, R103, R104, R105, R125, R244, R511.) -/
def Obligations.RequestsEnterTheTracker : Prop :=
  ∀ (s : State) (k e set : Nat) (gt : Bool) (l : LAddr), s.works k = true →
    let v := s.slice k
    (∀ p q src cred wb, s.atSlice k .req gt = some p → p.msg = .req q src cred wb → q.dataIn v.wdat = none → exec (.sliceInputRequest k gt) s = .next s) ∧
    (∀ p q y src cred wb, s.atSlice k .req gt = some p → p.msg = .req q src cred wb → q.dataIn v.wdat = some y → q.op.isWb = false →
      v.txns.length < 2048 →
      ∃ t x, exec (.sliceInputRequest k gt) s = .next t ∧ (t.slice k).txns = v.txns ++ [x] ∧ x.e = v.freeEntry ∧ x.q = q ∧ x.wdata = y.d ∧ x.be = y.be ∧
        (t.slice k).wdat = q.dropData v.wdat ∧
        x.src = src ∧ x.cred = cred ∧ x.arr = v.nextArr ∧
        (v.lineHeld q.laddr = true → x.phase = .chained) ∧ (v.lineHeld q.laddr = false → v.setFull (sfSet q.laddr) = true → x.phase = .admission) ∧
        (v.lineHeld q.laddr = false → v.setFull (sfSet q.laddr) = false → x.phase = .ready ∧ x.counted = true) ∧
        (∀ j, j ≠ k → t.slice j = s.slice j) ∧ (t.slice k).sf = v.sf ∧ (t.slice k).hcTag = v.hcTag ∧
        t.arrived k portSlice (if gt then .gt else .req) = (s.arrived k portSlice (if gt then .gt else .req)).tail) ∧
    (∀ t, v.txn e = some t → t.phase = .ready → (t.kind = .backInv ∨ s.readWaits k t.l = false) → s.threadFree k t = true →
      let r := s.modTxn k e (fun t => { t with ran := s.time.cycles })
      let u := if t.again = true ∧ (t.kind = .req ∨ t.kind = .wb) then r.modSlice k (fun v => { v with slots := v.slots ++ [false] }) else r
      (t.kind = .req → exec (.txnActivate k e) s = .next (activateReq k e t u)) ∧
      (t.kind = .backInv → exec (.txnActivate k e) s = .next (activateBack k e t u)) ∧
      (t.kind ≠ .req → t.kind ≠ .backInv → exec (.txnActivate k e) s = .next (activateFlow k e t u))) ∧
    (∀ t, v.chainHead l = some t → v.chainFree l = true →
      (t.counted = true → v.txn t.e = some t → exec (.chainHeadActivate k l) s =
        .next (s.setSlice k { v.setTxn { t with phase := .ready, act := v.nextArr, again := true } with nextArr := v.nextArr + 1 })) ∧
      (t.counted = false → v.txn t.e = some t → v.setFull (sfSet t.l) = true → ∃ u x, exec (.chainHeadActivate k l) s = .next u ∧
        (u.slice k).txn t.e = some x ∧ x.phase = .admission ∧ x.counted = false) ∧
      (t.counted = false → v.txn t.e = some t → v.setFull (sfSet t.l) = false → ∃ u x, exec (.chainHeadActivate k l) s = .next u ∧
        (u.slice k).txn t.e = some x ∧ x.phase = .ready ∧ x.counted = true)) ∧
    (∀ t, v.chainHead l = some t → v.chainFree l = false → exec (.chainHeadActivate k l) s = .next (
      if v.pipes l = true ∧ t.kind = .req ∧ t.q.op.isAtomic = true then
        s.setSlice k { v.setTxn { t with phase := .ready, act := v.nextArr, again := true } with nextArr := v.nextArr + 1 }
      else s)) ∧
    (∀ t, v.admissionOf set = [t] → v.countedIn set < 15 → exec (.admissionRelease k set) s = .next (s.setSlice k (
      if t.kind = .openRes then v.setTxn { t with phase := .chained, counted := true }
      else if v.activeOn t.l = [] ∧ v.openOn t.l = false ∧ (∀ w ∈ v.deferred, w.q.laddr ≠ t.l) ∧
          (∀ x ∈ v.txns, x.phase = .chained → x.kind ≠ .openRes → x.l = t.l → t.arr ≤ x.arr) then
        { v.setTxn { t with phase := .ready, counted := true, act := v.nextArr } with nextArr := v.nextArr + 1 }
      else v.setTxn { t with phase := .chained }))) ∧
    (∀ t, v.firstBufWait = some t → (t.bufs = 0 ∨ (t.bufs ≤ s.freeBufs k ∧ s.bufsAhead k t.e t.act = false)) →
      exec (.bufferAcquire k) s = .next (begin_ k t.e s))

/-- An active transaction that needs a new entry takes a free way that may be reserved, or a victim way by a back-invalidation. The
first snoop that may leave does: towards an unreachable agent it is resolved at once, else it spends the snoop credit of its ingress
point and is outstanding with the snoop timeout of that moment. A response that the state of the entry allows is counted for its snoop;
one that no transaction waits for is discarded and counted. One that the table does not allow breaks an obligation of the agent: that it
is discarded and counted too is the choice of the model (log 15). A chunk of request data is kept at the input until its request is
taken. A chunk that is due joins the line of its transaction, and a CmpAck of the requester ends the wait for it; any other is
discarded. (R65, R74, R77, R83, R90, R127, R130, R145, R156, R159, R160.) -/
def Obligations.WaysSnoopsAndAnswers : Prop :=
  ∀ (s : State) (k e : Nat) (gt : Bool), s.works k = true →
    let v := s.slice k
    (∀ t, v.txn e = some t → t.fresh = true → t.way = none → t.phase = .running → let r := sfParityCheck k (sfSet t.l) accInt s
      (r.wayFor k (sfSet t.l) = none → exec (.sfWayReserve k e) s = .next s) ∧
      (∀ w victim, r.wayFor k (sfSet t.l) = some (w, victim) → exec (.sfWayReserve k e) s = .next (State.modTxn
        (State.modSlice (if victim then startBackInv k (sfSet t.l) w r else r) k (fun v => v.reserved (sfSet t.l) w t.l)) k e
        (fun t => { t with way := some w })))) ∧
    (∀ t p, v.txn e = some t → t.phase = .running → t.todo.find? (s.snoopGo k t) = some p →
      let u := s.modTxn k e (fun t => { t with todo := t.todo.filter (fun x => x != p) })
      (s.unreachable p.aid = true → exec (.snoopIssue k e) s = .next (resolveSnoop k e p u)) ∧
      (s.unreachable p.aid = false → ∀ i, s.wayTo p.aid = some i → exec (.snoopIssue k e) s = .next (sendSnoop k e t p i u))) ∧
    (∀ p op aid h pd wb, s.atSlice k .rsp gt = some p → p.msg = .rsp op aid h pd wb →
      let s1 := s.takeAtSlice k .rsp gt
      (v.txn (htidEntry h) = none → exec (.snoopResponse k gt) s = .next (discardAt k true s1)) ∧
      (∀ t, v.txn (htidEntry h) = some t → t.outs.find? (fun o => o.snp.aid == aid) = none →
        exec (.snoopResponse k gt) s = .next (discardAt k true s1)) ∧
      (∀ t o, v.txn (htidEntry h) = some t → t.outs.find? (fun o => o.snp.aid == aid) = some o →
        snpAllows t.ent.st o.snp op pd wb = false → t.broadcasts = false → exec (.snoopResponse k gt) s = .next (discardAt k true s1)) ∧
      (∀ t o, v.txn (htidEntry h) = some t → t.outs.find? (fun o => o.snp.aid == aid) = some o →
        (snpAllows t.ent.st o.snp op pd wb = true ∨ t.broadcasts = true) →
        let r : Resp := { aid := aid, op := op, pd := pd, wbp := wb }
        ∃ wasted, exec (.snoopResponse k gt) s = .next (takeResp k (htidEntry h) o r
          (freeSnoopBuf k (htidEntry h) t r.brings (openRole k (htidEntry h) t wb (takeSlot k wasted [] s1)))))) ∧
    (∀ p a x h ci la po be d, s.atSlice k .dat gt = some p → p.msg = .dat 2 a x h ci la po be d → exec (.homeDat k gt) s =
      .next ((s.takeAtSlice k .dat gt).modSlice k (fun v => { v with wdat := takeReqChunk a x ci po be d v.wdat }))) ∧
    (∀ p a x h ci la po be d, s.atSlice k .dat gt = some p → p.msg = .dat 1 a x h ci la po be d →
      let s1 := s.takeAtSlice k .dat gt
      (v.txn (htidEntry h) = none → exec (.homeDat k gt) s = .next (discardAt k false s1)) ∧
      (∀ t, v.txn (htidEntry h) = some t → t.chunksDue + 4 * t.outs.length ≤ t.nchunk → exec (.homeDat k gt) s = .next (discardAt k false s1)) ∧
      (∀ t, v.txn (htidEntry h) = some t → t.nchunk < t.chunksDue + 4 * t.outs.length → exec (.homeDat k gt) s =
        .next (advance k (htidEntry h) ((s1.modSlice k (fun v => v.wroteBuf (htidEntry h) [2 * ci.toNat, 2 * ci.toNat + 1])).modTxn k (htidEntry h)
          (fun t => { t with rspd := t.rspd.take ci d po, nchunk := t.nchunk + 1 }))))) ∧
    (∀ p a h, s.atSlice k .rsp gt = some p → p.msg = .cmpAck a h →
      let s1 := s.takeAtSlice k .rsp gt
      (∀ t, v.txn (htidEntry h) = some t → t.ackFrom ≠ none → t.q.aid = a → exec (.cmpack k gt) s =
        .next (takeSlot k false [] (s1.modTxn k (htidEntry h) (fun t => { t with ackFrom := none })))) ∧
      ((∀ t, v.txn (htidEntry h) = some t → t.ackFrom = none ∨ t.q.aid ≠ a) → exec (.cmpack k gt) s = .next (discardAt k true s1)))

/-- An Evict of the owner of an SF_X line frees the entry; of a FINE sharer that does not own the line it removes the sharer; of an
agent of a marked bundle it changes nothing; any other is superseded. A WbDirty or WbOwned of the owner places its data: of an SF_X line
the entry is freed, of another the owner is dropped; WbOwned on SF_X and WbDirty on SF_O are breaches. One of an agent that does not own
the line is superseded. AtomAdd adds modulo 2^64, AtomSwap replaces, AtomCas replaces when the word equals its operand, AtomAnd and
AtomOr combine bits; the requester gets the old word, the line takes the new one in its word and no other word changes. (R87, R114.) -/
def Obligations.WritebackAndAtomicResults : Prop :=
  (∀ (p : PolSt) (a : Aid) (ent : SfEnt),
     let owns : Prop := ent.owned = true ∧ ent.own = a
     (owns → ent.st = stX → decideWriteback p .evict a ent = { after := {} } ∧
       decideWriteback p .wbDirty a ent = { place := true, after := {} } ∧
       decideWriteback p .wbOwned a ent = { place := true, after := {}, breach := true }) ∧
     (owns → ent.st ≠ stX → decideWriteback p .wbOwned a ent = { place := true, after := dropOwner ent } ∧
       decideWriteback p .wbDirty a ent = { place := true, after := dropOwner ent, breach := true }) ∧
     (¬owns → decideWriteback p .wbDirty a ent = { after := ent, superseded := true } ∧
       decideWriteback p .wbOwned a ent = { after := ent, superseded := true }) ∧
     (¬owns → ¬(ent.owned = false ∧ ent.st = stFree) → ent.isFine = true → a ∈ ent.ptrs →
       decideWriteback p .evict a ent = { after := removeSharer a ent }) ∧
     (owns → ent.st ≠ stX → ent.isFine = true → decideWriteback p .evict a ent = { after := ent, superseded := true }) ∧
     (¬owns → ent.st ≠ stFree → ent.isFine = true → a ∉ ent.ptrs → decideWriteback p .evict a ent = { after := ent, superseded := true }) ∧
     ((owns → ent.st ≠ stX) → ent.st ≠ stFree → ent.isFine = false →
       decideWriteback p .evict a ent = { after := ent, superseded := !(ent.payload.getLsbD (p.bundle ent.gen a.toNat)) }) ∧
     (ent.owned = false → ent.st = stFree → decideWriteback p .evict a ent = { after := ent, superseded := true })) ∧
  ((∀ old a b : W64, atomicWord .atomAdd old a b = old + a ∧ atomicWord .atomSwap old a b = a ∧
     atomicWord .atomCas old a b = (if old = a then b else old) ∧ atomicWord .atomAnd old a b = old &&& a ∧
     atomicWord .atomOr old a b = old ||| a) ∧
   (∀ (d : Line) (i j : Nat) (w : W64), i < 8 → j < 8 → wordOf (setWord d i w) j = if j = i then w else wordOf d j) ∧
   (∀ (s : State) (k e : Nat) (t : Txn), (s.slice k).txn e = some t → t.kind = .req → t.q.op.isAtomic = true → t.phase = .running →
     t.settled = true → t.operated = false → t.failed = false → t.line.full = true → s.works k = true →
     let r := readBuf k e (List.range 8) s
     let y := r.bufLine k t
     y.line.poison = false → y.wdata.poison = false → s.placesAt k t.l (setWord y.line.data y.q.widx.toNat
       (atomicWord y.q.op (wordOf y.line.data y.q.widx.toNat) (wordOf y.wdata.data 0) (wordOf y.wdata.data 1))) = false →
     (s.slice k).homeHeld t.l = false →
     ∃ u x, exec (.atomicOperate k e) s = .next u ∧ (u.slice k).txn e = some x ∧ x.operated = true ∧ x.place = .due ∧ x.what = .dirty ∧
       x.result = wordOf y.line.data y.q.widx.toNat ∧ x.pdata = .whole (setWord y.line.data y.q.widx.toNat
         (atomicWord y.q.op (wordOf y.line.data y.q.widx.toNat) (wordOf y.wdata.data 0) (wordOf y.wdata.data 1))) false))

/-- A writeback that arrives with its data and a share free enters the tracker of a line that no transaction works on, or is deferred
behind one that is deferred already. An atomic operates on the line its transaction holds, or answers POISONED. A placement that is due
and not behind an earlier one is done by its kind. A mirror set is stored and acknowledged to the buddy, a clear only stored; an
acknowledgement lets its placement end; a refresh asks the slice for its Dirty lines again. A transaction that meets R83 closes: its
entry is written, what it held is free, and what waits goes on. (R83, R87, R88, R89, R104, R111, R112, R113, R215, R224, R228, R249.) -/
def Obligations.WritebacksAtomicsAndClose : Prop :=
  ∀ (s : State) (k e set : Nat) (gt : Bool), s.works k = true →
    let v := s.slice k
    (∀ p q y src cred wb, s.atSlice k .req gt = some p → p.msg = .req q src cred wb → q.dataIn v.wdat = some y → q.op.isWb = true →
      v.wbEntries < 32 → exec (.writebackArrive k gt) s = .next (takeWriteback k
        { e := v.freeEntry, arr := v.nextArr, q := q, d := y.d, src := src, cred := wb, gtc := p.gtc, isGt := gt }
        (noteStale k v.freeEntry src
          ((s.setSlice k { v with nextArr := v.nextArr + 1, wdat := q.dropData v.wdat }).takeAtSlice k .req gt)))) ∧
    (∀ w, v.crossed w.q.laddr w.q.aid = none →
      (v.deferred.any (fun x => x.q.laddr == w.q.laddr) = true →
        ((takeWriteback k w s).slice k).deferred = v.deferred ++ [w] ∧ ((takeWriteback k w s).slice k).txns = v.txns) ∧
      (v.deferred.any (fun x => x.q.laddr == w.q.laddr) = false →
        ∃ evs, takeWriteback k w s = activate k w.e (takeSlot k false evs (s.setSlice k (v.enterWb w))))) ∧
    (∀ t, v.txn e = some t → t.kind = .req → t.q.op.isAtomic = true → t.phase = .running → t.settled = true → t.operated = false →
      t.failed = false → t.line.full = true →
      let u := readBuf k e (List.range 8) s
      let x := u.bufLine k t
      (x.line.poison = false → x.wdata.poison = false → exec (.atomicOperate k e) s = .next (operate k e x u)) ∧
      (x.line.poison = true ∨ x.wdata.poison = true → (x.use ≠ .rsp → exec (.atomicOperate k e) s = .next (sendErr k e rsPoisoned u)) ∧
        (x.use = .rsp → exec (.atomicOperate k e) s = .next ((sendErr k e rsPoisoned u).modTxn k e
          (fun t => { t with what := .dirty, pdata := x.line, place := .due }))))) ∧
    (∀ t, v.txn e = some t → t.place = .due → t.phase = .running →
      v.txns.any (fun x => x.e != e && x.phase.active && x.l == t.l && decide (x.act < t.act) && decide (x.place = .due)) = false →
      (s.victimUse k + s.victimsFor k t ≤ 16 ∨ s.victimsFor k t = 0) → s.mirrorRoom k t = true →
      let u := readBuf k e (List.range 8) (s.modTxn k e (fun t => { t with place := .busy }))
      let t := u.bufLine k t
      exec (.placement k e) s = .next (placementDone k e (match t.what with
        | .nothing => u
        | .fill => placeFill k t u
        | .dirty => if t.pdata.poison then placePoison k e t.l u else placeDirty k e t u
        | .clean => if t.pdata.poison then placePoison k e t.l u else placeClean k e t u
        | .poison => placePoison k e t.l u))) ∧
    (∀ p hset slot ltag x, s.atSlice k .rsp false = some p →
      let s1 := s.takeAtSlice k .rsp false
      (p.msg = .mirrorSet hset slot ltag x → exec (.mirrorUpdate k) s =
        .next (State.sliceToSlice ((takeSlot k true [] s1).modSlice k (fun v => v.mirrorPut hset slot ltag)) k (buddy k) .rsp (.mirrorAck x))) ∧
      (p.msg = .mirrorClr hset slot ltag → exec (.mirrorUpdate k) s =
        .next ((takeSlot k true [] s1).modSlice k (fun v => v.mirrorDrop hset slot ltag))) ∧
      (p.msg = .mirrorAck x → exec (.mirrorUpdateAck k) s = .next (placementDone k x (s1.modTxn k x (fun t => { t with mirror := false }))))) ∧
    (s.works (buddy k) = true → set ∈ (s.slice (buddy k)).refresh →
      ∃ u, exec (.mirrorRefresh k set) s = .next (raise { src := 0x07, detail := .array 4 (set * 16) (buddy k) 1, acc := accScrub } u) ∧
        set ∉ (u.slice (buddy k)).refresh ∧ ∀ i < 16, tget (fun _ => ({} : MirEnt)) (u.slice (buddy k)).mirror (set * 16 + i) = {}) ∧
    (∀ t, v.txn e = some t → v.closable t = true → t.kind ≠ .flushLine → t.way = none → ∃ u, exec (.txnClose k e) s =
      .next (grantRun k (passOn k t.l t.counted (release k t u))) ∧ (u.slice k).sf = v.sf ∧ (u.slice k).txns = v.txns) ∧
    (∀ t w, v.txn e = some t → v.closable t = true → t.kind ≠ .flushLine → t.way = some w → ∃ u, exec (.txnClose k e) s =
      .next (grantRun k (passOn k t.l t.counted (release k t u))) ∧ (u.slice k).sfAt (sfSet t.l) w = s.closingEnt k t ∧
      ∀ n, n ≠ sfAddr (sfSet t.l) w → tget (fun _ => ({} : SfEnt)) (u.slice k).sf n = tget (fun _ => {}) v.sf n) ∧
    (∀ t, v.txn e = some t → v.closable t = true → t.kind = .flushLine → ∃ u, exec (.txnClose k e) s =
      .next (grantRun k (passOn k t.l t.counted (State.endCmd (release k t u) t.cmd (if t.failed then stFailed else stOk)
        (if t.failed then 0x18 else 0) (if t.failed then [] else [t.outcome.setWidth 64])))))

/-! ### Memory ports (11) -/

/-- The first held command of the wanted kind with no write to its line outstanding or ahead of it is presented with the lowest free
tag, one credit and the port's timeout of that moment, and leaves as MRd, MWr or MWrP; a port in self-refresh, in an abort or without a
credit of that kind presents nothing; at a FAILED port the command fails at once. A victim write reads its words from its buffer as it
is presented, and is marked sent. A returned credit is counted; one during an abort breaks an obligation, and is not (log 15). (R116,
R118, R119, R339, R340, R344, R347.) -/
def Obligations.MemoryCommandsArePresented : Prop :=
  ∀ (s : State) (p : Nat) (write : Bool),
    let m := s.mp p
    (∀ c rest n, pickCmd m write [] m.held = some (c, rest) → m.failed = false → m.inReset = false → m.freeTag write = some n →
      m.sr = false → m.abort = false → (if write then m.wrCred else m.rdCred) ≠ 0 →
      let r := readVictim c s
      let c' : MemCmd := { r.1 with tag := BitVec.ofNat 8 n, presented := some s.now, limit := m.timeout }
      let m' : MemPort := { m with
        held := rest, outst := m.outst ++ [c'], readUtil := if write then m.readUtil else m.readUtil + 1
        wrCred := if write then m.wrCred - 1 else m.wrCred, rdCred := if write then m.rdCred else m.rdCred - 1 }
      exec (.memCmdPresent p write) s = .next (markSent c' ((r.2.setMp p m').emit (c'.out p))) ∧
      ((∀ e, c.owner ≠ .victim e) → ∃ t : State, exec (.memCmdPresent p write) s = .next t ∧ t.out = s.out ++ [c'.out p] ∧
        t.mp p = m' ∧ ({ t with mps := s.mps, out := s.out } : State) = s) ∧
      c.write = write ∧ m.outst.all (fun x => x.write != write || x.tag.toNat != n) = true) ∧
    (∀ c rest, pickCmd m write [] m.held = some (c, rest) → (m.failed = true ∨ m.inReset = true) →
      exec (.memCmdPresent p write) s = .next (failCmd (s.setMp p { m with held := rest }) c)) ∧
    (m.failed = false → m.inReset = false → (m.sr = true ∨ m.abort = true ∨ (if write then m.wrCred else m.rdCred) = 0) →
      exec (.memCmdPresent p write) s = .next s) ∧
    (m.abort = false → exec (.memCreditReturn p write) s =
      .next (s.setMp p (if write then { m with wrCred := m.wrCred + 1 } else { m with rdCred := m.rdCred + 1 }))) ∧
    (m.abort = true → exec (.memCreditReturn p write) s = .next s)

/-- The chunks of a beat that the read does not have yet are taken: the command is done at its fourth chunk, the chunks reach the
transaction that reads, an error fails the read, and a chunk of a failed read is counted as discarded. An acknowledgement ends its
write, with the effect of its success or of its failure. At a FAILED port both are discarded and counted, each chunk by itself. One of
an unknown tag, or during an abort, breaks an obligation, and changes nothing (log 15). A command outstanding for its limit makes the
port FAILED with reason 1, a wake request not answered for 1,000,000 ticks with reason 2: MEM_PORT_FAIL is raised and every outstanding
and held command fails. In self-refresh a command that is held for the wake delay raises the wake request; the exit clears both, and the
time spent in it counts for no memory timeout. (R341, R342, R343, R344, R345, R346, R347.) -/
def Obligations.MemoryAnswersAndFailures : Prop :=
  (∀ (s : State) (p : Nat) (tag : BitVec 8) (valid poison : BitVec 4) (d : BitVec 512) (err : Bool),
     let m := s.mp p
     let count (x : BitVec 4) : Nat := ((List.range 4).filter (fun i => x.getLsbD i)).length
     (m.failed = true → exec (.memReadChunk p tag valid d poison err) s = .next (s.setMp p { m with discards := m.discards + count valid }) ∧
       exec (.memWriteAck p tag err) s = .next (s.setMp p { m with discards := m.discards + 1 })) ∧
     (m.failed = false → m.abort = true → exec (.memReadChunk p tag valid d poison err) s = .next s ∧ exec (.memWriteAck p tag err) s = .next s) ∧
     (m.failed = false → m.abort = false → m.outst.find? (fun c => !c.write && c.tag == tag) = none →
       exec (.memReadChunk p tag valid d poison err) s = .next s) ∧
     (m.failed = false → m.abort = false → m.outst.find? (fun c => c.write && c.tag == tag) = none →
       exec (.memWriteAck p tag err) s = .next s) ∧
     (∀ c, m.failed = false → m.abort = false → m.outst.find? (fun c => !c.write && c.tag == tag) = some c →
       let fresh := valid &&& ~~~c.got
       ∃ u : State, exec (.memReadChunk p tag valid d poison err) s =
           .next (if c.void then u else if err then failRead true c u else readArrives c fresh d poison u) ∧
         ({ u with mps := s.mps } : State) = s ∧ (∀ q, q ≠ p → u.mp q = s.mp q) ∧
         (u.mp p).discards = (if c.void then m.discards + count fresh else m.discards) ∧
         ((c.got ||| valid) = 15#4 → (u.mp p).outst = m.outst.filter (fun x => !(!x.write && x.tag == tag))) ∧
         ((c.got ||| valid) ≠ 15#4 → (u.mp p).outst = m.outst.map (fun x => if !x.write && x.tag == tag then
           { c with got := c.got ||| valid, void := c.void || err } else x))) ∧
     (∀ c, m.failed = false → m.abort = false → m.outst.find? (fun c => c.write && c.tag == tag) = some c →
       let u := s.setMp p { m with outst := m.outst.filter (fun x => !(x.write && x.tag == tag)) }
       (c.void = true → exec (.memWriteAck p tag err) s = .next u) ∧
       (c.void = false → exec (.memWriteAck p tag err) s =
         .next (endWriteThrough c.slice (grantRun c.slice (if err then failWrite c u else ackWrite c u)))))) ∧
  (∀ (s : State) (p : Nat),
     let m := s.mp p
     (m.failed = false → m.sr = false → (∃ c ∈ m.outst, ∃ t, c.presented = some t ∧ t + c.limit ≤ s.now) →
       exec (.memTimeout p) s = .next (failPort p 1 s)) ∧
     ((∀ c ∈ m.outst, ∀ t, c.presented = some t → s.now < t + c.limit) → exec (.memTimeout p) s = .next s) ∧
     (m.sr = false → exec (.memSrEnter p) s =
       .next (s.setMp p { m with sr := true, srAt := s.now, wake := false, heldFrom := if m.held.isEmpty then none else some s.now })) ∧
     (m.sr = true → exec (.memSrEnter p) s = .next s) ∧
     (m.sr = true → exec (.memSrExit p) s = .next (s.setMp p { m with
       sr := false, wake := false, heldFrom := none
       outst := m.outst.map (fun c => { c with presented := c.presented.map (fun t => t + (s.now - m.srAt)) }) })) ∧
     (∀ t, m.heldFrom = some t → m.sr = true → m.wake = false → m.never = false → m.failed = false → t + m.wakeDelay ≤ s.now →
       exec (.memWakeRaise p) s = .next (s.setMp p { m with wake := true, wakeAt := s.now })) ∧
     (m.never = true → exec (.memWakeRaise p) s = .next s) ∧
     (m.sr = true → m.wake = true → m.failed = false → m.wakeAt + 1000000 ≤ s.now → exec (.memWakeDeadline p) s = .next (failPort p 2 s)) ∧
     (s.now < m.wakeAt + 1000000 → exec (.memWakeDeadline p) s = .next s))

/-! ### Unreachable agents and scrubbing (04, 05, 07) -/

/-- At each multiple of 1,024 ticks every snoop or CmpAck whose timeout has elapsed makes its agent unreachable for this home; an agent
already marked changes nothing, and between the multiples nothing happens. The instance that carries the agent isolates its port, raises
PORT_ISOLATED with the reason, and the port has no credits and no requests any more; a port that is ISOLATED already stays as it is.
(R127, R128, R130, R291, R503.) -/
def Obligations.UnreachableAgentsAreIsolated : Prop :=
  ∀ (s : State) (aid : BitVec 11) (cmpAck : Bool),
    (s.ptcNow % 1024 = 0 → exec .snoopTimeoutCheck s = .next (s.timedOut.foldl findUnreachable s)) ∧
    (s.ptcNow % 1024 ≠ 0 → exec .snoopTimeoutCheck s = .next s) ∧
    (∀ x, s.pkg.unreach.contains x.2.1 = true → findUnreachable s x = s) ∧
    (∀ k e t o, s.works k = true → (s.slice k).txns.contains t = true → t.outs.contains o = true → o.start + o.limit ≤ s.now → o.via < 128 →
      t.e = e → k < s.gh.slices → (k, o.snp.aid, false) ∈ s.timedOut) ∧
    (∀ p, s.agentAt aid = some (s.self, p) → (s.ca p).st ≠ .isolated →
      exec (.unreachableNotice aid cmpAck) s =
        .next (raise { src := 0x13, detail := .port p (if cmpAck then 2 else 1) aid 0 false, acc := if cmpAck then accInt else accSnoop } (isolatePort p s))) ∧
    (∀ p, s.agentAt aid = some (s.self, p) → (s.ca p).st = .isolated → exec (.unreachableNotice aid cmpAck) s = .next s) ∧
    (∀ i p, s.agentAt aid = some (i, p) → i ≠ s.self → exec (.unreachableNotice aid cmpAck) s = .next s) ∧
    (∀ p,
      ((clearAgents p (s.aidsOf p) s).aidsOf p) = [] ∧ (clearAgents p (s.aidsOf p) s).slices = s.slices)

/-- When its visit is due, the snoop-filter scrubber reads the parity and the ways of its set, the home-cache scrubber the tags, the
control word, the data and the mirror entries of its set; each then moves to the next set, wrapping at 4,096 or 2,048, with the next
visit one interval later; a visit that finds words that can not be corrected waits for home-flow entries for them. While messages wait
at the input of the slice a visit that is due waits, for at most 64 cycles; then it takes a lookup cycle, whose slot is WASTED and
counted as SCRUB_STEAL. The ageing walk clears the NRU field of one set each 64 cycles. Before the visit is due, or with an interval of
0, nothing happens. An OPEN resolution takes up its next candidate when nothing is active on that line and it is counted or the set has
room, else it joins the admission list of the set; it closes a line that is done, and ends with OPEN_RESOLVED when no candidate is left;
a line in progress that is not done is left alone. A refresh of a mirror set that the buddy asked for resends a set update for each
Dirty line and each victim of the set and raises HC_CE for the mirror array. (R20, R125, R165, R166, R167, R169, R219, R225, R234, R235,
R461, R510.) -/
def Obligations.ScrubAndOpenResolutions : Prop :=
  (∀ (s : State) (k : Nat),
     let v := s.slice k
     let free (since : Option Nat) : Prop := s.inputWaits k = false ∨ since.getD s.time.cycles + 64 ≤ s.time.cycles
     (¬free v.sfWait → exec (.sfScrubVisit k) s = .next s) ∧ (¬free v.hcWait → exec (.hcScrubVisit k) s = .next s) ∧
     (s.works k = true → v.sfInt ≠ 0 → v.sfDue ≤ s.now → free v.sfWait → s.scrubWaits k v.sfPos = false →
       ∃ u : State, exec (.sfScrubVisit k) s = .next (sfReadSet k v.sfPos accScrub (sfParityCheck k v.sfPos accScrub u)) ∧
         (u.slice k).sfPos = (v.sfPos + 1) % 4096 ∧ (u.slice k).sfDue = s.now + v.sfInt ∧ (u.slice k).sfWait = none ∧
         { u.slice k with sfPos := v.sfPos, sfDue := v.sfDue, sfWait := v.sfWait } = (bankServes k s).slice k ∧ (∀ j, j ≠ k → u.slice j = s.slice j) ∧
         ({ u with slices := s.slices } : State) = s) ∧
     ((v.sfInt = 0 ∨ s.now < v.sfDue) → exec (.sfScrubVisit k) s = .next s) ∧
     (s.inputWaits k = false → bankServes k s = s) ∧
     (s.inputWaits k = true → (bankServes k s).slice k = Slice.count 0x51 1 (Slice.slot true v) ∧
       ({ bankServes k s with slices := s.slices } : State) = s) ∧
     (let lost := ((List.range 32).filter (fun t => v.tagBad v.hcPos t || v.dataLost v.hcPos t)).length;
       s.works k = true → v.hcInt ≠ 0 → v.hcDue ≤ s.now → free v.hcWait →
       (lost ≠ 0 → 16 < s.homeUse k + lost → exec (.hcScrubVisit k) s = .next s) ∧
       ((lost = 0 ∨ s.homeUse k + lost ≤ 16) →
         ∃ u : State, (u.slice k).hcPos = (v.hcPos + 1) % 2048 ∧ (u.slice k).hcDue = s.now + v.hcInt ∧ (u.slice k).hcWait = none ∧
           { u.slice k with hcPos := v.hcPos, hcDue := v.hcDue, hcWait := v.hcWait } = (bankServes k s).slice k ∧ (∀ j, j ≠ k → u.slice j = s.slice j) ∧
           ({ u with slices := s.slices } : State) = s ∧
           (v.hcinit = false → exec (.hcScrubVisit k) s = .next (readMirror k v.hcPos accScrub u)) ∧
           (v.hcinit = true → exec (.hcScrubVisit k) s = .next (readMirror k v.hcPos accScrub (scrubWords k v.hcPos
             ((readCtl k v.hcPos accScrub (u.each (List.range 32) (readTag k v.hcPos accScrub))).each (List.range 32) (patrolData k v.hcPos))))))) ∧
     ((v.hcInt = 0 ∨ s.now < v.hcDue) → exec (.hcScrubVisit k) s = .next s) ∧
     (s.pol.nru = true → s.works k = true → v.walkFrom + 64 * (v.walkPos + 1) ≤ s.time.cycles →
       ∃ t : State, exec (.nruAgeingWalk k) s = .next t ∧ (t.slice k).walkPos = v.walkPos + 1 ∧
         ((t.slice k).ctlAt (v.walkPos % 2048)).nru = 0 ∧
         (∀ set, set ≠ v.walkPos % 2048 → (t.slice k).ctlAt set = v.ctlAt set) ∧ (t.slice k).hcTag = v.hcTag ∧ (t.slice k).sf = v.sf ∧
         (∀ j, j ≠ k → t.slice j = s.slice j) ∧ (v.errAt 3 (v.walkPos % 2048) = none → (v.ctlAt (v.walkPos % 2048)).dcnt.toNat ≤ 16 →
           ({ t with slices := s.slices } : State) = s)) ∧
     (s.pol.nru = false → exec (.nruAgeingWalk k) s = .next s)) ∧
  (∀ (s : State) (k e set : Nat),
     (∀ t, (s.slice k).txn e = some t → t.kind = .openRes → s.works k = true → t.phase ≠ .running →
       (t.cands = [] → exec (.openLineResolve k e) s = .next (endOpen k t s)) ∧
       (∀ l ls, t.cands = l :: ls → exec (.openLineResolve k e) s = .next (takeUp k t l s))) ∧
     (∀ t, (s.slice k).txn e = some t → t.kind = .openRes → s.works k = true → t.phase = .running →
       (t.lineDone = false → exec (.openLineResolve k e) s = .next s) ∧
       (t.lineDone = true → ∀ t', ((closeLine k t s).slice k).txn e = some t' →
         (t'.cands = [] → exec (.openLineResolve k e) s = .next (endOpen k t' (closeLine k t s))) ∧
         (∀ l ls, t'.cands = l :: ls → exec (.openLineResolve k e) s = .next (takeUp k t' l (closeLine k t s))))) ∧
     (∀ t l,
       (t.phase = .admission → takeUp k t l s = s) ∧
       ((∃ x ∈ (s.slice k).activeOn l, x.e ≠ t.e) → takeUp k t l s = s) ∧
       (t.phase ≠ .admission → (∀ x ∈ (s.slice k).activeOn l, x.e = t.e) →
         ((t.counted = true ∨ (s.slice k).setFull (sfSet l) = false) → takeUp k t l s = openLine k t l s) ∧
         (t.counted = false → (s.slice k).setFull (sfSet l) = true → takeUp k t l s = listOpen k t l s))) ∧
     ((s.slice (buddy k)).refresh.contains set = true → s.works k = true → s.works (buddy k) = true →
       ∃ u : State, (u.slice (buddy k)).refresh = (s.slice (buddy k)).refresh.filter (fun x => x != set) ∧
         (buddy k ≠ k → u.slice k = s.slice k) ∧ ({ u with slices := s.slices } : State) = s ∧
         exec (.mirrorRefresh k set) s = .next (raise { src := 0x07, detail := .array 4 (set * 16) (buddy k) 1, acc := accScrub }
           (((s.slice k).victims.filter (fun x => x.set == set)).foldl (fun s x => mirrorSet k set x.slot (hcLtag x.laddr) 2048 s)
             (((List.range 32).filter (fun t => ((s.slice k).tagAt set t).hst == hsDirty)).foldl
               (fun w t => mirrorSet k set t ((s.slice k).tagAt set t).ltag 2048 w) u)))) ∧
     ((s.slice (buddy k)).refresh.contains set = false → exec (.mirrorRefresh k set) s = .next s))

/-! ### The mesh (09) -/

/-- An output with a free lane position forwards the packet that its arbitration grants: it leaves the first position of its kind in the
input buffer, and enters the input buffer of the router beyond, or is delivered at the local port. A corrected error raises MESH_CE and
the packet goes on; an uncorrectable payload word raises MESH_UE and the packet goes on poisoned; an uncorrectable control word raises
MESH_FATAL and the instance is lost. A request for a slice that is powered down is answered CmpErr(SLICE_OFF), any other packet for it,
of the channels MGT and ERR too at its last flit, is counted, and SLICE_OFF is raised. Without a grant nothing moves but a waiting trace
record of the router, which enters the mesh on MGT. A reserved GT slot goes first, then, on a control lane at most once in four cycles,
an ERR flit before an MGT flit, then GT at a local port, then the others in turn. (R24, R260, R263, R266, R268, R269, R270, R271, R282,
R285.) -/
def Obligations.RouterForwardsPackets : Prop :=
  ∀ (s : State) (n o : Nat) (d : Bool) (err : LinkErr),
    (let v := probeSend n s;
      ((v.gh.hasPort n o = false ∨ v.laneFree n o d = false ∨ v.arbitrate n o d = none) → exec (.routerPacket n o d err) s = .next v) ∧
      (∀ ip p, v.gh.hasPort n o = true → v.laneFree n o d = true → v.arbitrate n o d = some (ip, p) →
        exec (.routerPacket n o d .none) s = .next (forwardPkt n o ip d p v) ∧
        exec (.routerPacket n o d .corrected) s = .next (forwardPkt n o ip d p (raise (routerEv 0x15 n ip p) v)) ∧
        (p.payload = true → ∃ u : State, exec (.routerPacket n o d .datWord) s =
            .next (forwardPkt n o ip d { p with msg := p.msg.poisoned v.fresh } (raise (routerEv 0x16 n ip p) u)) ∧
          u.inputBuf n ip p.vc = lmodify (fun x => x == p) (fun _ => { p with msg := p.msg.poisoned v.fresh }) (v.inputBuf n ip p.vc)) ∧
        (p.payload = false → exec (.routerPacket n o d .datWord) s = .next v) ∧
        (∃ u : State, exec (.routerPacket n o d .control) s =
            .next (loseInstance (raise { src := 0x22, detail := .misc 1 (Config.miscValue 0x22 1), acc := accInt } u)) ∧
          u.inputBuf n ip p.vc = lremove (fun x => x == p) (v.inputBuf n ip p.vc) ∧ ({ u with mesh := v.mesh } : State) = v))) ∧
    (∀ w rest, (s.probe n).buf = w :: rest → s.inputBuf n portSlice .mgt = [] → probeSend n s = State.sendHub
      { s with mesh := { s.mesh with probes := tput n { s.probe n with buf := rest } s.mesh.probes } } .mgt (n, portSlice) hubAt
      (.trace w.1 w.2.1 w.2.2)) ∧
    (let b := s.battenSlot (s.mesh.battenOf n o);
      let reserved := s.candidate n o d (some (fld b 0 4)) .gt;
      (∀ x, o < 4 → b.getLsbD 4 = true → reserved = some x → s.arbitrate n o d = some x) ∧
      ((4 ≤ o ∨ b.getLsbD 4 = false ∨ reserved = none) → d = false → s.hubDue n o = true →
        (∀ x, s.hubFlit n o .err = some x → s.arbitrate n o d = some x) ∧
        (∀ x, s.hubFlit n o .err = none → s.hubFlit n o .mgt = some x → s.arbitrate n o d = some x)) ∧
      ((4 ≤ o ∨ b.getLsbD 4 = false ∨ reserved = none) → (d = true ∨ s.hubDue n o = false ∨ (s.hubFlit n o .err = none ∧ s.hubFlit n o .mgt = none)) →
        (∀ x, 4 ≤ o → s.candidate n o d none .gt = some x → s.arbitrate n o d = some x) ∧
        ((o < 4 ∨ s.candidate n o d none .gt = none) → s.arbitrate n o d =
          (lanesFrom d (tget (fun _ => 6) s.mesh.rrVc (laneKey n o d))).findSome? (s.candidate n o d none)))) ∧
    (∀ ip p, o < 4 → bufKey (s.gh.beyond n o).1 (s.gh.beyond n o).2 p.vc ≠ bufKey n ip p.vc →
      let t := forwardPkt n o ip d p s
      t.inputBuf n ip p.vc = lremove (fun x => x == p) (s.inputBuf n ip p.vc) ∧
      t.inputBuf (s.gh.beyond n o).1 (s.gh.beyond n o).2 p.vc = s.inputBuf (s.gh.beyond n o).1 (s.gh.beyond n o).2 p.vc ++ [p] ∧
      t.mesh.eject = s.mesh.eject ∧ ({ t with mesh := s.mesh, fresh := s.fresh } : State) = s) ∧
    (∀ p,
      (vcOfHub p.vc = false → (s.slice n).poweredDown = false → ((s.works n = false) ∨ ((∀ a b, p.msg ≠ .sfCopy a b) ∧ ∀ a b, p.msg ≠ .creditBack a b)) →
        deliverPkt n portSlice p s = s.eject n portSlice p) ∧
      ((s.slice n).poweredDown = true → p.tail = false → deliverPkt n portSlice p s = s) ∧
      (∀ q a b c, (s.slice n).poweredDown = true → p.tail = true → p.msg = .req q a b c → ∃ u : State,
        deliverPkt n portSlice p s = raise (routerEv 0x0D n portSlice p) u ∧ u = s.inject (
          { vc := if p.vc = .gt then .gt else .rsp, dnode := p.snode, dport := p.sport, snode := n, sport := portSlice
            gtc := p.gtc, msg := .cmpErr q.aid q.txid 0 rsSliceOff })) ∧
      ((s.slice n).poweredDown = true → p.tail = true → (∀ q a b c, p.msg ≠ .req q a b c) → ∃ u : State,
        deliverPkt n portSlice p s = raise (routerEv 0x0D n portSlice p) u ∧ ({ u with mesh := s.mesh } : State) = s ∧
          tget (fun _ => 0) u.mesh.discards n = tget (fun _ => 0) s.mesh.discards n + 1))

/-- BATTEN_LOAD writes the shadow schedule of the outputs or links it names, or conflicts while a commit is held. BATTEN_COMMIT needs a
multiple of 1,024 at least 20,000 ticks ahead and no other commit. At its tick every shadow schedule becomes active and the commit is
answered OK. ROUTER_DRAIN conflicts while an agent is not quiesced or work is open, else the local ports accept nothing more, and it is
answered, with every other drain in progress, when what they had accepted has left and the input and ejection buffers are empty of all
but MGT and ERR packets. PROBE_SET sets the probes of the slices it names; a trace record that reached the hub over the mesh enters LOFT
when its quota has room for three cells, else it is dropped and counted. (R273, R275, R276, R283, R284, R285, R286, R368, R404.) -/
def Obligations.BattenSchedulesAndProbes : Prop :=
  ∀ (s : State) (c : Nat) (k : Kcp),
    (s.newCmd c 0x40 = some k → k.tgt = 0xFF → battenBad (k.ps.drop 1) = none → s.holdOf .batten = none →
      ∃ u, exec (.battenLoad c) s = .next (finish k stOk 0 [] u) ∧ u.mesh.bat = s.mesh.bat ∧ u.slices = s.slices ∧ u.hub = s.hub ∧
        (∀ x ∈ s.gh.scheduled, tget (fun _ => []) u.mesh.batSh (x.1 * 9 + x.2) = battenTable (k.ps.drop 1)) ∧
        (∀ r, r < s.gh.ridgePorts → u.link r = { s.link r with batSh := battenTable (k.ps.drop 1) })) ∧
    (∀ h, s.newCmd c 0x40 = some k → k.tgt = 0xFF → battenBad (k.ps.drop 1) = none → s.holdOf .batten = some h →
      exec (.battenLoad c) s = .next (finish k stConflict (h.chg.tick / 1024 % 2 ^ 24) [] s)) ∧
    (∀ w b, s.newCmd c 0x40 = some k → k.tgt = 0xFF → battenBad (k.ps.drop 1) = some (w, b) →
      exec (.battenLoad c) s = .next (finish k stBadParam (badDetail w b) [] s)) ∧
    (s.newCmd c 0x41 = some k →
      let t := (k.par 0).toNat
      (t % 1024 ≠ 0 → exec (.battenCommit c) s = .next (finish k stBadParam 0 [] s)) ∧
      (t % 1024 = 0 → t < s.ptcNow + 20000 → exec (.battenCommit c) s = .next (finish k stConflict (s.ptcNow / 1024 % 2 ^ 24) [] s)) ∧
      (t % 1024 = 0 → s.ptcNow + 20000 ≤ t → s.holdOf .batten ≠ none → exec (.battenCommit c) s = .next (finish k stBusy 1 [] s)) ∧
      (t % 1024 = 0 → s.ptcNow + 20000 ≤ t → s.holdOf .batten = none → ∃ u, exec (.battenCommit c) s =
        .next (genIssue { kind := .batten, issuer := s.inst, tick := t, payload := .batten } (t - 5000) u) ∧ u.pkg.battenCmd = some k.id)) ∧
    (∀ h ∈ s.pkg.hold, h.chg.kind = .batten → h.armed = true → h.chg.tick ≤ s.ptcNow → ∃ u : State,
      exec .battenSwitch s = .next (u.endCmd s.pkg.battenCmd stOk 0 []) ∧ u.mesh.bat = s.mesh.batSh ∧
        (∀ r, r < s.gh.ridgePorts → (u.link r).bat = (s.link r).batSh) ∧
        u.pkg.hold = lremove (fun h => decide (h.chg.kind = .batten) && h.armed && decide (h.chg.tick ≤ s.ptcNow)) s.pkg.hold) ∧
    ((∀ h ∈ s.pkg.hold, h.chg.kind = .batten → h.armed = true → s.ptcNow < h.chg.tick) → exec .battenSwitch s = .next s) ∧
    (s.newCmd c 0x42 = some k → (s.unquiesced ≠ 0 ∨ s.busyInside = true) →
      exec (.routerDrain c) s = .next (finish k stConflict (s.unquiesced % 256 + 256 * b2n s.busyInside) [] s)) ∧
    (s.newCmd c 0x42 = some k → s.unquiesced = 0 → s.busyInside = false → ∃ u : State, exec (.routerDrain c) s = .next u ∧
      u.mesh = { s.mesh with
        drained := true
        drainLeft := if s.mesh.drained then s.mesh.drainLeft else s.mesh.accepted
        drainCmds := s.mesh.drainCmds ++ [(k.id, s.now)] } ∧ u.slices = s.slices) ∧
    (let empty : Prop := (∀ x ∈ s.mesh.inBuf, x.2 = [] ∨ 5 ≤ x.1 % 7 ∨ (s.mesh.drained = true ∧ 4 ≤ x.1 / 7 % 9)) ∧
        (∀ x ∈ s.mesh.drainLeft, x.2 = 0) ∧ (∀ x ∈ s.mesh.eject, x.2 = [] ∨ 5 ≤ x.1 % 7)
     (¬empty → exec .routerDrainEmpty s = .next s) ∧
     (empty → exec .routerDrainEmpty s = .next (s.mesh.drainCmds.foldl
        (fun u x => u.endCmd (some x.1) stOk (Nat.min (u.now - x.2) (2 ^ 24 - 1)) []) { s with mesh := { s.mesh with drainCmds := [] } }))) ∧
    (s.newCmd c 0x43 = some k → fld (k.par 0) 0 2 = 3 → exec (.probeSet c) s = .next (finish k stBadParam (badDetail 1 0) [] s)) ∧
    (s.newCmd c 0x43 = some k → fld (k.par 0) 0 2 ≠ 3 → ∃ u, exec (.probeSet c) s = .next (finish k stOk 0 [] u) ∧
      ({ u with mesh := { u.mesh with probes := s.mesh.probes } } : State) = s ∧
      ∀ n, u.probe n = if n ∈ targetSlices k s then
        ({ w0 := k.par 0, w1 := k.par 1, w2 := k.par 2, buf := (s.probe n).buf, ovf := (s.probe n).ovf } : Probe) else s.probe n) ∧
    (∀ n p w0 w1 w2, (s.arrived 0 portHub .mgt).find? (fun p => p.snode == n) = some p → p.msg = .hub (.trace w0 w1 w2) → ∃ u : State,
      u.arrived 0 portHub .mgt = lremove (fun p => p.snode == n) (s.arrived 0 portHub .mgt) ∧ ({ u with mesh := s.mesh } : State) = s ∧
      (s.hub.fits .loft 3 = true → exec (.loftRecord n) s = .next ({ u with hub := u.hub.writePacket .loft 0 false [w0, w1, w2] })) ∧
      (s.hub.fits .loft 3 = false → exec (.loftRecord n) s =
        .next ({ u with err := { u.err with loftDrop := satAdd u.err.loftDrop 1 } })))

/-! ### Home-cache commands (07, 13) -/

/-- A bank command conflicts when a slice it names is not powered or its bank refuses; the detail names the lowest one.
HC_INVALIDATE_ALL of banks that serve nothing starts a pass that leaves every tag, word and mirror entry empty and the bank READY.
HC_ENABLE makes READY banks ON at once. HC_DISABLE of banks that are not ON replies OK; a bank that is ON starts draining and the pass
ends READY with no tag left and no locks but the NRU and ROT fields as they were, when no Dirty line is left and the victim writes are
acknowledged. Other slices are not changed. (R221, R227, R228, R229, R395.) -/
def Obligations.BankCommands : Prop :=
  ∀ (s : State) (c : Nat) (k : Kcp),
    (∀ j, s.newCmd c 0x20 = some k → s.refusing (s.bankTargets k) (fun v => v.bank.serves) = some j →
      exec (.hcInvalidateAll c) s = .next (finish k stConflict (s.bankDetail j) [] s)) ∧
    (s.newCmd c 0x20 = some k → s.refusing (s.bankTargets k) (fun v => v.bank.serves) = none →
      exec (.hcInvalidateAll c) s = .next (s.startCmd k (fun x => { x with units := s.bankTargets k }))) ∧
    (s.newCmd c 0x21 = some k → k.tgt ≠ 0xFF → (s.slice k.tgt).st = .on → (s.slice k.tgt).bank = .ready → (s.slice k.tgt).hcinit = true →
      ∃ u : State, exec (.hcEnable c) s = .next (finish k stOk 0 [] u) ∧ u.slice k.tgt = { s.slice k.tgt with bank := .on } ∧
        (∀ j, j ≠ k.tgt → u.slice j = s.slice j) ∧ ({ u with slices := s.slices } : State) = s) ∧
    (s.newCmd c 0x21 = some k → k.tgt ≠ 0xFF → ((s.slice k.tgt).st ≠ .on ∨ (s.slice k.tgt).bank = .off ∨ (s.slice k.tgt).bank = .draining) →
      exec (.hcEnable c) s = .next (finish k stConflict (s.bankDetail k.tgt) [] s)) ∧
    (s.newCmd c 0x22 = some k → k.tgt ≠ 0xFF → (s.slice k.tgt).st = .on → ((s.slice k.tgt).bank = .off ∨ (s.slice k.tgt).bank = .ready) →
      exec (.hcDisable c) s = .next (finish k stOk 0 [] s)) ∧
    (s.newCmd c 0x22 = some k → k.tgt ≠ 0xFF → (s.slice k.tgt).st = .on → (s.slice k.tgt).bank = .on →
      exec (.hcDisable c) s = .next ((drainBank k.id (s.modSlice k.tgt (fun v => { v with bank := .draining })) k.tgt).startCmd k
        (fun x => { x with units := [k.tgt] }))) ∧
    (s.cmd c = some k → k.running = true → k.opc = 0x20 → ∃ u : State,
      exec (.bankPassDone c) s = .next (finishUnits k 0 [] u) ∧ ({ u with slices := s.slices } : State) = s ∧
      ∀ j, (j ∉ k.units ∨ j ∈ k.lost → u.slice j = s.slice j) ∧ (j ∈ k.units → j ∉ k.lost →
        (u.slice j).bank = .ready ∧ (u.slice j).hcinit = true ∧ (u.slice j).hcTag = [] ∧ (u.slice j).hcData = [] ∧ (u.slice j).hcCtl = [] ∧
        (u.slice j).mirror = [] ∧ (u.slice j).sf = (s.slice j).sf ∧ (u.slice j).txns = (s.slice j).txns)) ∧
    (s.cmd c = some k → k.running = true → k.opc = 0x22 → (∀ j ∈ k.units, j ∉ k.lost → (s.slice j).drains c = false) → ∃ u : State,
      exec (.bankPassDone c) s = .next (finishUnits k (2 * b2n k.wfail) [] u) ∧
      ∀ j, (j ∉ k.units ∨ j ∈ k.lost → u.slice j = s.slice j) ∧ (j ∈ k.units → j ∉ k.lost →
        (u.slice j).bank = .ready ∧ (u.slice j).hcTag = [] ∧ (u.slice j).hcData = (s.slice j).hcData ∧
        (Sorted (s.slice j).hcCtl = true → ∀ set, (u.slice j).ctlAt set = { (s.slice j).ctlAt set with lock := 0, dcnt := 0 }) ∧
        (u.slice j).sf = (s.slice j).sf))

/-- A range command conflicts while a bank drains. An empty range is answered at once with four zero words; any other starts, visiting
the resident lines of the range in every powered slice: a flush writes back a Dirty line, an invalidation evicts it unless its way is
locked, which is counted. When no line is left and every write-back is acknowledged, the reply gives the counts of lines acted on,
skipped, homed elsewhere, and in all; a slice lost meanwhile makes it PARTIAL, its lines left out of the counts, or FAILED with the
source ID of the loss. WAY_LOCK and WAY_UNLOCK with no way named reply OK; otherwise the pass reads the control word of every set of the
range, which corrects or repairs one that is faulty, sets or clears the named LOCK bits in it, and leaves every other set. LINE_QUERY
replies the state of the line and changes nothing; FLUSH_LINE enters the chain of the line as a home flow, or waits while the shingle is
FENCED or the share is full; both are forwarded to the line's home instance and fail where the line has none. The end of a write-through
scan is recorded. (R109, R110, R226, R231, R232, R233, R234, R386, R396, R397, R398, R399.) -/
def Obligations.RangeLockAndLineCommands : Prop :=
  (∀ (s : State) (c : Nat) (k : Kcp),
     (s.newCmd c 0x23 = some k → exec (.invalRange c) s = .next (startRange k s)) ∧
     (s.newCmd c 0x24 = some k → exec (.flushRange c) s = .next (startRange k s)) ∧
     (∀ j, s.powered.find? (fun j => decide ((s.slice j).bank = .draining)) = some j → startRange k s = finish k stConflict (s.bankDetail j) [] s) ∧
     (s.powered.find? (fun j => decide ((s.slice j).bank = .draining)) = none → fld (k.par 1) 0 40 = 0 →
       startRange k s = finish k stOk 0 [0, 0, 0, 0] s) ∧
     (s.powered.find? (fun j => decide ((s.slice j).bank = .draining)) = none → s.powered = [] → (rangeOf k).1 < (rangeOf k).2 →
       startRange k s = s.startCmd k (fun x => { x with units := [], aux := (rangeOf k).2 - (rangeOf k).1 - s.homedIn (rangeOf k).1 (rangeOf k).2 })) ∧
     (∀ j l, (s.slice j).slotOf l = none → rangeLine k j s l = (false, s)) ∧
     (∀ j l t, (s.slice j).slotOf l = some t → k.opc = 0x23 → (s.slice j).locked (hcSet l) (t / 2) = true → k.flag 0 = false →
       rangeLine k j s l = (true, s)) ∧
     (∀ j l t, (s.slice j).slotOf l = some t → k.opc = 0x23 → ((s.slice j).locked (hcSet l) (t / 2) = false ∨ k.flag 0 = true) →
       rangeLine k j s l = (false, evictFor j (hcSet l) t (some k.id) s)) ∧
     (∀ j l t, (s.slice j).slotOf l = some t → k.opc = 0x24 →
       rangeLine k j s l = (false, if ((s.slice j).tagAt (hcSet l) t).hst = hsDirty then writeBackSlot j (.range k.id) s (hcSet l, t) else s)) ∧
     (s.cmd c = some k → k.running = true → (k.opc = 0x23 ∨ k.opc = 0x24) → k.revisit = [] → s.rangeWrites c = false →
       exec (.rangeScanDone c) s = .next (finishUnits k (b2n (fld (k.par 1) 0 40 == 2 ^ 40 - 1) + 2 * b2n k.wfail)
         (let kept := (k.skipped.filter (fun j => !(k.lost.contains j))).length
          [BitVec.ofNat 64 ((rangeOf k).2 - (rangeOf k).1 - k.aux - k.away - kept), BitVec.ofNat 64 kept, BitVec.ofNat 64 k.aux,
           BitVec.ofNat 64 ((rangeOf k).2 - (rangeOf k).1)]) s)) ∧
     (∀ j src, ∀ x ∈ s.hub.inProg, x.id = c → x.running = true → j ∈ x.units → j ∉ x.lost → (s.slice j).txns = [] →
       ({ x with lost := x.lost ++ [j], lostBy := src, away := x.away +
         (if x.opc = 0x23 ∨ x.opc = 0x24 then s.linesAt j (rangeOf x).1 (rangeOf x).2 else 0) } : Kcp) ∈ (noteLost j src s).hub.inProg) ∧
     (∀ d ws, k.lost = [] → finishUnits k d ws s = finish k stOk d ws s) ∧
     (∀ j d ws, k.lost = [j] → k.tgt ≠ 0xFF → k.units = [k.tgt] → finishUnits k d ws s = finish k stFailed k.lostBy [] s) ∧
     (∀ j d ws, k.lost = [j] → k.tgt = 0xFF → finishUnits k d ws s = finish k stPartial (j + 256) ws s)) ∧
  (∀ (s : State) (c : Nat) (k : Kcp),
     (s.newCmd c 0x25 = some k → (fld (k.par 0) 0 16 = 0 → exec (.wayLock c) s = .next (finish k stOk 0 [] s)) ∧
       (fld (k.par 0) 0 16 ≠ 0 → (∀ j ∈ s.bankTargets k, (s.slice j).st = .on ∧ ((s.slice j).bank = .on ∨ (s.slice j).bank = .ready)) →
         exec (.wayLock c) s = .next (s.startCmd k (fun x => { x with units := s.bankTargets k })))) ∧
     (s.newCmd c 0x26 = some k → (fld (k.par 0) 0 16 = 0 → exec (.wayUnlock c) s = .next (finish k stOk 0 [] s)) ∧
       (fld (k.par 0) 0 16 ≠ 0 → (∀ j ∈ s.bankTargets k, (s.slice j).st = .on ∧ ((s.slice j).bank = .on ∨ (s.slice j).bank = .ready)) →
         exec (.wayUnlock c) s = .next (s.startCmd k (fun x => { x with units := s.bankTargets k })))) ∧
     (s.cmd c = some k → k.running = true → (k.opc = 0x25 ∨ k.opc = 0x26) → k.units = [k.tgt] → k.lost = [] →
       exec (.wayLockDone c) s = .next (finish k stOk 0 [] (((List.range (fld (k.par 0) 32 11 + 1 - fld (k.par 0) 16 11)).map
         (fun i => fld (k.par 0) 16 11 + i)).foldl (fun u i => (readCtl k.tgt i accCmd u).modSlice k.tgt
           (fun v => v.lockSet (decide (k.opc = 0x25)) ((k.par 0).extractLsb' 0 16) i)) s)) ∧
       ((∀ set, (s.slice k.tgt).errAt 3 set = none ∧ ((s.slice k.tgt).ctlAt set).dcnt.toNat ≤ 16) →
       ∃ u : State, exec (.wayLockDone c) s = .next (finish k stOk 0 [] u) ∧ ({ u with slices := s.slices } : State) = s ∧
         (∀ j, j ≠ k.tgt → u.slice j = s.slice j) ∧ (u.slice k.tgt).hcTag = (s.slice k.tgt).hcTag ∧
         ∀ set, let w := k.par 0
           let c0 := (s.slice k.tgt).ctlAt set
           (u.slice k.tgt).ctlAt set = if fld w 16 11 ≤ set ∧ set ≤ fld w 32 11 then
             { c0 with lock := if k.opc = 0x25 then c0.lock ||| w.extractLsb' 0 16 else c0.lock &&& ~~~(w.extractLsb' 0 16) } else c0)) ∧
     (∀ i m, s.newCmd c 0x27 = some k → homeOf s.map.active ((k.par 0).extractLsb' 0 46) = some (i, m) → i = s.self →
       exec (.lineQuery c) s = .next (finish k stOk 0 [s.lineWord ((k.par 0).extractLsb' 0 46),
         ((s.slice (s.homeSlice (shingleOf ((k.par 0).extractLsb' 0 46)))).sfEnt ((k.par 0).extractLsb' 0 46)).payload] s)) ∧
     (∀ i, ((s.newCmd c 0x27 = some k ∧ i = Instr.lineQuery c) ∨ (s.newCmd c 0x28 = some k ∧ i = Instr.flushLine c)) →
       homeOf s.map.active ((k.par 0).extractLsb' 0 46) = none → exec i s = .next (finish k stFailed 1 [] s)) ∧
     (∀ i m, s.newCmd c 0x27 = some k → homeOf s.map.active ((k.par 0).extractLsb' 0 46) = some (i, m) → i ≠ s.self → k.remote = none →
       exec (.lineQuery c) s = .next (forward k i (stFailed, 2) s)) ∧
     (∀ i m, s.newCmd c 0x28 = some k → homeOf s.map.active ((k.par 0).extractLsb' 0 46) = some (i, m) → i = s.self →
       let l : LAddr := (k.par 0).extractLsb' 0 46
       let j := s.homeSlice (shingleOf l)
       let v := s.slice j
       ((s.fencedAt (shingleOf l) = true ∨ 16 ≤ s.homeUse j) → exec (.flushLine c) s = .next s) ∧
       (s.fencedAt (shingleOf l) = false → s.works j = true → s.homeUse j < 16 → ∃ t, exec (.flushLine c) s = .next t ∧
         t.slice j = v.enter { e := v.freeEntry, kind := .flushLine, q := { laddr := l }, cmd := some k.id } ∧
         (∀ i, i ≠ j → t.slice i = s.slice i) ∧ ({ t with slices := s.slices, hub := s.hub } : State) = s)) ∧
     (∀ sl, (s.slice sl).wtScan = true → s.works sl = true →
       exec (.writeThroughScanDone sl) s = .next (endWriteThrough sl (s.modSlice sl (fun v => { v with wtScan := false })))))

/-! ### Shingles and their moves (02, 13) -/

/-- SHINGLE_QUERY replies the entry of the shingle, its move and its mask, and the generation of the map. SHINGLE_MOVE conflicts unless
the new slice is powered and another than the old, and the shingle NORMAL; it is BUSY 1 with eight moves and BUSY 2 when the old slice
moves another; else the move is in PREPARE and the old slice, once it has a home-flow entry for it, writes back its Dirty lines of the
shingle. When none of its memory writes is open, the entry FENCED is named, or the move fails with 0x18; a write that fails before T_F
withdraws the FENCE. A marker takes a slot that is WASTED, and is counted for the move in drain of its slice. When every marker has
arrived and nothing of the shingle is open, the old slice sends its entries to the new one, four in a packet; an entry that arrived is
installed there and recorded, or waits for a way; one whose word is no combination of the table is resolved as OPEN instead. When all
are installed and no memory write is open the new home is named; a move whose write has failed, or that is not done by T_F + 18,600, is
reverted. A flip that is due makes the named generation the active one, with the changes also in the other, one generation on; its end
names the changes that wait. (R43, R44, R49, R52, R53, R54, R139, R400, R509, R511, R538, R539.) -/
def Obligations.ShingleMoves : Prop :=
  (∀ (s : State) (c : Nat) (k : Kcp) (n : Nat) (vc : VC),
     let sh := fld (k.par 0) 0 12
     let new := fld (k.par 0) 16 6
     (s.newCmd c 0x30 = some k → s.moveOf sh = none → exec (.shingleQuery c) s = .next (finish k stOk 0
       [pack 64 [(0, (s.map.entry sh).toNat), (8, 0), (16, 0), (32, (s.shmaskOf sh).toNat)], s.map.gen.setWidth 64] s)) ∧
     (∀ m, s.newCmd c 0x30 = some k → s.moveOf sh = some m → exec (.shingleQuery c) s = .next (finish k stOk 0
       [pack 64 [(0, (s.map.entry sh).toNat), (8, m.code), (16, m.new), (32, (s.shmaskOf sh).toNat)], s.map.gen.setWidth 64] s)) ∧
     (s.newCmd c 0x31 = some k →
       ((s.homeSlice sh = new ∨ (s.slice new).st ≠ .on ∨ s.shState sh ≠ hmNormal) → exec (.shingleMove c) s =
         .next (finish k stConflict ((s.map.entry sh).toNat + 256 * slStateCode (s.slice new).st) [] s)) ∧
       (s.homeSlice sh ≠ new → (s.slice new).st = .on → s.shState sh = hmNormal → 8 ≤ s.map.moves.length →
         exec (.shingleMove c) s = .next (finish k stBusy 1 [] s)) ∧
       (s.homeSlice sh ≠ new → (s.slice new).st = .on → s.shState sh = hmNormal → s.map.moves.length < 8 →
         s.map.moves.any (fun m => m.old == s.homeSlice sh) = true → exec (.shingleMove c) s = .next (finish k stBusy 2 [] s)) ∧
       (s.homeSlice sh ≠ new → (s.slice new).st = .on → s.shState sh = hmNormal → s.map.moves.length < 8 →
         s.map.moves.any (fun m => m.old == s.homeSlice sh) = false →
         exec (.shingleMove c) s = .next (startMove sh new (some k.id) false false (s.startCmd k id))) ∧
       (s.homeSlice sh ≠ new → (s.slice new).st = .on → s.shState sh = hmNormal → s.map.moves.length < 8 →
         s.map.moves.any (fun m => m.old == s.homeSlice sh) = false → s.moveOf sh = none → (s.slice (s.homeSlice sh)).dirtyOf sh = [] →
         ((s.slice (s.homeSlice sh)).bank = .off ∨ (s.slice (s.homeSlice sh)).faultySets = []) →
         ∃ t : State, exec (.shingleMove c) s = .next t ∧ t.map = { s.map with
             moves := s.map.moves ++ [{ sh := sh, old := s.homeSlice sh, new := new, cmd := some k.id,
                                        begun := decide ((s.slice (s.homeSlice sh)).homeFlows < 16) }] } ∧
           ({ t with map := s.map, hub := s.hub } : State) = s)) ∧
     (∀ m, s.moveOf n = some m → m.step = .prepare →
       (m.begun = false → exec (.movePrepareDone n) s = .next (beginMove m s)) ∧
       (m.begun = true → s.writesOf m.old n = true → exec (.movePrepareDone n) s = .next s) ∧
       (m.begun = true → s.writesOf m.old n = false → m.failed = true → exec (.movePrepareDone n) s = .next (endMove m (.fault 0x18) s)) ∧
       (m.begun = true → s.writesOf m.old n = false → m.failed = false → exec (.movePrepareDone n) s =
         .next (changeMap [(n, hmEntry m.old hmFenced)] (s.modMove n (fun m => { m with step := .fenceWait }))))) ∧
     (∀ m, s.moveOf n = some m → m.step = .fenceWait → m.failed = true → exec (.movePrepareDone n) s = .next (withdrawMove m s)) ∧
     (∀ m, 16 ≤ s.homeUse m.old → beginMove m s = s) ∧
     (∀ p src, (s.arrived n portSlice vc).head? = some p → p.msg = .marker src → s.works n = true → ∃ t : State,
       exec (.fenceMarker n vc) s = .next t ∧ t.arrived n portSlice vc = (s.arrived n portSlice vc).tail ∧
       (∀ j, j ≠ n → t.slice j = s.slice j) ∧ t.slice n = { s.slice n with slots := (s.slice n).slots ++ [true] } ∧
       (s.map.moves.any (fun m => m.old == n && decide (m.step = .drain)) = false → t.map = s.map) ∧
       (∀ m ms, s.map.moves = m :: ms → m.old = n → m.step = .drain → t.map.moves = { m with marks := m.marks ++ [(src, vc)] } :: ms)) ∧
     ((s.arrived n portSlice vc) = [] → exec (.fenceMarker n vc) s = .next s)) ∧
  (∀ (s : State) (sh k : Nat),
     (∀ m, s.moveOf sh = some m → m.step = .drain → s.allMarks m = true → (s.slice m.old).openOnShingle sh = false → s.works m.old = true →
       ∃ u : State, u = readShingle m.old sh s ∧ exec (.moveDrainDone sh) s = .next (((entryGroups ((u.slice m.old).entriesOf sh)).foldl
         (fun w l => w.sliceToSlice m.old m.new .dat (.sfCopy sh l)) u).modMove sh
           (fun m => { m with step := .copy, toCopy := ((u.slice m.old).entriesOf sh).length }))) ∧
     (∀ es : List (Nat × SfEnt), (entryGroups es).flatten = es.map (fun x => (x.1, x.2.content)) ∧
       (∀ l ∈ entryGroups es, l ≠ [] ∧ l.length ≤ 4) ∧ (entryGroups es).length = (es.length + 3) / 4) ∧
     (∀ m, s.moveOf sh = some m → (m.step ≠ .drain ∨ s.allMarks m = false ∨ (s.slice m.old).openOnShingle sh = true) →
       exec (.moveDrainDone sh) s = .next s) ∧
     (∀ key content rest, (s.slice k).copyIn = (sh, key, content) :: rest → s.works k = true →
       let v := s.modSlice k (fun v => { v with copyIn := rest })
       (∀ m, s.map.moves.find? (fun m => m.sh == sh && m.new == k && decide (m.step = .copy)) = some m →
         (∀ u, installEnt k (key / 16) (entOf content) v = some u → exec (.sfEntryInstall k) s =
           .next (u.modMove sh (fun m => { m with copied := m.copied ++ [(sfLine (key / 16) (entOf content).tag).toNat] }))) ∧
         (installEnt k (key / 16) (entOf content) v = none → exec (.sfEntryInstall k) s = .next s)) ∧
       (s.map.moves.find? (fun m => m.sh == sh && m.new == k && decide (m.step = .copy)) = none →
         (∀ j, (s.slice j).salv = none) → exec (.sfEntryInstall k) s = .next v)) ∧
     (∀ set e, e.valid = false → installEnt k set e s = if s.homeUse k < 16 then
       some (beginOpen k set 0 accInt e (if (s.slice k).lineBusy (sfLine set e.tag) then [] else [sfLine set e.tag]) s) else none) ∧
     (∀ set e w, e.valid = true → e.st ≠ stFree → (s.slice k).sfWay (sfLine set e.tag) = some w →
       installEnt k set e s = some (s.modSlice k (fun v => v.setSf set w (regen s.pol e)))) ∧
     (∀ m, s.moveOf sh = some m → m.step = .copy → m.failed = true → exec (.moveCopyDone sh) s = .next (revertMove m s)) ∧
     (∀ m, s.moveOf sh = some m → m.step = .copy → m.failed = false → m.copied.length = m.toCopy → s.writesOf m.old sh = false →
       (s.slice m.old).openOnShingle sh = false → exec (.moveCopyDone sh) s =
         .next (changeMap [(sh, hmEntry m.new hmNormal)] (s.modMove sh (fun m => { m with step := .unfenceWait })))) ∧
     (∀ m, s.moveOf sh = some m → (m.step = .drain ∨ m.step = .copy) → (m.failed = true ∨ m.tf + 18600 ≤ s.now) →
       exec (.moveDecisionDeadline sh) s = .next (revertMove m s)) ∧
     (∀ m, s.moveOf sh = some m → m.failed = false → s.now < m.tf + 18600 → exec (.moveDecisionDeadline sh) s = .next s) ∧
     (∀ f, s.map.flip = some f → f.flipped = false → f.tick ≤ s.now → s.map.moves = [] → (∀ j, s.salv j = none ∧ (s.slice j).exitSets = []) → ∃ t : State,
       exec .homeMapFlip s = .next t ∧ ({ t with map := s.map, cas := s.cas, rdg := s.rdg } : State) = s ∧ t.map.gen = s.map.gen + 1 ∧
       (∀ x, t.map.entry x = s.map.entryIn (!s.map.cur) x) ∧ (∀ x, (∀ c ∈ f.chg, c.1 ≠ x) → t.map.entryIn s.map.cur x = s.map.entry x) ∧
       (∀ x e, f.chg = [(x, e)] → t.map.entryIn s.map.cur x = e)) ∧
     (∀ f, s.map.flip = some f → (f.flipped = true ∨ s.now < f.tick) → exec .homeMapFlip s = .next s) ∧
     (∀ f, s.map.flip = some f → f.flipped = true →
       let v := withdrawFailed s
       let u : State := { v with map := { v.map with flip := none, waiting := [] } }
       exec .flipCopyAck s = .next (if v.map.waiting = [] then u else nameFlip v.map.waiting u)))

/-! ### Policies and regroups (06, 13) -/

/-- At an epoch boundary every powered slice copies its calibration counters into its snapshot and clears them, and the next boundary is
the next multiple of EPOCH_LEN; an early end leaves that grid as it is; a new length takes effect at the first boundary that is a
multiple of it. The decisions are taken once per snapshot: an adaptive threshold moves by at most one within its bounds, a pinned one
stays; a speculation bit is set, cleared or kept by its two ratios; the insertion mode follows the hits per fill within its bounds.
(R170, R171, R173, R189, R190, R191, R197.) -/
def Obligations.EpochsAndDecisions : Prop :=
  ∀ (s : State),
    (∃ t : State, exec (.epochBoundary true) s = .next t ∧ t.pol = { s.pol with
          snapDue := true
          lastB := s.ptcNow
          linkBad := t.pol.linkBad
          readSnap := t.pol.readSnap
          readFrom := s.time.cycles } ∧ t.pol.epochNext = s.pol.epochNext ∧
      (∀ k, t.slice k = if k ∈ s.powered then { s.slice k with snap := (s.slice k).calib, calib := {} } else s.slice k) ∧
      ({ t with slices := s.slices, mps := s.mps, pol := s.pol } : State) = s) ∧
    (s.pol.epochNext ≤ s.ptcNow → s.pol.startFrom = none → s.pol.recovery = false → s.rst.test = false → s.pol.nru = false →
      s.pol.epochNew = none → ∃ t : State,
      exec (.epochBoundary false) s = .next t ∧ t.pol.epochNext = (s.ptcNow / s.epochLen + 1) * s.epochLen ∧
      t.pol.epochs = s.pol.epochs + 1 ∧ t.pol.snapDue = true ∧
      (∀ k, t.slice k = if k ∈ s.powered then { s.slice k with snap := (s.slice k).calib, calib := {} } else s.slice k)) ∧
    (s.ptcNow < s.pol.epochNext → exec (.epochBoundary false) s = .next s) ∧
    (∀ m t, s.pol.epochNext ≤ s.ptcNow → s.pol.epochNew = some m → exec (.epochBoundary false) s = .next t →
      t.pol.epochMs = (if s.pol.epochNext % (m * 1000000) = 0 then m else s.pol.epochMs) ∧
      t.pol.epochNew = (if s.pol.epochNext % (m * 1000000) = 0 then none else some m)) ∧
    (s.pol.snapDue = false → exec .calibrationDecisions s = .next s) ∧
    (s.pol.snapDue = true →
      let u := driveGate (decideGating (decideStream ((List.range 128).foldl decideSpec ((List.range s.gh.slices).foldl decideThreshold
        { s with pol := { s.pol with snapDue := false, linkBad := s.pol.linkBad || s.peersBad } }))))
      (u.calMaster = u.self → exec .calibrationDecisions s = .next (beginRegroup u)) ∧
      (u.calMaster ≠ u.self → exec .calibrationDecisions s = .next (calDecided false (u.sendMgt u.calMaster
        (.summary (u.bundleSums (fun c => c.sent)) (u.bundleSums (fun c => c.spur)) u.ownSamples u.pol.linkBad))))) ∧
    ((s.calMaster ≠ s.self ∨ s.peers = []) → s.peersBad = false) ∧
    (∀ k, (s.slice k).thrPin = true → ((decideThreshold s k).slice k).thr = (s.slice k).thr) ∧
    (∀ (v : Slice) num den, (v.thr ≤ thresholdStep v num den + 1 ∧ thresholdStep v num den ≤ v.thr + 1) ∧
      (v.thrMin ≤ v.thr → v.thr ≤ v.thrMax → v.thrMin ≤ thresholdStep v num den ∧ thresholdStep v num den ≤ v.thrMax)) ∧
    (∀ old snp rspi reads cycles, (snp < 64 → specStep old snp rspi reads cycles = old) ∧
      (64 ≤ snp → snp ≤ 8 * rspi → 100 * reads < 70 * cycles → specStep old snp rspi reads cycles = true) ∧
      (64 ≤ snp → 16 * rspi < snp → specStep old snp rspi reads cycles = false) ∧
      (64 ≤ snp → 0 < cycles → 85 * cycles ≤ 100 * reads → specStep old snp rspi reads cycles = false)) ∧
    (∀ old fills hits lo hi, lo ≤ hi → lo ≤ streamStep old fills hits lo hi ∧ streamStep old fills hits lo hi ≤ hi ∧
      (1024 ≤ fills → 32 * hits < fills → streamStep old fills hits 0 2 = 2) ∧
      (1024 ≤ fills → fills ≤ 4 * hits → streamStep old fills hits 0 2 = 0))

/-- A computation that gains enough writes the new map, else the regroup is skipped with reason 4; one that takes 40,000,000 ticks is
skipped with reason 5; a regular one of which no flip is named when a transition begins, with reason 6. The new map goes to every slice
and every peer; when each member has acknowledged it, one in a step, the flip is named at least 10,000 ticks ahead. At the flip the
other generation holds the new map and is the current one, and every slice sweeps its sets, one in 8 cycles, or up to 64 cycles later
while messages wait: each Coarse way of the old generation that is not pinned is regenerated. When nothing of the old generation is left
in any instance the regroup is done and its generation is free. A map that is not pure is not made current. A forced regroup writes the
map of the new partitions. (R20, R151, R152, R180, R181, R182, R184, R185, R187, R438.) -/
def Obligations.RegroupsRun : Prop :=
  ∀ (s : State) (more : List (Nat × List (BitVec 11))) (k set : Nat),
    (s.pol.rg = .computing →
      let m := s.regroupMoves (s.pol.rgSamples.map Sample.held ++ more)
      (s.prot.trans = true → exec (.regroupComputeDone more) s =
        .next (endCalibrate false (skipRegroup 6 { s with pol := { s.pol with rg := .idle, rgSamples := [] } }))) ∧
      (s.prot.trans = false → s.gains m.2.1 m.2.2 = true → exec (.regroupComputeDone more) s =
        .next (writeNewMap (s.pol.moveAids m.1) { s with pol := { s.pol with rgMoves := m.1.length } })) ∧
      (s.prot.trans = false → s.gains m.2.1 m.2.2 = false → exec (.regroupComputeDone more) s =
        .next (endCalibrate false (skipRegroup 4 { s with pol := { s.pol with rg := .idle, rgSamples := [] } })))) ∧
    (∀ cur new : Int, s.gains cur new = true ↔ new < cur ∧ (s.pol.gainMin : Int) ≤ cur - new ∧ (s.pol.hyst : Int) * cur ≤ 100 * (cur - new)) ∧
    (s.pol.rg = .computing → s.pol.rgFrom + 40000000 ≤ s.ptcNow → exec .regroupTimeout s =
      .next (endCalibrate false (skipRegroup 5 { s with pol := { s.pol with rg := .idle, rgSamples := [] } }))) ∧
    ((s.pol.rg ≠ .computing ∨ s.ptcNow < s.pol.rgFrom + 40000000) → exec .regroupTimeout s = .next s) ∧
    (∀ m, (writeNewMap m s).slices = s.slices ∧ (writeNewMap m s).pol = { s.pol.writeMap m with
      rg := .written, rgMap := m, rgSamples := [], lateMaps := (writeNewMap m s).pol.lateMaps, rgAwait := s.pkg.members ||| (1#8 <<< s.self) }) ∧
    (s.pol.rg = .written → s.prot.trans = true → s.pol.rgForced = false → exec .regroupMapWritten s =
      .next (endCalibrate false (skipRegroup 6 { s with pol := { s.pol with rg := .idle, rgSamples := [] } }))) ∧
    (s.pol.rg = .written → (s.prot.trans = false ∨ s.pol.rgForced = true) → (s.pol.rgAwait &&& (s.pkg.members ||| (1#8 <<< s.self))) ≠ 0 →
      ∃ i < 8, bit (s.pol.rgAwait &&& (s.pkg.members ||| (1#8 <<< s.self))) i = true ∧
        exec .regroupMapWritten s = .next { s with pol := { s.pol with rgAwait := s.pol.rgAwait &&& ~~~(1#8 <<< i) } }) ∧
    (s.pol.rg = .written → (s.prot.trans = false ∨ s.pol.rgForced = true) → (s.pol.rgAwait &&& (s.pkg.members ||| (1#8 <<< s.self))) = 0 →
      ∃ u : State, ∃ t, s.ptcNow + 10000 ≤ t ∧ u.pol.rg = .named ∧ u.slices = s.slices ∧
      exec .regroupMapWritten s = .next (endCalibrate true (genIssue
        { kind := .bundle, issuer := s.inst, tick := t, payload := .bundle s.pol.rgMap } (t - 5000) u))) ∧
    (∀ m, s.dueFlip = some m → exec .genFlip s = .next (flipNow m s)) ∧
    (s.dueFlip = none → exec .genFlip s = .next s) ∧
    (∀ m, s.mapPure m = false → flipNow m s = s.dropDue .bundle) ∧
    (∀ m, s.mapPure m = true → s.forcedMap m = false → flipNow m s = sendLate (applyBundle m s)) ∧
    (∀ m, (applyBundle m s).pol.curgen = !s.pol.curgen ∧ (applyBundle m s).pol.otherFree = false ∧
      (if s.pol.curgen then (applyBundle m s).pol.map0 = m else (applyBundle m s).pol.map1 = m) ∧
      (∀ j ∈ s.slicesUp, s.pol.rgForced = false → (applyBundle m s).slice j = { s.slice j with genSweep := true, genAt := s.time.cycles })) ∧
    (let due : Prop := (s.slice k).genAt ≤ s.time.cycles ∧ (s.inputWaits k = false ∨ (s.slice k).genAt + 64 ≤ s.time.cycles)
     ((s.slice k).genSweep = true → s.works k = true → set < 4096 → due → exec (.genSweepSet k set) s = .next ((List.range 16).foldl
        (sweepWay k set) (sfReadSet k set accInt ((bankServes k s).modSlice k (fun v => { v with genAt := s.time.cycles + 8 }))))) ∧
     (¬due → exec (.genSweepSet k set) s = .next s)) ∧
    ((s.slice k).genSweep = false → exec (.genSweepSet k set) s = .next s) ∧
    (∀ w, ((s.slice k).sfAt set w).old s.pol = true → (s.slice k).sfPinned set w = false →
      ((sweepWay k set s w).slice k).sfAt set w = regen s.pol ((s.slice k).sfAt set w)) ∧
    (s.pol.rg = .sweeping → s.oldGone = true → s.calMaster ≠ s.self → ∃ u : State,
      u.pol = { s.pol with rg := .idle, otherFree := true, rgForced := false, rgAwait := s.pol.rgAwait &&& ~~~(1#8 <<< s.self) } ∧
      u.hub = s.hub ∧ u.err = s.err ∧ (∀ j, j < s.gh.slices → u.slice j = { s.slice j with genSweep := false }) ∧
      exec .regroupDone s = .next (u.sendMgt s.calMaster .genFree)) ∧
    (s.pol.rg = .sweeping → s.oldGone = false → (∀ i, i ≠ s.self → bit s.pol.rgAwait i = false) → bit s.pol.rgAwait s.self = true →
      exec .regroupDone s = .next s) ∧
    (∀ i, s.pol.rg = .sweeping → s.nextFree = some i → s.calMaster = s.self →
      let left : BitVec 8 := s.pol.rgAwait &&& ~~~(1#8 <<< i)
      ∃ u : State, u.hub = s.hub ∧ u.err = s.err ∧ (i = s.self → ∀ j, j < s.gh.slices → u.slice j = { s.slice j with genSweep := false }) ∧
        (i ≠ s.self → u.slices = s.slices) ∧
        (left &&& (s.pkg.members ||| (1#8 <<< s.self)) ≠ 0 → u.pol = { s.pol with rgAwait := left } ∧ exec .regroupDone s = .next u) ∧
        (left &&& (s.pkg.members ||| (1#8 <<< s.self)) = 0 →
          u.pol = { s.pol with rg := .idle, otherFree := true, rgForced := false, rgAwait := left } ∧
          exec .regroupDone s = .next (policyEvent 2 0x01 0xFF 0 s.pol.rgMoves (s.epoch % 65536) u))) ∧
    (bit s.pol.rgAwait s.self = true → s.oldGone = true → s.nextFree = some s.self) ∧
    (∀ i, s.nextFree = some i → bit s.pol.rgAwait i = true ∧ (i = s.self → s.oldGone = true)) ∧
    (∀ b, s.activeBlk = some b → b.issuer = s.inst → b.phase = .regroup → s.calMaster = s.self → s.prot.trans = true → s.movesAids = true →
      (s.pol.rg = .idle ∨ s.pol.rg = .computing ∨ (s.pol.rg = .written ∧ s.pol.rgForced = false)) → s.pol.otherFree = true →
      let m := formMap (fun a => s.newPartOf a)
      let u := if s.pol.rg = .idle then s else endCalibrate false (skipRegroup 6 s)
      exec .forcedRegroup s = .next (writeNewMap m { u with pol := { u.pol with rgForced := true, rgMoves := (u.pol.changed m).length } }))

/-- CALIBRATE_NOW conflicts while a flip is named or a sweep runs, else it ends the counting period and waits for the decisions.
BUNDLE_MAP_READ replies the bundles of the AIDs it names, ten a word. POLICY_SET of crossed bounds conflicts; a pinned threshold or
insertion mode takes its value, an adaptive one moves to the nearest bound; a change of EPOCH_LEN is issued by the calibration master
alone; while an earlier one is issued or waits for its first boundary it is BUSY 1, which is the choice of the model (log 94).
POLICY_READ replies the setting word, the regroup parameters, and the last decision, and changes nothing. (R170, R173, R198, R401, R402,
R403.) -/
def Obligations.PolicyCommands : Prop :=
  ∀ (s : State) (c : Nat) (k : Kcp),
    let w := k.par 0
    (s.newCmd c 0x3B = some k → s.calMaster = s.self → s.pol.rg = .named → exec (.calibrateNow c) s = .next (finish k stConflict 1 [] s)) ∧
    (s.newCmd c 0x3B = some k → s.calMaster = s.self → s.pol.rg = .sweeping → exec (.calibrateNow c) s = .next (finish k stConflict 2 [] s)) ∧
    (s.newCmd c 0x3B = some k → s.calMaster = s.self → s.pol.rg ≠ .named → s.pol.rg ≠ .sweeping → ∃ u : State,
      exec (.calibrateNow c) s = .next (State.toPeers (endPeriod u) .calibrate) ∧ u.pol.calCmds = s.pol.calCmds ++ [k.id] ∧ u.slices = s.slices) ∧
    (s.newCmd c 0x3B = some k → s.calMaster ≠ s.self → k.remote = none →
      exec (.calibrateNow c) s = .next (forward k s.calMaster (stFailed, 2) s)) ∧
    (s.newCmd c 0x38 = some k → bit w 1 = true → fld w 16 11 = 0 → fld w 32 12 = 10 → exec (.bundleMapRead c) s = .next (finish k stOk 0
      [pack 64 [(0, b2n s.pol.curgen), (1, b2n s.pol.curgen), (2, 0), (3, b2n (decide (s.pol.rg = .named) || decide (s.pol.rg = .sweeping)))],
       pack 64 ((List.range 10).map (fun j => (6 * j, s.pol.bundle s.pol.curgen j)))] s)) ∧
    (s.newCmd c 0x38 = some k → ∃ ws, exec (.bundleMapRead c) s = .next (finish k stOk 0 ws s)) ∧
    (s.newCmd c 0x39 = some k → fld w 0 8 = 3 → fld w 48 16 < fld w 32 16 →
      exec (.policySet c) s = .next (finish k stConflict (s.policyDetail k) [] s)) ∧
    (s.newCmd c 0x39 = some k → fld w 0 8 = 3 → fld w 32 16 ≤ fld w 48 16 → k.tgt ≠ 0xFF → ∃ u : State,
      exec (.policySet c) s = .next (finish k stOk 0 [] u) ∧ u = setThreshold w s k.tgt) ∧
    (∀ j, bit w 8 = true → fld w 16 16 = (s.slice j).thr →
      ((setThreshold w s j).slice j) = { s.slice j with thrPin := true, thrMin := fld w 32 16, thrMax := fld w 48 16 }) ∧
    (∀ v cur lo hi, clamped true v cur lo hi = v ∧ (lo ≤ cur → cur ≤ hi → clamped false v cur lo hi = cur) ∧
      (lo ≤ hi → lo ≤ clamped false v cur lo hi ∧ clamped false v cur lo hi ≤ hi)) ∧
    (s.newCmd c 0x39 = some k → fld w 0 8 = 1 → s.calMaster ≠ s.self →
      exec (.policySet c) s = .next (finish k stConflict (s.policyDetail k) [] s)) ∧
    (s.newCmd c 0x39 = some k → fld w 0 8 = 1 → s.calMaster = s.self → (s.holdOf .epoch ≠ none ∨ s.pol.epochNew ≠ none) →
      exec (.policySet c) s = .next (finish k stBusy 1 [] s)) ∧
    (s.newCmd c 0x39 = some k → fld w 0 8 = 1 → s.calMaster = s.self → s.holdOf .epoch = none → s.pol.epochNew = none → ∃ u : State, ∃ t, s.ptcNow + 10000 ≤ t ∧
      u.pol.epochCmd = some k.id ∧ u.slices = s.slices ∧ exec (.policySet c) s =
        .next (genIssue { kind := .epoch, issuer := s.inst, tick := t, payload := .epoch (fld w 16 16) } (t - 5000) u)) ∧
    (s.newCmd c 0x3A = some k → fld w 0 8 ≠ 2 → ∃ ws, exec (.policyRead c) s = .next (finish k stOk 0 ws s) ∧
      ws.head? = some (s.setting (fld w 0 8) k.unit).2.2 ∧ 4 ≤ ws.length) ∧
    (s.newCmd c 0x3A = some k → fld w 0 8 = 2 → s.calMaster ≠ s.self → k.remote = none →
      exec (.policyRead c) s = .next (forward k s.calMaster (stFailed, 2) s))

/-! ### Package-wide changes (10) -/

/-- A change that a member can take is stored, unarmed, and acknowledged; one that its tick, its digest, its impure bundles or a change
of a lower ID forbids is refused; one of a higher ID that is not due gives way. The issuer arms when the last member has acknowledged in
time, and aborts on a refusal or at its deadline; an abort discards the change everywhere. ARM arms a held change once; ABORT discards
one that is not due. At T an armed change is applied and an unarmed one is not; a change neither armed nor aborted by T - 1,000 is
discarded and GEN_LOST raised. (R39, R315, R316, R319, R434.) -/
def Obligations.GenerationProtocol : Prop :=
  ∀ (s : State) (g : GenKind) (c : GenChange) (src : BitVec 3),
    (c.issuer ≠ s.inst → s.pendingHold c.kind = none → s.prepOk c = true → ∃ t : State, exec (.genPrep c) s = .next t ∧
      t.pkg.hold = s.pkg.hold ++ [{ chg := c }] ∧ (s.peerPort c.issuer.toNat ≠ none → t.out.getLast? = some (.mgt (BitVec.ofNat 3 c.issuer.toNat) (.answer c.kind true))) ∧
      t.slices = s.slices ∧ t.map = s.map ∧ t.prot = s.prot) ∧
    (c.issuer ≠ s.inst → s.prepOk c = false → exec (.genPrep c) s = .next (answerPrep c false s)) ∧
    (∀ h, c.issuer ≠ s.inst → s.pendingHold c.kind = some h → h.chg.issuer.toNat < c.issuer.toNat →
      exec (.genPrep c) s = .next (answerPrep c false s)) ∧
    (∀ h, c.issuer ≠ s.inst → s.pendingHold c.kind = some h → h.chg.issuer ≠ s.inst → c.issuer.toNat ≤ h.chg.issuer.toNat → s.prepOk c = true →
      ∃ t : State, exec (.genPrep c) s = .next t ∧ t.pkg.hold = (s.pkg.hold.filter (fun x => decide (x.chg ≠ h.chg))) ++ [{ chg := c }]) ∧
    (s.issueOf g = none → exec (.genAck g src true) s = .next s ∧ exec (.genAckDeadline g) s = .next s) ∧
    (∀ x, s.issueOf g = some x →
      (exec (.genAck g src false) s = .next (genAbort x.chg .overlapped s)) ∧
      (let y := { x with acks := x.acks ||| (1#8 <<< src.toNat) }
       ((s.changePeers x.chg).all (fun i => bit y.acks i) = true → s.ptcNow ≤ x.deadline → exec (.genAck g src true) s = .next (armIssue y s)) ∧
       ((s.changePeers x.chg).all (fun i => bit y.acks i) = false → ∃ t : State, exec (.genAck g src true) s = .next t ∧
         t.issueOf g = some y ∧ t.pkg.hold = s.pkg.hold ∧ ({ t with pkg := s.pkg } : State) = s)) ∧
      (x.deadline ≤ s.ptcNow → exec (.genAckDeadline g) s =
        .next (genAbort x.chg (.missing (((s.changePeers x.chg).find? (fun i => !(bit x.acks i))).getD 0)) s)) ∧
      (s.ptcNow < x.deadline → exec (.genAckDeadline g) s = .next s) ∧
      ((∀ h ∈ (genAbort x.chg .overlapped s).pkg.hold, h.chg ≠ x.chg) ∧ (genAbort x.chg .overlapped s).issueOf x.chg.kind = none)) ∧
    (∀ h, s.holdFrom g src = some h → src ≠ s.inst →
      (h.armed = false → ∃ t : State, exec (.genArm g src) s = .next t ∧ t.slices = s.slices ∧
        t.pkg.hold = lmodify (fun x => decide (x = h)) (fun x => { x with armed := true }) s.pkg.hold) ∧
      (h.armed = true → exec (.genArm g src) s = .next s) ∧
      exec (.genAbort g src) s = .next { s with pkg := { s.pkg with hold := s.pkg.hold.filter (fun x => decide (x.chg ≠ h.chg)) } }) ∧
    ((s.holdFrom g src = none ∨ src = s.inst) → exec (.genArm g src) s = .next s ∧ exec (.genAbort g src) s = .next s) ∧
    (∀ h, s.pkg.hold.find? (fun h => decide (h.chg.kind = g) && (h.armed && decide (h.chg.tick ≤ s.ptcNow))) = some h →
      exec (.genApply g) s = .next (applyChange h.chg s)) ∧
    ((∀ h ∈ s.pkg.hold, h.chg.kind = g → h.armed = false ∨ s.ptcNow < h.chg.tick) → exec (.genApply g) s = .next s) ∧
    (∀ h, s.pendingHold g = some h →
      (h.armed = false → h.chg.issuer ≠ s.inst → h.chg.tick ≤ s.ptcNow + 1000 → exec (.genLost g) s =
        .next (raise { src := 0x21, detail := .misc (Config.miscValue 0x21 0 % 256) (Config.miscValue 0x21 1), acc := accInt } (s.dropHold h.chg))) ∧
      ((h.armed = true ∨ h.chg.issuer = s.inst ∨ s.ptcNow + 1000 < h.chg.tick) → exec (.genLost g) s = .next s)) ∧
    (s.pendingHold g = none → exec (.genLost g) s = .next s) ∧
    (s.pkg.timeSrc ≠ s.inst → s.keepsLink s.pkg.timeSrc = false → s.remaining.head? = some s.self → src.toNat = s.nextSource →
      s.holdOf .member = none → ∃ t, s.ptcNow + 10000 ≤ t ∧ exec (.timeSourceChange src) s =
        .next (genIssue { kind := .member, issuer := s.inst, tick := t, payload := .timeSource src } (t - 5000) s.used)) ∧
    (s.keepsLink s.pkg.timeSrc = true → exec (.timeSourceChange src) s = .next s) ∧
    (let t := applySource src s
     t.pkg.timeSrc = src ∧ bit t.pkg.members s.pkg.timeSrc.toNat = false ∧ t.pkg.hold =
       lremove (fun h => decide (h.chg.kind = .member) && (h.armed && decide (h.chg.tick ≤ s.ptcNow))) s.pkg.hold)

/-! ### Ridge links (10) -/

/-- A flit with a bad CRC, of the reserved type, or out of sequence changes only its link: the first after a good flit owes a NAK. A
good flit is taken: a PAYLOAD flit advances the receive sequence. A NAK resends from its EXPSEQ, a flit not acknowledged for 2,000 ticks
starts a replay, and the first replay of an epoch raises RIDGE_REPLAY. Each cycle of a link that is up one flit leaves; a PAYLOAD flit
that is new takes the next sequence number and stays in the replay buffer. (R297, R302, R303, R304.) -/
def Obligations.FlitsAndReplays : Prop :=
  ∀ (s : State) (r : Nat) (b : BitVec 1024),
    let l := s.link r
    let f := decodeFlit b
    (l.st.up = false → exec (.flitReceive r b) s = .next s ∧ exec (.flitTransmit r) s = .next s) ∧
    (l.st.up = true → flitCrc (b.extractLsb' 0 992) ≠ b.extractLsb' 992 32 → ∃ t : State, exec (.flitReceive r b) s = .next t ∧
      (t.link r).rxSeq = l.rxSeq ∧ (t.link r).rxBad = true ∧ (t.link r).nakDue = (l.nakDue || !l.rxBad) ∧ (t.link r).ingress = l.ingress ∧
      (∀ j, j ≠ r → t.link j = s.link j) ∧ ({ t with rdg := s.rdg } : State) = s) ∧
    (l.st.up = true → flitCrc (b.extractLsb' 0 992) = b.extractLsb' 992 32 → (f.ftype = 3 ∨ (f.ftype = 1 ∧ f.seq ≠ l.rxSeq)) →
      exec (.flitReceive r b) s = .next (s.setLink r l.reject)) ∧
    (l.st.up = true → flitCrc (b.extractLsb' 0 992) = b.extractLsb' 992 32 → f.ftype ≠ 3 → f.ftype ≠ 1 →
      exec (.flitReceive r b) s = .next (drainSnoops r (s.setLink r (l.takeGood s.time.ptc f)))) ∧
    (l.st.up = true → flitCrc (b.extractLsb' 0 992) = b.extractLsb' 992 32 → f.ftype = 1 → f.seq = l.rxSeq →
      exec (.flitReceive r b) s = .next (drainSnoops r ((f.desc.zip f.slots).foldl (takeRxSlot r) (s.setLink r (l.takeGood s.time.ptc f)))) ∧
      (l.takeGood s.time.ptc f).rxSeq = l.rxSeq + 1) ∧
    (∀ x rest, l.ctlIn = x :: rest → fld x 0 4 = 1 →
      let n : BitVec 10 := x.extractLsb' 4 10
      let u := s.setLink r ({ l with ctlIn := rest }.acked (n - 1))
      exec (.nakReceive r) s = .next (if (u.link r).replay.any (fun y => y.1 == n) then startReplay r n u else u)) ∧
    (∀ n f t rest, l.replay = (n, f, t) :: rest → l.st.up = true → l.replayFrom = none → t + 2000 ≤ s.now →
      exec (.replayTimeout r) s = .next (startReplay r n s)) ∧
    (∀ n f t rest, l.replay = (n, f, t) :: rest → s.now < t + 2000 → exec (.replayTimeout r) s = .next s) ∧
    (∀ n, l.replayedIn = some s.pol.lastB → ∃ t : State, startReplay r n s = t ∧ (t.link r).replayFrom = some n ∧
      ({ t with rdg := s.rdg } : State) = s) ∧
    (l.st.up = true → exec (.flitTransmit r) s = .next ((s.setLink r (nextFlit r s).2).emit (.flit r (nextFlit r s).1.bits))) ∧
    (l.replayFrom = none → l.nakDue = true → (nextFlit r s).1.ftype = 2 ∧ (nextFlit r s).2.nakDue = false ∧
      (nextFlit r s).1.slots.head? = some (pack 128 [(0, 1), (4, l.rxSeq.toNat)])) ∧
    (l.replayFrom = none → l.nakDue = false → l.ctlOut = [] → ((l.st ≠ .joined ∧ l.st ≠ .linked) ∨ 256 ≤ l.replay.length) →
      (nextFlit r s).1.ftype = 0) ∧
    (∀ x, l.replayFrom = none → l.nakDue = false → l.ctlOut = [] → l.st = .linked → l.replay.length < 256 → l.mgtSlot = some x →
      (nextFlit r s).1.ftype = 1 ∧ (nextFlit r s).1.seq = l.txSeq ∧ (nextFlit r s).2.txSeq = l.txSeq + 1) ∧
    (l.replayFrom = none → l.nakDue = false → l.ctlOut = [] → l.st = .joined → l.replay.length < 256 → l.txCur ≠ none →
      (nextFlit r s).1.ftype = 1 ∧ (nextFlit r s).1.seq = l.txSeq ∧ (nextFlit r s).2.txSeq = l.txSeq + 1 ∧
      (nextFlit r s).2.replay = l.replay ++ [(l.txSeq, (nextFlit r s).1.bits, s.now)])

/-- Training that succeeds within its rate makes the link LINKED with nothing in flight and answers its command OK; after 1,000,000
ticks the link is OFF and the command FAILED 1. A loss of the link or the fourth replay from one flit retrains it; success within
200,000 ticks resumes it from the peer's acknowledgement, a link that was LINKED with a new group of flits and a TIME record, else it
fails with reason 1, or 3 when the generation counts of a joined link differ. At the failure of a link that carried traffic every item
that depends on it is answered or discarded, the fence markers that the peer waits for are void, and each slice scans until no entry
names an agent beyond it. (R292, R297, R300, R304, R306, R307, R308, R309, R406.) -/
def Obligations.LinksTrainAndFail : Prop :=
  ∀ (s : State) (r k : Nat) (rate : BitVec 3) (a : BitVec 10) (gs : List Nat),
    let l := s.link r
    (l.st = .training → rate.toNat ≤ l.maxRate.toNat → ∃ u : State, exec (.phyTrained r rate) s = .next (u.endCmd l.trainCmd stOk 0 []) ∧
      (u.link r).st = .linked ∧ (u.link r).rate = rate ∧ (u.link r).replay = [] ∧ (u.link r).txQ = [] ∧ (u.link r).trainCmd = none ∧
      (∀ j, j ≠ r → u.link j = s.link j) ∧ ({ u with rdg := s.rdg } : State) = s) ∧
    (l.st ≠ .training → exec (.phyTrained r rate) s = .next s ∧ exec (.trainTimeout r) s = .next s) ∧
    (l.st = .training → l.since + 1000000 ≤ s.now → exec (.trainTimeout r) s =
      .next (retryBringups (State.endCmd (s.setLink r { l with st := .off, trainCmd := none }) l.trainCmd stFailed 1 []))) ∧
    (l.st.up = true → ∃ u : State, exec (.linkRetrainEnter r true) s = .next (raise (ridgeEv 0x1B r 0 s) u) ∧ (u.link r).st = .retraining ∧
      (u.link r).was = l.st ∧ (u.link r).since = s.now ∧ (u.link r).theta = none ∧ (u.link r).replay = l.replay ∧
      (u.link r).proxies = l.proxies ∧ u.mesh = { s.mesh with drained := false } ∧ ({ u with rdg := s.rdg, mesh := s.mesh } : State) = s) ∧
    (l.st.up = true → l.stuckN < 4 → exec (.linkRetrainEnter r false) s = .next s) ∧
    (l.st = .retraining → l.was = .joined → gs ≠ s.genCounts → exec (.retrainSuccess r a gs) s = .next (failLink r 3 s)) ∧
    (l.st = .retraining → (l.was ≠ .joined ∨ gs = s.genCounts) → ∃ u : State, exec (.retrainSuccess r a gs) s = .next (restartTimeouts r u) ∧
      (u.link r).st = l.was ∧ (u.link r).replay = (l.acked a).replay ∧ (u.link r).proxies = l.proxies ∧
      (l.was = .linked → (u.link r).txGroup = 0 ∧ (u.link r).ctlOut = l.ctlOut ++ [3] ∧ (u.link r).timeNext = s.now + 100000) ∧
      ({ u with rdg := s.rdg } : State) = s) ∧
    (l.st = .retraining → l.since + 200000 ≤ s.now → exec (.retrainTimeout r) s = .next (failLink r 1 s)) ∧
    ((l.st ≠ .retraining ∨ s.now < l.since + 200000) → exec (.retrainTimeout r) s = .next s) ∧
    (l.failDue = true → l.proxies = [] → ∃ u : State, (u.link r).failDue = false ∧ (u.link r).txQ = [] ∧ (u.link r).ingress = [] ∧
      (u.link r).replay = [] ∧ (u.link r).discard = satAdd l.discard (l.txQ.filter TxPkt.towardsRequester).length ∧
      ({ u with rdg := s.rdg } : State) = s ∧
      exec (.linkFail r) s =
        (let w := dropCredits (128 + r) (resolveAgents (s.onInstance l.duePeer.toNat) (u.each (List.range s.gh.caPorts) (failWaiting l.duePeer)))
         let x : State := w.each (List.range w.gh.slices) (fun t k => t.modSlice k (fun v => { v with
           marks := v.marks.filter (fun m => !(m.1 == l.duePeer))
           snpCred := v.snpCred.filter (fun y => y.1 != 128 + r)
           markCred := v.markCred.filter (fun m => m.2.2 != 128 + r) }))
         .next (x.each x.slicesUp (fun s' k => cleanPass (s.onInstance l.duePeer.toNat) k s')))) ∧
    (l.failDue = false → exec (.linkFail r) s = .next s) ∧
    (l.scansDue.contains k = true → l.failDue = false → s.works k = true →
      let u := cleanPass (s.onInstance l.duePeer.toNat) k s
      ((u.slice k).cleanOf (s.onInstance l.duePeer.toNat) = false → exec (.linkFailScanDone k r) s = .next u) ∧
      ((u.slice k).cleanOf (s.onInstance l.duePeer.toNat) = true → exec (.linkFailScanDone k r) s =
        .next (u.modLink r (fun l => { l with scansDue := l.scansDue.filter (fun j => j != k) }))))

/-- RIDGE_STATE replies the state, the peer, the alignment and the counts of a link and changes nothing. TRAIN starts training from OFF,
FAILED or DUPLICATE; QUIESCE turns a JOINED link with every port quiesced into LINKED; OFF takes any link but a JOINED or RETRAINING
one; JOIN of a LINKED link whose peer ADMIT forbids conflicts and raises RIDGE_JOIN_REFUSED 7; outside their states they conflict with
the state code. A join record of the peer is decided: the first condition of R314 that holds refuses the join with its code, else the
link is JOINED. (R306, R311, R313, R314, R405, R406, R436.) -/
def Obligations.RidgeCommandsAndJoins : Prop :=
  ∀ (s : State) (c : Nat) (k : Kcp) (r : Nat) (rec : JoinRec),
    let l := s.link k.tgt
    (s.newCmd c 0x48 = some k → ∃ ws, exec (.ridgeState c) s = .next (finish k stOk 0 ws s) ∧ ws.length = 4 ∧
      ws.head? = some (pack 64 [(0, linkCode l.st), (3, l.peer.toNat), (6, b2n l.peerV), (8, l.align.toNat), (10, l.refuse.toNat),
        (16, l.rate.toNat), (24, l.thetaField), (48, b2n l.theta.isSome)])) ∧
    (s.newCmd c 0x49 = some k → fld (k.par 0) 0 2 = 0 → (l.st = .off ∨ l.st = .failed ∨ l.st = .duplicate) → s.rst.role ≠ roleFree →
      ∃ t : State, exec (.ridgeTrainTrain c) s = .next t ∧ (t.link k.tgt).st = .training ∧ (t.link k.tgt).trainCmd = some k.id ∧
        (∀ j, j ≠ k.tgt → t.link j = s.link j) ∧ ({ t with rdg := s.rdg, hub := s.hub } : State) = s) ∧
    (s.newCmd c 0x49 = some k → fld (k.par 0) 0 2 = 0 → (s.rst.role = roleFree ∨ l.st = .linked ∨ l.st = .joined ∨ l.st = .training) →
      exec (.ridgeTrainTrain c) s = .next (finish k stConflict (linkCode l.st) [] s)) ∧
    (s.newCmd c 0x49 = some k → fld (k.par 0) 0 2 = 1 → s.canQuiesce k.tgt = true → ∃ u : State,
      exec (.ridgeTrainQuiesce c) s = .next (finish k stOk 0 [] (dropCredits (128 + k.tgt) u)) ∧ (u.link k.tgt).st = .linked ∧
        (u.link k.tgt).cred = [] ∧ (u.link k.tgt).joinWanted = false ∧ ({ u with rdg := s.rdg } : State) = s) ∧
    (s.newCmd c 0x49 = some k → fld (k.par 0) 0 2 = 1 → s.canQuiesce k.tgt = false →
      exec (.ridgeTrainQuiesce c) s = .next (finish k stConflict (linkCode l.st) [] s)) ∧
    (s.newCmd c 0x49 = some k → fld (k.par 0) 0 2 = 2 → l.st = .linked → l.peerV = true → s.admitsLink k.tgt l.peer = false →
      exec (.ridgeTrainJoin c) s = .next (finish k stConflict 0x202 [] (raise (refusedEv k.tgt 7 s) s))) ∧
    (s.newCmd c 0x49 = some k → fld (k.par 0) 0 2 = 2 → l.st = .linked → l.peerV = false → l.joinCmd = none → ∃ t : State,
      exec (.ridgeTrainJoin c) s = .next t ∧ (t.link k.tgt).joinWanted = true ∧ (t.link k.tgt).joinCmd = some k.id ∧
        (t.link k.tgt).st = .linked ∧ ({ t with rdg := s.rdg, hub := s.hub } : State) = s) ∧
    (s.newCmd c 0x49 = some k → fld (k.par 0) 0 2 = 3 → l.st ≠ .joined → l.st ≠ .retraining → ∃ u : State,
      exec (.ridgeTrainOff c) s = .next (finish k stOk 0 [] (retryBringups u)) ∧ (u.link k.tgt).st = .off ∧ (u.link k.tgt).peerV = false ∧
        (∀ j, j ≠ k.tgt → u.link j = s.link j) ∧ ({ u with rdg := s.rdg } : State) = s) ∧
    (s.newCmd c 0x49 = some k → fld (k.par 0) 0 2 = 3 → (l.st = .joined ∨ l.st = .retraining) →
      exec (.ridgeTrainOff c) s = .next (finish k stConflict (linkCode l.st) [] s)) ∧
    ((s.link r).st = .linked → (s.link r).peerV = false → ∃ t : State,
      exec (.joinRecord r rec) s = .next t ∧ (t.link r).joinIn = some rec ∧ (t.link r).joinWanted = true ∧
      ({ t with rdg := s.rdg } : State) = s) ∧
    ((s.link r).st = .linked → rec.inst = (s.link r).peer → (s.link r).peerV = true → (s.link r).joinSent = true → s.rst.fwRun = true →
      s.prot.trans = false → s.err.lost = false → ∃ u : State, ({ u with rdg := s.rdg } : State) = s ∧ (u.link r).joinIn = some rec ∧
      exec (.joinRecord r rec) s = .next (if u.refusal rec = 0 then joinLink r rec u else refuseJoin r (u.refusal rec) u)) ∧
    ((s.link r).st ≠ .linked → (s.link r).st ≠ .joined → exec (.joinRecord r rec) s = .next s) ∧
    ((s.link r).st = .joined → exec (.joinRecord r rec) s = .next (if rec.inst = (s.link r).peer then takeMaps rec s else s)) ∧
    (rec.hwver ≠ 0x31 → s.refusal rec = 1) ∧
    (rec.hwver = 0x31 → s.hasJoined = true → rec.newcomer = false → rec.members &&& s.pkg.members = 0 → s.refusal rec = 2) ∧
    (s.refusal rec = 0 → rec.hwver = 0x31 ∧ s.flushOk rec.inst = true ∧ rec.flushOk = true ∧ rec.accept = true)

/-! ### Package time (10) -/

/-- Every 100,000 ticks a link that is up owes a TIME record. A TIME record names the peer and its role; a record of the own ID fails
the link with reason 2. At the end of a window a CAL record is owed; the record of the peer for the same window gives theta = (b - a) /
2 and lambda = (b + a) / 2. At a multiple of 1,000 ticks a correction adds one tick, or omits the next. A PTC_SYNC frame at the MASTER
with a bad CRC is counted; the first good one before a join loads the count; a later one that differs raises an event. PTC_STATUS
changes nothing. (R300, R306, R318, R320, R321, R323, R407.) -/
def Obligations.TimeRecordsAndCorrections : Prop :=
  ∀ (s : State) (r : Nat) (fr : BitVec 74) (c : Nat) (k : Kcp),
    let l := s.link r
    (l.st.up = true → l.timeNext ≤ s.now → exec (.timeRecordSend r) s =
      .next (s.setLink r { l with ctlOut := l.ctlOut ++ [3], timeNext := s.now + 100000 })) ∧
    ((l.st.up = false ∨ s.now < l.timeNext) → exec (.timeRecordSend r) s = .next s) ∧
    (∀ x rest, l.ctlIn = x :: rest → fld x 0 4 = 3 → l.st.up = true → x.extractLsb' 68 3 = s.inst → ∃ u : State,
      exec (.timeRecord r) s = .next (failLink r 2 u) ∧ (u.link r).peer = s.inst ∧ (u.link r).peerV = true ∧ ({ u with rdg := s.rdg } : State) = s) ∧
    (∀ x rest, l.ctlIn = x :: rest → fld x 0 4 = 3 → l.st = .joined → x.extractLsb' 68 3 ≠ s.inst → ∃ t : State,
      exec (.timeRecord r) s = .next t ∧ t.link r = { l with ctlIn := rest, peer := x.extractLsb' 68 3, peerV := true } ∧
      t.pkg = { s.pkg with
        roles := tput (x.extractLsb' 68 3).toNat (x.extractLsb' 71 2) s.pkg.roles
        configs := tput (x.extractLsb' 68 3).toNat (x.extractLsb' 82 2) s.pkg.configs } ∧
      ({ t with rdg := s.rdg, pkg := s.pkg } : State) = s) ∧
    (l.st.up = true → s.ptcNow % 2048 = 0 → l.win ≠ some (BitVec.ofNat 16 (s.ptcNow / 2048 - 1)) → l.noneRun < 8 → ∃ t : State,
      exec (.calWindowEnd r) s = .next t ∧ (t.link r).mIn = l.mean ∧ (t.link r).num = 0 ∧ (t.link r).sum = 0 ∧
      (t.link r).win = some (BitVec.ofNat 16 (s.ptcNow / 2048 - 1)) ∧ (t.link r).noneRun = l.noneRun + 1 ∧
      (∃ x, (t.link r).ctlOut = l.ctlOut ++ [x] ∧ fld x 0 4 = 2) ∧ ({ t with rdg := s.rdg } : State) = s) ∧
    (s.ptcNow % 2048 ≠ 0 → exec (.calWindowEnd r) s = .next s) ∧
    (∀ x rest a b, l.ctlIn = x :: rest → fld x 0 4 = 2 → l.st.up = true → l.mIn = some a → decodeEst (x.extractLsb' 4 24) = some b →
      some (x.extractLsb' 44 16) = l.win → ∃ u : State, (u.link r).theta = some ((b - a).tdiv 2) ∧ (u.link r).lam = (b + a).tdiv 2 ∧
      ({ u with rdg := s.rdg } : State) = s ∧ exec (.calRecord r) s = .next (useTheta r ((b - a).tdiv 2) (alignBy r ((b - a).tdiv 2) u))) ∧
    (∀ x rest, l.ctlIn = x :: rest → fld x 0 4 = 2 → l.st.up = true → l.mIn = none →
      exec (.calRecord r) s = .next (s.setLink r { l with ctlIn := rest })) ∧
    (s.ptcNow % 1000 = 0 → 0 < s.time.corrN → s.time.corrAt ≠ some s.time.ptc → ∃ t : State, exec .timeCorrection s = .next t ∧
      t.time.corrN = s.time.corrN - 1 ∧ (s.time.corrUp = true → t.time.ptc = s.time.ptc + 1) ∧
      (s.time.corrUp = false → t.time.ptc = s.time.ptc ∧ t.time.omit_ = true) ∧ ({ t with time := s.time } : State) = s) ∧
    (s.time.corrN = 0 → exec .timeCorrection s = .next s) ∧
    ((s.rst.role ≠ roleMaster ∨ fr.getLsbD 73 = true ∨ fr.getLsbD 0 = false) → exec (.ptcSyncFrame fr) s = .next s) ∧
    (s.rst.inReset = false → s.rst.role = roleMaster → fr.getLsbD 73 = false → fr.getLsbD 0 = true →
      let v : W64 := fr.extractLsb' 9 64
      (crc8 v ≠ fr.extractLsb' 1 8 → exec (.ptcSyncFrame fr) s =
        .next { s with time := { s.time with syncBad := satAdd s.time.syncBad 1 } }) ∧
      (crc8 v = fr.extractLsb' 1 8 → s.time.syncSeen = false → s.hasJoined = false → ∃ t : State, exec (.ptcSyncFrame fr) s = .next t ∧
        t.time.ptc = v ∧ t.time.loaded = true ∧ t.time.syncSeen = true ∧
        (∀ r, r < s.gh.ridgePorts → (t.link r).align = 0) ∧ ({ t with time := s.time, rdg := s.rdg } : State) = s) ∧
      (crc8 v = fr.extractLsb' 1 8 → s.time.syncSeen = true → v ≠ s.time.ptc → ∃ u : State, ({ u with time := s.time } : State) = s ∧
        (let d : BitVec 56 := BitVec.ofInt 56 ((v.toNat : Int) - (s.time.ptc.toNat : Int))
         exec (.ptcSyncFrame fr) s = .next (raise { src := 0x20, detail := .misc 1 d.toNat, acc := accInt } u)))) ∧
    (s.newCmd c 0x4A = some k → ∃ ws, exec (.ptcStatus c) s = .next (finish k stOk 0 (s.time.ptc :: ws) s) ∧ ws.length = 9)

/-! ### Dual-party control (13, 14) -/

/-- Staging writes the named words into the buffer of the command's window and conflicts while that window's proposal is pending and its
deadline has not come. A proposal is checked in order: an open buffer or an own pending proposal conflicts; an expired nonce replies
EXPIRED; a stale nonce is DENIED 2, a wrong digest DENIED 3. The first proposal is pending for 100,000,000 ticks and AWAITING; the
second with the same digest commits the block; with another it is DENIED 4 and both end. At its deadline a proposal expires, and each
end draws a new nonce. PROT_STATUS changes nothing. (R408, R409, R410, R429, R431, R432, R433.) -/
def Obligations.ProposalsAreDecided : Prop :=
  ∀ (s : State) (c : Nat) (k : Kcp) (p : Pend),
    let b := s.prot.stage k.win
    let digest := digestJoin (k.ps.drop 1)
    (s.newCmd c 0x50 = some k → k.flag 0 = true → s.prot.pend = none →
      let w := k.par 0
      let n := b.write (fld w 0 12) (bit w 12) (bit w 13) (k.ps.drop 1)
      (n.last = false → exec (.protProposeStage c) s = .next (finish k stOk n.len [] { s with prot := s.prot.setStage k.win n })) ∧
      (n.last = true → blockBad n.block = none →
        exec (.protProposeStage c) s = .next (finish k stOk n.len [] { s with prot := s.prot.setStage k.win n })) ∧
      (∀ i, n.last = true → blockBad n.block = some i → exec (.protProposeStage c) s =
        .next (finish k stFailed (i % 4096 + 0x8000) [] { s with prot := s.prot.setStage k.win { n with last := false } }))) ∧
    (s.newCmd c 0x50 = some k → k.flag 0 = true → s.prot.pend = some p → p.win = k.win → s.now < p.deadline →
      exec (.protProposeStage c) s = .next (finish k stConflict 0 [] s)) ∧
    (s.newCmd c 0x50 = some k → k.flag 0 = true → s.prot.pend = some p → p.deadline ≤ s.now →
      let n := ((expire s).prot.stage k.win).write (fld (k.par 0) 0 12) (bit (k.par 0) 12) (bit (k.par 0) 13) (k.ps.drop 1)
      n.last = false → exec (.protProposeStage c) s =
        .next (finish k stOk n.len [] { expire s with prot := (expire s).prot.setStage k.win n })) ∧
    (s.newCmd c 0x50 = some k → k.flag 0 = false → s.prot.pend = none →
      (b.last = false → exec (.protPropose c) s = .next (finish k stConflict 0 [] s)) ∧
      (b.last = true → s.prot.expNonce = some (k.par 0) → exec (.protPropose c) s = .next (finish k stExpired 0 [] s)) ∧
      (b.last = true → s.prot.expNonce ≠ some (k.par 0) → k.par 0 ≠ s.prot.nonce →
        exec (.protPropose c) s = .next (finish k stDenied 2 [] (raise (protEv 5 k.win s) s))) ∧
      (b.last = true → s.prot.expNonce ≠ some (k.par 0) → k.par 0 = s.prot.nonce → digest ≠ digestWords b.block →
        exec (.protPropose c) s = .next (finish k stDenied 3 [] (raise (protEv 6 k.win s) s))) ∧
      (b.last = true → s.prot.expNonce ≠ some (k.par 0) → k.par 0 = s.prot.nonce → digest = digestWords b.block → ∃ u : State,
        exec (.protPropose c) s = .next (finish k stAwaiting ((s.ptcNow + 100000000) % 2 ^ 24) [] u) ∧
        u.prot = { s.prot with pend := some { win := k.win, digest := digest, deadline := s.now + 100000000 } } ∧
        ({ u with prot := s.prot } : State) = s)) ∧
    (s.newCmd c 0x50 = some k → k.flag 0 = false → s.prot.pend = some p → s.now < p.deadline → p.win ≠ k.win → b.last = true →
      s.prot.expNonce ≠ some (k.par 0) → k.par 0 = s.prot.nonce → digest = digestWords b.block →
      (p.digest = digest → exec (.protPropose c) s = .next (commitBlock k s)) ∧
      (p.digest ≠ digest → ∃ u : State, exec (.protPropose c) s = .next (finish k stDenied 4 [] (raise (protEv 4 k.win u) u)) ∧
        u.prot.pend = none ∧ u.prot.last = 4 ∧ u.prot.blks = s.prot.blks)) ∧
    (s.prot.pend = some p → p.deadline ≤ s.now → ∃ u : State, exec .protExpire s = .next (raise (protEv 2 p.win u) u) ∧
      u.prot = { s.prot with pend := none, last := 2, expNonce := some s.prot.nonce, nonce := u.prot.nonce } ∧
      ({ u with prot := s.prot, fresh := s.fresh } : State) = s) ∧
    ((s.prot.pend = none ∨ (s.prot.pend = some p ∧ s.now < p.deadline)) → exec .protExpire s = .next s) ∧
    (s.newCmd c 0x52 = some k → s.prot.pend = some p → s.now < p.deadline → p.win = k.win → ∃ u : State,
      exec (.protWithdraw c) s = .next (finish k stOk 0 [] (raise (protEv 3 k.win u) u)) ∧ u.prot.pend = none ∧ u.prot.last = 3 ∧
        u.prot.blks = s.prot.blks) ∧
    (s.newCmd c 0x52 = some k → s.prot.pend = none → exec (.protWithdraw c) s = .next (finish k stConflict 0 [] s)) ∧
    (s.newCmd c 0x51 = some k → ∃ ws, exec (.protStatus c) s = .next (finish k stOk 0 ws s) ∧ ws.length = 10 ∧
      ws.take 2 = [pack 64 [(0, s.prot.pendCode), (4, s.prot.last.toNat), (16, s.prot.commits.toNat)], s.prot.nonce])

/-- A waiting block whose retry is due is issued, at least 2,000,000 ticks ahead. At T_S an armed block starts its transition. A slice's
sweep back-invalidates the entries that lose their right; with nothing left the instance reports; when all have reported the engine
names T_A (at a member its naming is a choice of the model, log 95), and at T_A, not before, the new tables are active. UCODE_STAGE
writes its words. UCODE_ACTIVATE needs a closed buffer, an authorisation and its digest; then each slice switches when its threads are
idle and 16,384 cycles have passed. MEASURE_READ replies log entries and changes nothing. (R388, R411, R412, R434, R435, R437, R438,
R439, R440, R441.) -/
def Obligations.TransitionsAndMicrocode : Prop :=
  ∀ (s : State) (c j : Nat) (k : Kcp) (src : BitVec 3),
    (∀ b rest, s.prot.blks = b :: rest → b.phase = .waiting → b.retryAt ≤ s.now → s.holdOf .partition = none → s.prot.trans = false →
      ∃ u : State, ∃ t, s.ptcNow + 2000000 ≤ t ∧ u.prot.blks = { b with phase := .issued, ts := t } :: rest ∧ exec .protRetry s = .next (genIssue
        { kind := .partition, issuer := s.inst, tick := t, payload := .block b.words (digestWords b.words) } (t - 5000) u)) ∧
    (∀ b rest, s.prot.blks = b :: rest → s.now < b.retryAt → exec .protRetry s = .next s) ∧
    (∀ h ws d, s.holdOf .partition = some h → h.chg.payload = .block ws d → h.armed = true → h.chg.tick ≤ s.ptcNow →
      exec .partitionTransitionStart s = .next (startTransition ws h.chg.issuer s)) ∧
    ((∀ h ∈ s.pkg.hold, h.chg.kind = .partition → h.armed = false ∨ s.ptcNow < h.chg.tick) → exec .partitionTransitionStart s = .next s) ∧
    (∀ b, s.activeBlk = some b → b.phase = .sweeping → s.works j = true → (s.slice j).sf = [] →
      let imp := (s.impureBits false, s.impureBits true)
      let u := s.modSlice j (fun v => { v with partSweep := !(s.sweptOf imp j) })
      exec (.partitionSweepDone j) s = .next (if u.slicesUp.all (fun i => !(u.slice i).partSweep && u.sweptOf imp i) && u.sweptInMesh imp then
        reportSweep b u else u)) ∧
    (s.activeBlk = none → exec (.partitionSweepDone j) s = .next s ∧ exec (.partitionSweepReport src) s = .next s ∧
      exec .partitionActivate s = .next s) ∧
    (∀ b bs, s.prot.blks = b :: bs → b.phase = .reported → b.issuer = s.inst → src ≠ s.inst →
      let b' : Blk := { b with reports := b.reports ||| (1#8 <<< src.toNat) }
      ∃ u : State, u.prot.blks = b' :: bs ∧ ({ u with prot := s.prot } : State) = s ∧ exec (.partitionSweepReport src) s =
        .next (if s.pkg.members &&& ~~~b'.reports = 0 then allReported u else u)) ∧
    (∀ b t, s.activeBlk = some b → s.movesAids = false → b.phase = .named → b.ta = some t →
      exec .partitionActivate s = .next (if t ≤ s.ptcNow then activateTables s else s)) ∧
    (∀ b, s.activeBlk = some b → s.movesAids = false → b.issuer ≠ s.inst → b.phase = .reported → b.ta = none →
      exec .partitionActivate s = .next (nameTa (s.ahead 0) s.used)) ∧
    (∀ b m, s.activeBlk = some b → s.movesAids = true → s.dueFlip = some m → exec .partitionActivate s = .next (flipNow m s)) ∧
    (s.newCmd c 0x58 = some k →
      let n := s.prot.ucSt.write (fld (k.par 0) 0 16) (bit (k.par 0) 16) (bit (k.par 0) 17) (k.ps.drop 1)
      exec (.ucodeStage c) s = .next (finish k stOk n.len [] { s with prot := { s.prot with ucSt := n } })) ∧
    (s.newCmd c 0x59 = some k → s.prot.ucSt.last = false → exec (.ucodeActivate c) s = .next (finish k stConflict 0 [] s)) ∧
    (s.newCmd c 0x59 = some k → s.prot.ucSt.last = true → s.prot.uc = none → exec (.ucodeActivate c) s = .next (finish k stDenied 5 [] s)) ∧
    (∀ v d, s.newCmd c 0x59 = some k → s.prot.ucSt.last = true → s.prot.uc = some (v, d) → digestWords s.prot.ucSt.block ≠ d →
      exec (.ucodeActivate c) s = .next (finish k stDenied 6 [] s)) ∧
    (∀ v d, s.newCmd c 0x59 = some k → s.prot.ucSt.last = true → s.prot.uc = some (v, d) → digestWords s.prot.ucSt.block = d →
      s.prot.log.length < 1024 → Config.ucodeCheck s.prot.ucSt.block = true → ∃ u : State, exec (.ucodeActivate c) s =
        .next (nextSwitch k.id u.slicesUp (u.startCmd k (fun x => { x with units := u.slicesUp }))) ∧ u.prot.uc = none ∧
        u.prot.ucNew = Config.ucVersion s.prot.ucSt.block ∧ u.prot.log.length = s.prot.log.length + 1 ∧ u.slices = s.slices) ∧
    (∀ t, s.prot.ucAct = some (c, j, t) → s.works j = true → (s.slice j).threadsIdle = true → t + 16384 ≤ s.time.cycles →
      exec .ucodeSliceSwitch s = .next (nextSwitch c (s.slicesUp.filter (fun i => decide (j < i)))
        (s.modSlice j (fun v => { v with ucSwitch := false, ucVer := s.prot.ucNew })))) ∧
    (∀ t, s.prot.ucAct = some (c, j, t) → s.works j = true → s.time.cycles < t + 16384 → exec .ucodeSliceSwitch s = .next s) ∧
    (s.newCmd c 0x03 = some k → ∃ ws, exec (.measureRead c) s = .next (finish k stOk 0 ws s) ∧ ws.head? = some (BitVec.ofNat 64 s.prot.log.length))

/-! ### The loss of a slice and its salvage (13, 15) -/

/-- A slice that is powered or changing its power is lost by a fatal fault of its own or an engine that has not moved on for 65,536
cycles; one that is off, failed, disabled or under reset is not, and FORCED and INJECTED losses come only from their commands. A closed
wrapper answers a request CmpErr with SLICE_LOST or ISOLATED and counts any other packet. The first record whose tracker entry and
buffers have been read or are unreadable is completed or given up. One salvage read answers for one word or loses its array. When the
cache is read and the mirror can be read (or was read before its slice was lost), its single-bit words are corrected, its lines are
poisoned and it is empty. (R454, R456, R457, R458, R459, R461, R502, R504.) -/
def Obligations.SlicesAreLost : Prop :=
  ∀ (s : State) (k : Nat) (cause : FatalCause) (engine : BitVec 4) (thread : BitVec 2) (vc : VC) (a : SalvArray) (n : Nat),
    ((s.slice k).st.losable = true → cause ≠ .forced → cause ≠ .injected →
      exec (.sliceFatal k cause) s = .next (loseSlice k cause 0 0 none s)) ∧
    ((s.slice k).st.losable = true → (s.slice k).hung s.time.cycles = true → exec (.engineHang k engine thread) s =
      .next (loseSlice k .engineHang engine.toNat thread.toNat none s)) ∧
    ((∀ t ∈ (s.slice k).txns, s.time.cycles < t.ran + 65536) → exec (.engineHang k engine thread) s = .next s) ∧
    (((s.slice k).st = .off ∨ (s.slice k).st = .failed ∨ (s.slice k).st = .disabled ∨ (s.slice k).st = .reset) →
      exec (.sliceFatal k cause) s = .next s ∧ exec (.engineHang k engine thread) s = .next s) ∧
    ((cause = .forced ∨ cause = .injected) → exec (.sliceFatal k cause) s = .next s) ∧
    (∀ p, (s.arrived k portSlice vc).head? = some p → (s.slice k).wrapper = true →
      (∀ q src cr w, p.msg = .req q src cr w → exec (.wrapperPacket k vc) s =
        .next ((s.dropArrived k portSlice vc).fromSlice k src (if p.vc = .gt then .gt else .rsp) p.gtc
          (.cmpErr q.aid q.txid 0 (if (s.slice k).st = .failed then rsSliceLost else rsIsolated)))) ∧
      (∀ op aid h pd wb, p.msg = .rsp op aid h pd wb → exec (.wrapperPacket k vc) s =
        .next ((s.dropArrived k portSlice vc).modSlice k (fun v => { v with discards := v.discards + 1 })))) ∧
    ((s.slice k).wrapper = false → exec (.wrapperPacket k vc) s = .next s) ∧
    (∀ x r, s.salv k = some x → (s.slice k).st = .failed → x.recs = [r] → x.good .tracker (htidEntry r.htid) = true →
      x.good .buffers (htidEntry r.htid) = true →
      let u := s.modSalv k (fun x => { x with recs := [] })
      let t := x.txns.find? (fun t => t.e == htidEntry r.htid)
      exec (.salvageRecord k) s = .next (if r.q.op.isWb then recWriteback k r t true u else recRequest k r t true u)) ∧
    (∀ x, s.salv k = some x → x.recs.all (fun r => !(x.known .tracker (htidEntry r.htid)) || !(x.known .buffers (htidEntry r.htid))) = true →
      exec (.salvageRecord k) s = .next s) ∧
    (∀ r w, r.isGt = false → recLost k r w = w.fromSlice k r.src .rsp r.gtc (.cmpErr r.q.aid r.q.txid r.htid rsSliceLost)) ∧
    (∀ x, s.salv k = some x → (s.slice k).st = .failed → x.decided = false → x.reads (s.slice k) a n = true →
      (exec (.salvageRead k a n .noWord) s = .next (issueLate k (loseArray k a s))) ∧
      (a = .tracker → ∃ u : State, exec (.salvageRead k a n .ok) s = .next (issueLate k u) ∧ u.salv k = some { x with read := x.read ++ [(a, n)] } ∧
        (∀ j, j ≠ k → u.slice j = s.slice j) ∧ ({ u with slices := s.slices } : State) = s) ∧
      (a = .tracker → ∃ u : State, exec (.salvageRead k a n .uncorrectable) s = .next (issueLate k u) ∧
        u.salv k = some { x with read := x.read ++ [(a, n)], lostWords := x.lostWords ++ [(a, n)] })) ∧
    (∀ x r, s.salv k = some x → x.reads (s.slice k) a n = false → exec (.salvageRead k a n r) s = .next s) ∧
    (∀ x, s.salv k = some x → (s.slice k).st = .failed → x.mirrorDone = false → (s.works (buddy k) = true ∨ x.mirLines ≠ none) →
      x.cacheDone (s.slice k) = true →
      let single := if s.works (buddy k) then ((s.slice (buddy k)).errs.filter (fun e => e.array == 4 && e.single)).map (fun e => e.addr) else []
      let u := single.foldl (fun s a => correctWord (buddy k) 4 a accInt s) s
      let l := ((x.mirLines.getD (u.mirrorLines k)).filter (u.mirrorPoisons k x)).map (fun m => m.1)
      exec (.mirrorReadDone k) s = .next (issueLate k (((l.foldl (poisonNow k true) u).modSlice (buddy k)
        (fun b => { b with mirror := [] })).modSalv k (fun x => { x with mirrorDone := true }))))

/-- Once the lost slice is fenced and read, the next shingle gets the new home with the least load; after the last one the entries are
sent. A new home resolves one unsettled line at a time. The decision falls when all is done, or 480,000 ticks after the loss. A peer
marks the writebacks it holds for shingles that open. An OPEN_EAVES shingle whose exit sets are empty is named NORMAL. AGENT_FLUSH_NOTE
takes its agents out of every exit set, here and at the peers, and replies after the acknowledgement of each of them; SALVAGE_STATUS
changes nothing. (R417, R418, R463, R464, R466, R467, R472.) -/
def Obligations.SalvageEnds : Prop :=
  ∀ (s : State) (k sh : Nat) (c : Nat) (kc : Kcp) (shs : List (BitVec 12)) (src : BitVec 3) (as : List (BitVec 11)),
    (∀ x j n rest, s.salv k = some x → (s.slice k).st = .failed → x.fenced = true → x.decided = false → x.recs = [] → x.mirrorDone = true →
      x.filterDone (s.slice k) = true → x.cacheDone (s.slice k) = true → x.homes = [] → x.late = [] → x.shs = n :: sh :: rest →
      s.newHome k = some j → ∃ t : State, exec (.shingleRehome k) s = .next t ∧ t.salv k = some { x with homes := [(n, j)] } ∧
        (∀ i, i ≠ k → t.slice i = s.slice i) ∧ ({ t with slices := s.slices } : State) = s) ∧
    (∀ x, s.salv k = some x → (x.fenced = false ∨ x.recs ≠ []) → exec (.shingleRehome k) s = .next s) ∧
    (∀ i l rest, s.resolvable k = (i, l) :: rest → s.works k = true → (s.slice k).txns.any (fun t => decide (t.kind = .lineRes)) = false →
      s.homeUse k < 16 → ∃ u : State, exec (.lineResolution k) s = .next (activate k (s.slice k).freeEntry u) ∧
        u = (s.modSalv i (fun x => { x with begun := x.begun ++ [l] })).setSlice k
          ((s.slice k).enter { e := (s.slice k).freeEntry, kind := .lineRes, q := { laddr := l } })) ∧
    ((s.slice k).txns.any (fun t => decide (t.kind = .lineRes)) = true → exec (.lineResolution k) s = .next s) ∧
    (∀ x, s.salv k = some x → (s.slice k).st = .failed → x.decided = false → x.fenced = true → x.shs = [] → x.t0 + 480000 ≤ s.now →
      ∃ u : State, exec (.salvageDecision k) s = .next (endSalvage k u) ∧
        u.salv k = some { x with decided := true, mirrorDone := true, flipped := true }) ∧
    (∀ x, s.salv k = some x → s.salvageDone k x = false → s.now < x.t0 + 480000 → exec (.salvageDecision k) s = .next s) ∧
    (∃ t : State, exec (.openEavesWbMark shs src) s = .next t ∧ t.slices = s.slices ∧ t.hub = s.hub ∧
      (∀ p, p < s.gh.caPorts → (t.ca p).ingress = markEntries (shs.map (fun x => x.toNat)) (some src) (s.ca p).ingress) ∧
      ({ t with cas := s.cas, rdg := s.rdg } : State) = s) ∧
    (s.shState sh = hmOpen → s.exitEmpty sh = true → hmState (s.map.pendingEntry sh) = hmOpen →
      exec (.openEavesExit sh) s = .next (changeMap [(sh, hmEntry (s.homeSlice sh) hmNormal)] s)) ∧
    (s.exitEmpty sh = false → exec (.openEavesExit sh) s = .next s) ∧
    (s.newCmd c 0x65 = some kc → ∃ ws, exec (.salvageStatus c) s = .next (finish kc stOk 0 ws s) ∧
      (kc.tgt ≠ 0xFF → s.salv kc.tgt = none → ws = []) ∧ (∀ x, kc.tgt ≠ 0xFF → s.salv kc.tgt = some x → ws = x.words kc.tgt)) ∧
    (s.cmd c = some kc → kc.opc = 0x66 → kc.fwd = none → kc.running = false → (flushed (notedAids kc.ps) s).joinedPeers = [] →
      exec (.agentFlushNote c) s = .next (finish kc stOk (ascending ((notedAids kc.ps).map (fun a => a.toNat))).length [] (flushed (notedAids kc.ps) s))) ∧
    (s.cmd c = some kc → kc.opc = 0x66 → kc.fwd = none → kc.running = false → (flushed (notedAids kc.ps) s).joinedPeers ≠ [] →
      let u := flushed (notedAids kc.ps) s
      exec (.agentFlushNote c) s = .next ((u.startCmd kc (fun x => { x with units := u.joinedPeers })).toJoined (.flushNote (notedAids kc.ps)))) ∧
    (∀ i j rest, s.cmd c = some kc → kc.opc = 0x66 → kc.fwd = none → kc.running = true → kc.units = i :: j :: rest →
      (∀ p ∈ kc.units, p ∈ s.joinedPeers) → exec (.agentFlushNote c) s = .next (s.modCmd c (fun k => { k with units := j :: rest }))) ∧
    (∀ i, s.cmd c = some kc → kc.opc = 0x66 → kc.fwd = none → kc.running = true → kc.units = [i] →
      exec (.agentFlushNote c) s = .next (finish kc stOk (ascending ((notedAids kc.ps).map (fun a => a.toNat))).length [] s)) ∧
    (exec (.agentFlushNoteReceive src as) s = .next ((flushed as s).sendMgt src.toNat .flushAck)) ∧
    (k < s.gh.slices → ∀ e ∈ ((flushed as s).slice k).exitSets, ∀ a ∈ as, a ∉ e.2)

/-! ### Injection and the debug port (11, 13) -/

/-- FACTORY_INJECT raises INJECT and then inverts one or two stored bits of a word of a powered slice, or has the fault of its source
happen at its unit; a kind its source has not, a unit or a word that does not exist is BAD_PARAM. At the debug port a reset clears the
data register, IDCODE gives the configuration part, BYPASS the bit shifted in; a locked instrument, and the scan of a router that is not
drained, reads as zero and ignores writes. (R352, R353, R421, R475, R476, R501.) -/
def Obligations.InjectionAndDebugPort : Prop :=
  ∀ (s : State) (c : Nat) (k : Kcp) (n : Nat) (d : W64) (tdi : Bool),
    let w := k.par 0
    let src := fld w 0 6
    let kind := fld w 8 2
    let unit := fld w 16 8
    let loc := fld (k.par 1) 0 32
    (∀ a i, s.newCmd c 0x7E = some k → kind < 2 → hasArray src = true → unit < s.gh.slices → injectPlace src loc = some (a, i) → i < injectWords a →
      exec (.factoryInject c) s = .next (finish k stOk 0 [] (injectArrayFault a i unit (if kind = 0 then 1 else 3) (raise (injectEv src kind) s)))) ∧
    (s.newCmd c 0x7E = some k → kind < 2 → hasArray src = false → exec (.factoryInject c) s = .next (finish k stBadParam (badDetail 1 8) [] s)) ∧
    (s.newCmd c 0x7E = some k → kind < 2 → hasArray src = true → unit < s.gh.slices →
      (∀ a i, injectPlace src loc = some (a, i) → injectWords a ≤ i) →
      exec (.factoryInject c) s = .next (finish k stBadParam (badDetail 2 0) [] s)) ∧
    (∀ m, s.newCmd c 0x7E = some k → 2 ≤ kind → faultUnits s.gh src = some m → unit < m →
      (src = 0x0B → loc < injectWords 6) → exec (.factoryInject c) s = .next (finish k stOk 0 [] (ownFault src unit loc (raise (injectEv src kind) s)))) ∧
    (∀ m, s.newCmd c 0x7E = some k → 2 ≤ kind → faultUnits s.gh src = some m → m ≤ unit →
      exec (.factoryInject c) s = .next (finish k stBadParam (badDetail 1 16) [] s)) ∧
    (∀ a i (v : Slice) m, v.errAt a i = none → m ≠ 0 → (v.flipBits a i m).errs = v.errs.filter (fun e => !(e.array == a && e.addr == i)) ++
      [{ array := a, addr := i, flip := m }]) ∧
    ((s.slice unit).st ≠ .on → injectArrayFault 0 loc unit 1 s = s) ∧
    ((s.slice unit).st.losable = true → ownFault 0x0C unit loc s = loseSlice unit .injected 0 0 none s) ∧
    (exec (.tapAccess .trst) s = .next { s with tapSel := true, tdo := 0 }) ∧
    (exec (.tapAccess .idcode) s = .next { s with tapSel := true, tdo := s.idcode }) ∧
    (s.idcode.getLsbD 0 = true) ∧
    (exec (.tapAccess (.bypass tdi)) s = .next { s with tapSel := false, tdo := BitVec.ofNat 64 (b2n tdi) }) ∧
    (exec (.tapAccess .ident) s = .next { s with tapSel := false, tdo := Config.instrument 0 0 }) ∧
    (s.debugOpen = false → exec (.tapAccess (.instrument n false d)) s = .next { s with tapSel := false, tdo := 0 } ∧
      exec (.tapAccess (.instrument n true d)) s = .next { s with tapSel := false }) ∧
    (s.debugOpen = true → (∃ t : State, exec (.tapAccess (.instrument n false d)) s = .next t ∧
      ({ t with tdo := s.tdo, tapSel := s.tapSel, fresh := s.fresh } : State) = s ∧
      (s.mesh.drained = false → Config.routerScan n = true → t.tdo = 0)) ∧
      exec (.tapAccess (.instrument n true d)) s = (if s.mesh.drained = false ∧ Config.routerScan n = true
        then .next { s with tapSel := false } else .refused .debugInstrument)) ∧
    (s.debugOpen = true ↔ s.prot.dbg = true ∨ s.rst.test = true)

/-! ### The whole block -/

/-- From every well-formed state, whatever the command at the front of the queue, a step that answers a next state answers a well-formed
one: the tables of the units rise strictly, every array of every slice and both generations of the home map list no entry equal to what
an unlisted place reads as. Equal contents of the block are so equal data. (05_snoop_filter.md, 07_home_cache.md, 02_home_map.md.) -/
def Obligations.StepKeepsWellFormed : Prop :=
  ∀ s t : State, s.wf = true → step s = .next t → t.wf = true

/-- The state right after reset meets the invariant that every step keeps. (16_reset_power.md.) -/
def Obligations.ResetStateWellFormed : Prop :=
  State.reset.wf = true

/-- Every command but POR_TAKEN and RESET_N_TAKEN, and every tick, leaves an instance that a black event has lost lost; either reset
ends the loss. (R451, R478, R479.) -/
def Obligations.LossOfInstanceIsSticky : Prop :=
  (∀ (c : Instr) (s t : State), isReset c = false → s.err.lost = true → exec c s = .next t → t.err.lost = true) ∧
  (∀ s t : State, s.pending = [] → s.err.lost = true → step s = .next t → t.err.lost = true) ∧
  (∀ (c : Instr) (s t : State), isReset c = true → exec c s = .next t → t.err.lost = false)

/-- Whatever a command does, the commands that wait behind it and the configuration of the instance are the same afterwards; so a step
takes exactly the front command off the queue. (00_scope.md, 01_organisation.md.) -/
def Obligations.QueueAndConfigurationStay : Prop :=
  (∀ (c : Instr) (s t : State), exec c s = .next t → t.pending = s.pending ∧ t.gh = s.gh) ∧
  (∀ s t : State, step s = .next t → t.pending = s.pending.tail ∧ t.gh = s.gh)

/-- Decoding the encoding of a request, a snoop, a snoop response, a CmpAck, a Cmp, a CmpErr, a WbAck or a Dat header gives the message
back with every field, at every value of every field; on a link slot each is read as a message of its own kind. (R62, R65, R66, R67,
R69, R299.) -/
def Obligations.MessagesRoundTrip : Prop :=
  ∀ (q : Req) (aid raid : Aid) (txid : BitVec 12) (htid : BitVec 20) (l : LAddr) (cidx : BitVec 2) (b1 b2 : Bool) (w : W64) (g : Grant)
      (so : SnpOp) (ro : RspOp) (rs : BitVec 8) (kind : BitVec 2) (be : BitVec 16) (d : BitVec 128),
    decodeReq q.encode = q ∧ decodeSlot q.encode = some (.req q 0 .none .none) ∧
    decodeSnp (encodeSnp so aid htid l cidx raid txid) = some (.snp so aid htid l cidx raid txid) ∧
    decodeSlot (encodeSnp so aid htid l cidx raid txid) = some (.snp so aid htid l cidx raid txid) ∧
    decodeRsp (encodeRsp ro aid htid b1 b2) = some (.rsp ro aid htid b1 b2) ∧
    decodeSlot (encodeRsp ro aid htid b1 b2) = some (.rsp ro aid htid b1 b2) ∧
    decodeRsp (encodeCmpAck aid htid) = some (.cmpAck aid htid) ∧ decodeSlot (encodeCmpAck aid htid) = some (.cmpAck aid htid) ∧
    decodeCmp (encodeCmp aid txid htid g b1 w) = some (.cmp aid txid htid g b1 w) ∧
    decodeSlot (encodeCmp aid txid htid g b1 w) = some (.cmp aid txid htid g b1 w) ∧
    decodeCmp (encodeCmpErr aid txid htid rs) = some (.cmpErr aid txid htid rs) ∧
    decodeCmp (encodeWbAck aid txid htid b1) = some (.wbAck aid txid htid b1) ∧
    decodeDat (encodeDat kind aid txid htid cidx b1 b2 be) d = some (.dat kind aid txid htid cidx b1 b2 be d)

/-- A flit of seven slots reads back with every field from its 1,024 bits, whatever the fields hold, and the CRC in its last 32 bits is
the one that its receiver computes. A line packet of up to four chunks reads back as its chunks in order, each with its index, LAST,
POISON, byte enables and data. (R297, R298, R299.) -/
def Obligations.FlitsRoundTrip : Prop :=
  (∀ f : Flit, f.desc.length = 7 → f.slots.length = 7 →
    decodeFlit f.bits = f ∧ flitCrc (f.bits.extractLsb' 0 992) = f.bits.extractLsb' 992 32 ∧ f.bits.extractLsb' 0 992 = f.body) ∧
  (∀ (kind : BitVec 2) (aid : Aid) (txid : BitVec 12) (htid : BitVec 20) (cs : List LineChunk), cs.length ≤ 4 →
    lineChunks ((lineSlots kind aid txid htid cs).headD 0) = cs.length ∧
    decodeLine (lineSlots kind aid txid htid cs) = cs.map (fun c => .dat kind aid txid htid c.cidx c.last c.poison c.be c.d))

/-! ### Rules of the spec stated whole -/

/-- A computation of the master that has not finished by B + 40,000,000 ticks ends: REGROUP_SKIPPED with reason TIME is raised, and
neither generation of the map, nor which one is current, is affected; before that tick nothing happens. (R182.) -/
def Obligations.RegroupTimeIsBounded : Prop :=
  ∀ s : State, s.pol.rg = .computing →
    (s.pol.rgFrom + 40000000 ≤ s.ptcNow → ∃ u t : State, u.pol = { s.pol with rg := .idle, rgSamples := [] } ∧
      exec .regroupTimeout s = .next t ∧ t = endCalibrate false (policyEvent 2 0x02 0xFF 5 0 (s.epoch % 65536) u) ∧
      t.pol.rg = .idle ∧ t.pol.curgen = s.pol.curgen ∧ t.pol.map0 = s.pol.map0 ∧ t.pol.map1 = s.pol.map1) ∧
    (s.ptcNow < s.pol.rgFrom + 40000000 → exec .regroupTimeout s = .next s)

/-- At release, after 16 equal samples of the straps, the configuration code is ID[3:0] when CFGSRC is 0, and the code of the two
conversions of RSENSE when CFGSRC is 1; its bits 2:0 are the instance ID and its bit 3 is TMCAP. (R484.) -/
def Obligations.ConfigurationCodeIsTaken : Prop :=
  ∀ (s : State) (x : StrapSample) (l : List StrapSample) (a b : Nat) (fuse : Bool), s.rst.inReset = true → (∀ y ∈ l, y = x) → l.length = 15 →
    rsenseCode a = rsenseCode b → ∃ t, exec (.resetRelease (x :: l) a b fuse) s = .next t ∧
      (x.cfgsrc = false → t.rst.code = x.id) ∧ (∀ c, x.cfgsrc = true → rsenseCode a = some c → t.rst.code = BitVec.ofNat 4 c) ∧
      t.inst = t.rst.code.extractLsb' 0 3 ∧ t.tmcap = t.rst.code.getLsbD 3
end

