-- ==== Sys2Proof/Laws/Table.lean ====
section
/-! SUPPORT. Sys2Proof/Laws/Table.lean: the laws of sparse tables: reading after writing, and the canonical form. -/

namespace Sys2Proof.Machine

variable {α : Type}

theorem tget_nil (d : Nat → α) (k : Nat) : tget d [] k = d k := rfl

/-- Rising keys, as a property of pairs. -/
theorem sorted_iff_pairwise (t : Tbl α) : Sorted t = true ↔ t.Pairwise (fun a b => a.1 < b.1) := by
  induction t with
  | nil => simp [Sorted]
  | cons p t ih =>
    obtain ⟨a, x⟩ := p
    cases t with
    | nil => simp [Sorted]
    | cons q t =>
      obtain ⟨b, y⟩ := q
      rw [Sorted, Bool.and_eq_true, ih, List.pairwise_cons (a := (a, x))]
      constructor
      · rintro ⟨hab, ht⟩
        refine ⟨?_, ht⟩
        intro c hc
        rcases List.mem_cons.mp hc with rfl | hc
        · simpa using hab
        · exact Nat.lt_trans (by simpa using hab) ((List.pairwise_cons.mp ht).1 c hc)
      · rintro ⟨h, ht⟩
        exact ⟨by simpa using h (b, y) (by simp), ht⟩

/-- A read after a write: the value written at its key, every other key as before. -/
theorem tget_tput (d : Nat → α) (k j : Nat) (v : α) (t : Tbl α) : tget d (tput k v t) j = if j = k then v else tget d t j := by
  induction t with
  | nil => simp [tput, tget]
  | cons p t ih =>
    obtain ⟨a, x⟩ := p
    unfold tput
    split
    · simp_all [tget]
    · split
      · simp_all [tget]
      · by_cases hj : j = a
        · simp_all [tget]
          omega
        · simp_all [tget]

@[simp] theorem tget_tput_self (d : Nat → α) (k : Nat) (v : α) (t : Tbl α) : tget d (tput k v t) k = v := by simp [tget_tput]

theorem tget_tput_of_ne (d : Nat → α) {k j : Nat} (h : j ≠ k) (v : α) (t : Tbl α) : tget d (tput k v t) j = tget d t j := by
  simp [tget_tput, h]

/-- A read after a deletion. -/
theorem tget_tdel (d : Nat → α) (k j : Nat) (t : Tbl α) : tget d (tdel k t) j = if j = k then d k else tget d t j := by
  induction t with
  | nil => simp [tdel, tget]; intro h; rw [h]
  | cons p t ih =>
    obtain ⟨a, x⟩ := p
    by_cases ha : a = k
    · subst ha
      have : tdel a ((a, x) :: t) = tdel a t := by simp [tdel]
      rw [this, ih]
      by_cases hj : j = a <;> simp [hj, tget]
    · have : tdel k ((a, x) :: t) = (a, x) :: tdel k t := by simp [tdel, ha]
      rw [this, tget, ih, tget]
      by_cases hj : j = a
      · subst hj; simp [ha]
      · simp [hj]

/-- A read after a write of an array with defaults. -/
theorem tget_tset [DecidableEq α] (d : Nat → α) (k j : Nat) (v : α) (t : Tbl α) :
    tget d (tset d k v t) j = if j = k then v else tget d t j := by
  unfold tset
  split <;> simp_all [tget_tdel, tget_tput]

@[simp] theorem tget_tset_self [DecidableEq α] (d : Nat → α) (k : Nat) (v : α) (t : Tbl α) : tget d (tset d k v t) k = v := by
  simp [tget_tset]

theorem mem_tput {k : Nat} {v : α} {t : Tbl α} {p : Nat × α} (h : p ∈ tput k v t) : p = (k, v) ∨ p ∈ t := by
  induction t with
  | nil => simpa [tput] using h
  | cons q t ih =>
    obtain ⟨a, x⟩ := q
    unfold tput at h
    split at h
    · rcases List.mem_cons.mp h with h | h
      · exact .inl h
      · exact .inr (List.mem_cons_of_mem _ h)
    · split at h
      · rcases List.mem_cons.mp h with h | h
        · exact .inl h
        · exact .inr h
      · rcases List.mem_cons.mp h with h | h
        · exact .inr (h ▸ List.mem_cons_self ..)
        · exact (ih h).imp_right (List.mem_cons_of_mem _)

/-- Writing keeps the keys rising. -/
theorem sorted_tput (k : Nat) (v : α) {t : Tbl α} (h : Sorted t = true) : Sorted (tput k v t) = true := by
  rw [sorted_iff_pairwise] at h ⊢
  induction t with
  | nil => simp [tput]
  | cons p t ih =>
    obtain ⟨a, x⟩ := p
    have h' := List.pairwise_cons.mp h
    unfold tput
    split
    · rename_i h1
      subst h1; exact List.pairwise_cons.mpr ⟨h'.1, h'.2⟩
    · rename_i h1
      split
      · rename_i h2
        refine List.pairwise_cons.mpr ⟨?_, h⟩
        intro q hq
        rcases List.mem_cons.mp hq with rfl | hq
        · exact h2
        · exact Nat.lt_trans h2 (h'.1 q hq)
      · rename_i h2
        refine List.pairwise_cons.mpr ⟨?_, ih h'.2⟩
        intro q hq
        rcases mem_tput hq with rfl | hq
        · exact Nat.lt_of_le_of_ne (Nat.le_of_not_lt h2) (Ne.symm h1)
        · exact h'.1 q hq

/-- Leaving entries out keeps the keys rising. -/
theorem sorted_filter (f : Nat × α → Bool) {t : Tbl α} (h : Sorted t = true) : Sorted (t.filter f) = true := by
  rw [sorted_iff_pairwise] at h ⊢
  exact h.filter f

theorem sorted_tdel (k : Nat) {t : Tbl α} (h : Sorted t = true) : Sorted (tdel k t) = true := sorted_filter _ h

theorem all_tput {f : Nat × α → Bool} {k : Nat} {v : α} {t : Tbl α} (hv : f (k, v) = true) (ht : t.all f = true) :
    (tput k v t).all f = true := by
  rw [List.all_eq_true] at ht ⊢
  intro p hp
  rcases mem_tput hp with rfl | hp
  · exact hv
  · exact ht p hp

@[simp] theorem canonical_nil [DecidableEq α] (d : Nat → α) : Canonical d ([] : Tbl α) = true := rfl

theorem canonical_iff [DecidableEq α] (d : Nat → α) (t : Tbl α) :
    Canonical d t = true ↔ Sorted t = true ∧ t.all (fun p => decide (p.2 ≠ d p.1)) = true := by
  simp [Canonical]

/-- Leaving entries out keeps the canonical form. -/
theorem canonical_filter [DecidableEq α] {d : Nat → α} (f : Nat × α → Bool) {t : Tbl α} (h : Canonical d t = true) :
    Canonical d (t.filter f) = true := by
  rw [canonical_iff] at h ⊢
  refine ⟨sorted_filter f h.1, ?_⟩
  rw [List.all_eq_true] at h ⊢
  intro p hp
  exact h.2 p (List.mem_filter.mp hp).1

theorem canonical_tdel [DecidableEq α] {d : Nat → α} (k : Nat) {t : Tbl α} (h : Canonical d t = true) :
    Canonical d (tdel k t) = true := canonical_filter _ h

/-- Changing every entry, with those that become the default left out, gives the canonical form. -/
theorem canonical_map [DecidableEq α] {d : Nat → α} (f : α → α) {t : Tbl α} (h : Canonical d t = true) :
    Canonical d ((t.map (fun x => (x.1, f x.2))).filter (fun x => decide (x.2 ≠ d x.1))) = true := by
  rw [canonical_iff] at h ⊢
  refine ⟨sorted_filter _ ?_, ?_⟩
  · have h1 := h.1
    rw [sorted_iff_pairwise] at h1 ⊢
    exact h1.map _ (fun a b hab => hab)
  · rw [List.all_eq_true]
    intro p hp
    exact (List.mem_filter.mp hp).2

/-- Every write keeps the canonical form. -/
theorem canonical_tset [DecidableEq α] {d : Nat → α} (k : Nat) (v : α) {t : Tbl α} (h : Canonical d t = true) :
    Canonical d (tset d k v t) = true := by
  unfold tset
  split
  · exact canonical_tdel k h
  · rename_i hv
    rw [canonical_iff] at h ⊢
    exact ⟨sorted_tput k v h.1, all_tput (by simpa using hv) h.2⟩

/-- Two canonical tables that read the same everywhere are the same. -/
theorem canonical_ext [DecidableEq α] {d : Nat → α} {t u : Tbl α} (ht : Canonical d t = true) (hu : Canonical d u = true)
    (h : ∀ k, tget d t k = tget d u k) : t = u := by
  have key : ∀ (w : Tbl α) (a : Nat), w.Pairwise (fun a b => a.1 < b.1) → (∀ p ∈ w, a < p.1) → tget d w a = d a := by
    intro w
    induction w with
    | nil => intros; rfl
    | cons p w ih =>
      intro a hw hlt
      obtain ⟨b, x⟩ := p
      have hb : a < b := hlt (b, x) (by simp)
      rw [tget, if_neg (Nat.ne_of_lt hb)]
      exact ih a (List.pairwise_cons.mp hw).2 (fun q hq => hlt q (List.mem_cons_of_mem _ hq))
  rw [canonical_iff, sorted_iff_pairwise, List.all_eq_true] at ht hu
  obtain ⟨ht1, ht2⟩ := ht
  obtain ⟨hu1, hu2⟩ := hu
  induction t generalizing u with
  | nil =>
    cases u with
    | nil => rfl
    | cons q u =>
      obtain ⟨b, y⟩ := q
      have := h b
      rw [tget_nil, tget, if_pos rfl] at this
      have hne := hu2 (b, y) (by simp)
      simp [this] at hne
  | cons p t ih =>
    obtain ⟨a, x⟩ := p
    have hp := List.pairwise_cons.mp ht1
    cases u with
    | nil =>
      have := h a
      rw [tget_nil, tget, if_pos rfl] at this
      have hne := ht2 (a, x) (by simp)
      simp [this] at hne
    | cons q u =>
      obtain ⟨b, y⟩ := q
      have hq := List.pairwise_cons.mp hu1
      have hab : a = b := by
        rcases Nat.lt_trichotomy a b with hlt | he | hgt
        · have e := h a
          rw [tget, if_pos rfl, key ((b, y) :: u) a hu1 (by
            intro c hc
            rcases List.mem_cons.mp hc with rfl | hc
            · exact hlt
            · exact Nat.lt_trans hlt (hq.1 c hc))] at e
          have hne := ht2 (a, x) (by simp)
          simp [e] at hne
        · exact he
        · have e := h b
          rw [key ((a, x) :: t) b ht1 (by
            intro c hc
            rcases List.mem_cons.mp hc with rfl | hc
            · exact hgt
            · exact Nat.lt_trans hgt (hp.1 c hc)), tget, if_pos rfl] at e
          have hne := hu2 (b, y) (by simp)
          simp [← e] at hne
      subst hab
      have hxy : x = y := by
        have e := h a
        simpa [tget] using e
      subst hxy
      congr 1
      refine ih (fun k => ?_) hp.2 (fun r hr => ht2 r (List.mem_cons_of_mem _ hr)) hq.2 (fun r hr => hu2 r (List.mem_cons_of_mem _ hr))
      by_cases hk : k = a
      · subst hk
        rw [key t k hp.2 hp.1, key u k hq.2 hq.1]
      · have e := h k
        simpa [tget, hk] using e

end Sys2Proof.Machine
end

