-- ==== Sys2Proof/Laws/State.lean ====
section
/-! SUPPORT. Sys2Proof/Laws/State.lean: for each update of State, one lemma for each field and one for reading what it wrote; and for
the shared operations on the hub, the mesh and the replies, one lemma that says what each can do. -/

namespace Sys2Proof.Machine

/-! ### Fields after an update -/

@[simp] theorem State.setSlice_gh (s : State) (k : Nat) (v : Slice) : (s.setSlice k v).gh = s.gh := rfl
@[simp] theorem State.setSlice_inst (s : State) (k : Nat) (v : Slice) : (s.setSlice k v).inst = s.inst := rfl
@[simp] theorem State.setSlice_tmcap (s : State) (k : Nat) (v : Slice) : (s.setSlice k v).tmcap = s.tmcap := rfl
@[simp] theorem State.setSlice_time (s : State) (k : Nat) (v : Slice) : (s.setSlice k v).time = s.time := rfl
@[simp] theorem State.setSlice_rst (s : State) (k : Nat) (v : Slice) : (s.setSlice k v).rst = s.rst := rfl
@[simp] theorem State.setSlice_err (s : State) (k : Nat) (v : Slice) : (s.setSlice k v).err = s.err := rfl
@[simp] theorem State.setSlice_hub (s : State) (k : Nat) (v : Slice) : (s.setSlice k v).hub = s.hub := rfl
@[simp] theorem State.setSlice_map (s : State) (k : Nat) (v : Slice) : (s.setSlice k v).map = s.map := rfl
@[simp] theorem State.setSlice_prot (s : State) (k : Nat) (v : Slice) : (s.setSlice k v).prot = s.prot := rfl
@[simp] theorem State.setSlice_pol (s : State) (k : Nat) (v : Slice) : (s.setSlice k v).pol = s.pol := rfl
@[simp] theorem State.setSlice_pkg (s : State) (k : Nat) (v : Slice) : (s.setSlice k v).pkg = s.pkg := rfl
@[simp] theorem State.setSlice_mesh (s : State) (k : Nat) (v : Slice) : (s.setSlice k v).mesh = s.mesh := rfl
@[simp] theorem State.setSlice_cas (s : State) (k : Nat) (v : Slice) : (s.setSlice k v).cas = s.cas := rfl
@[simp] theorem State.setSlice_mps (s : State) (k : Nat) (v : Slice) : (s.setSlice k v).mps = s.mps := rfl
@[simp] theorem State.setSlice_rdg (s : State) (k : Nat) (v : Slice) : (s.setSlice k v).rdg = s.rdg := rfl
@[simp] theorem State.setSlice_tdo (s : State) (k : Nat) (v : Slice) : (s.setSlice k v).tdo = s.tdo := rfl
@[simp] theorem State.setSlice_tapSel (s : State) (k : Nat) (v : Slice) : (s.setSlice k v).tapSel = s.tapSel := rfl
@[simp] theorem State.setSlice_fresh (s : State) (k : Nat) (v : Slice) : (s.setSlice k v).fresh = s.fresh := rfl
@[simp] theorem State.setSlice_out (s : State) (k : Nat) (v : Slice) : (s.setSlice k v).out = s.out := rfl
@[simp] theorem State.setSlice_pending (s : State) (k : Nat) (v : Slice) : (s.setSlice k v).pending = s.pending := rfl

@[simp] theorem State.setCa_gh (s : State) (p : Nat) (v : CaPort) : (s.setCa p v).gh = s.gh := rfl
@[simp] theorem State.setCa_inst (s : State) (p : Nat) (v : CaPort) : (s.setCa p v).inst = s.inst := rfl
@[simp] theorem State.setCa_tmcap (s : State) (p : Nat) (v : CaPort) : (s.setCa p v).tmcap = s.tmcap := rfl
@[simp] theorem State.setCa_time (s : State) (p : Nat) (v : CaPort) : (s.setCa p v).time = s.time := rfl
@[simp] theorem State.setCa_rst (s : State) (p : Nat) (v : CaPort) : (s.setCa p v).rst = s.rst := rfl
@[simp] theorem State.setCa_err (s : State) (p : Nat) (v : CaPort) : (s.setCa p v).err = s.err := rfl
@[simp] theorem State.setCa_hub (s : State) (p : Nat) (v : CaPort) : (s.setCa p v).hub = s.hub := rfl
@[simp] theorem State.setCa_map (s : State) (p : Nat) (v : CaPort) : (s.setCa p v).map = s.map := rfl
@[simp] theorem State.setCa_prot (s : State) (p : Nat) (v : CaPort) : (s.setCa p v).prot = s.prot := rfl
@[simp] theorem State.setCa_pol (s : State) (p : Nat) (v : CaPort) : (s.setCa p v).pol = s.pol := rfl
@[simp] theorem State.setCa_pkg (s : State) (p : Nat) (v : CaPort) : (s.setCa p v).pkg = s.pkg := rfl
@[simp] theorem State.setCa_mesh (s : State) (p : Nat) (v : CaPort) : (s.setCa p v).mesh = s.mesh := rfl
@[simp] theorem State.setCa_slices (s : State) (p : Nat) (v : CaPort) : (s.setCa p v).slices = s.slices := rfl
@[simp] theorem State.setCa_mps (s : State) (p : Nat) (v : CaPort) : (s.setCa p v).mps = s.mps := rfl
@[simp] theorem State.setCa_rdg (s : State) (p : Nat) (v : CaPort) : (s.setCa p v).rdg = s.rdg := rfl
@[simp] theorem State.setCa_tdo (s : State) (p : Nat) (v : CaPort) : (s.setCa p v).tdo = s.tdo := rfl
@[simp] theorem State.setCa_tapSel (s : State) (p : Nat) (v : CaPort) : (s.setCa p v).tapSel = s.tapSel := rfl
@[simp] theorem State.setCa_fresh (s : State) (p : Nat) (v : CaPort) : (s.setCa p v).fresh = s.fresh := rfl
@[simp] theorem State.setCa_out (s : State) (p : Nat) (v : CaPort) : (s.setCa p v).out = s.out := rfl
@[simp] theorem State.setCa_pending (s : State) (p : Nat) (v : CaPort) : (s.setCa p v).pending = s.pending := rfl

@[simp] theorem State.setMp_gh (s : State) (p : Nat) (v : MemPort) : (s.setMp p v).gh = s.gh := rfl
@[simp] theorem State.setMp_inst (s : State) (p : Nat) (v : MemPort) : (s.setMp p v).inst = s.inst := rfl
@[simp] theorem State.setMp_tmcap (s : State) (p : Nat) (v : MemPort) : (s.setMp p v).tmcap = s.tmcap := rfl
@[simp] theorem State.setMp_time (s : State) (p : Nat) (v : MemPort) : (s.setMp p v).time = s.time := rfl
@[simp] theorem State.setMp_rst (s : State) (p : Nat) (v : MemPort) : (s.setMp p v).rst = s.rst := rfl
@[simp] theorem State.setMp_err (s : State) (p : Nat) (v : MemPort) : (s.setMp p v).err = s.err := rfl
@[simp] theorem State.setMp_hub (s : State) (p : Nat) (v : MemPort) : (s.setMp p v).hub = s.hub := rfl
@[simp] theorem State.setMp_map (s : State) (p : Nat) (v : MemPort) : (s.setMp p v).map = s.map := rfl
@[simp] theorem State.setMp_prot (s : State) (p : Nat) (v : MemPort) : (s.setMp p v).prot = s.prot := rfl
@[simp] theorem State.setMp_pol (s : State) (p : Nat) (v : MemPort) : (s.setMp p v).pol = s.pol := rfl
@[simp] theorem State.setMp_pkg (s : State) (p : Nat) (v : MemPort) : (s.setMp p v).pkg = s.pkg := rfl
@[simp] theorem State.setMp_mesh (s : State) (p : Nat) (v : MemPort) : (s.setMp p v).mesh = s.mesh := rfl
@[simp] theorem State.setMp_slices (s : State) (p : Nat) (v : MemPort) : (s.setMp p v).slices = s.slices := rfl
@[simp] theorem State.setMp_cas (s : State) (p : Nat) (v : MemPort) : (s.setMp p v).cas = s.cas := rfl
@[simp] theorem State.setMp_rdg (s : State) (p : Nat) (v : MemPort) : (s.setMp p v).rdg = s.rdg := rfl
@[simp] theorem State.setMp_tdo (s : State) (p : Nat) (v : MemPort) : (s.setMp p v).tdo = s.tdo := rfl
@[simp] theorem State.setMp_tapSel (s : State) (p : Nat) (v : MemPort) : (s.setMp p v).tapSel = s.tapSel := rfl
@[simp] theorem State.setMp_fresh (s : State) (p : Nat) (v : MemPort) : (s.setMp p v).fresh = s.fresh := rfl
@[simp] theorem State.setMp_out (s : State) (p : Nat) (v : MemPort) : (s.setMp p v).out = s.out := rfl
@[simp] theorem State.setMp_pending (s : State) (p : Nat) (v : MemPort) : (s.setMp p v).pending = s.pending := rfl

@[simp] theorem State.setLink_gh (s : State) (r : Nat) (v : Ridge) : (s.setLink r v).gh = s.gh := rfl
@[simp] theorem State.setLink_inst (s : State) (r : Nat) (v : Ridge) : (s.setLink r v).inst = s.inst := rfl
@[simp] theorem State.setLink_tmcap (s : State) (r : Nat) (v : Ridge) : (s.setLink r v).tmcap = s.tmcap := rfl
@[simp] theorem State.setLink_time (s : State) (r : Nat) (v : Ridge) : (s.setLink r v).time = s.time := rfl
@[simp] theorem State.setLink_rst (s : State) (r : Nat) (v : Ridge) : (s.setLink r v).rst = s.rst := rfl
@[simp] theorem State.setLink_err (s : State) (r : Nat) (v : Ridge) : (s.setLink r v).err = s.err := rfl
@[simp] theorem State.setLink_hub (s : State) (r : Nat) (v : Ridge) : (s.setLink r v).hub = s.hub := rfl
@[simp] theorem State.setLink_map (s : State) (r : Nat) (v : Ridge) : (s.setLink r v).map = s.map := rfl
@[simp] theorem State.setLink_prot (s : State) (r : Nat) (v : Ridge) : (s.setLink r v).prot = s.prot := rfl
@[simp] theorem State.setLink_pol (s : State) (r : Nat) (v : Ridge) : (s.setLink r v).pol = s.pol := rfl
@[simp] theorem State.setLink_pkg (s : State) (r : Nat) (v : Ridge) : (s.setLink r v).pkg = s.pkg := rfl
@[simp] theorem State.setLink_mesh (s : State) (r : Nat) (v : Ridge) : (s.setLink r v).mesh = s.mesh := rfl
@[simp] theorem State.setLink_slices (s : State) (r : Nat) (v : Ridge) : (s.setLink r v).slices = s.slices := rfl
@[simp] theorem State.setLink_cas (s : State) (r : Nat) (v : Ridge) : (s.setLink r v).cas = s.cas := rfl
@[simp] theorem State.setLink_mps (s : State) (r : Nat) (v : Ridge) : (s.setLink r v).mps = s.mps := rfl
@[simp] theorem State.setLink_tdo (s : State) (r : Nat) (v : Ridge) : (s.setLink r v).tdo = s.tdo := rfl
@[simp] theorem State.setLink_tapSel (s : State) (r : Nat) (v : Ridge) : (s.setLink r v).tapSel = s.tapSel := rfl
@[simp] theorem State.setLink_fresh (s : State) (r : Nat) (v : Ridge) : (s.setLink r v).fresh = s.fresh := rfl
@[simp] theorem State.setLink_out (s : State) (r : Nat) (v : Ridge) : (s.setLink r v).out = s.out := rfl
@[simp] theorem State.setLink_pending (s : State) (r : Nat) (v : Ridge) : (s.setLink r v).pending = s.pending := rfl

@[simp] theorem State.modSlice_gh (s : State) (k : Nat) (f : Slice → Slice) : (s.modSlice k f).gh = s.gh := rfl
@[simp] theorem State.modSlice_inst (s : State) (k : Nat) (f : Slice → Slice) : (s.modSlice k f).inst = s.inst := rfl
@[simp] theorem State.modSlice_tmcap (s : State) (k : Nat) (f : Slice → Slice) : (s.modSlice k f).tmcap = s.tmcap := rfl
@[simp] theorem State.modSlice_time (s : State) (k : Nat) (f : Slice → Slice) : (s.modSlice k f).time = s.time := rfl
@[simp] theorem State.modSlice_rst (s : State) (k : Nat) (f : Slice → Slice) : (s.modSlice k f).rst = s.rst := rfl
@[simp] theorem State.modSlice_err (s : State) (k : Nat) (f : Slice → Slice) : (s.modSlice k f).err = s.err := rfl
@[simp] theorem State.modSlice_hub (s : State) (k : Nat) (f : Slice → Slice) : (s.modSlice k f).hub = s.hub := rfl
@[simp] theorem State.modSlice_map (s : State) (k : Nat) (f : Slice → Slice) : (s.modSlice k f).map = s.map := rfl
@[simp] theorem State.modSlice_prot (s : State) (k : Nat) (f : Slice → Slice) : (s.modSlice k f).prot = s.prot := rfl
@[simp] theorem State.modSlice_pol (s : State) (k : Nat) (f : Slice → Slice) : (s.modSlice k f).pol = s.pol := rfl
@[simp] theorem State.modSlice_pkg (s : State) (k : Nat) (f : Slice → Slice) : (s.modSlice k f).pkg = s.pkg := rfl
@[simp] theorem State.modSlice_mesh (s : State) (k : Nat) (f : Slice → Slice) : (s.modSlice k f).mesh = s.mesh := rfl
@[simp] theorem State.modSlice_cas (s : State) (k : Nat) (f : Slice → Slice) : (s.modSlice k f).cas = s.cas := rfl
@[simp] theorem State.modSlice_mps (s : State) (k : Nat) (f : Slice → Slice) : (s.modSlice k f).mps = s.mps := rfl
@[simp] theorem State.modSlice_rdg (s : State) (k : Nat) (f : Slice → Slice) : (s.modSlice k f).rdg = s.rdg := rfl
@[simp] theorem State.modSlice_tdo (s : State) (k : Nat) (f : Slice → Slice) : (s.modSlice k f).tdo = s.tdo := rfl
@[simp] theorem State.modSlice_tapSel (s : State) (k : Nat) (f : Slice → Slice) : (s.modSlice k f).tapSel = s.tapSel := rfl
@[simp] theorem State.modSlice_fresh (s : State) (k : Nat) (f : Slice → Slice) : (s.modSlice k f).fresh = s.fresh := rfl
@[simp] theorem State.modSlice_out (s : State) (k : Nat) (f : Slice → Slice) : (s.modSlice k f).out = s.out := rfl
@[simp] theorem State.modSlice_pending (s : State) (k : Nat) (f : Slice → Slice) : (s.modSlice k f).pending = s.pending := rfl

@[simp] theorem State.modCa_gh (s : State) (p : Nat) (f : CaPort → CaPort) : (s.modCa p f).gh = s.gh := rfl
@[simp] theorem State.modCa_inst (s : State) (p : Nat) (f : CaPort → CaPort) : (s.modCa p f).inst = s.inst := rfl
@[simp] theorem State.modCa_tmcap (s : State) (p : Nat) (f : CaPort → CaPort) : (s.modCa p f).tmcap = s.tmcap := rfl
@[simp] theorem State.modCa_time (s : State) (p : Nat) (f : CaPort → CaPort) : (s.modCa p f).time = s.time := rfl
@[simp] theorem State.modCa_rst (s : State) (p : Nat) (f : CaPort → CaPort) : (s.modCa p f).rst = s.rst := rfl
@[simp] theorem State.modCa_err (s : State) (p : Nat) (f : CaPort → CaPort) : (s.modCa p f).err = s.err := rfl
@[simp] theorem State.modCa_hub (s : State) (p : Nat) (f : CaPort → CaPort) : (s.modCa p f).hub = s.hub := rfl
@[simp] theorem State.modCa_map (s : State) (p : Nat) (f : CaPort → CaPort) : (s.modCa p f).map = s.map := rfl
@[simp] theorem State.modCa_prot (s : State) (p : Nat) (f : CaPort → CaPort) : (s.modCa p f).prot = s.prot := rfl
@[simp] theorem State.modCa_pol (s : State) (p : Nat) (f : CaPort → CaPort) : (s.modCa p f).pol = s.pol := rfl
@[simp] theorem State.modCa_pkg (s : State) (p : Nat) (f : CaPort → CaPort) : (s.modCa p f).pkg = s.pkg := rfl
@[simp] theorem State.modCa_mesh (s : State) (p : Nat) (f : CaPort → CaPort) : (s.modCa p f).mesh = s.mesh := rfl
@[simp] theorem State.modCa_slices (s : State) (p : Nat) (f : CaPort → CaPort) : (s.modCa p f).slices = s.slices := rfl
@[simp] theorem State.modCa_mps (s : State) (p : Nat) (f : CaPort → CaPort) : (s.modCa p f).mps = s.mps := rfl
@[simp] theorem State.modCa_rdg (s : State) (p : Nat) (f : CaPort → CaPort) : (s.modCa p f).rdg = s.rdg := rfl
@[simp] theorem State.modCa_tdo (s : State) (p : Nat) (f : CaPort → CaPort) : (s.modCa p f).tdo = s.tdo := rfl
@[simp] theorem State.modCa_tapSel (s : State) (p : Nat) (f : CaPort → CaPort) : (s.modCa p f).tapSel = s.tapSel := rfl
@[simp] theorem State.modCa_fresh (s : State) (p : Nat) (f : CaPort → CaPort) : (s.modCa p f).fresh = s.fresh := rfl
@[simp] theorem State.modCa_out (s : State) (p : Nat) (f : CaPort → CaPort) : (s.modCa p f).out = s.out := rfl
@[simp] theorem State.modCa_pending (s : State) (p : Nat) (f : CaPort → CaPort) : (s.modCa p f).pending = s.pending := rfl

@[simp] theorem State.modMp_gh (s : State) (p : Nat) (f : MemPort → MemPort) : (s.modMp p f).gh = s.gh := rfl
@[simp] theorem State.modMp_inst (s : State) (p : Nat) (f : MemPort → MemPort) : (s.modMp p f).inst = s.inst := rfl
@[simp] theorem State.modMp_tmcap (s : State) (p : Nat) (f : MemPort → MemPort) : (s.modMp p f).tmcap = s.tmcap := rfl
@[simp] theorem State.modMp_time (s : State) (p : Nat) (f : MemPort → MemPort) : (s.modMp p f).time = s.time := rfl
@[simp] theorem State.modMp_rst (s : State) (p : Nat) (f : MemPort → MemPort) : (s.modMp p f).rst = s.rst := rfl
@[simp] theorem State.modMp_err (s : State) (p : Nat) (f : MemPort → MemPort) : (s.modMp p f).err = s.err := rfl
@[simp] theorem State.modMp_hub (s : State) (p : Nat) (f : MemPort → MemPort) : (s.modMp p f).hub = s.hub := rfl
@[simp] theorem State.modMp_map (s : State) (p : Nat) (f : MemPort → MemPort) : (s.modMp p f).map = s.map := rfl
@[simp] theorem State.modMp_prot (s : State) (p : Nat) (f : MemPort → MemPort) : (s.modMp p f).prot = s.prot := rfl
@[simp] theorem State.modMp_pol (s : State) (p : Nat) (f : MemPort → MemPort) : (s.modMp p f).pol = s.pol := rfl
@[simp] theorem State.modMp_pkg (s : State) (p : Nat) (f : MemPort → MemPort) : (s.modMp p f).pkg = s.pkg := rfl
@[simp] theorem State.modMp_mesh (s : State) (p : Nat) (f : MemPort → MemPort) : (s.modMp p f).mesh = s.mesh := rfl
@[simp] theorem State.modMp_slices (s : State) (p : Nat) (f : MemPort → MemPort) : (s.modMp p f).slices = s.slices := rfl
@[simp] theorem State.modMp_cas (s : State) (p : Nat) (f : MemPort → MemPort) : (s.modMp p f).cas = s.cas := rfl
@[simp] theorem State.modMp_rdg (s : State) (p : Nat) (f : MemPort → MemPort) : (s.modMp p f).rdg = s.rdg := rfl
@[simp] theorem State.modMp_tdo (s : State) (p : Nat) (f : MemPort → MemPort) : (s.modMp p f).tdo = s.tdo := rfl
@[simp] theorem State.modMp_tapSel (s : State) (p : Nat) (f : MemPort → MemPort) : (s.modMp p f).tapSel = s.tapSel := rfl
@[simp] theorem State.modMp_fresh (s : State) (p : Nat) (f : MemPort → MemPort) : (s.modMp p f).fresh = s.fresh := rfl
@[simp] theorem State.modMp_out (s : State) (p : Nat) (f : MemPort → MemPort) : (s.modMp p f).out = s.out := rfl
@[simp] theorem State.modMp_pending (s : State) (p : Nat) (f : MemPort → MemPort) : (s.modMp p f).pending = s.pending := rfl

@[simp] theorem State.modLink_gh (s : State) (r : Nat) (f : Ridge → Ridge) : (s.modLink r f).gh = s.gh := rfl
@[simp] theorem State.modLink_inst (s : State) (r : Nat) (f : Ridge → Ridge) : (s.modLink r f).inst = s.inst := rfl
@[simp] theorem State.modLink_tmcap (s : State) (r : Nat) (f : Ridge → Ridge) : (s.modLink r f).tmcap = s.tmcap := rfl
@[simp] theorem State.modLink_time (s : State) (r : Nat) (f : Ridge → Ridge) : (s.modLink r f).time = s.time := rfl
@[simp] theorem State.modLink_rst (s : State) (r : Nat) (f : Ridge → Ridge) : (s.modLink r f).rst = s.rst := rfl
@[simp] theorem State.modLink_err (s : State) (r : Nat) (f : Ridge → Ridge) : (s.modLink r f).err = s.err := rfl
@[simp] theorem State.modLink_hub (s : State) (r : Nat) (f : Ridge → Ridge) : (s.modLink r f).hub = s.hub := rfl
@[simp] theorem State.modLink_map (s : State) (r : Nat) (f : Ridge → Ridge) : (s.modLink r f).map = s.map := rfl
@[simp] theorem State.modLink_prot (s : State) (r : Nat) (f : Ridge → Ridge) : (s.modLink r f).prot = s.prot := rfl
@[simp] theorem State.modLink_pol (s : State) (r : Nat) (f : Ridge → Ridge) : (s.modLink r f).pol = s.pol := rfl
@[simp] theorem State.modLink_pkg (s : State) (r : Nat) (f : Ridge → Ridge) : (s.modLink r f).pkg = s.pkg := rfl
@[simp] theorem State.modLink_mesh (s : State) (r : Nat) (f : Ridge → Ridge) : (s.modLink r f).mesh = s.mesh := rfl
@[simp] theorem State.modLink_slices (s : State) (r : Nat) (f : Ridge → Ridge) : (s.modLink r f).slices = s.slices := rfl
@[simp] theorem State.modLink_cas (s : State) (r : Nat) (f : Ridge → Ridge) : (s.modLink r f).cas = s.cas := rfl
@[simp] theorem State.modLink_mps (s : State) (r : Nat) (f : Ridge → Ridge) : (s.modLink r f).mps = s.mps := rfl
@[simp] theorem State.modLink_tdo (s : State) (r : Nat) (f : Ridge → Ridge) : (s.modLink r f).tdo = s.tdo := rfl
@[simp] theorem State.modLink_tapSel (s : State) (r : Nat) (f : Ridge → Ridge) : (s.modLink r f).tapSel = s.tapSel := rfl
@[simp] theorem State.modLink_fresh (s : State) (r : Nat) (f : Ridge → Ridge) : (s.modLink r f).fresh = s.fresh := rfl
@[simp] theorem State.modLink_out (s : State) (r : Nat) (f : Ridge → Ridge) : (s.modLink r f).out = s.out := rfl
@[simp] theorem State.modLink_pending (s : State) (r : Nat) (f : Ridge → Ridge) : (s.modLink r f).pending = s.pending := rfl

@[simp] theorem State.emit_gh (s : State) (o : Out) : (s.emit o).gh = s.gh := rfl
@[simp] theorem State.emit_inst (s : State) (o : Out) : (s.emit o).inst = s.inst := rfl
@[simp] theorem State.emit_tmcap (s : State) (o : Out) : (s.emit o).tmcap = s.tmcap := rfl
@[simp] theorem State.emit_time (s : State) (o : Out) : (s.emit o).time = s.time := rfl
@[simp] theorem State.emit_rst (s : State) (o : Out) : (s.emit o).rst = s.rst := rfl
@[simp] theorem State.emit_err (s : State) (o : Out) : (s.emit o).err = s.err := rfl
@[simp] theorem State.emit_hub (s : State) (o : Out) : (s.emit o).hub = s.hub := rfl
@[simp] theorem State.emit_map (s : State) (o : Out) : (s.emit o).map = s.map := rfl
@[simp] theorem State.emit_prot (s : State) (o : Out) : (s.emit o).prot = s.prot := rfl
@[simp] theorem State.emit_pol (s : State) (o : Out) : (s.emit o).pol = s.pol := rfl
@[simp] theorem State.emit_pkg (s : State) (o : Out) : (s.emit o).pkg = s.pkg := rfl
@[simp] theorem State.emit_mesh (s : State) (o : Out) : (s.emit o).mesh = s.mesh := rfl
@[simp] theorem State.emit_slices (s : State) (o : Out) : (s.emit o).slices = s.slices := rfl
@[simp] theorem State.emit_cas (s : State) (o : Out) : (s.emit o).cas = s.cas := rfl
@[simp] theorem State.emit_mps (s : State) (o : Out) : (s.emit o).mps = s.mps := rfl
@[simp] theorem State.emit_rdg (s : State) (o : Out) : (s.emit o).rdg = s.rdg := rfl
@[simp] theorem State.emit_tdo (s : State) (o : Out) : (s.emit o).tdo = s.tdo := rfl
@[simp] theorem State.emit_tapSel (s : State) (o : Out) : (s.emit o).tapSel = s.tapSel := rfl
@[simp] theorem State.emit_fresh (s : State) (o : Out) : (s.emit o).fresh = s.fresh := rfl
@[simp] theorem State.emit_pending (s : State) (o : Out) : (s.emit o).pending = s.pending := rfl

@[simp] theorem State.inject_gh (s : State) (p : Pkt) : (s.inject p).gh = s.gh := rfl
@[simp] theorem State.inject_inst (s : State) (p : Pkt) : (s.inject p).inst = s.inst := rfl
@[simp] theorem State.inject_tmcap (s : State) (p : Pkt) : (s.inject p).tmcap = s.tmcap := rfl
@[simp] theorem State.inject_time (s : State) (p : Pkt) : (s.inject p).time = s.time := rfl
@[simp] theorem State.inject_rst (s : State) (p : Pkt) : (s.inject p).rst = s.rst := rfl
@[simp] theorem State.inject_err (s : State) (p : Pkt) : (s.inject p).err = s.err := rfl
@[simp] theorem State.inject_hub (s : State) (p : Pkt) : (s.inject p).hub = s.hub := rfl
@[simp] theorem State.inject_map (s : State) (p : Pkt) : (s.inject p).map = s.map := rfl
@[simp] theorem State.inject_prot (s : State) (p : Pkt) : (s.inject p).prot = s.prot := rfl
@[simp] theorem State.inject_pol (s : State) (p : Pkt) : (s.inject p).pol = s.pol := rfl
@[simp] theorem State.inject_pkg (s : State) (p : Pkt) : (s.inject p).pkg = s.pkg := rfl
@[simp] theorem State.inject_slices (s : State) (p : Pkt) : (s.inject p).slices = s.slices := rfl
@[simp] theorem State.inject_cas (s : State) (p : Pkt) : (s.inject p).cas = s.cas := rfl
@[simp] theorem State.inject_mps (s : State) (p : Pkt) : (s.inject p).mps = s.mps := rfl
@[simp] theorem State.inject_rdg (s : State) (p : Pkt) : (s.inject p).rdg = s.rdg := rfl
@[simp] theorem State.inject_tdo (s : State) (p : Pkt) : (s.inject p).tdo = s.tdo := rfl
@[simp] theorem State.inject_tapSel (s : State) (p : Pkt) : (s.inject p).tapSel = s.tapSel := rfl
@[simp] theorem State.inject_fresh (s : State) (p : Pkt) : (s.inject p).fresh = s.fresh := rfl
@[simp] theorem State.inject_out (s : State) (p : Pkt) : (s.inject p).out = s.out := rfl
@[simp] theorem State.inject_pending (s : State) (p : Pkt) : (s.inject p).pending = s.pending := rfl

@[simp] theorem State.dropArrived_gh (s : State) (n p : Nat) (vc : VC) : (s.dropArrived n p vc).gh = s.gh := rfl
@[simp] theorem State.dropArrived_inst (s : State) (n p : Nat) (vc : VC) : (s.dropArrived n p vc).inst = s.inst := rfl
@[simp] theorem State.dropArrived_tmcap (s : State) (n p : Nat) (vc : VC) : (s.dropArrived n p vc).tmcap = s.tmcap := rfl
@[simp] theorem State.dropArrived_time (s : State) (n p : Nat) (vc : VC) : (s.dropArrived n p vc).time = s.time := rfl
@[simp] theorem State.dropArrived_rst (s : State) (n p : Nat) (vc : VC) : (s.dropArrived n p vc).rst = s.rst := rfl
@[simp] theorem State.dropArrived_err (s : State) (n p : Nat) (vc : VC) : (s.dropArrived n p vc).err = s.err := rfl
@[simp] theorem State.dropArrived_hub (s : State) (n p : Nat) (vc : VC) : (s.dropArrived n p vc).hub = s.hub := rfl
@[simp] theorem State.dropArrived_map (s : State) (n p : Nat) (vc : VC) : (s.dropArrived n p vc).map = s.map := rfl
@[simp] theorem State.dropArrived_prot (s : State) (n p : Nat) (vc : VC) : (s.dropArrived n p vc).prot = s.prot := rfl
@[simp] theorem State.dropArrived_pol (s : State) (n p : Nat) (vc : VC) : (s.dropArrived n p vc).pol = s.pol := rfl
@[simp] theorem State.dropArrived_pkg (s : State) (n p : Nat) (vc : VC) : (s.dropArrived n p vc).pkg = s.pkg := rfl
@[simp] theorem State.dropArrived_slices (s : State) (n p : Nat) (vc : VC) : (s.dropArrived n p vc).slices = s.slices := rfl
@[simp] theorem State.dropArrived_cas (s : State) (n p : Nat) (vc : VC) : (s.dropArrived n p vc).cas = s.cas := rfl
@[simp] theorem State.dropArrived_mps (s : State) (n p : Nat) (vc : VC) : (s.dropArrived n p vc).mps = s.mps := rfl
@[simp] theorem State.dropArrived_rdg (s : State) (n p : Nat) (vc : VC) : (s.dropArrived n p vc).rdg = s.rdg := rfl
@[simp] theorem State.dropArrived_tdo (s : State) (n p : Nat) (vc : VC) : (s.dropArrived n p vc).tdo = s.tdo := rfl
@[simp] theorem State.dropArrived_tapSel (s : State) (n p : Nat) (vc : VC) : (s.dropArrived n p vc).tapSel = s.tapSel := rfl
@[simp] theorem State.dropArrived_fresh (s : State) (n p : Nat) (vc : VC) : (s.dropArrived n p vc).fresh = s.fresh := rfl
@[simp] theorem State.dropArrived_out (s : State) (n p : Nat) (vc : VC) : (s.dropArrived n p vc).out = s.out := rfl
@[simp] theorem State.dropArrived_pending (s : State) (n p : Nat) (vc : VC) : (s.dropArrived n p vc).pending = s.pending := rfl

@[simp] theorem State.modCmd_gh (s : State) (c : Nat) (f : Kcp → Kcp) : (s.modCmd c f).gh = s.gh := rfl
@[simp] theorem State.modCmd_inst (s : State) (c : Nat) (f : Kcp → Kcp) : (s.modCmd c f).inst = s.inst := rfl
@[simp] theorem State.modCmd_tmcap (s : State) (c : Nat) (f : Kcp → Kcp) : (s.modCmd c f).tmcap = s.tmcap := rfl
@[simp] theorem State.modCmd_time (s : State) (c : Nat) (f : Kcp → Kcp) : (s.modCmd c f).time = s.time := rfl
@[simp] theorem State.modCmd_rst (s : State) (c : Nat) (f : Kcp → Kcp) : (s.modCmd c f).rst = s.rst := rfl
@[simp] theorem State.modCmd_err (s : State) (c : Nat) (f : Kcp → Kcp) : (s.modCmd c f).err = s.err := rfl
@[simp] theorem State.modCmd_map (s : State) (c : Nat) (f : Kcp → Kcp) : (s.modCmd c f).map = s.map := rfl
@[simp] theorem State.modCmd_prot (s : State) (c : Nat) (f : Kcp → Kcp) : (s.modCmd c f).prot = s.prot := rfl
@[simp] theorem State.modCmd_pol (s : State) (c : Nat) (f : Kcp → Kcp) : (s.modCmd c f).pol = s.pol := rfl
@[simp] theorem State.modCmd_pkg (s : State) (c : Nat) (f : Kcp → Kcp) : (s.modCmd c f).pkg = s.pkg := rfl
@[simp] theorem State.modCmd_mesh (s : State) (c : Nat) (f : Kcp → Kcp) : (s.modCmd c f).mesh = s.mesh := rfl
@[simp] theorem State.modCmd_slices (s : State) (c : Nat) (f : Kcp → Kcp) : (s.modCmd c f).slices = s.slices := rfl
@[simp] theorem State.modCmd_cas (s : State) (c : Nat) (f : Kcp → Kcp) : (s.modCmd c f).cas = s.cas := rfl
@[simp] theorem State.modCmd_mps (s : State) (c : Nat) (f : Kcp → Kcp) : (s.modCmd c f).mps = s.mps := rfl
@[simp] theorem State.modCmd_rdg (s : State) (c : Nat) (f : Kcp → Kcp) : (s.modCmd c f).rdg = s.rdg := rfl
@[simp] theorem State.modCmd_tdo (s : State) (c : Nat) (f : Kcp → Kcp) : (s.modCmd c f).tdo = s.tdo := rfl
@[simp] theorem State.modCmd_tapSel (s : State) (c : Nat) (f : Kcp → Kcp) : (s.modCmd c f).tapSel = s.tapSel := rfl
@[simp] theorem State.modCmd_fresh (s : State) (c : Nat) (f : Kcp → Kcp) : (s.modCmd c f).fresh = s.fresh := rfl
@[simp] theorem State.modCmd_out (s : State) (c : Nat) (f : Kcp → Kcp) : (s.modCmd c f).out = s.out := rfl
@[simp] theorem State.modCmd_pending (s : State) (c : Nat) (f : Kcp → Kcp) : (s.modCmd c f).pending = s.pending := rfl

@[simp] theorem State.startCmd_gh (s : State) (k : Kcp) (f : Kcp → Kcp) : (s.startCmd k f).gh = s.gh := rfl
@[simp] theorem State.startCmd_inst (s : State) (k : Kcp) (f : Kcp → Kcp) : (s.startCmd k f).inst = s.inst := rfl
@[simp] theorem State.startCmd_tmcap (s : State) (k : Kcp) (f : Kcp → Kcp) : (s.startCmd k f).tmcap = s.tmcap := rfl
@[simp] theorem State.startCmd_time (s : State) (k : Kcp) (f : Kcp → Kcp) : (s.startCmd k f).time = s.time := rfl
@[simp] theorem State.startCmd_rst (s : State) (k : Kcp) (f : Kcp → Kcp) : (s.startCmd k f).rst = s.rst := rfl
@[simp] theorem State.startCmd_err (s : State) (k : Kcp) (f : Kcp → Kcp) : (s.startCmd k f).err = s.err := rfl
@[simp] theorem State.startCmd_map (s : State) (k : Kcp) (f : Kcp → Kcp) : (s.startCmd k f).map = s.map := rfl
@[simp] theorem State.startCmd_prot (s : State) (k : Kcp) (f : Kcp → Kcp) : (s.startCmd k f).prot = s.prot := rfl
@[simp] theorem State.startCmd_pol (s : State) (k : Kcp) (f : Kcp → Kcp) : (s.startCmd k f).pol = s.pol := rfl
@[simp] theorem State.startCmd_pkg (s : State) (k : Kcp) (f : Kcp → Kcp) : (s.startCmd k f).pkg = s.pkg := rfl
@[simp] theorem State.startCmd_mesh (s : State) (k : Kcp) (f : Kcp → Kcp) : (s.startCmd k f).mesh = s.mesh := rfl
@[simp] theorem State.startCmd_slices (s : State) (k : Kcp) (f : Kcp → Kcp) : (s.startCmd k f).slices = s.slices := rfl
@[simp] theorem State.startCmd_cas (s : State) (k : Kcp) (f : Kcp → Kcp) : (s.startCmd k f).cas = s.cas := rfl
@[simp] theorem State.startCmd_mps (s : State) (k : Kcp) (f : Kcp → Kcp) : (s.startCmd k f).mps = s.mps := rfl
@[simp] theorem State.startCmd_rdg (s : State) (k : Kcp) (f : Kcp → Kcp) : (s.startCmd k f).rdg = s.rdg := rfl
@[simp] theorem State.startCmd_tdo (s : State) (k : Kcp) (f : Kcp → Kcp) : (s.startCmd k f).tdo = s.tdo := rfl
@[simp] theorem State.startCmd_tapSel (s : State) (k : Kcp) (f : Kcp → Kcp) : (s.startCmd k f).tapSel = s.tapSel := rfl
@[simp] theorem State.startCmd_fresh (s : State) (k : Kcp) (f : Kcp → Kcp) : (s.startCmd k f).fresh = s.fresh := rfl
@[simp] theorem State.startCmd_out (s : State) (k : Kcp) (f : Kcp → Kcp) : (s.startCmd k f).out = s.out := rfl
@[simp] theorem State.startCmd_pending (s : State) (k : Kcp) (f : Kcp → Kcp) : (s.startCmd k f).pending = s.pending := rfl

@[simp] theorem State.modWin_gh (s : State) (w : Window) (f : Win → Win) : (s.modWin w f).gh = s.gh := rfl
@[simp] theorem State.modWin_inst (s : State) (w : Window) (f : Win → Win) : (s.modWin w f).inst = s.inst := rfl
@[simp] theorem State.modWin_tmcap (s : State) (w : Window) (f : Win → Win) : (s.modWin w f).tmcap = s.tmcap := rfl
@[simp] theorem State.modWin_time (s : State) (w : Window) (f : Win → Win) : (s.modWin w f).time = s.time := rfl
@[simp] theorem State.modWin_rst (s : State) (w : Window) (f : Win → Win) : (s.modWin w f).rst = s.rst := rfl
@[simp] theorem State.modWin_err (s : State) (w : Window) (f : Win → Win) : (s.modWin w f).err = s.err := rfl
@[simp] theorem State.modWin_map (s : State) (w : Window) (f : Win → Win) : (s.modWin w f).map = s.map := rfl
@[simp] theorem State.modWin_prot (s : State) (w : Window) (f : Win → Win) : (s.modWin w f).prot = s.prot := rfl
@[simp] theorem State.modWin_pol (s : State) (w : Window) (f : Win → Win) : (s.modWin w f).pol = s.pol := rfl
@[simp] theorem State.modWin_pkg (s : State) (w : Window) (f : Win → Win) : (s.modWin w f).pkg = s.pkg := rfl
@[simp] theorem State.modWin_mesh (s : State) (w : Window) (f : Win → Win) : (s.modWin w f).mesh = s.mesh := rfl
@[simp] theorem State.modWin_slices (s : State) (w : Window) (f : Win → Win) : (s.modWin w f).slices = s.slices := rfl
@[simp] theorem State.modWin_cas (s : State) (w : Window) (f : Win → Win) : (s.modWin w f).cas = s.cas := rfl
@[simp] theorem State.modWin_mps (s : State) (w : Window) (f : Win → Win) : (s.modWin w f).mps = s.mps := rfl
@[simp] theorem State.modWin_rdg (s : State) (w : Window) (f : Win → Win) : (s.modWin w f).rdg = s.rdg := rfl
@[simp] theorem State.modWin_tdo (s : State) (w : Window) (f : Win → Win) : (s.modWin w f).tdo = s.tdo := rfl
@[simp] theorem State.modWin_tapSel (s : State) (w : Window) (f : Win → Win) : (s.modWin w f).tapSel = s.tapSel := rfl
@[simp] theorem State.modWin_fresh (s : State) (w : Window) (f : Win → Win) : (s.modWin w f).fresh = s.fresh := rfl
@[simp] theorem State.modWin_out (s : State) (w : Window) (f : Win → Win) : (s.modWin w f).out = s.out := rfl
@[simp] theorem State.modWin_pending (s : State) (w : Window) (f : Win → Win) : (s.modWin w f).pending = s.pending := rfl

/-! ### What an update wrote -/

@[simp] theorem State.emit_out (s : State) (o : Out) : (s.emit o).out = s.out ++ [o] := rfl


@[simp] theorem State.slice_setSlice (s : State) (k j : Nat) (v : Slice) : (s.setSlice k v).slice j = if j = k then v else s.slice j := by
  simp [State.setSlice, State.slice, tget_tput]

@[simp] theorem State.slice_modSlice (s : State) (k j : Nat) (f : Slice → Slice) :
    (s.modSlice k f).slice j = if j = k then f (s.slice k) else s.slice j := by
  simp [State.modSlice]

@[simp] theorem State.setSlice_frame (s : State) (k : Nat) (v : Slice) : ({ s.setSlice k v with slices := s.slices } : State) = s := rfl

@[simp] theorem State.ca_setCa (s : State) (p j : Nat) (v : CaPort) : (s.setCa p v).ca j = if j = p then v else s.ca j := by
  simp [State.setCa, State.ca, tget_tput]

@[simp] theorem State.ca_modCa (s : State) (p j : Nat) (f : CaPort → CaPort) :
    (s.modCa p f).ca j = if j = p then f (s.ca p) else s.ca j := by
  simp [State.modCa]

@[simp] theorem State.setCa_frame (s : State) (p : Nat) (v : CaPort) : ({ s.setCa p v with cas := s.cas } : State) = s := rfl

@[simp] theorem State.mp_setMp (s : State) (p j : Nat) (v : MemPort) : (s.setMp p v).mp j = if j = p then v else s.mp j := by
  simp [State.setMp, State.mp, tget_tput]

@[simp] theorem State.mp_modMp (s : State) (p j : Nat) (f : MemPort → MemPort) :
    (s.modMp p f).mp j = if j = p then f (s.mp p) else s.mp j := by
  simp [State.modMp]

@[simp] theorem State.setMp_frame (s : State) (p : Nat) (v : MemPort) : ({ s.setMp p v with mps := s.mps } : State) = s := rfl

@[simp] theorem State.link_setLink (s : State) (r j : Nat) (v : Ridge) : (s.setLink r v).link j = if j = r then v else s.link j := by
  simp [State.setLink, State.link, tget_tput]

@[simp] theorem State.link_modLink (s : State) (r j : Nat) (f : Ridge → Ridge) :
    (s.modLink r f).link j = if j = r then f (s.link r) else s.link j := by
  simp [State.modLink]

@[simp] theorem State.setLink_frame (s : State) (r : Nat) (v : Ridge) : ({ s.setLink r v with rdg := s.rdg } : State) = s := rfl

@[simp] theorem State.ca_setSlice (s : State) (k : Nat) (v : Slice) (j : Nat) : (s.setSlice k v).ca j = s.ca j := rfl
@[simp] theorem State.mp_setSlice (s : State) (k : Nat) (v : Slice) (j : Nat) : (s.setSlice k v).mp j = s.mp j := rfl
@[simp] theorem State.link_setSlice (s : State) (k : Nat) (v : Slice) (j : Nat) : (s.setSlice k v).link j = s.link j := rfl
@[simp] theorem State.slice_setCa (s : State) (p : Nat) (v : CaPort) (j : Nat) : (s.setCa p v).slice j = s.slice j := rfl
@[simp] theorem State.mp_setCa (s : State) (p : Nat) (v : CaPort) (j : Nat) : (s.setCa p v).mp j = s.mp j := rfl
@[simp] theorem State.link_setCa (s : State) (p : Nat) (v : CaPort) (j : Nat) : (s.setCa p v).link j = s.link j := rfl
@[simp] theorem State.slice_setMp (s : State) (p : Nat) (v : MemPort) (j : Nat) : (s.setMp p v).slice j = s.slice j := rfl
@[simp] theorem State.ca_setMp (s : State) (p : Nat) (v : MemPort) (j : Nat) : (s.setMp p v).ca j = s.ca j := rfl
@[simp] theorem State.link_setMp (s : State) (p : Nat) (v : MemPort) (j : Nat) : (s.setMp p v).link j = s.link j := rfl
@[simp] theorem State.slice_setLink (s : State) (r : Nat) (v : Ridge) (j : Nat) : (s.setLink r v).slice j = s.slice j := rfl
@[simp] theorem State.ca_setLink (s : State) (r : Nat) (v : Ridge) (j : Nat) : (s.setLink r v).ca j = s.ca j := rfl
@[simp] theorem State.mp_setLink (s : State) (r : Nat) (v : Ridge) (j : Nat) : (s.setLink r v).mp j = s.mp j := rfl
@[simp] theorem State.ca_modSlice (s : State) (k : Nat) (f : Slice → Slice) (j : Nat) : (s.modSlice k f).ca j = s.ca j := rfl
@[simp] theorem State.mp_modSlice (s : State) (k : Nat) (f : Slice → Slice) (j : Nat) : (s.modSlice k f).mp j = s.mp j := rfl
@[simp] theorem State.link_modSlice (s : State) (k : Nat) (f : Slice → Slice) (j : Nat) : (s.modSlice k f).link j = s.link j := rfl
@[simp] theorem State.slice_modCa (s : State) (p : Nat) (f : CaPort → CaPort) (j : Nat) : (s.modCa p f).slice j = s.slice j := rfl
@[simp] theorem State.mp_modCa (s : State) (p : Nat) (f : CaPort → CaPort) (j : Nat) : (s.modCa p f).mp j = s.mp j := rfl
@[simp] theorem State.link_modCa (s : State) (p : Nat) (f : CaPort → CaPort) (j : Nat) : (s.modCa p f).link j = s.link j := rfl
@[simp] theorem State.slice_modMp (s : State) (p : Nat) (f : MemPort → MemPort) (j : Nat) : (s.modMp p f).slice j = s.slice j := rfl
@[simp] theorem State.ca_modMp (s : State) (p : Nat) (f : MemPort → MemPort) (j : Nat) : (s.modMp p f).ca j = s.ca j := rfl
@[simp] theorem State.link_modMp (s : State) (p : Nat) (f : MemPort → MemPort) (j : Nat) : (s.modMp p f).link j = s.link j := rfl
@[simp] theorem State.slice_modLink (s : State) (r : Nat) (f : Ridge → Ridge) (j : Nat) : (s.modLink r f).slice j = s.slice j := rfl
@[simp] theorem State.ca_modLink (s : State) (r : Nat) (f : Ridge → Ridge) (j : Nat) : (s.modLink r f).ca j = s.ca j := rfl
@[simp] theorem State.mp_modLink (s : State) (r : Nat) (f : Ridge → Ridge) (j : Nat) : (s.modLink r f).mp j = s.mp j := rfl
@[simp] theorem State.slice_emit (s : State) (o : Out) (j : Nat) : (s.emit o).slice j = s.slice j := rfl
@[simp] theorem State.ca_emit (s : State) (o : Out) (j : Nat) : (s.emit o).ca j = s.ca j := rfl
@[simp] theorem State.mp_emit (s : State) (o : Out) (j : Nat) : (s.emit o).mp j = s.mp j := rfl
@[simp] theorem State.link_emit (s : State) (o : Out) (j : Nat) : (s.emit o).link j = s.link j := rfl
@[simp] theorem State.slice_inject (s : State) (p : Pkt) (j : Nat) : (s.inject p).slice j = s.slice j := rfl
@[simp] theorem State.ca_inject (s : State) (p : Pkt) (j : Nat) : (s.inject p).ca j = s.ca j := rfl
@[simp] theorem State.mp_inject (s : State) (p : Pkt) (j : Nat) : (s.inject p).mp j = s.mp j := rfl
@[simp] theorem State.link_inject (s : State) (p : Pkt) (j : Nat) : (s.inject p).link j = s.link j := rfl
@[simp] theorem State.slice_dropArrived (s : State) (n p : Nat) (vc : VC) (j : Nat) : (s.dropArrived n p vc).slice j = s.slice j := rfl
@[simp] theorem State.ca_dropArrived (s : State) (n p : Nat) (vc : VC) (j : Nat) : (s.dropArrived n p vc).ca j = s.ca j := rfl
@[simp] theorem State.mp_dropArrived (s : State) (n p : Nat) (vc : VC) (j : Nat) : (s.dropArrived n p vc).mp j = s.mp j := rfl
@[simp] theorem State.link_dropArrived (s : State) (n p : Nat) (vc : VC) (j : Nat) : (s.dropArrived n p vc).link j = s.link j := rfl
@[simp] theorem State.slice_modCmd (s : State) (c : Nat) (f : Kcp → Kcp) (j : Nat) : (s.modCmd c f).slice j = s.slice j := rfl
@[simp] theorem State.ca_modCmd (s : State) (c : Nat) (f : Kcp → Kcp) (j : Nat) : (s.modCmd c f).ca j = s.ca j := rfl
@[simp] theorem State.mp_modCmd (s : State) (c : Nat) (f : Kcp → Kcp) (j : Nat) : (s.modCmd c f).mp j = s.mp j := rfl
@[simp] theorem State.link_modCmd (s : State) (c : Nat) (f : Kcp → Kcp) (j : Nat) : (s.modCmd c f).link j = s.link j := rfl
@[simp] theorem State.slice_startCmd (s : State) (k : Kcp) (f : Kcp → Kcp) (j : Nat) : (s.startCmd k f).slice j = s.slice j := rfl
@[simp] theorem State.ca_startCmd (s : State) (k : Kcp) (f : Kcp → Kcp) (j : Nat) : (s.startCmd k f).ca j = s.ca j := rfl
@[simp] theorem State.mp_startCmd (s : State) (k : Kcp) (f : Kcp → Kcp) (j : Nat) : (s.startCmd k f).mp j = s.mp j := rfl
@[simp] theorem State.link_startCmd (s : State) (k : Kcp) (f : Kcp → Kcp) (j : Nat) : (s.startCmd k f).link j = s.link j := rfl
@[simp] theorem State.slice_modWin (s : State) (w : Window) (f : Win → Win) (j : Nat) : (s.modWin w f).slice j = s.slice j := rfl
@[simp] theorem State.ca_modWin (s : State) (w : Window) (f : Win → Win) (j : Nat) : (s.modWin w f).ca j = s.ca j := rfl
@[simp] theorem State.mp_modWin (s : State) (w : Window) (f : Win → Win) (j : Nat) : (s.modWin w f).mp j = s.mp j := rfl
@[simp] theorem State.link_modWin (s : State) (w : Window) (f : Win → Win) (j : Nat) : (s.modWin w f).link j = s.link j := rfl

/-! ### Lists -/

theorem lmodify_of_none {α : Type} (p : α → Bool) (f : α → α) (l : List α) (h : l.any p = false) : lmodify p f l = l := by
  induction l with
  | nil => rfl
  | cons a l ih =>
    rw [List.any_cons, Bool.or_eq_false_iff] at h
    simp [lmodify, h.1, ih h.2]

/-- What holds of a state and is kept by each turn holds after all of them. -/
theorem State.each_induction (P : State → Prop) (l : List Nat) (f : State → Nat → State) (hf : ∀ s k, P s → P (f s k)) (s : State) (h : P s) :
    P (s.each l f) := by
  unfold State.each
  induction l generalizing s with
  | nil => exact h
  | cons a l ih => exact ih _ (hf s a h)

/-! ### The mesh -/

/-- An injected packet is the youngest of its injection buffer; every other buffer stays. -/
theorem State.inject_inBuf (s : State) (p : Pkt) (k : Nat) : tget (fun _ => []) (s.inject p).mesh.inBuf k =
    if k = bufKey p.snode p.sport p.vc then tget (fun _ => []) s.mesh.inBuf k ++ [p] else tget (fun _ => []) s.mesh.inBuf k := by
  simp only [State.inject, tget_tput]
  split
  · subst_vars; rfl
  · rfl

@[simp] theorem State.inject_eject (s : State) (p : Pkt) : (s.inject p).mesh.eject = s.mesh.eject := rfl

/-! ### Packets of the hub -/

/-- The flits of an MGT or ERR packet change what waits in the mesh alone. -/
theorem State.injectHub_frame (s : State) (vc : VC) (a b : Nat × Nat) (n : Nat) (m : HubMsg) :
    ({ s.injectHub vc a b n m with mesh := s.mesh } : State) = s := by
  unfold State.injectHub
  generalize List.range (n + 1) = l
  suffices h : ∀ (l : List Nat) (t : State), ({ t with mesh := s.mesh } : State) = s →
      ({ l.foldl (fun s i => s.inject { vc := vc, dnode := b.1, dport := b.2, snode := a.1, sport := a.2, head := i == 0, tail := i == n
                                        msg := .hub m }) t with mesh := s.mesh } : State) = s from h l s rfl
  intro l
  induction l with
  | nil => exact fun t h => h
  | cons i l ih => exact fun t h => ih _ h

theorem State.injectHub_eject (s : State) (vc : VC) (a b : Nat × Nat) (n : Nat) (m : HubMsg) :
    (s.injectHub vc a b n m).mesh.eject = s.mesh.eject := by
  unfold State.injectHub
  generalize List.range (n + 1) = l
  induction l generalizing s with
  | nil => rfl
  | cons i l ih => exact ih _

/-- Sending an MGT or ERR packet changes the mesh and uses a free value, nothing else (R264, R268). -/
theorem State.sendHub_frame (s : State) (vc : VC) (a b : Nat × Nat) (m : HubMsg) :
    ({ s.sendHub vc a b m with mesh := s.mesh, fresh := s.fresh } : State) = s :=
  congrArg (fun x : State => ({ x with fresh := s.fresh } : State)) (s.injectHub_frame vc a b s.hubBody m)

/-- It leaves what has arrived at the local ports. -/
@[simp] theorem State.sendHub_eject (s : State) (vc : VC) (a b : Nat × Nat) (m : HubMsg) :
    (s.sendHub vc a b m).mesh.eject = s.mesh.eject := s.injectHub_eject vc a b s.hubBody m

/-- Sending to a hub changes the mesh and what the block has sent, and uses a free value. -/
theorem State.sendMgtFrom_frame (s : State) (a : Nat × Nat) (i : Nat) (m : MgtMsg) :
    ({ s.sendMgtFrom a i m with mesh := s.mesh, fresh := s.fresh, out := s.out } : State) = s := by
  have key (vc : VC) (a b : Nat × Nat) (m : HubMsg) (o : Out) :
      ({ (s.emit o).sendHub vc a b m with mesh := s.mesh, fresh := s.fresh, out := s.out } : State) = s :=
    congrArg (fun x : State => ({ x with out := s.out } : State)) ((s.emit o).sendHub_frame vc a b m)
  unfold State.sendMgtFrom
  dsimp only
  split
  · exact key _ _ _ _ _
  · split
    · rfl
    · exact key _ _ _ _ _

theorem State.sendMgt_frame (s : State) (i : Nat) (m : MgtMsg) :
    ({ s.sendMgt i m with mesh := s.mesh, fresh := s.fresh, out := s.out } : State) = s := s.sendMgtFrom_frame hubAt i m

@[simp] theorem State.sendHub_gh (s : State) (vc : VC) (a b : Nat × Nat) (m : HubMsg) : (s.sendHub vc a b m).gh = s.gh := by
  have h := congrArg State.gh (s.sendHub_frame vc a b m)
  exact h
@[simp] theorem State.sendHub_inst (s : State) (vc : VC) (a b : Nat × Nat) (m : HubMsg) : (s.sendHub vc a b m).inst = s.inst := by
  have h := congrArg State.inst (s.sendHub_frame vc a b m)
  exact h
@[simp] theorem State.sendHub_tmcap (s : State) (vc : VC) (a b : Nat × Nat) (m : HubMsg) : (s.sendHub vc a b m).tmcap = s.tmcap := by
  have h := congrArg State.tmcap (s.sendHub_frame vc a b m)
  exact h
@[simp] theorem State.sendHub_time (s : State) (vc : VC) (a b : Nat × Nat) (m : HubMsg) : (s.sendHub vc a b m).time = s.time := by
  have h := congrArg State.time (s.sendHub_frame vc a b m)
  exact h
@[simp] theorem State.sendHub_rst (s : State) (vc : VC) (a b : Nat × Nat) (m : HubMsg) : (s.sendHub vc a b m).rst = s.rst := by
  have h := congrArg State.rst (s.sendHub_frame vc a b m)
  exact h
@[simp] theorem State.sendHub_err (s : State) (vc : VC) (a b : Nat × Nat) (m : HubMsg) : (s.sendHub vc a b m).err = s.err := by
  have h := congrArg State.err (s.sendHub_frame vc a b m)
  exact h
@[simp] theorem State.sendHub_hub (s : State) (vc : VC) (a b : Nat × Nat) (m : HubMsg) : (s.sendHub vc a b m).hub = s.hub := by
  have h := congrArg State.hub (s.sendHub_frame vc a b m)
  exact h
@[simp] theorem State.sendHub_map (s : State) (vc : VC) (a b : Nat × Nat) (m : HubMsg) : (s.sendHub vc a b m).map = s.map := by
  have h := congrArg State.map (s.sendHub_frame vc a b m)
  exact h
@[simp] theorem State.sendHub_prot (s : State) (vc : VC) (a b : Nat × Nat) (m : HubMsg) : (s.sendHub vc a b m).prot = s.prot := by
  have h := congrArg State.prot (s.sendHub_frame vc a b m)
  exact h
@[simp] theorem State.sendHub_pol (s : State) (vc : VC) (a b : Nat × Nat) (m : HubMsg) : (s.sendHub vc a b m).pol = s.pol := by
  have h := congrArg State.pol (s.sendHub_frame vc a b m)
  exact h
@[simp] theorem State.sendHub_pkg (s : State) (vc : VC) (a b : Nat × Nat) (m : HubMsg) : (s.sendHub vc a b m).pkg = s.pkg := by
  have h := congrArg State.pkg (s.sendHub_frame vc a b m)
  exact h
@[simp] theorem State.sendHub_slices (s : State) (vc : VC) (a b : Nat × Nat) (m : HubMsg) : (s.sendHub vc a b m).slices = s.slices := by
  have h := congrArg State.slices (s.sendHub_frame vc a b m)
  exact h
@[simp] theorem State.sendHub_cas (s : State) (vc : VC) (a b : Nat × Nat) (m : HubMsg) : (s.sendHub vc a b m).cas = s.cas := by
  have h := congrArg State.cas (s.sendHub_frame vc a b m)
  exact h
@[simp] theorem State.sendHub_mps (s : State) (vc : VC) (a b : Nat × Nat) (m : HubMsg) : (s.sendHub vc a b m).mps = s.mps := by
  have h := congrArg State.mps (s.sendHub_frame vc a b m)
  exact h
@[simp] theorem State.sendHub_rdg (s : State) (vc : VC) (a b : Nat × Nat) (m : HubMsg) : (s.sendHub vc a b m).rdg = s.rdg := by
  have h := congrArg State.rdg (s.sendHub_frame vc a b m)
  exact h
@[simp] theorem State.sendHub_tdo (s : State) (vc : VC) (a b : Nat × Nat) (m : HubMsg) : (s.sendHub vc a b m).tdo = s.tdo := by
  have h := congrArg State.tdo (s.sendHub_frame vc a b m)
  exact h
@[simp] theorem State.sendHub_tapSel (s : State) (vc : VC) (a b : Nat × Nat) (m : HubMsg) : (s.sendHub vc a b m).tapSel = s.tapSel := by
  have h := congrArg State.tapSel (s.sendHub_frame vc a b m)
  exact h
@[simp] theorem State.sendHub_out (s : State) (vc : VC) (a b : Nat × Nat) (m : HubMsg) : (s.sendHub vc a b m).out = s.out := by
  have h := congrArg State.out (s.sendHub_frame vc a b m)
  exact h
@[simp] theorem State.sendHub_pending (s : State) (vc : VC) (a b : Nat × Nat) (m : HubMsg) : (s.sendHub vc a b m).pending = s.pending := by
  have h := congrArg State.pending (s.sendHub_frame vc a b m)
  exact h
@[simp] theorem State.slice_sendHub (s : State) (vc : VC) (a b : Nat × Nat) (m : HubMsg) (j : Nat) : (s.sendHub vc a b m).slice j = s.slice j := by
  simp [State.slice]
@[simp] theorem State.ca_sendHub (s : State) (vc : VC) (a b : Nat × Nat) (m : HubMsg) (j : Nat) : (s.sendHub vc a b m).ca j = s.ca j := by
  simp [State.ca]
@[simp] theorem State.mp_sendHub (s : State) (vc : VC) (a b : Nat × Nat) (m : HubMsg) (j : Nat) : (s.sendHub vc a b m).mp j = s.mp j := by
  simp [State.mp]
@[simp] theorem State.link_sendHub (s : State) (vc : VC) (a b : Nat × Nat) (m : HubMsg) (j : Nat) : (s.sendHub vc a b m).link j = s.link j := by
  simp [State.link]

@[simp] theorem State.sendMgt_gh (s : State) (i : Nat) (m : MgtMsg) : (s.sendMgt i m).gh = s.gh := by
  have h := congrArg State.gh (s.sendMgt_frame i m)
  exact h
@[simp] theorem State.sendMgt_inst (s : State) (i : Nat) (m : MgtMsg) : (s.sendMgt i m).inst = s.inst := by
  have h := congrArg State.inst (s.sendMgt_frame i m)
  exact h
@[simp] theorem State.sendMgt_tmcap (s : State) (i : Nat) (m : MgtMsg) : (s.sendMgt i m).tmcap = s.tmcap := by
  have h := congrArg State.tmcap (s.sendMgt_frame i m)
  exact h
@[simp] theorem State.sendMgt_time (s : State) (i : Nat) (m : MgtMsg) : (s.sendMgt i m).time = s.time := by
  have h := congrArg State.time (s.sendMgt_frame i m)
  exact h
@[simp] theorem State.sendMgt_rst (s : State) (i : Nat) (m : MgtMsg) : (s.sendMgt i m).rst = s.rst := by
  have h := congrArg State.rst (s.sendMgt_frame i m)
  exact h
@[simp] theorem State.sendMgt_err (s : State) (i : Nat) (m : MgtMsg) : (s.sendMgt i m).err = s.err := by
  have h := congrArg State.err (s.sendMgt_frame i m)
  exact h
@[simp] theorem State.sendMgt_hub (s : State) (i : Nat) (m : MgtMsg) : (s.sendMgt i m).hub = s.hub := by
  have h := congrArg State.hub (s.sendMgt_frame i m)
  exact h
@[simp] theorem State.sendMgt_map (s : State) (i : Nat) (m : MgtMsg) : (s.sendMgt i m).map = s.map := by
  have h := congrArg State.map (s.sendMgt_frame i m)
  exact h
@[simp] theorem State.sendMgt_prot (s : State) (i : Nat) (m : MgtMsg) : (s.sendMgt i m).prot = s.prot := by
  have h := congrArg State.prot (s.sendMgt_frame i m)
  exact h
@[simp] theorem State.sendMgt_pol (s : State) (i : Nat) (m : MgtMsg) : (s.sendMgt i m).pol = s.pol := by
  have h := congrArg State.pol (s.sendMgt_frame i m)
  exact h
@[simp] theorem State.sendMgt_pkg (s : State) (i : Nat) (m : MgtMsg) : (s.sendMgt i m).pkg = s.pkg := by
  have h := congrArg State.pkg (s.sendMgt_frame i m)
  exact h
@[simp] theorem State.sendMgt_slices (s : State) (i : Nat) (m : MgtMsg) : (s.sendMgt i m).slices = s.slices := by
  have h := congrArg State.slices (s.sendMgt_frame i m)
  exact h
@[simp] theorem State.sendMgt_cas (s : State) (i : Nat) (m : MgtMsg) : (s.sendMgt i m).cas = s.cas := by
  have h := congrArg State.cas (s.sendMgt_frame i m)
  exact h
@[simp] theorem State.sendMgt_mps (s : State) (i : Nat) (m : MgtMsg) : (s.sendMgt i m).mps = s.mps := by
  have h := congrArg State.mps (s.sendMgt_frame i m)
  exact h
@[simp] theorem State.sendMgt_rdg (s : State) (i : Nat) (m : MgtMsg) : (s.sendMgt i m).rdg = s.rdg := by
  have h := congrArg State.rdg (s.sendMgt_frame i m)
  exact h
@[simp] theorem State.sendMgt_tdo (s : State) (i : Nat) (m : MgtMsg) : (s.sendMgt i m).tdo = s.tdo := by
  have h := congrArg State.tdo (s.sendMgt_frame i m)
  exact h
@[simp] theorem State.sendMgt_tapSel (s : State) (i : Nat) (m : MgtMsg) : (s.sendMgt i m).tapSel = s.tapSel := by
  have h := congrArg State.tapSel (s.sendMgt_frame i m)
  exact h
@[simp] theorem State.sendMgt_pending (s : State) (i : Nat) (m : MgtMsg) : (s.sendMgt i m).pending = s.pending := by
  have h := congrArg State.pending (s.sendMgt_frame i m)
  exact h
@[simp] theorem State.slice_sendMgt (s : State) (i : Nat) (m : MgtMsg) (j : Nat) : (s.sendMgt i m).slice j = s.slice j := by
  simp [State.slice]
@[simp] theorem State.ca_sendMgt (s : State) (i : Nat) (m : MgtMsg) (j : Nat) : (s.sendMgt i m).ca j = s.ca j := by
  simp [State.ca]
@[simp] theorem State.mp_sendMgt (s : State) (i : Nat) (m : MgtMsg) (j : Nat) : (s.sendMgt i m).mp j = s.mp j := by
  simp [State.mp]
@[simp] theorem State.link_sendMgt (s : State) (i : Nat) (m : MgtMsg) (j : Nat) : (s.sendMgt i m).link j = s.link j := by
  simp [State.link]

/-! ### The queues of the hub -/

@[simp] theorem HubSt.queue_setQueue (h : HubSt) (p q : QCode) (v : Queue) : (h.setQueue p v).queue q = if q = p then v else h.queue q := by
  cases p <;> cases q <;> rfl

@[simp] theorem HubSt.win_setWin (h : HubSt) (w x : Window) (v : Win) : (h.setWin w v).win x = if x = w then v else h.win x := by
  cases w <;> cases x <;> rfl

@[simp] theorem HubSt.queue_setWin (h : HubSt) (w : Window) (v : Win) (q : QCode) : (h.setWin w v).queue q = h.queue q := by
  cases w <;> cases q <;> rfl

@[simp] theorem HubSt.win_setQueue (h : HubSt) (q : QCode) (v : Queue) (w : Window) : (h.setQueue q v).win w = h.win w := by
  cases q <;> cases w <;> rfl

@[simp] theorem HubSt.setQueue_inProg (h : HubSt) (q : QCode) (v : Queue) : (h.setQueue q v).inProg = h.inProg := by cases q <;> rfl
@[simp] theorem HubSt.setQueue_host (h : HubSt) (q : QCode) (v : Queue) : (h.setQueue q v).host = h.host := by cases q <;> rfl
@[simp] theorem HubSt.setQueue_mgm (h : HubSt) (q : QCode) (v : Queue) : (h.setQueue q v).mgm = h.mgm := by cases q <;> rfl
@[simp] theorem HubSt.setQueue_rebuild (h : HubSt) (q : QCode) (v : Queue) : (h.setQueue q v).rebuild = h.rebuild := by cases q <;> rfl
@[simp] theorem HubSt.setQueue_arr (h : HubSt) (q : QCode) (v : Queue) : (h.setQueue q v).arr = h.arr := by cases q <;> rfl
@[simp] theorem HubSt.queue_arr (h : HubSt) (n : Nat) (q : QCode) : ({ h with arr := n } : HubSt).queue q = h.queue q := by cases q <;> rfl
@[simp] theorem HubSt.queue_inProg (h : HubSt) (l : List Kcp) (q : QCode) : ({ h with inProg := l } : HubSt).queue q = h.queue q := by
  cases q <;> rfl
@[simp] theorem HubSt.queue_cells (h : HubSt) (l : List Nat) (n : Nat) (q : QCode) :
    ({ h with freeCells := l, nextCell := n } : HubSt).queue q = h.queue q := by cases q <;> rfl

/-- Taking a cell changes the free list alone. -/
theorem HubSt.takeCell_frame (h : HubSt) :
    h.takeCell.2 = { h with freeCells := h.takeCell.2.freeCells, nextCell := h.takeCell.2.nextCell } := by
  unfold HubSt.takeCell
  split <;> rfl

/-- Writing words into cells changes the free list alone. -/
theorem HubSt.writeWords_frame (ws : List W64) (h : HubSt) :
    (h.writeWords ws).2 = { h with freeCells := (h.writeWords ws).2.freeCells, nextCell := (h.writeWords ws).2.nextCell } := by
  induction ws generalizing h with
  | nil => rfl
  | cons v l ih =>
    simp only [HubSt.writeWords, HubSt.writeCell]
    rw [ih, HubSt.takeCell_frame]

/-- The cells of a packet hold its words, with their parity and no poison tag (R366). -/
theorem HubSt.writeWords_cells (ws : List W64) (h : HubSt) :
    (h.writeWords ws).1.map (fun c => c.data) = ws ∧ ∀ c ∈ (h.writeWords ws).1, c.ptag = false ∧ c.par = parOf c.data := by
  induction ws generalizing h with
  | nil => simp [HubSt.writeWords]
  | cons v l ih =>
    simp only [HubSt.writeWords, HubSt.writeCell, List.map_cons, ih, true_and, List.mem_cons]
    rintro c (rfl | hc)
    · exact ⟨rfl, rfl⟩
    · exact (ih _).2 c hc

/-- The end mark stands on the last cell of a packet alone (R365). -/
theorem HubSt.writeWords_fin (ws : List W64) (h : HubSt) (v : W64) :
    (h.writeWords (v :: ws)).1.map (fun c => c.fin) = List.replicate ws.length false ++ [true] := by
  induction ws generalizing h v with
  | nil => rfl
  | cons w l ih =>
    have e := ih (h.writeCell v false).2 w
    simp only [HubSt.writeWords, HubSt.writeCell, List.map_cons, List.length_cons, List.replicate_succ, List.cons_append, List.isEmpty_cons] at *
    exact congrArg (List.cons false) e

/-- With the free list intact, and for a reply with room and none before it that waits for room, a packet written into a queue is its
youngest one, and nothing else of the hub but the free list and the count of packets changes (R366, R367, R374). -/
theorem HubSt.writePacket_spec (h : HubSt) (q : QCode) (prio : Nat) (grey : Bool) (ws : List W64) (hr : h.rebuild = none)
    (hq : (isReplyQueue q && (!(h.fits q ws.length) || h.awaits q)) = false) :
    ∃ (p : QPkt) (l : List Nat) (n : Nat), h.writePacket q prio grey ws =
      { (({ h with freeCells := l, nextCell := n } : HubSt).setQueue q { h.queue q with waiting := (h.queue q).waiting ++ [p] }) with arr := h.arr + 1 } ∧
      p.prio = prio ∧ p.grey = grey ∧ p.arr = h.arr ∧ p.cells.map (fun c => c.data) = ws ∧ ∀ c ∈ p.cells, c.ptag = false ∧ c.par = parOf c.data := by
  have e := HubSt.writeWords_frame ws h
  refine ⟨{ prio := prio, arr := h.arr, cells := (h.writeWords ws).1, grey := grey }, (h.writeWords ws).2.freeCells,
    (h.writeWords ws).2.nextCell, ?_, rfl, rfl, rfl, HubSt.writeWords_cells ws h⟩
  simp only [HubSt.writePacket, hr, hq, HubSt.enqueue, Option.isSome_none, Bool.or_false, Bool.false_eq_true, if_false]
  generalize (h.writeWords ws).2.freeCells = l at e
  generalize (h.writeWords ws).2.nextCell = n at e
  rw [e]
  cases q <;> simp [HubSt.setQueue, HubSt.queue, hr]

/-! ### Commands in progress -/

/-- A command's step that is not due changes nothing (log 1). -/
theorem runCmd_of_none {c op : Nat} {form : Kcp → Bool} {f : Kcp → State → State} {s : State} (h : s.newCmd c op = none) : runCmd c op form f s = s := by
  simp [runCmd, h]

theorem runCmd_of_some {c op : Nat} {form : Kcp → Bool} {f : Kcp → State → State} {s : State} {k : Kcp} (h : s.newCmd c op = some k)
    (hf : form k = true) : runCmd c op form f s = f k s := by
  simp [runCmd, h, hf]

theorem runCmd_of_form {c op : Nat} {form : Kcp → Bool} {f : Kcp → State → State} {s : State} {k : Kcp} (h : s.newCmd c op = some k)
    (hf : form k = false) : runCmd c op form f s = s := by
  simp [runCmd, h, hf]

/-- The end of a command changes the hub, and for a command of another instance what is sent (R370, R371, R385). -/
theorem finish_frame (k : Kcp) (st d : Nat) (ws : List W64) (s : State) :
    ({ finish k st d ws s with hub := s.hub, mesh := s.mesh, fresh := s.fresh, out := s.out } : State) = s := by
  unfold finish
  split
  · exact congrArg (fun x : State => ({ x with hub := s.hub } : State)) (State.sendMgt_frame ({ s with hub := _ }) _ _)
  · rfl

theorem finish_local {k : Kcp} (h : k.remote = none) (st d : Nat) (ws : List W64) (s : State) :
    ({ finish k st d ws s with hub := s.hub } : State) = s := by
  simp [finish, h]

/-- Ending a command that is not in progress changes nothing. -/
@[simp] theorem State.endCmd_none (s : State) (st d : Nat) (ws : List W64) : s.endCmd none st d ws = s := rfl

theorem State.endCmd_frame (s : State) (c : Option Nat) (st d : Nat) (ws : List W64) :
    ({ s.endCmd c st d ws with hub := s.hub, mesh := s.mesh, fresh := s.fresh, out := s.out } : State) = s := by
  unfold State.endCmd
  split
  · rfl
  · split
    · rfl
    · exact finish_frame _ _ _ _ _

end Sys2Proof.Machine
end

