-- ==== Sys2Proof/Laws/Ops.lean ====
section
/-! SUPPORT. Sys2Proof/Laws/Ops.lean: for each shared operation over errors, arrays, credits and memory commands, one lemma that says
what it can change, and for the arrays what a read gives after a write. -/

namespace Sys2Proof.Machine

/-! ### Events and errors: only the hub and the error reporting change -/

theorem admitEvent_frame (ev : Ev) (s : State) : ({ admitEvent ev s with hub := s.hub, err := s.err } : State) = s := by
  unfold admitEvent
  dsimp only
  split <;> split <;> rfl

/-- An event packet keeps the capture, the pin and the counts. -/
theorem dropEvents_ferr (e : ErrSt) (n : Nat) : (e.dropEvents n).ferr = e.ferr ∧ (e.dropEvents n).pin = e.pin ∧ (e.dropEvents n).counts = e.counts ∧
    (e.dropEvents n).lost = e.lost := by
  unfold ErrSt.dropEvents
  split <;> exact ⟨rfl, rfl, rfl, rfl⟩

theorem capture_frame (ev : Ev) (s : State) : ({ capture ev s with err := s.err } : State) = s := rfl

theorem raisePin_frame (s : State) : ({ raisePin s with err := s.err } : State) = s := rfl

theorem errorReaction_frame (ev : Ev) (s : State) : ({ errorReaction ev s with err := s.err } : State) = s := by
  unfold errorReaction
  dsimp only
  split
  · rfl
  · split <;> rfl

/-- A grey event reaches neither the capture nor the pin (R448, R450). -/
theorem errorReaction_grey {ev : Ev} {s : State} (h : s.sevOf ev.src = 0) : errorReaction ev s = s := by simp [errorReaction, h]

/-- An error report changes the mesh and uses a free value, nothing else (R264, R268). -/
theorem sendReport_frame (ev : Ev) (s : State) : ({ sendReport ev s with mesh := s.mesh, fresh := s.fresh } : State) = s := by
  unfold sendReport
  split
  · exact s.sendHub_frame ..
  · rfl

/-- An event changes the hub and the error reporting, and its report travels in the mesh; nothing else changes (R445). -/
theorem raise_frame (ev : Ev) (s : State) :
    ({ raise ev s with hub := s.hub, err := s.err, mesh := s.mesh, fresh := s.fresh } : State) = s := by
  have a := admitEvent_frame ev s
  have b := errorReaction_frame ev { admitEvent ev s with err := countEvent ev.src (admitEvent ev s).err }
  have c := sendReport_frame ev (errorReaction ev { admitEvent ev s with err := countEvent ev.src (admitEvent ev s).err })
  unfold raise
  rw [State.mk.injEq] at a b c ⊢
  simp_all

theorem raiseAll_frame (evs : List Ev) (s : State) :
    ({ raiseAll evs s with hub := s.hub, err := s.err, mesh := s.mesh, fresh := s.fresh } : State) = s := by
  unfold raiseAll
  generalize evs.foldl (fun l e => evInsert s e l) [] = l
  suffices h : ∀ (l : List Ev) (t : State), ({ t with hub := s.hub, err := s.err, mesh := s.mesh, fresh := s.fresh } : State) = s →
      ({ l.foldl (fun st e => raise e st) t with hub := s.hub, err := s.err, mesh := s.mesh, fresh := s.fresh } : State) = s from h l s rfl
  intro l
  induction l with
  | nil => exact fun t h => h
  | cons e l ih =>
    intro t h
    refine ih _ ?_
    have a := congrArg (fun x : State => ({ x with hub := s.hub, err := s.err, mesh := s.mesh, fresh := s.fresh } : State)) (raise_frame e t)
    exact a.trans h

/-- A policy event also records the decision (R199, R402). -/
theorem policyEvent_frame (pid code tgt reason old new : Nat) (s : State) :
    ({ policyEvent pid code tgt reason old new s with
      hub := s.hub, err := s.err, mesh := s.mesh, fresh := s.fresh, pol := s.pol } : State) = s := by
  have a (ev : Ev) (t : State) := congrArg (fun x : State =>
    ({ x with hub := s.hub, err := s.err, mesh := s.mesh, fresh := s.fresh, pol := s.pol } : State)) (raise_frame ev t)
  exact (a _ _).trans rfl

@[simp] theorem raiseAll_nil (s : State) : raiseAll [] s = s := rfl

theorem raiseAll_one (ev : Ev) (s : State) : raiseAll [ev] s = raise ev s := rfl

/-! ### Saturating counters -/

theorem satAdd_toNat {w : Nat} (v : BitVec w) (n : Nat) : (satAdd v n).toNat = Nat.min (v.toNat + n) (2 ^ w - 1) := by
  unfold satAdd
  rw [BitVec.toNat_ofNat]
  apply Nat.mod_eq_of_lt
  have : 0 < 2 ^ w := Nat.two_pow_pos w
  have h : Nat.min (v.toNat + n) (2 ^ w - 1) ≤ 2 ^ w - 1 := Nat.min_le_right _ _
  omega

/-! ### The arrays of a slice -/

@[simp] theorem Slice.heal_sf (v : Slice) (a i : Nat) : (v.heal a i).sf = v.sf := rfl
@[simp] theorem Slice.heal_hcTag (v : Slice) (a i : Nat) : (v.heal a i).hcTag = v.hcTag := rfl
@[simp] theorem Slice.heal_hcData (v : Slice) (a i : Nat) : (v.heal a i).hcData = v.hcData := rfl
@[simp] theorem Slice.heal_hcCtl (v : Slice) (a i : Nat) : (v.heal a i).hcCtl = v.hcCtl := rfl
@[simp] theorem Slice.heal_txns (v : Slice) (a i : Nat) : (v.heal a i).txns = v.txns := rfl

theorem sfAddr_inj {set way set' way' : Nat} (h : way < 16) (h' : way' < 16) : sfAddr set' way' = sfAddr set way ↔ set' = set ∧ way' = way := by
  unfold sfAddr
  constructor
  · intro e
    omega
  · rintro ⟨rfl, rfl⟩
    rfl

/-- A snoop-filter way after a write (R135). -/
theorem Slice.sfAt_setSf (v : Slice) (set way : Nat) (e : SfEnt) (set' way' : Nat) :
    (v.setSf set way e).sfAt set' way' = if sfAddr set' way' = sfAddr set way then e else v.sfAt set' way' := by
  simp [Slice.sfAt, Slice.setSf, tget_tset]

@[simp] theorem Slice.sfAt_setSf_self (v : Slice) (set way : Nat) (e : SfEnt) : (v.setSf set way e).sfAt set way = e := by
  simp [Slice.sfAt_setSf]

theorem Slice.tagAt_setTag (v : Slice) (set slot : Nat) (t : HcTag) (set' slot' : Nat) :
    (v.setTag set slot t).tagAt set' slot' = if tagAddr set' slot' = tagAddr set slot then t else v.tagAt set' slot' := by
  simp [Slice.tagAt, Slice.setTag, tget_tset]

theorem Slice.dataAt_setData (v : Slice) (set way i : Nat) (w : W64) (set' way' i' : Nat) :
    (v.setData set way i w).dataAt set' way' i' = if dataAddr set' way' i' = dataAddr set way i then w else v.dataAt set' way' i' := by
  simp [Slice.dataAt, Slice.setData, tget_tset]

theorem Slice.ctlAt_setCtl (v : Slice) (set : Nat) (c : HcCtl) (set' : Nat) : (v.setCtl set c).ctlAt set' = if set' = set then c else v.ctlAt set' := by
  simp [Slice.ctlAt, Slice.setCtl, tget_tset]

@[simp] theorem Slice.setSf_hcTag (v : Slice) (set way : Nat) (e : SfEnt) : (v.setSf set way e).hcTag = v.hcTag := rfl
@[simp] theorem Slice.setTag_sf (v : Slice) (set slot : Nat) (t : HcTag) : (v.setTag set slot t).sf = v.sf := rfl
@[simp] theorem Slice.setCtl_hcTag (v : Slice) (set : Nat) (c : HcCtl) : (v.setCtl set c).hcTag = v.hcTag := rfl
@[simp] theorem Slice.setCtl_sf (v : Slice) (set : Nat) (c : HcCtl) : (v.setCtl set c).sf = v.sf := rfl

/-! ### Transactions -/

theorem State.modTxn_txns (s : State) (k e : Nat) (f : Txn → Txn) (j : Nat) : ((s.modTxn k e f).slice j).txns =
    if j = k then lmodify (fun x => x.e == e) f (s.slice k).txns else (s.slice j).txns := by
  unfold State.modTxn
  rw [State.slice_modSlice]
  split <;> rfl

theorem State.modTxn_frame (s : State) (k e : Nat) (f : Txn → Txn) : ({ s.modTxn k e f with slices := s.slices } : State) = s := rfl

/-! ### Messages: only the mesh changes -/

theorem State.fromSlice_frame (s : State) (k i : Nat) (vc : VC) (gtc : Nat) (m : Msg) : ({ s.fromSlice k i vc gtc m with mesh := s.mesh } : State) = s := rfl
theorem State.toSlice_frame (s : State) (i k : Nat) (vc : VC) (gtc : Nat) (m : Msg) : ({ s.toSlice i k vc gtc m with mesh := s.mesh } : State) = s := rfl
theorem State.sliceToSlice_frame (s : State) (k j : Nat) (vc : VC) (m : Msg) : ({ s.sliceToSlice k j vc m with mesh := s.mesh } : State) = s := rfl
theorem sendCredit_frame (k i : Nat) (c : CredKind) (s : State) : ({ sendCredit k i c s with mesh := s.mesh } : State) = s := rfl

@[simp] theorem State.slice_fromSlice (s : State) (k i : Nat) (vc : VC) (gtc : Nat) (m : Msg) (j : Nat) : (s.fromSlice k i vc gtc m).slice j = s.slice j := rfl
@[simp] theorem State.slice_sliceToSlice (s : State) (k i : Nat) (vc : VC) (m : Msg) (j : Nat) : (s.sliceToSlice k i vc m).slice j = s.slice j := rfl
@[simp] theorem slice_sendCredit (k i : Nat) (c : CredKind) (s : State) (j : Nat) : (sendCredit k i c s).slice j = s.slice j := rfl

/-! ### Credits: only the pools of the slice and the mesh change -/

theorem Pool.of_add (p : Pool) (i j : Nat) : (p.add i).of j = if j = i then p.of i + 1 else p.of j := by
  simp [Pool.of, Pool.add, tget_tput]

theorem Pool.of_sub (p : Pool) (i j : Nat) : (p.sub i).of j = if j = i then p.of i - 1 else p.of j := by
  simp [Pool.of, Pool.sub, tget_tput]

/-- Everything but the mesh, and but the two pools of slice `k`. -/
def GrantKeeps (k : Nat) (s t : State) : Prop :=
  ({ t with slices := s.slices, mesh := s.mesh } : State) = s ∧ t.mesh.eject = s.mesh.eject ∧
  ∀ j, { t.slice j with shared := (s.slice j).shared, grants := (s.slice j).grants } = s.slice j ∧ (j ≠ k → t.slice j = s.slice j)

theorem GrantKeeps.refl (k : Nat) (s : State) : GrantKeeps k s s := ⟨rfl, rfl, fun _ => ⟨rfl, fun _ => rfl⟩⟩

theorem GrantKeeps.trans {k : Nat} {s t u : State} (h : GrantKeeps k s t) (g : GrantKeeps k t u) : GrantKeeps k s u := by
  refine ⟨?_, g.2.1.trans h.2.1, fun j => ⟨?_, fun hj => (((g.2.2 j).2 hj).trans ((h.2.2 j).2 hj))⟩⟩
  · have a := congrArg (fun x : State => ({ x with slices := s.slices, mesh := s.mesh } : State)) g.1
    exact a.trans h.1
  · have a := congrArg (fun v : Slice => ({ v with shared := (s.slice j).shared, grants := (s.slice j).grants } : Slice)) (g.2.2 j).1
    exact a.trans (h.2.2 j).1

theorem grant_one (k i : Nat) (c : CredKind) (f : Slice → Slice)
    (hf : ∀ v : Slice, ∀ a b, ({ f v with shared := a, grants := b } : Slice) = { v with shared := a, grants := b }) (s : State) :
    GrantKeeps k s (sendCredit k i c (s.modSlice k f)) := by
  refine ⟨rfl, rfl, fun j => ?_⟩
  rw [slice_sendCredit, State.slice_modSlice]
  split
  · rename_i h
    subst h
    exact ⟨hf _ _ _, fun h => absurd rfl h⟩
  · exact ⟨rfl, fun _ => rfl⟩

theorem grantShared_only (k n : Nat) (s : State) : GrantKeeps k s (grantShared k n s) := by
  induction n generalizing s with
  | zero => exact GrantKeeps.refl k s
  | succ n ih =>
    unfold grantShared
    dsimp only
    split
    · split
      · exact GrantKeeps.refl k s
      · refine GrantKeeps.trans (grant_one k _ _ _ ?_ s) (ih _)
        intro v a b
        rfl
    · exact GrantKeeps.refl k s

theorem grantData_only (k n : Nat) (s : State) : GrantKeeps k s (grantData k n s) := by
  induction n generalizing s with
  | zero => exact GrantKeeps.refl k s
  | succ n ih =>
    unfold grantData
    dsimp only
    split
    · split
      · exact GrantKeeps.refl k s
      · refine GrantKeeps.trans (grant_one k _ _ _ ?_ s) (ih _)
        intro v a b
        rfl
    · exact GrantKeeps.refl k s

/-- What the ingress points report changes the flags of the two pools alone. -/
theorem noteDemand_only (k : Nat) (s : State) : GrantKeeps k s (noteDemand k s) := by
  refine ⟨rfl, rfl, fun j => ?_⟩
  unfold noteDemand
  rw [State.slice_modSlice]
  split
  · rename_i h
    subst h
    exact ⟨rfl, fun h => absurd rfl h⟩
  · exact ⟨rfl, fun _ => rfl⟩

/-- The grant procedures of a slice change its two pools and what is on its way, nothing else (R249). -/
theorem grantRun_only (k : Nat) (s : State) : GrantKeeps k s (grantRun k s) := by
  unfold grantRun
  split
  · exact ((noteDemand_only k s).trans (grantShared_only k _ _)).trans (grantData_only k _ _)
  · exact GrantKeeps.refl k s

/-! ### Memory commands: only the memory ports, and the counters of the slice, change -/

theorem State.memQueue_frame (s : State) (c : MemCmd) : ({ s.memQueue c with mps := s.mps } : State) = s := rfl

theorem memWrite_frame (k : Nat) (o : MemFor) (l : LAddr) (d : Line) (p : Bool) (s : State) :
    ({ memWrite k o l d p s with mps := s.mps, slices := s.slices } : State) = s := rfl

theorem memWriteP_frame (k : Nat) (o : MemFor) (l : LAddr) (d : Line) (be : BitVec 64) (s : State) :
    ({ memWriteP k o l d be s with mps := s.mps, slices := s.slices } : State) = s := rfl

theorem memRead_frame (k e : Nat) (l : LAddr) (ci : BitVec 2) (sp : Bool) (s : State) :
    ({ memRead k e l ci sp s with mps := s.mps, slices := s.slices } : State) = s := rfl

end Sys2Proof.Machine
end

