-- ==== Sys2Proof/Laws/Keeps.lean ====
section
/-! SUPPORT. Sys2Proof/Laws/Keeps.lean: what every command keeps, but for the two resets: the queue of waiting commands, the configuration, the loss
of the instance (R451), and the canonical form of the stored data. Here are the relation and its rules for the updates of the state; the
files Laws/Keeps*.lean apply them to every operation of the model. -/

namespace Sys2Proof.Machine

/-- What every command but a reset keeps from `s` to `t`. -/
structure Keeps (s t : State) : Prop where
  pending : t.pending = s.pending
  gh : t.gh = s.gh
  lost : s.err.lost = true → t.err.lost = true
  wf : s.wf = true → t.wf = true

/-- A slice whose arrays are in canonical form when the state `s` is well formed. -/
structure WArr (s : State) (v : Slice) : Prop where
  wf : s.wf = true → v.arraysWf = true

/-- A command ends in a state that keeps what every command keeps, or stops. -/
structure OutKeeps (s : State) (o : Host.Outcome State Fault Refusal) : Prop where
  keeps : ∀ t, o = .next t → Keeps s t

theorem OutKeeps.next {s t : State} (h : Keeps s t) : OutKeeps s (.next t) := ⟨by rintro _ ⟨⟩; exact h⟩
theorem OutKeeps.fault (s : State) (r : Fault) : OutKeeps s (.fault r) := ⟨by rintro _ ⟨⟩⟩
theorem OutKeeps.refused (s : State) (r : Refusal) : OutKeeps s (.refused r) := ⟨by rintro _ ⟨⟩⟩

namespace Keeps

variable {s₀ s : State}

theorem refl (s : State) : Keeps s s := ⟨rfl, rfl, id, id⟩

theorem trans {s t u : State} (h : Keeps s t) (k : Keeps t u) : Keeps s u :=
  ⟨k.pending.trans h.pending, k.gh.trans h.gh, k.lost ∘ h.lost, k.wf ∘ h.wf⟩

/-- An update of any fields but the queue, the configuration and the tables of the units. -/
theorem upd (h : Keeps s₀ s)
    {x_inst x_tmcap x_time x_rst x_err x_hub x_map x_prot x_pol x_pkg x_mesh x_tdo x_tapSel x_fresh x_out}
    (he : s.err.lost = true → x_err.lost = true) (hm : s.map.wf = true → x_map.wf = true) :
    Keeps s₀ (State.mk
    s.gh x_inst x_tmcap x_time x_rst x_err x_hub x_map x_prot x_pol x_pkg x_mesh s.slices s.cas s.mps s.rdg x_tdo x_tapSel
    x_fresh x_out s.pending) := by
  refine ⟨h.pending, h.gh, fun h0 => he (h.lost h0), fun h0 => ?_⟩
  have hw := h.wf h0
  simp only [State.wf, Bool.and_eq_true] at hw ⊢
  exact ⟨hw.1, hm hw.2⟩

theorem wf_iff (s : State) : s.wf = true ↔ Sorted s.slices = true ∧ s.slices.all (fun x => x.2.arraysWf) = true ∧ Sorted s.cas = true ∧
    Sorted s.mps = true ∧ Sorted s.rdg = true ∧ s.map.wf = true := by simp [State.wf, and_assoc]

theorem setSlice {k : Nat} {v : Slice} (h : Keeps s₀ s) (hv : WArr s₀ v) : Keeps s₀ (s.setSlice k v) := by
  refine ⟨h.pending, h.gh, h.lost, fun h0 => ?_⟩
  have hw := (wf_iff s).mp (h.wf h0)
  exact (wf_iff _).mpr ⟨sorted_tput k v hw.1, all_tput (hv.wf h0) hw.2.1, hw.2.2⟩

theorem setCa {p : Nat} {v : CaPort} (h : Keeps s₀ s) : Keeps s₀ (s.setCa p v) := by
  refine ⟨h.pending, h.gh, h.lost, fun h0 => ?_⟩
  have hw := (wf_iff s).mp (h.wf h0)
  exact (wf_iff _).mpr ⟨hw.1, hw.2.1, sorted_tput p v hw.2.2.1, hw.2.2.2⟩

theorem setMp {p : Nat} {v : MemPort} (h : Keeps s₀ s) : Keeps s₀ (s.setMp p v) := by
  refine ⟨h.pending, h.gh, h.lost, fun h0 => ?_⟩
  have hw := (wf_iff s).mp (h.wf h0)
  exact (wf_iff _).mpr ⟨hw.1, hw.2.1, hw.2.2.1, sorted_tput p v hw.2.2.2.1, hw.2.2.2.2⟩

theorem setLink {p : Nat} {v : Ridge} (h : Keeps s₀ s) : Keeps s₀ (s.setLink p v) := by
  refine ⟨h.pending, h.gh, h.lost, fun h0 => ?_⟩
  have hw := (wf_iff s).mp (h.wf h0)
  exact (wf_iff _).mpr ⟨hw.1, hw.2.1, hw.2.2.1, hw.2.2.2.1, sorted_tput p v hw.2.2.2.2.1, hw.2.2.2.2.2⟩

theorem modCa {p : Nat} {f : CaPort → CaPort} (h : Keeps s₀ s) : Keeps s₀ (s.modCa p f) := setCa h
theorem modMp {p : Nat} {f : MemPort → MemPort} (h : Keeps s₀ s) : Keeps s₀ (s.modMp p f) := setMp h
theorem modLink {p : Nat} {f : Ridge → Ridge} (h : Keeps s₀ s) : Keeps s₀ (s.modLink p f) := setLink h

theorem foldl {β : Type} {l : List β} {f : State → β → State} (h : Keeps s₀ s) (hf : ∀ s x, Keeps s₀ s → Keeps s₀ (f s x)) :
    Keeps s₀ (l.foldl f s) := by
  induction l generalizing s with
  | nil => exact h
  | cons a l ih => exact ih (hf s a h)

theorem each {l : List Nat} {f : State → Nat → State} (h : Keeps s₀ s) (hf : ∀ s x, Keeps s₀ s → Keeps s₀ (f s x)) :
    Keeps s₀ (s.each l f) := foldl h hf

end Keeps

namespace WArr

variable {s₀ s : State} {v : Slice}

theorem init (k : Nat) : WArr s₀ (Slice.init k) := ⟨fun _ => rfl⟩

theorem slice {k : Nat} (h : Keeps s₀ s) : WArr s₀ (s.slice k) := by
  refine ⟨fun h0 => ?_⟩
  have hw := ((Keeps.wf_iff s).mp (h.wf h0)).2.1
  rw [List.all_eq_true] at hw
  have key : ∀ t : Tbl Slice, (∀ x ∈ t, x.2.arraysWf = true) → (tget Slice.init t k).arraysWf = true := by
    intro t
    induction t with
    | nil => intro _; rfl
    | cons p t ih =>
      intro ht
      obtain ⟨a, x⟩ := p
      rw [tget]
      split
      · exact ht (a, x) (by simp)
      · exact ih (fun y hy => ht y (List.mem_cons_of_mem _ hy))
  exact key s.slices hw

/-- An update of any fields but the arrays. -/
theorem upd (h : WArr s₀ v)
    {x_st x_wrapper x_clamped x_segTick x_since x_bank x_hcinit x_wt226 x_wtScan x_lfsr x_lfsrRun x_walkPos x_walkFrom x_thr
    x_thrPin x_thrMin x_thrMax x_thrHist x_sfNru x_sfRot x_sfParity x_refresh x_errs x_remaps x_hist x_remapFull x_txns
    x_deferred x_victims x_thru x_nextWr x_nextArr x_bufUsed x_shared x_grants x_snpCred x_calib x_snap x_recent x_sfInt x_sfPos
    x_sfDue x_hcInt x_hcPos x_hcDue x_sfWait x_hcWait x_genSweep x_genAt x_partSweep x_ucVer x_ucSwitch x_perf x_slots x_discards
    x_salv x_exitSets x_marks x_markCred x_copyIn x_wdat} :
    WArr s₀ (Slice.mk
    x_st x_wrapper x_clamped x_segTick x_since x_bank x_hcinit x_wt226 x_wtScan x_lfsr x_lfsrRun x_walkPos x_walkFrom x_thr
    x_thrPin x_thrMin x_thrMax x_thrHist v.sf x_sfNru x_sfRot x_sfParity v.hcTag v.hcData v.hcCtl v.mirror x_refresh x_errs
    x_remaps x_hist x_remapFull x_txns x_deferred x_victims x_thru x_nextWr x_nextArr x_bufUsed x_shared x_grants x_snpCred
    x_calib x_snap x_recent x_sfInt x_sfPos x_sfDue x_hcInt x_hcPos x_hcDue x_sfWait x_hcWait x_genSweep x_genAt x_partSweep
    x_ucVer x_ucSwitch x_perf x_slots x_discards x_salv x_exitSets x_marks x_markCred x_copyIn x_wdat) := ⟨h.wf⟩

/-- A slice put together of arrays in canonical form. -/
theorem ofArrays
    {x_st x_wrapper x_clamped x_segTick x_since x_bank x_hcinit x_wt226 x_wtScan x_lfsr x_lfsrRun x_walkPos x_walkFrom x_thr
    x_thrPin x_thrMin x_thrMax x_thrHist x_sf x_sfNru x_sfRot x_sfParity x_hcTag x_hcData x_hcCtl x_mirror x_refresh x_errs
    x_remaps x_hist x_remapFull x_txns x_deferred x_victims x_thru x_nextWr x_nextArr x_bufUsed x_shared x_grants x_snpCred
    x_calib x_snap x_recent x_sfInt x_sfPos x_sfDue x_hcInt x_hcPos x_hcDue x_sfWait x_hcWait x_genSweep x_genAt x_partSweep
    x_ucVer x_ucSwitch x_perf x_slots x_discards x_salv x_exitSets x_marks x_markCred x_copyIn x_wdat}
    (h1 : s₀.wf = true → Canonical (fun _ => {}) x_sf = true) (h2 : s₀.wf = true → Canonical (fun _ => {}) x_hcTag = true)
    (h3 : s₀.wf = true → Canonical (fun _ => 0) x_hcData = true) (h4 : s₀.wf = true → Canonical (fun _ => {}) x_hcCtl = true)
    (h5 : s₀.wf = true → Canonical (fun _ => {}) x_mirror = true) :
    WArr s₀ (Slice.mk
    x_st x_wrapper x_clamped x_segTick x_since x_bank x_hcinit x_wt226 x_wtScan x_lfsr x_lfsrRun x_walkPos x_walkFrom x_thr
    x_thrPin x_thrMin x_thrMax x_thrHist x_sf x_sfNru x_sfRot x_sfParity x_hcTag x_hcData x_hcCtl x_mirror x_refresh x_errs
    x_remaps x_hist x_remapFull x_txns x_deferred x_victims x_thru x_nextWr x_nextArr x_bufUsed x_shared x_grants x_snpCred
    x_calib x_snap x_recent x_sfInt x_sfPos x_sfDue x_hcInt x_hcPos x_hcDue x_sfWait x_hcWait x_genSweep x_genAt x_partSweep
    x_ucVer x_ucSwitch x_perf x_slots x_discards x_salv x_exitSets x_marks x_markCred x_copyIn x_wdat) := by
  refine ⟨fun h0 => ?_⟩
  simp only [Slice.arraysWf, Bool.and_eq_true]
  exact ⟨⟨⟨⟨h1 h0, h2 h0⟩, h3 h0⟩, h4 h0⟩, h5 h0⟩

theorem parts (h : WArr s₀ v) (h0 : s₀.wf = true) : Canonical (fun _ => {}) v.sf = true ∧ Canonical (fun _ => {}) v.hcTag = true ∧
    Canonical (fun _ => 0) v.hcData = true ∧ Canonical (fun _ => {}) v.hcCtl = true ∧ Canonical (fun _ => {}) v.mirror = true := by
  simpa [Slice.arraysWf, and_assoc] using h.wf h0

theorem foldl {β : Type} {l : List β} {f : Slice → β → Slice} (h : WArr s₀ v) (hf : ∀ v x, WArr s₀ v → WArr s₀ (f v x)) :
    WArr s₀ (l.foldl f v) := by
  induction l generalizing v with
  | nil => exact h
  | cons a l ih => exact ih (hf v a h)

end WArr

theorem Slice.arraysWf_of {v : Slice} (h1 : Canonical (fun _ => {}) v.sf = true) (h2 : Canonical (fun _ => {}) v.hcTag = true)
    (h3 : Canonical (fun _ => 0) v.hcData = true) (h4 : Canonical (fun _ => {}) v.hcCtl = true)
    (h5 : Canonical (fun _ => {}) v.mirror = true) : v.arraysWf = true := by
  simp only [Slice.arraysWf, Bool.and_eq_true]
  exact ⟨⟨⟨⟨h1, h2⟩, h3⟩, h4⟩, h5⟩

theorem Keeps.modSlice {s₀ s : State} {k : Nat} {f : Slice → Slice} (h : Keeps s₀ s) (hf : ∀ v, WArr s₀ v → WArr s₀ (f v)) :
    Keeps s₀ (s.modSlice k f) := h.setSlice (hf _ (WArr.slice h))

end Sys2Proof.Machine
end

