-- ==== Sys2Proof/Laws/KeepsBase.lean ====
section
/-! SUPPORT. Sys2Proof/Laws/KeepsBase.lean: the operations and commands of Machine/Ops.lean, Flags.lean, Command.lean, GenOps.lean, ErrCmd.lean, Hub.lean, Queue.lean, RegWin.lean, Perf.lean keep what every command keeps. -/

namespace Sys2Proof.Machine

/-! ### Machine/Ops.lean -/

theorem State.emit_keeps {o : Out} {s₀ s : State} (hk : Keeps s₀ s) : Keeps s₀ (State.emit s o) := by
  unfold State.emit
  repeat' first
    | with_reducible assumption | exact id | with_reducible apply Keeps.upd

theorem State.used_keeps {s₀ s : State} (hk : Keeps s₀ s) : Keeps s₀ (State.used s) := by
  unfold State.used
  repeat' first
    | with_reducible assumption | exact id | with_reducible apply Keeps.upd

theorem State.inject_keeps {p : Pkt} {s₀ s : State} (hk : Keeps s₀ s) : Keeps s₀ (State.inject s p) := by
  unfold State.inject
  repeat' first
    | with_reducible assumption | exact id | extract_lets | with_reducible apply Keeps.upd

theorem State.fromSlice_keeps {k : Nat} {i : Nat} {vc : VC} {gtc : Nat} {m : Msg} {s₀ s : State} (hk : Keeps s₀ s) :
    Keeps s₀ (State.fromSlice s k i vc gtc m) := by
  unfold State.fromSlice
  repeat' first
    | with_reducible assumption | extract_lets | with_reducible apply State.inject_keeps

theorem State.toSlice_keeps {i : Nat} {k : Nat} {vc : VC} {gtc : Nat} {m : Msg} {s₀ s : State} (hk : Keeps s₀ s) :
    Keeps s₀ (State.toSlice s i k vc gtc m) := by
  unfold State.toSlice
  repeat' first
    | with_reducible assumption | extract_lets | with_reducible apply State.inject_keeps

theorem State.sliceToSlice_keeps {k : Nat} {j : Nat} {vc : VC} {m : Msg} {s₀ s : State} (hk : Keeps s₀ s) :
    Keeps s₀ (State.sliceToSlice s k j vc m) := by
  unfold State.sliceToSlice
  repeat' first
    | with_reducible assumption | with_reducible apply State.inject_keeps

theorem State.injectHub_keeps {vc : VC} {src : Nat × Nat} {dst : Nat × Nat} {body : Nat} {m : HubMsg} {s₀ s : State} (hk : Keeps s₀ s) :
    Keeps s₀ (State.injectHub s vc src dst body m) := by
  unfold State.injectHub
  repeat' first
    | with_reducible assumption | extract_lets | with_reducible apply State.inject_keeps | with_reducible apply Keeps.foldl | (intro)

theorem State.sendHub_keeps {vc : VC} {src : Nat × Nat} {dst : Nat × Nat} {m : HubMsg} {s₀ s : State} (hk : Keeps s₀ s) :
    Keeps s₀ (State.sendHub s vc src dst m) := by
  unfold State.sendHub
  repeat' first
    | with_reducible assumption | extract_lets | with_reducible apply State.injectHub_keeps | with_reducible apply State.used_keeps

theorem State.sendMgtFrom_keeps {src : Nat × Nat} {dst : Nat} {m : MgtMsg} {s₀ s : State} (hk : Keeps s₀ s) :
    Keeps s₀ (State.sendMgtFrom s src dst m) := by
  unfold State.sendMgtFrom
  repeat' first
    | with_reducible assumption | extract_lets | with_reducible apply State.emit_keeps | with_reducible apply State.sendHub_keeps
    | split

theorem State.sendMgt_keeps {dst : Nat} {m : MgtMsg} {s₀ s : State} (hk : Keeps s₀ s) : Keeps s₀ (State.sendMgt s dst m) := by
  unfold State.sendMgt
  repeat' first
    | with_reducible assumption | with_reducible apply State.sendMgtFrom_keeps

theorem State.dropArrived_keeps {node : Nat} {port : Nat} {vc : VC} {s₀ s : State} (hk : Keeps s₀ s) :
    Keeps s₀ (State.dropArrived s node port vc) := by
  unfold State.dropArrived
  repeat' first
    | with_reducible assumption | exact id | extract_lets | with_reducible apply Keeps.upd

theorem State.modWin_keeps {w : Window} {f : Win → Win} {s₀ s : State} (hk : Keeps s₀ s) : Keeps s₀ (State.modWin s w f) := by
  unfold State.modWin
  repeat' first
    | with_reducible assumption | exact id | with_reducible apply Keeps.upd

theorem finish_keeps {k : Kcp} {status : Nat} {detail : Nat} {ws : List W64} {s₀ s : State} (hk : Keeps s₀ s) :
    Keeps s₀ (finish k status detail ws s) := by
  unfold finish
  repeat' first
    | with_reducible assumption | exact id | extract_lets | with_reducible apply State.sendMgt_keeps | split
    | with_reducible apply Keeps.upd

theorem runCmd_keeps {c : Nat} {op : Nat} {form : Kcp → Bool} {f : Kcp → State → State} {s₀ s : State} (hk : Keeps s₀ s) (h_f : ∀ k s, Keeps s₀ s → Keeps s₀ (f k s)) :
    Keeps s₀ (runCmd c op form f s) := by
  unfold runCmd
  repeat' first
    | with_reducible assumption | apply h_f | split

theorem State.modCmd_keeps {c : Nat} {f : Kcp → Kcp} {s₀ s : State} (hk : Keeps s₀ s) : Keeps s₀ (State.modCmd s c f) := by
  unfold State.modCmd
  repeat' first
    | with_reducible assumption | exact id | extract_lets | with_reducible apply Keeps.upd

theorem State.startCmd_keeps {k : Kcp} {f : Kcp → Kcp} {s₀ s : State} (hk : Keeps s₀ s) : Keeps s₀ (State.startCmd s k f) := by
  unfold State.startCmd
  repeat' first
    | with_reducible assumption | with_reducible apply State.modCmd_keeps

theorem State.endCmd_keeps {c : Option Nat} {status : Nat} {detail : Nat} {ws : List W64} {s₀ s : State} (hk : Keeps s₀ s) :
    Keeps s₀ (State.endCmd s c status detail ws) := by
  unfold State.endCmd
  repeat' first
    | with_reducible assumption | with_reducible apply finish_keeps | split

/-! ### Machine/Flags.lean -/

theorem makeRoom_lost (h : HubSt) (e : ErrSt) (n : Nat) : (makeRoom h e n).2.lost = e.lost := by
  induction n generalizing h e with
  | zero => rfl
  | succ n ih =>
    unfold makeRoom
    split
    · rfl
    · split
      · rfl
      · rw [ih]; unfold ErrSt.dropEvents; split <;> rfl

theorem admitEvent_keeps {ev : Ev} {s₀ s : State} (h : Keeps s₀ s) : Keeps s₀ (admitEvent ev s) := by
  unfold admitEvent
  have drop (e : ErrSt) : (e.dropEvents 1).lost = e.lost := by unfold ErrSt.dropEvents; split <;> rfl
  have room : (if decide (s.sevOf ev.src = 0) = true then (s.hub, s.err) else
      makeRoom s.hub s.err s.hub.evq.waiting.length).2.lost = s.err.lost := by
    split
    · rfl
    · exact makeRoom_lost ..
  dsimp only
  revert room
  generalize (if decide (s.sevOf ev.src = 0) = true then (s.hub, s.err) else makeRoom s.hub s.err s.hub.evq.waiting.length) = r
  intro room
  split
  · exact h.upd (fun e => room.trans e) id
  · exact h.upd (fun e => (drop _).trans (room.trans e)) id

theorem capture_keeps {ev : Ev} {s₀ s : State} (hk : Keeps s₀ s) : Keeps s₀ (capture ev s) := by
  unfold capture
  repeat' first
    | with_reducible assumption | exact id | extract_lets | with_reducible apply Keeps.upd

theorem raisePin_keeps {s₀ s : State} (hk : Keeps s₀ s) : Keeps s₀ (raisePin s) := by
  unfold raisePin
  repeat' first
    | with_reducible assumption | with_reducible exact Keeps.refl _ | exact id | extract_lets | with_reducible apply WArr.slice
    | with_reducible exact WArr.init _ | (intro) | split | with_reducible apply Keeps.upd | with_reducible apply WArr.upd

theorem errorReaction_keeps {ev : Ev} {s₀ s : State} (hk : Keeps s₀ s) : Keeps s₀ (errorReaction ev s) := by
  unfold errorReaction
  repeat' first
    | with_reducible assumption | extract_lets | with_reducible apply capture_keeps | with_reducible apply raisePin_keeps | split

theorem sendReport_keeps {ev : Ev} {s₀ s : State} (hk : Keeps s₀ s) : Keeps s₀ (sendReport ev s) := by
  unfold sendReport
  repeat' first
    | with_reducible assumption | with_reducible apply State.sendHub_keeps | split

theorem raise_keeps {ev : Ev} {s₀ s : State} (hk : Keeps s₀ s) : Keeps s₀ (raise ev s) := by
  unfold raise
  repeat' first
    | with_reducible assumption | exact id | extract_lets | with_reducible apply admitEvent_keeps
    | with_reducible apply errorReaction_keeps | with_reducible apply sendReport_keeps | with_reducible apply Keeps.upd

theorem raiseAll_keeps {evs : List Ev} {s₀ s : State} (hk : Keeps s₀ s) : Keeps s₀ (raiseAll evs s) := by
  unfold raiseAll
  repeat' first
    | with_reducible assumption | extract_lets | with_reducible apply raise_keeps | with_reducible apply Keeps.foldl | (intro)

theorem drainOne_keeps {s₀ s : State} (hk : Keeps s₀ s) : Keeps s₀ (drainOne s) := by
  unfold drainOne
  repeat' first
    | with_reducible assumption | with_reducible exact Keeps.refl _ | exact id | extract_lets | with_reducible apply WArr.slice
    | with_reducible exact WArr.init _ | (intro) | split | with_reducible apply Keeps.upd | with_reducible apply WArr.upd

theorem drainBacklog_keeps {s₀ s : State} (hk : Keeps s₀ s) : Keeps s₀ (drainBacklog s) := by
  unfold drainBacklog
  repeat' first
    | with_reducible assumption | extract_lets | with_reducible apply drainOne_keeps | with_reducible apply Keeps.foldl | (intro)

theorem reportPoison_keeps {ev : Ev} {s₀ s : State} (hk : Keeps s₀ s) : Keeps s₀ (reportPoison ev s) := by
  unfold reportPoison
  repeat' first
    | with_reducible assumption | with_reducible exact Keeps.refl _ | exact id | extract_lets | with_reducible apply admitEvent_keeps
    | with_reducible apply errorReaction_keeps | with_reducible apply sendReport_keeps | with_reducible apply WArr.slice
    | with_reducible exact WArr.init _ | (intro) | split | with_reducible apply Keeps.upd | with_reducible apply WArr.upd

theorem policyEvent_keeps {pid : Nat} {code : Nat} {tgt : Nat} {reason : Nat} {old : Nat} {new : Nat} {s₀ s : State} (hk : Keeps s₀ s) :
    Keeps s₀ (policyEvent pid code tgt reason old new s) := by
  unfold policyEvent
  repeat' first
    | with_reducible assumption | exact id | extract_lets | with_reducible apply raise_keeps | with_reducible apply Keeps.upd

/-! ### Machine/Command.lean -/

theorem Slice.count_warr {ev : Nat} {n : Nat} {s₀ : State} {v : Slice} (hk : WArr s₀ v) : WArr s₀ (Slice.count ev n v) := by
  unfold Slice.count
  repeat' first
    | with_reducible assumption | with_reducible apply WArr.upd

theorem Slice.slot_warr {wasted : Bool} {s₀ : State} {v : Slice} (hk : WArr s₀ v) : WArr s₀ (Slice.slot wasted v) := by
  unfold Slice.slot
  repeat' first
    | with_reducible assumption | with_reducible exact Keeps.refl _ | exact id | extract_lets | with_reducible apply WArr.slice
    | with_reducible exact WArr.init _ | (intro) | split | with_reducible apply Keeps.upd | with_reducible apply WArr.upd

theorem forward_keeps {k : Kcp} {i : Nat} {unreach : Nat × Nat} {s₀ s : State} (hk : Keeps s₀ s) : Keeps s₀ (forward k i unreach s) := by
  unfold forward
  repeat' first
    | with_reducible assumption | extract_lets | with_reducible apply finish_keeps | with_reducible apply State.sendMgt_keeps
    | with_reducible apply State.startCmd_keeps | split

theorem runAt_keeps {i : Nat} {f : Kcp → State → State} {k : Kcp} {s₀ s : State} (hk : Keeps s₀ s) (h_f : ∀ k s, Keeps s₀ s → Keeps s₀ (f k s)) :
    Keeps s₀ (runAt i f k s) := by
  unfold runAt
  repeat' first
    | with_reducible assumption | apply h_f | with_reducible apply forward_keeps | split

/-! ### Machine/GenOps.lean -/

theorem State.bumpGen_keeps {k : GenKind} {s₀ s : State} (hk : Keeps s₀ s) : Keeps s₀ (State.bumpGen s k) := by
  unfold State.bumpGen
  repeat' first
    | with_reducible assumption | exact id | extract_lets | with_reducible apply Keeps.upd

theorem State.dropHold_keeps {c : GenChange} {s₀ s : State} (hk : Keeps s₀ s) : Keeps s₀ (State.dropHold s c) := by
  unfold State.dropHold
  repeat' first
    | with_reducible assumption | exact id | extract_lets | with_reducible apply Keeps.upd

theorem State.dropDue_keeps {k : GenKind} {s₀ s : State} (hk : Keeps s₀ s) : Keeps s₀ (State.dropDue s k) := by
  unfold State.dropDue
  repeat' first
    | with_reducible assumption | exact id | extract_lets | with_reducible apply Keeps.upd

theorem State.toPeers_keeps {m : MgtMsg} {s₀ s : State} (hk : Keeps s₀ s) : Keeps s₀ (State.toPeers s m) := by
  unfold State.toPeers
  repeat' first
    | with_reducible assumption | extract_lets | with_reducible apply State.sendMgt_keeps | with_reducible apply Keeps.foldl | (intro)

theorem State.toJoined_keeps {m : MgtMsg} {s₀ s : State} (hk : Keeps s₀ s) : Keeps s₀ (State.toJoined s m) := by
  unfold State.toJoined
  repeat' first
    | with_reducible assumption | extract_lets | with_reducible apply State.sendMgt_keeps | with_reducible apply Keeps.foldl | (intro)

theorem genIssue_keeps {c : GenChange} {deadline : Nat} {s₀ s : State} (hk : Keeps s₀ s) : Keeps s₀ (genIssue c deadline s) := by
  unfold genIssue
  repeat' first
    | with_reducible assumption | exact id | extract_lets | with_reducible apply State.sendMgt_keeps | with_reducible apply Keeps.foldl
    | (intro) | split | with_reducible apply Keeps.upd

theorem tellOpen_keeps {l : List (Nat × BitVec 8)} {tick : Nat} {s₀ s : State} (hk : Keeps s₀ s) : Keeps s₀ (tellOpen l tick s) := by
  unfold tellOpen
  repeat' first
    | with_reducible assumption | extract_lets | with_reducible apply State.toPeers_keeps | split

theorem hubWrites_keeps {s₀ s : State} (hk : Keeps s₀ s) : Keeps s₀ (hubWrites s) := by
  unfold hubWrites
  repeat' first
    | with_reducible assumption | extract_lets | with_reducible apply State.sendHub_keeps | with_reducible apply Keeps.foldl | (intro)

theorem MapSt.write_wf {m : MapSt} (g1 : Bool) (l : List (Nat × BitVec 8)) (h : m.wf = true) : (m.write g1 l).wf = true := by
  have fold (t : Tbl (BitVec 8)) (ht : Canonical (basePlace m.base) t = true) :
      Canonical (basePlace m.base) (l.foldl (fun t e => tset (basePlace m.base) e.1 e.2 t) t) = true := by
    induction l generalizing t with
    | nil => exact ht
    | cons a l ih => exact ih _ (canonical_tset _ _ ht)
  simp only [MapSt.wf, Bool.and_eq_true] at h
  cases g1 <;> simp only [MapSt.write, MapSt.wf, Bool.and_eq_true, Bool.false_eq_true, if_false, if_true]
  · exact ⟨fold _ h.1, h.2⟩
  · exact ⟨h.1, fold _ h.2⟩

theorem nameFlip_keeps {l : List (Nat × BitVec 8)} {s₀ s : State} (h : Keeps s₀ s) : Keeps s₀ (nameFlip l s) := by
  unfold nameFlip
  dsimp only
  exact tellOpen_keeps (hubWrites_keeps (h.upd id (fun e => MapSt.write_wf _ _ e)))

theorem changeMap_keeps {l : List (Nat × BitVec 8)} {s₀ s : State} (hk : Keeps s₀ s) : Keeps s₀ (changeMap l s) := by
  unfold changeMap
  repeat' first
    | with_reducible assumption | exact id | extract_lets | with_reducible apply nameFlip_keeps | split | with_reducible apply Keeps.upd

theorem rewriteChange_keeps {sh : Nat} {e : BitVec 8} {s₀ s : State} (h : Keeps s₀ s) : Keeps s₀ (rewriteChange sh e s) := by
  unfold rewriteChange
  dsimp only
  split
  · split
    · refine h.upd id (fun m => ?_)
      exact MapSt.write_wf (m := { s.map with waiting := s.map.waiting.filter (fun x => x.1 != sh) }) _ _ m
    · exact h.upd id id
  · exact h.upd id id

/-! ### Machine/ErrCmd.lean -/

theorem execErrSeveritySetThreshold_keeps {c : Nat} {s₀ s : State} (hk : Keeps s₀ s) : OutKeeps s₀ (execErrSeveritySetThreshold c s) := by
  unfold execErrSeveritySetThreshold
  repeat' first
    | with_reducible assumption | exact id | extract_lets | with_reducible apply OutKeeps.next | with_reducible apply finish_keeps
    | with_reducible apply runCmd_keeps | (intro) | with_reducible apply Keeps.upd

theorem execErrSeveritySet_keeps {c : Nat} {s₀ s : State} (h : Keeps s₀ s) : OutKeeps s₀ (execErrSeveritySet c s) := by
  have fold (l : List W64) (e : ErrSt) : (l.foldl setSev e).lost = e.lost := by
    induction l generalizing e with
    | nil => rfl
    | cons a l ih => exact ih _
  exact .next (runCmd_keeps h (fun k s hs => finish_keeps (hs.upd (fun e => (fold _ _).trans e) id)))

theorem execErrLogRead_keeps {c : Nat} {s₀ s : State} (hk : Keeps s₀ s) : OutKeeps s₀ (execErrLogRead c s) := by
  unfold execErrLogRead
  repeat' first
    | with_reducible assumption | extract_lets | with_reducible apply OutKeeps.next | with_reducible apply finish_keeps
    | with_reducible apply runCmd_keeps | (intro)

theorem execFerrClear_keeps {c : Nat} {s₀ s : State} (hk : Keeps s₀ s) : OutKeeps s₀ (execFerrClear c s) := by
  unfold execFerrClear
  repeat' first
    | with_reducible assumption | exact id | extract_lets | with_reducible apply OutKeeps.next | with_reducible apply finish_keeps
    | with_reducible apply runCmd_keeps | (intro) | split | with_reducible apply Keeps.upd

theorem execRemapRead_keeps {c : Nat} {s₀ s : State} (hk : Keeps s₀ s) : OutKeeps s₀ (execRemapRead c s) := by
  unfold execRemapRead
  repeat' first
    | with_reducible assumption | extract_lets | with_reducible apply OutKeeps.next | with_reducible apply finish_keeps
    | with_reducible apply runCmd_keeps | (intro)

theorem Slice.addRemap_warr {r : Remap} {s₀ : State} {v : Slice} (hk : WArr s₀ v) : WArr s₀ (Slice.addRemap v r) := by
  unfold Slice.addRemap
  repeat' first
    | with_reducible assumption | with_reducible apply WArr.upd

theorem loadRemaps_keeps {l : List Remap} {n : Nat} {s₀ s : State} (h : Keeps s₀ s) : Keeps s₀ (loadRemaps l n s).2 := by
  induction l generalizing n s with
  | nil => exact h
  | cons a l ih =>
    unfold loadRemaps
    dsimp only
    split
    · exact ih (h.modSlice (fun v hv => Slice.addRemap_warr hv))
    · exact ih h

theorem execRemapLoad_keeps {c : Nat} {s₀ s : State} (h : Keeps s₀ s) : OutKeeps s₀ (execRemapLoad c s) := by
  refine .next (runCmd_keeps h (fun k s hs => ?_))
  dsimp only
  repeat' first | with_reducible assumption | with_reducible exact Keeps.refl _ | exact id | with_reducible apply finish_keeps | with_reducible apply loadRemaps_keeps | (intro) | split | with_reducible apply Keeps.upd | with_reducible apply WArr.upd

theorem setScrub_warr {sf : Nat} {hc : Nat} {now : Nat} {s₀ : State} {v : Slice} (hk : WArr s₀ v) : WArr s₀ (setScrub sf hc now v) := by
  unfold setScrub
  repeat' first
    | with_reducible assumption | split | with_reducible apply WArr.upd

theorem execScrubConfig_keeps {c : Nat} {s₀ s : State} (hk : Keeps s₀ s) : OutKeeps s₀ (execScrubConfig c s) := by
  unfold execScrubConfig
  repeat' first
    | with_reducible assumption | extract_lets | with_reducible apply OutKeeps.next | with_reducible apply Keeps.each
    | with_reducible apply finish_keeps | with_reducible apply Keeps.modSlice | with_reducible apply runCmd_keeps
    | with_reducible apply setScrub_warr | (intro)

/-! ### Machine/Hub.lean -/

theorem execEcho_keeps {c : Nat} {s₀ s : State} (hk : Keeps s₀ s) : OutKeeps s₀ (execEcho c s) := by
  unfold execEcho
  repeat' first
    | with_reducible assumption | extract_lets | with_reducible apply OutKeeps.next | with_reducible apply finish_keeps
    | with_reducible apply runCmd_keeps | (intro)

theorem execIdentify_keeps {c : Nat} {s₀ s : State} (hk : Keeps s₀ s) : OutKeeps s₀ (execIdentify c s) := by
  unfold execIdentify
  repeat' first
    | with_reducible assumption | extract_lets | with_reducible apply OutKeeps.next | with_reducible apply finish_keeps
    | with_reducible apply runCmd_keeps | (intro)

/-! ### Machine/Queue.lean -/

theorem State.answer_keeps {w : Window} {err : Bool} {rdata : BitVec 32} {s₀ s : State} (hk : Keeps s₀ s) :
    Keeps s₀ (State.answer s w err rdata) := by
  unfold State.answer
  repeat' first
    | with_reducible assumption | with_reducible apply State.modWin_keeps

theorem windowWrite_keeps {w : Window} {priv : Bool} {f : State → State} {s₀ s : State} (hk : Keeps s₀ s) (h_f : ∀ s, Keeps s₀ s → Keeps s₀ (f s)) :
    Keeps s₀ (windowWrite w priv f s) := by
  unfold windowWrite
  repeat' first
    | with_reducible assumption | extract_lets | apply h_f | with_reducible apply State.answer_keeps | split

theorem mgmtWrite_keeps {w : Window} {priv : Bool} {f : State → State} {s₀ s : State} (hk : Keeps s₀ s) (h_f : ∀ s, Keeps s₀ s → Keeps s₀ (f s)) :
    Keeps s₀ (mgmtWrite w priv f s) := by
  unfold mgmtWrite
  repeat' first
    | with_reducible assumption | extract_lets | apply h_f | with_reducible apply windowWrite_keeps | (intro) | split

theorem mgmtOnly_keeps {w : Window} {f : State → State} {s₀ s : State} (hk : Keeps s₀ s) (h_f : ∀ s, Keeps s₀ s → Keeps s₀ (f s)) :
    Keeps s₀ (mgmtOnly w f s) := by
  unfold mgmtOnly
  repeat' first
    | with_reducible assumption | extract_lets | apply h_f | with_reducible apply State.answer_keeps | split

theorem pushWord_keeps {w : Window} {v : W64} {fin : Bool} {s₀ s : State} (hk : Keeps s₀ s) : Keeps s₀ (pushWord w v fin s) := by
  unfold pushWord
  repeat' first
    | with_reducible assumption | exact id | extract_lets | split | with_reducible apply Keeps.upd

theorem execCmdDataHi_keeps {w : Window} {v : BitVec 32} {priv : Bool} {s₀ s : State} (hk : Keeps s₀ s) :
    OutKeeps s₀ (execCmdDataHi w v priv s) := by
  unfold execCmdDataHi
  repeat' first
    | with_reducible assumption | extract_lets | with_reducible apply OutKeeps.next | with_reducible apply pushWord_keeps
    | with_reducible apply windowWrite_keeps | (intro)

theorem execCmdEndHi_keeps {w : Window} {v : BitVec 32} {priv : Bool} {s₀ s : State} (hk : Keeps s₀ s) :
    OutKeeps s₀ (execCmdEndHi w v priv s) := by
  unfold execCmdEndHi
  repeat' first
    | with_reducible assumption | extract_lets | with_reducible apply OutKeeps.next | with_reducible apply pushWord_keeps
    | with_reducible apply windowWrite_keeps | (intro)

theorem truncate_keeps {w : Window} {s₀ s : State} (hk : Keeps s₀ s) : Keeps s₀ (truncate w s) := by
  unfold truncate
  repeat' first
    | with_reducible assumption | exact id | extract_lets | split | with_reducible apply Keeps.upd

theorem execCmdTruncate_keeps {w : Window} {s₀ s : State} (hk : Keeps s₀ s) : OutKeeps s₀ (execCmdTruncate w s) := by
  unfold execCmdTruncate
  repeat' first
    | with_reducible assumption | extract_lets | with_reducible apply OutKeeps.next | with_reducible apply truncate_keeps

theorem loseQueue_keeps {q : QCode} {s₀ s : State} (hk : Keeps s₀ s) : Keeps s₀ (loseQueue q s) := by
  unfold loseQueue
  repeat' first
    | with_reducible assumption | exact id | extract_lets | with_reducible apply raise_keeps | with_reducible apply Keeps.upd

theorem popIdle_keeps {w : Window} {q : QSel} {s₀ s : State} (hk : Keeps s₀ s) : Keeps s₀ (popIdle w q s) := by
  unfold popIdle
  repeat' first
    | with_reducible assumption | exact id | with_reducible apply Keeps.upd

theorem popCell_keeps {w : Window} {q : QSel} {c : Cell} {rest : List Cell} {s₀ s : State} (hk : Keeps s₀ s) :
    Keeps s₀ (popCell w q c rest s) := by
  unfold popCell
  repeat' first
    | with_reducible assumption | exact id | extract_lets | with_reducible apply raiseAll_keeps | with_reducible apply Keeps.upd

theorem popWord_keeps {w : Window} {q : QSel} {s₀ s : State} (hk : Keeps s₀ s) : Keeps s₀ (popWord w q s) := by
  unfold popWord
  repeat' first
    | with_reducible assumption | exact id | extract_lets | with_reducible apply loseQueue_keeps | with_reducible apply popCell_keeps
    | with_reducible apply popIdle_keeps | split | with_reducible apply Keeps.upd

theorem writeHeld_keeps {q : QCode} {p : Nat} {g : Bool} {ws : List W64} {s₀ s : State} (h : Keeps s₀ s) :
    Keeps s₀ (writeHeld q p g ws s) := by
  have drop (e : ErrSt) : (e.dropEvents 1).lost = e.lost := by unfold ErrSt.dropEvents; split <;> rfl
  have room : (if g = true then (s.hub, s.err) else makeRoom s.hub s.err s.hub.evq.waiting.length).2.lost = s.err.lost := by
    split
    · rfl
    · exact makeRoom_lost ..
  unfold writeHeld
  dsimp only
  revert room
  generalize (if g = true then (s.hub, s.err) else makeRoom s.hub s.err s.hub.evq.waiting.length) = r
  intro room
  split <;> try split
  · exact h.upd (fun e => room.trans e) id
  · exact h.upd (fun e => (drop _).trans (room.trans e)) id
  all_goals exact h.upd id id

theorem runWaiting_keeps {o : HubOp} {s₀ s : State} (h : Keeps s₀ s) : Keeps s₀ (runWaiting s o) := by
  cases o with
  | push w v fin => exact pushWord_keeps h
  | pop w q => exact popWord_keeps h
  | packet q p g ws => exact writeHeld_keeps h

theorem resume_keeps {s₀ s : State} (h : Keeps s₀ s) : Keeps s₀ (resume s) := by
  unfold resume
  split
  · exact h
  · exact drainBacklog_keeps ((h.upd id id).foldl (fun s x hs => runWaiting_keeps hs))

theorem execQueuePop_keeps {w : Window} {q : QSel} {priv : Bool} {s₀ s : State} (hk : Keeps s₀ s) :
    OutKeeps s₀ (execQueuePop w q priv s) := by
  unfold execQueuePop
  repeat' first
    | with_reducible assumption | with_reducible exact Keeps.refl _ | exact id | extract_lets | with_reducible exact OutKeeps.fault _ _
    | with_reducible exact OutKeeps.refused _ _ | with_reducible apply OutKeeps.next | with_reducible apply popWord_keeps
    | with_reducible apply resume_keeps | with_reducible apply windowWrite_keeps | with_reducible apply WArr.slice
    | with_reducible exact WArr.init _ | (intro) | split | with_reducible apply Keeps.upd | with_reducible apply WArr.upd

theorem admitCmd_keeps {k : Kcp} {s₀ s : State} (hk : Keeps s₀ s) : Keeps s₀ (admitCmd k s) := by
  unfold admitCmd
  repeat' first
    | with_reducible assumption | exact id | extract_lets | with_reducible apply Keeps.upd

theorem takePacket_keeps {w : Window} {p : QPkt} {s₀ s : State} (hk : Keeps s₀ s) : Keeps s₀ (takePacket w p s) := by
  unfold takePacket
  repeat' first
    | with_reducible assumption | exact id | extract_lets | with_reducible apply admitCmd_keeps | with_reducible apply finish_keeps
    | with_reducible apply raiseAll_keeps | split | with_reducible apply Keeps.upd

theorem execKcpTake_keeps {w : Window} {s₀ s : State} (hk : Keeps s₀ s) : OutKeeps s₀ (execKcpTake w s) := by
  unfold execKcpTake
  repeat' first
    | with_reducible assumption | extract_lets | with_reducible apply OutKeeps.next | with_reducible apply loseQueue_keeps
    | with_reducible apply takePacket_keeps | split

theorem execForwardedReply_keeps {c : Nat} {status : BitVec 8} {detail : BitVec 24} {words : List W64} {s₀ s : State} (hk : Keeps s₀ s) :
    OutKeeps s₀ (execForwardedReply c status detail words s) := by
  unfold execForwardedReply
  repeat' first
    | with_reducible assumption | extract_lets | with_reducible apply OutKeeps.next | with_reducible apply finish_keeps | split

theorem execForwardTimeout_keeps {c : Nat} {s₀ s : State} (hk : Keeps s₀ s) : OutKeeps s₀ (execForwardTimeout c s) := by
  unfold execForwardTimeout
  repeat' first
    | with_reducible assumption | extract_lets | with_reducible apply OutKeeps.next | with_reducible apply finish_keeps | split

theorem execForwardedCommand_keeps {src : BitVec 3} {ref : Nat} {header : W64} {params : List W64} {s₀ s : State} (hk : Keeps s₀ s) :
    OutKeeps s₀ (execForwardedCommand src ref header params s) := by
  unfold execForwardedCommand
  repeat' first
    | with_reducible assumption | with_reducible exact Keeps.refl _ | exact id | extract_lets | with_reducible exact OutKeeps.fault _ _
    | with_reducible exact OutKeeps.refused _ _ | with_reducible apply OutKeeps.next | with_reducible apply admitCmd_keeps
    | with_reducible apply WArr.slice | with_reducible exact WArr.init _ | (intro) | split | with_reducible apply Keeps.upd
    | with_reducible apply WArr.upd

theorem flush_keeps {w : Window} {f : FlushSel} {s₀ s : State} (h : Keeps s₀ s) : Keeps s₀ (flush w f s) := by
  unfold flush
  split
  · exact h
  · refine h.upd (fun e => ?_) id
    cases f <;> exact e

theorem execQFlushCmdq_keeps {w : Window} {priv : Bool} {s₀ s : State} (hk : Keeps s₀ s) : OutKeeps s₀ (execQFlushCmdq w priv s) := by
  unfold execQFlushCmdq
  repeat' first
    | with_reducible assumption | extract_lets | with_reducible apply OutKeeps.next | with_reducible apply flush_keeps
    | with_reducible apply windowWrite_keeps

theorem execQFlushRplq_keeps {w : Window} {priv : Bool} {s₀ s : State} (hk : Keeps s₀ s) : OutKeeps s₀ (execQFlushRplq w priv s) := by
  unfold execQFlushRplq
  repeat' first
    | with_reducible assumption | with_reducible exact Keeps.refl _ | exact id | extract_lets | with_reducible exact OutKeeps.fault _ _
    | with_reducible exact OutKeeps.refused _ _ | with_reducible apply OutKeeps.next | with_reducible apply flush_keeps
    | with_reducible apply resume_keeps | with_reducible apply windowWrite_keeps | with_reducible apply WArr.slice
    | with_reducible exact WArr.init _ | (intro) | split | with_reducible apply Keeps.upd | with_reducible apply WArr.upd

theorem execQFlushEvq_keeps {w : Window} {priv : Bool} {s₀ s : State} (hk : Keeps s₀ s) : OutKeeps s₀ (execQFlushEvq w priv s) := by
  unfold execQFlushEvq
  repeat' first
    | with_reducible assumption | with_reducible exact Keeps.refl _ | exact id | extract_lets | with_reducible exact OutKeeps.fault _ _
    | with_reducible exact OutKeeps.refused _ _ | with_reducible apply OutKeeps.next | with_reducible apply flush_keeps
    | with_reducible apply resume_keeps | with_reducible apply windowWrite_keeps | with_reducible apply WArr.slice
    | with_reducible exact WArr.init _ | (intro) | split | with_reducible apply Keeps.upd | with_reducible apply WArr.upd

theorem execQFlushLoft_keeps {w : Window} {priv : Bool} {s₀ s : State} (hk : Keeps s₀ s) : OutKeeps s₀ (execQFlushLoft w priv s) := by
  unfold execQFlushLoft
  repeat' first
    | with_reducible assumption | extract_lets | with_reducible apply OutKeeps.next | with_reducible apply flush_keeps
    | with_reducible apply windowWrite_keeps

theorem execFlushComplete_keeps {w : Window} {f : FlushSel} {s₀ s : State} (hk : Keeps s₀ s) : OutKeeps s₀ (execFlushComplete w f s) := by
  unfold execFlushComplete
  repeat' first
    | with_reducible assumption | exact id | extract_lets | with_reducible apply OutKeeps.next | split | with_reducible apply Keeps.upd

theorem execQownerWrite_keeps {w : Window} {v : BitVec 32} {priv : Bool} {s₀ s : State} (hk : Keeps s₀ s) :
    OutKeeps s₀ (execQownerWrite w v priv s) := by
  unfold execQownerWrite
  repeat' first
    | with_reducible assumption | exact id | extract_lets | with_reducible apply OutKeeps.next | with_reducible apply mgmtWrite_keeps
    | (intro) | with_reducible apply Keeps.upd

theorem execQueueOwnerSwitch_keeps {q : QCode} {s₀ s : State} (hk : Keeps s₀ s) : OutKeeps s₀ (execQueueOwnerSwitch q s) := by
  unfold execQueueOwnerSwitch
  repeat' first
    | with_reducible assumption | exact id | extract_lets | with_reducible apply OutKeeps.next | split | with_reducible apply Keeps.upd

theorem execQuotaWrite_keeps {w : Window} {q : QCode} {v : BitVec 32} {priv : Bool} {s₀ s : State} (hk : Keeps s₀ s) :
    OutKeeps s₀ (execQuotaWrite w q v priv s) := by
  unfold execQuotaWrite
  repeat' first
    | with_reducible assumption | with_reducible exact Keeps.refl _ | exact id | extract_lets | with_reducible exact OutKeeps.fault _ _
    | with_reducible exact OutKeeps.refused _ _ | with_reducible apply OutKeeps.next | with_reducible apply mgmtWrite_keeps
    | with_reducible apply resume_keeps | with_reducible apply WArr.slice | with_reducible exact WArr.init _ | (intro) | split
    | with_reducible apply Keeps.upd | with_reducible apply WArr.upd

theorem execCellPoolRebuildDone_keeps {s₀ s : State} (h : Keeps s₀ s) : OutKeeps s₀ (execCellPoolRebuildDone s) := by
  unfold execCellPoolRebuildDone
  apply OutKeeps.next
  split
  · exact resume_keeps (h.upd id id)
  · exact h

/-! ### Machine/RegWin.lean -/

theorem execErrOutPulseEnd_keeps {s₀ s : State} (hk : Keeps s₀ s) : OutKeeps s₀ (execErrOutPulseEnd s) := by
  unfold execErrOutPulseEnd
  repeat' first
    | with_reducible assumption | exact id | extract_lets | with_reducible apply OutKeeps.next | split | with_reducible apply Keeps.upd

theorem driveWrite_keeps {b : Bool} {s₀ s : State} (hk : Keeps s₀ s) : Keeps s₀ (driveWrite b s) := by
  unfold driveWrite
  repeat' first
    | with_reducible assumption | exact id | extract_lets | split | with_reducible apply Keeps.upd

theorem errpinWrite_keeps {w : Window} {b : Bool} {s₀ s : State} (hk : Keeps s₀ s) : Keeps s₀ (errpinWrite w b s) := by
  unfold errpinWrite
  repeat' first
    | with_reducible assumption | with_reducible exact Keeps.refl _ | exact id | extract_lets | with_reducible apply driveWrite_keeps
    | with_reducible apply WArr.slice | with_reducible exact WArr.init _ | (intro) | split | with_reducible apply Keeps.upd
    | with_reducible apply WArr.upd

theorem execErrpinWrite_keeps {w : Window} {v : BitVec 32} {priv : Bool} {s₀ s : State} (hk : Keeps s₀ s) :
    OutKeeps s₀ (execErrpinWrite w v priv s) := by
  unfold execErrpinWrite
  repeat' first
    | with_reducible assumption | with_reducible exact Keeps.refl _ | exact id | extract_lets | with_reducible exact OutKeeps.fault _ _
    | with_reducible exact OutKeeps.refused _ _ | with_reducible apply OutKeeps.next | with_reducible apply errpinWrite_keeps
    | with_reducible apply windowWrite_keeps | with_reducible apply WArr.slice | with_reducible exact WArr.init _ | (intro) | split
    | with_reducible apply Keeps.upd | with_reducible apply WArr.upd

theorem execSnpTimeoutWrite_keeps {w : Window} {v : BitVec 32} {priv : Bool} {s₀ s : State} (hk : Keeps s₀ s) :
    OutKeeps s₀ (execSnpTimeoutWrite w v priv s) := by
  unfold execSnpTimeoutWrite
  repeat' first
    | with_reducible assumption | exact id | extract_lets | with_reducible apply OutKeeps.next | with_reducible apply mgmtWrite_keeps
    | (intro) | split | with_reducible apply Keeps.upd

theorem regionGo_keeps {q : Bool} {s₀ s : State} (h : Keeps s₀ s) : Keeps s₀ (regionGo q s) := by
  have told (r : BitVec 2) : Keeps s₀ { s with map := { s.map with result := r } } := h.upd id id
  unfold regionGo
  dsimp only
  split
  · exact told _
  · split
    · exact told _
    · split
      · exact told _
      · refine genIssue_keeps (Keeps.upd (State.used_keeps ?_) id id)
        split
        · exact State.dropHold_keeps h
        · exact h

theorem execRegionCommit_keeps {w : Window} {v : BitVec 32} {q p : Bool} {s₀ s : State} (h : Keeps s₀ s) :
    OutKeeps s₀ (execRegionCommit w v q p s) := by
  refine .next (mgmtWrite_keeps h (fun s hs => ?_))
  split
  · exact regionGo_keeps hs
  · exact hs

theorem applyRegion_keeps {l : List (W64 × W64)} {issuer : BitVec 3} {s₀ s : State} (hk : Keeps s₀ s) :
    Keeps s₀ (applyRegion l issuer s) := by
  unfold applyRegion
  repeat' first
    | with_reducible assumption | exact id | extract_lets | with_reducible apply State.bumpGen_keeps
    | with_reducible apply State.dropDue_keeps | split | with_reducible apply Keeps.upd

theorem execRegionTableActivate_keeps {s₀ s : State} (hk : Keeps s₀ s) : OutKeeps s₀ (execRegionTableActivate s) := by
  unfold execRegionTableActivate
  repeat' first
    | with_reducible assumption | extract_lets | with_reducible apply OutKeeps.next | with_reducible apply applyRegion_keeps | split

theorem writeReg_keeps {w : Window} {off : Nat} {v : BitVec 32} {s₀ s : State} (hk : Keeps s₀ s) : Keeps s₀ (writeReg w off v s) := by
  unfold writeReg
  repeat' first
    | with_reducible assumption | exact id | extract_lets | with_reducible apply State.modWin_keeps | split
    | with_reducible apply Keeps.upd

theorem execRegisterWrite_keeps {w : Window} {off : BitVec 16} {v : BitVec 32} {priv : Bool} {s₀ s : State} (hk : Keeps s₀ s) :
    OutKeeps s₀ (execRegisterWrite w off v priv s) := by
  unfold execRegisterWrite
  repeat' first
    | with_reducible assumption | extract_lets | with_reducible apply OutKeeps.next | with_reducible apply State.answer_keeps
    | with_reducible apply writeReg_keeps | split

theorem execHalfLatchRead_keeps {w : Window} {r : HalfReg} {priv : Bool} {s₀ s : State} (hk : Keeps s₀ s) :
    OutKeeps s₀ (execHalfLatchRead w r priv s) := by
  unfold execHalfLatchRead
  repeat' first
    | with_reducible assumption | with_reducible exact Keeps.refl _ | exact id | extract_lets | with_reducible exact OutKeeps.fault _ _
    | with_reducible exact OutKeeps.refused _ _ | with_reducible apply OutKeeps.next | with_reducible apply State.answer_keeps
    | with_reducible apply State.modWin_keeps | with_reducible apply windowWrite_keeps | with_reducible apply WArr.slice
    | with_reducible exact WArr.init _ | (intro) | split | with_reducible apply Keeps.upd | with_reducible apply WArr.upd

/-! ### Machine/Perf.lean -/

theorem execPerfCapture_keeps {w : Window} {user : Bool} {priv : Bool} {s₀ s : State} (hk : Keeps s₀ s) :
    OutKeeps s₀ (execPerfCapture w user priv s) := by
  unfold execPerfCapture
  repeat' first
    | with_reducible assumption | with_reducible exact Keeps.refl _ | exact id | extract_lets | with_reducible exact OutKeeps.fault _ _
    | with_reducible exact OutKeeps.refused _ _ | with_reducible apply OutKeeps.next | with_reducible apply State.answer_keeps
    | with_reducible apply State.modWin_keeps | with_reducible apply windowWrite_keeps | with_reducible apply WArr.slice
    | with_reducible exact WArr.init _ | (intro) | split | with_reducible apply Keeps.upd | with_reducible apply WArr.upd

theorem execPerfctlWrite_keeps {w : Window} {v : BitVec 32} {priv : Bool} {s₀ s : State} (hk : Keeps s₀ s) :
    OutKeeps s₀ (execPerfctlWrite w v priv s) := by
  unfold execPerfctlWrite
  repeat' first
    | with_reducible assumption | exact id | extract_lets | with_reducible apply OutKeeps.next | with_reducible apply windowWrite_keeps
    | (intro) | split | with_reducible apply Keeps.upd

theorem configUnit_keeps {k : Kcp} {u : Nat} {s₀ s : State} (hk : Keeps s₀ s) : Keeps s₀ (configUnit k s u) := by
  unfold configUnit
  repeat' first
    | with_reducible assumption | extract_lets | with_reducible apply Keeps.modCa | with_reducible apply Keeps.modLink
    | with_reducible apply Keeps.modSlice | (intro) | split | with_reducible apply WArr.upd

theorem execPerfConfig_keeps {c : Nat} {s₀ s : State} (hk : Keeps s₀ s) : OutKeeps s₀ (execPerfConfig c s) := by
  unfold execPerfConfig
  repeat' first
    | with_reducible assumption | extract_lets | with_reducible apply OutKeeps.next | with_reducible apply configUnit_keeps
    | with_reducible apply Keeps.each | with_reducible apply finish_keeps | with_reducible apply runCmd_keeps | (intro)

end Sys2Proof.Machine
end

