-- ==== Sys2Proof/Laws/KeepsLine.lean ====
section
/-! SUPPORT. Sys2Proof/Laws/KeepsLine.lean: the operations and commands of Machine/SfOps.lean, HcOps.lean, Credits.lean, Engine.lean keep what every command keeps. -/

namespace Sys2Proof.Machine

/-! ### Machine/SfOps.lean -/

theorem Slice.heal_warr {array : Nat} {addr : Nat} {s₀ : State} {v : Slice} (hk : WArr s₀ v) : WArr s₀ (Slice.heal v array addr) := by
  unfold Slice.heal
  repeat' first
    | with_reducible assumption | with_reducible apply WArr.upd

theorem Slice.setSf_warr {set way : Nat} {e : SfEnt} {s₀ : State} {v : Slice} (h : WArr s₀ v) : WArr s₀ (Slice.setSf v set way e) := by
  refine ⟨fun h0 => ?_⟩
  obtain ⟨h1, h2, h3, h4, h5⟩ := h.parts h0
  exact Slice.arraysWf_of (canonical_tset _ _ h1) h2 h3 h4 h5

theorem Slice.sfTouch_warr {set : Nat} {way : Nat} {s₀ : State} {v : Slice} (hk : WArr s₀ v) : WArr s₀ (Slice.sfTouch v set way) := by
  unfold Slice.sfTouch
  repeat' first
    | with_reducible assumption | with_reducible apply WArr.upd

theorem Slice.setTxn_warr {t : Txn} {s₀ : State} {v : Slice} (hk : WArr s₀ v) : WArr s₀ (Slice.setTxn v t) := by
  unfold Slice.setTxn
  repeat' first
    | with_reducible assumption | with_reducible apply WArr.upd

theorem State.modTxn_keeps {k : Nat} {e : Nat} {f : Txn → Txn} {s₀ s : State} (hk : Keeps s₀ s) : Keeps s₀ (State.modTxn s k e f) := by
  unfold State.modTxn
  repeat' first
    | with_reducible assumption | extract_lets | with_reducible apply Keeps.modSlice | (intro) | with_reducible apply WArr.upd

theorem Slice.remember_warr {array : Nat} {addr : Nat} {s₀ : State} {v : Slice} (hk : WArr s₀ v) :
    WArr s₀ (Slice.remember v array addr) := by
  unfold Slice.remember
  repeat' first
    | with_reducible assumption | extract_lets | with_reducible apply WArr.upd

theorem Slice.enter_warr {t : Txn} {s₀ : State} {v : Slice} (hk : WArr s₀ v) : WArr s₀ (Slice.enter v t) := by
  unfold Slice.enter
  repeat' first
    | with_reducible assumption | extract_lets | with_reducible apply WArr.upd

theorem correctWord_keeps {k : Nat} {array : Nat} {addr : Nat} {acc : Nat} {s₀ s : State} (hk : Keeps s₀ s) :
    Keeps s₀ (correctWord k array addr acc s) := by
  unfold correctWord
  repeat' first
    | with_reducible assumption | exact id | extract_lets | with_reducible apply Slice.addRemap_warr
    | with_reducible apply Slice.heal_warr | with_reducible apply raise_keeps | with_reducible apply Slice.remember_warr
    | with_reducible apply Keeps.setSlice | with_reducible apply WArr.slice | split | with_reducible apply Keeps.upd
    | with_reducible apply WArr.upd

theorem bankServes_keeps {k : Nat} {s₀ s : State} (hk : Keeps s₀ s) : Keeps s₀ (bankServes k s) := by
  unfold bankServes
  repeat' first
    | with_reducible assumption | with_reducible exact Keeps.refl _ | exact id | extract_lets | with_reducible apply Slice.count_warr
    | with_reducible apply Keeps.modSlice | with_reducible apply Slice.slot_warr | with_reducible apply WArr.slice
    | with_reducible exact WArr.init _ | (intro) | split | with_reducible apply Keeps.upd | with_reducible apply WArr.upd

theorem sfParityCheck_keeps {k : Nat} {set : Nat} {acc : Nat} {s₀ s : State} (hk : Keeps s₀ s) : Keeps s₀ (sfParityCheck k set acc s) := by
  unfold sfParityCheck
  repeat' first
    | with_reducible assumption | extract_lets | with_reducible apply Keeps.modSlice | with_reducible apply raise_keeps | (intro)
    | split | with_reducible apply WArr.upd

theorem beginOpen_keeps {k : Nat} {set : Nat} {way : Nat} {acc : Nat} {e : SfEnt} {c : List LAddr} {s₀ s : State} (hk : Keeps s₀ s) :
    Keeps s₀ (beginOpen k set way acc e c s) := by
  unfold beginOpen
  repeat' first
    | with_reducible assumption | with_reducible exact Keeps.refl _ | exact id | extract_lets | with_reducible apply Slice.count_warr
    | with_reducible apply Keeps.modSlice | with_reducible apply WArr.slice | with_reducible exact WArr.init _ | (intro) | split
    | with_reducible apply Keeps.upd | with_reducible apply WArr.upd

theorem openStart_keeps {k : Nat} {set : Nat} {way : Nat} {acc : Nat} {s₀ s : State} (hk : Keeps s₀ s) :
    Keeps s₀ (openStart k set way acc s) := by
  unfold openStart
  repeat' first
    | with_reducible assumption | with_reducible exact Keeps.refl _ | exact id | extract_lets | with_reducible apply beginOpen_keeps
    | with_reducible apply Keeps.modSlice | with_reducible apply Slice.setSf_warr | with_reducible apply WArr.slice
    | with_reducible exact WArr.init _ | (intro) | split | with_reducible apply Keeps.upd | with_reducible apply WArr.upd

theorem sfReadWay_keeps {k : Nat} {set : Nat} {acc : Nat} {way : Nat} {s₀ s : State} (hk : Keeps s₀ s) :
    Keeps s₀ (sfReadWay k set acc s way) := by
  unfold sfReadWay
  repeat' first
    | with_reducible assumption | with_reducible exact Keeps.refl _ | exact id | extract_lets | with_reducible apply correctWord_keeps
    | with_reducible apply openStart_keeps | with_reducible apply WArr.slice | with_reducible exact WArr.init _ | (intro) | split
    | with_reducible apply Keeps.upd | with_reducible apply WArr.upd

theorem sfReadSet_keeps {k : Nat} {set : Nat} {acc : Nat} {s₀ s : State} (hk : Keeps s₀ s) : Keeps s₀ (sfReadSet k set acc s) := by
  unfold sfReadSet
  repeat' first
    | with_reducible assumption | extract_lets | with_reducible apply Keeps.each | with_reducible apply sfReadWay_keeps | (intro)

/-! ### Machine/HcOps.lean -/

theorem Slice.setTag_warr {set slot : Nat} {t : HcTag} {s₀ : State} {v : Slice} (h : WArr s₀ v) : WArr s₀ (Slice.setTag v set slot t) := by
  refine ⟨fun h0 => ?_⟩
  obtain ⟨h1, h2, h3, h4, h5⟩ := h.parts h0
  exact Slice.arraysWf_of h1 (canonical_tset _ _ h2) h3 h4 h5

theorem Slice.setData_warr {set way i : Nat} {w : W64} {s₀ : State} {v : Slice} (h : WArr s₀ v) :
    WArr s₀ (Slice.setData v set way i w) := by
  refine ⟨fun h0 => ?_⟩
  obtain ⟨h1, h2, h3, h4, h5⟩ := h.parts h0
  exact Slice.arraysWf_of h1 h2 (canonical_tset _ _ h3) h4 h5

theorem Slice.setCtl_warr {set : Nat} {c : HcCtl} {s₀ : State} {v : Slice} (h : WArr s₀ v) : WArr s₀ (Slice.setCtl v set c) := by
  refine ⟨fun h0 => ?_⟩
  obtain ⟨h1, h2, h3, h4, h5⟩ := h.parts h0
  exact Slice.arraysWf_of h1 h2 h3 (canonical_tset _ _ h4) h5

theorem Slice.storeData_warr {set : Nat} {slot : Nat} {d : Line} {f : BitVec 2} {s₀ : State} {v : Slice} (hk : WArr s₀ v) :
    WArr s₀ (Slice.storeData v set slot d f) := by
  unfold Slice.storeData
  repeat' first
    | with_reducible assumption | extract_lets | with_reducible apply Slice.setData_warr | with_reducible apply WArr.foldl | (intro)

theorem State.dirtyUp_keeps {s₀ s : State} (hk : Keeps s₀ s) : Keeps s₀ (State.dirtyUp s) := by
  unfold State.dirtyUp
  repeat' first
    | with_reducible assumption | exact id | extract_lets | with_reducible apply Keeps.upd

theorem State.dirtyDown_keeps {s₀ s : State} (hk : Keeps s₀ s) : Keeps s₀ (State.dirtyDown s) := by
  unfold State.dirtyDown
  repeat' first
    | with_reducible assumption | exact id | extract_lets | with_reducible apply Keeps.upd

theorem readCtl_keeps {k : Nat} {set : Nat} {acc : Nat} {s₀ s : State} (hk : Keeps s₀ s) : Keeps s₀ (readCtl k set acc s) := by
  unfold readCtl
  repeat' first
    | with_reducible assumption | extract_lets | with_reducible apply correctWord_keeps | with_reducible apply raise_keeps
    | with_reducible apply Slice.setCtl_warr | with_reducible apply Keeps.setSlice | with_reducible apply WArr.slice | split

theorem writeTag_keeps {k : Nat} {set : Nat} {slot : Nat} {t : HcTag} {s₀ s : State} (hk : Keeps s₀ s) :
    Keeps s₀ (writeTag k set slot t s) := by
  unfold writeTag
  repeat' first
    | with_reducible assumption | extract_lets | with_reducible apply State.dirtyDown_keeps | with_reducible apply State.dirtyUp_keeps
    | with_reducible apply Keeps.modSlice | with_reducible apply readCtl_keeps | with_reducible apply Slice.setCtl_warr
    | with_reducible apply Slice.setTag_warr | (intro) | split

theorem mirrorSet_keeps {k : Nat} {set : Nat} {slot : Nat} {ltag : BitVec 35} {e : Nat} {s₀ s : State} (hk : Keeps s₀ s) :
    Keeps s₀ (mirrorSet k set slot ltag e s) := by
  unfold mirrorSet
  repeat' first
    | with_reducible assumption | with_reducible apply State.sliceToSlice_keeps

theorem mirrorClr_keeps {k : Nat} {set : Nat} {slot : Nat} {ltag : BitVec 35} {s₀ s : State} (hk : Keeps s₀ s) :
    Keeps s₀ (mirrorClr k set slot ltag s) := by
  unfold mirrorClr
  repeat' first
    | with_reducible assumption | with_reducible apply State.sliceToSlice_keeps | split

theorem endWriteThrough_keeps {k : Nat} {s₀ s : State} (hk : Keeps s₀ s) : Keeps s₀ (endWriteThrough k s) := by
  unfold endWriteThrough
  repeat' first
    | with_reducible assumption | extract_lets | with_reducible apply Keeps.setSlice | with_reducible apply WArr.slice | split
    | with_reducible apply WArr.upd

theorem State.memQueue_keeps {c : MemCmd} {s₀ s : State} (hk : Keeps s₀ s) : Keeps s₀ (State.memQueue s c) := by
  unfold State.memQueue
  repeat' first
    | with_reducible assumption | with_reducible apply Keeps.modMp

theorem memRead_keeps {k : Nat} {e : Nat} {l : LAddr} {cidx : BitVec 2} {specu : Bool} {s₀ s : State} (hk : Keeps s₀ s) :
    Keeps s₀ (memRead k e l cidx specu s) := by
  unfold memRead
  repeat' first
    | with_reducible assumption | extract_lets | with_reducible apply Slice.count_warr | with_reducible apply State.memQueue_keeps
    | with_reducible apply Keeps.modSlice | (intro) | split

theorem memWrite_keeps {k : Nat} {owner : MemFor} {l : LAddr} {d : Line} {poison : Bool} {s₀ s : State} (hk : Keeps s₀ s) :
    Keeps s₀ (memWrite k owner l d poison s) := by
  unfold memWrite
  repeat' first
    | with_reducible assumption | extract_lets | with_reducible apply Slice.count_warr | with_reducible apply State.memQueue_keeps
    | with_reducible apply Keeps.modSlice

theorem memWriteThru_keeps {k : Nat} {owner : MemFor} {l : LAddr} {d : Line} {poison : Bool} {s₀ s : State} (hk : Keeps s₀ s) :
    Keeps s₀ (memWriteThru k owner l d poison s) := by
  unfold memWriteThru
  repeat' first
    | with_reducible assumption | extract_lets | with_reducible apply Slice.count_warr | with_reducible apply State.memQueue_keeps
    | with_reducible apply Keeps.modSlice | (intro) | with_reducible apply WArr.upd

theorem memWriteP_keeps {k : Nat} {owner : MemFor} {l : LAddr} {d : Line} {be : BitVec 64} {s₀ s : State} (hk : Keeps s₀ s) :
    Keeps s₀ (memWriteP k owner l d be s) := by
  unfold memWriteP
  repeat' first
    | with_reducible assumption | extract_lets | with_reducible apply Slice.count_warr | with_reducible apply State.memQueue_keeps
    | with_reducible apply Keeps.modSlice

theorem dropSlot_keeps {k : Nat} {set : Nat} {slot : Nat} {s₀ s : State} (hk : Keeps s₀ s) : Keeps s₀ (dropSlot k set slot s) := by
  unfold dropSlot
  repeat' first
    | with_reducible assumption | extract_lets | with_reducible apply mirrorClr_keeps | with_reducible apply writeTag_keeps | split

theorem poisonSlot_keeps {k : Nat} {set : Nat} {slot : Nat} {acc : Nat} {owner : MemFor} {s₀ s : State} (hk : Keeps s₀ s) :
    Keeps s₀ (poisonSlot k set slot acc owner s) := by
  unfold poisonSlot
  repeat' first
    | with_reducible assumption | extract_lets | with_reducible apply memWrite_keeps | with_reducible apply mirrorClr_keeps
    | with_reducible apply Keeps.modSlice | with_reducible apply raise_keeps | with_reducible apply writeTag_keeps | (intro)
    | with_reducible apply WArr.upd

theorem readData_keeps {k : Nat} {set : Nat} {acc : Nat} {owner : MemFor} {slot : Nat} {s₀ s : State} (hk : Keeps s₀ s) :
    Keeps s₀ (readData k set acc owner s slot) := by
  unfold readData
  repeat' first
    | with_reducible assumption | extract_lets | with_reducible apply correctWord_keeps | with_reducible apply dropSlot_keeps
    | with_reducible apply Keeps.each | with_reducible apply poisonSlot_keeps | with_reducible apply raise_keeps | (intro) | split

theorem victimize_keeps {k : Nat} {set : Nat} {slot : Nat} {cmd : Option Nat} {s₀ s : State} (hk : Keeps s₀ s) :
    Keeps s₀ (victimize k set slot cmd s) := by
  unfold victimize
  repeat' first
    | with_reducible assumption | extract_lets | with_reducible apply Slice.count_warr | with_reducible apply memWrite_keeps
    | with_reducible apply Keeps.modSlice | with_reducible apply writeTag_keeps | (intro) | with_reducible apply WArr.upd

theorem evictFor_keeps {k : Nat} {set : Nat} {slot : Nat} {cmd : Option Nat} {s₀ s : State} (hk : Keeps s₀ s) :
    Keeps s₀ (evictFor k set slot cmd s) := by
  unfold evictFor
  repeat' first
    | with_reducible assumption | extract_lets | with_reducible apply dropSlot_keeps | with_reducible apply Keeps.modSlice
    | with_reducible apply readData_keeps | with_reducible apply victimize_keeps | (intro) | split | with_reducible apply WArr.upd

theorem evictSlot_keeps {k : Nat} {set : Nat} {slot : Nat} {s₀ s : State} (hk : Keeps s₀ s) : Keeps s₀ (evictSlot k set slot s) := by
  unfold evictSlot
  repeat' first
    | with_reducible assumption | with_reducible apply evictFor_keeps

theorem evictWay_keeps {k : Nat} {set : Nat} {way : Nat} {s₀ s : State} (hk : Keeps s₀ s) : Keeps s₀ (evictWay k set way s) := by
  unfold evictWay
  repeat' first
    | with_reducible assumption | extract_lets | with_reducible apply evictSlot_keeps

theorem writeSlot_keeps {k : Nat} {l : LAddr} {f : Fill} {slot : Nat} {s₀ s : State} (hk : Keeps s₀ s) :
    Keeps s₀ (writeSlot k l f slot s) := by
  unfold writeSlot
  repeat' first
    | with_reducible assumption | extract_lets | with_reducible apply Slice.count_warr | with_reducible apply Keeps.modSlice
    | with_reducible apply Slice.setCtl_warr | with_reducible apply Slice.storeData_warr | with_reducible apply writeTag_keeps | (intro)
    | split | with_reducible apply WArr.upd

theorem freeOld_keeps {k : Nat} {set : Nat} {old : Option Nat} {moved : Bool} {s₀ s : State} (hk : Keeps s₀ s) :
    Keeps s₀ (freeOld k set old moved s) := by
  unfold freeOld
  repeat' first
    | with_reducible assumption | with_reducible apply writeTag_keeps | split

theorem placeAt_keeps {k : Nat} {l : LAddr} {f : Fill} {old : Option Nat} {moved : Bool} {spot : Spot} {s₀ s : State} (h : Keeps s₀ s) :
    Keeps s₀ (placeAt k l f old moved spot s).state := by
  have freed : Keeps s₀ (freeOld k (hcSet l) old moved s) := freeOld_keeps h
  unfold placeAt
  cases spot with
  | slot t => exact writeSlot_keeps freed
  | evict w =>
    dsimp only
    refine writeSlot_keeps ?_
    split
    · exact (evictWay_keeps freed).modSlice (fun v hv => Slice.setCtl_warr hv)
    · exact evictWay_keeps freed
  | bypass =>
    have counted := freed.modSlice (k := k) (fun v hv => Slice.count_warr (hk := hv) (ev := 0x35) (n := 1))
    dsimp only
    split
    · split
      · exact mirrorClr_keeps counted
      · exact counted
    · exact counted

theorem placeLine_keeps {k : Nat} {l : LAddr} {f : Fill} {s₀ s : State} (h : Keeps s₀ s) : Keeps s₀ (placeLine k l f s).state :=
  placeAt_keeps (readCtl_keeps h)

theorem touchHit_keeps {k : Nat} {l : LAddr} {slot : Nat} {s₀ s : State} (hk : Keeps s₀ s) : Keeps s₀ (touchHit k l slot s) := by
  unfold touchHit
  repeat' first
    | with_reducible assumption | extract_lets | with_reducible apply Keeps.modSlice | with_reducible apply Slice.setCtl_warr
    | with_reducible apply Slice.setTag_warr | (intro) | split | with_reducible apply WArr.upd

theorem cleanSlot_keeps {k : Nat} {l : LAddr} {s₀ s : State} (hk : Keeps s₀ s) : Keeps s₀ (cleanSlot k l s) := by
  unfold cleanSlot
  repeat' first
    | with_reducible assumption | extract_lets | with_reducible apply mirrorClr_keeps | with_reducible apply writeTag_keeps | split

theorem clearHeld_keeps {k : Nat} {l : LAddr} {s₀ s : State} (hk : Keeps s₀ s) : Keeps s₀ (clearHeld k l s) := by
  unfold clearHeld
  repeat' first
    | with_reducible assumption | extract_lets | with_reducible apply Keeps.modSlice | with_reducible apply Slice.setTag_warr | (intro)
    | split

theorem readMirror_keeps {k : Nat} {set : Nat} {acc : Nat} {s₀ s : State} (hk : Keeps s₀ s) : Keeps s₀ (readMirror k set acc s) := by
  unfold readMirror
  repeat' first
    | with_reducible assumption | extract_lets | with_reducible apply correctWord_keeps | with_reducible apply Keeps.each
    | with_reducible apply Keeps.modSlice | (intro) | split | with_reducible apply WArr.upd

theorem lostTag_keeps {k : Nat} {set : Nat} {slot : Nat} {acc : Nat} {s₀ s : State} (hk : Keeps s₀ s) :
    Keeps s₀ (lostTag k set slot acc s) := by
  unfold lostTag
  repeat' first
    | with_reducible assumption | extract_lets | with_reducible apply Slice.enter_warr | with_reducible apply mirrorClr_keeps
    | with_reducible apply Keeps.modSlice | with_reducible apply raise_keeps | with_reducible apply readMirror_keeps
    | with_reducible apply writeTag_keeps | (intro) | split

theorem readTag_keeps {k : Nat} {set : Nat} {acc : Nat} {slot : Nat} {s₀ s : State} (hk : Keeps s₀ s) :
    Keeps s₀ (readTag k set acc s slot) := by
  unfold readTag
  repeat' first
    | with_reducible assumption | extract_lets | with_reducible apply correctWord_keeps | with_reducible apply lostTag_keeps | split

theorem hcScan_keeps {k : Nat} {acc : Nat} {s₀ s : State} (hk : Keeps s₀ s) : Keeps s₀ (hcScan k acc s) := by
  unfold hcScan
  repeat' first
    | with_reducible assumption | with_reducible exact Keeps.refl _ | exact id | extract_lets | with_reducible apply Keeps.each
    | with_reducible apply readCtl_keeps | with_reducible apply readTag_keeps | with_reducible apply WArr.slice
    | with_reducible exact WArr.init _ | (intro) | split | with_reducible apply Keeps.upd | with_reducible apply WArr.upd

theorem hcReadFor_keeps {k : Nat} {l : LAddr} {acc : Nat} {owner : MemFor} {s₀ s : State} (hk : Keeps s₀ s) :
    Keeps s₀ (hcReadFor k l acc owner s) := by
  unfold hcReadFor
  repeat' first
    | with_reducible assumption | extract_lets | with_reducible apply Keeps.each | with_reducible apply readCtl_keeps
    | with_reducible apply readData_keeps | with_reducible apply readTag_keeps | (intro) | split

/-! ### Machine/Credits.lean -/

theorem State.setIngress_keeps {i : Nat} {l : List IngEntry} {s₀ s : State} (hk : Keeps s₀ s) : Keeps s₀ (State.setIngress s i l) := by
  unfold State.setIngress
  repeat' first
    | with_reducible assumption | with_reducible apply Keeps.modCa | with_reducible apply Keeps.modLink | split

theorem State.setCredAt_keeps {i : Nat} {k : Nat} {c : SlCred} {s₀ s : State} (hk : Keeps s₀ s) : Keeps s₀ (State.setCredAt s i k c) := by
  unfold State.setCredAt
  repeat' first
    | with_reducible assumption | with_reducible apply Keeps.modCa | with_reducible apply Keeps.modLink | split

theorem sendCredits_keeps {k : Nat} {i : Nat} {c : CredKind} {n : Nat} {s₀ s : State} (hk : Keeps s₀ s) :
    Keeps s₀ (sendCredits k i c n s) := by
  unfold sendCredits
  repeat' first
    | with_reducible assumption | with_reducible apply State.fromSlice_keeps | split

theorem sendCredit_keeps {k : Nat} {i : Nat} {c : CredKind} {s₀ s : State} (hk : Keeps s₀ s) : Keeps s₀ (sendCredit k i c s) := by
  unfold sendCredit
  repeat' first
    | with_reducible assumption | with_reducible apply sendCredits_keeps

theorem noteDemand_keeps {k : Nat} {s₀ s : State} (hk : Keeps s₀ s) : Keeps s₀ (noteDemand k s) := by
  unfold noteDemand
  repeat' first
    | with_reducible assumption | extract_lets | with_reducible apply Keeps.modSlice | (intro) | with_reducible apply WArr.upd

theorem grantShared_keeps {k n : Nat} {s₀ s : State} (h : Keeps s₀ s) : Keeps s₀ (grantShared k n s) := by
  induction n generalizing s with
  | zero => exact h
  | succ n ih =>
    unfold grantShared
    dsimp only
    split
    · split
      · exact h
      · exact ih (sendCredit_keeps (h.modSlice (fun v hv => hv.upd)))
    · exact h

theorem grantData_keeps {k n : Nat} {s₀ s : State} (h : Keeps s₀ s) : Keeps s₀ (grantData k n s) := by
  induction n generalizing s with
  | zero => exact h
  | succ n ih =>
    unfold grantData
    dsimp only
    split
    · split
      · exact h
      · exact ih (sendCredit_keeps (h.modSlice (fun v hv => hv.upd)))
    · exact h

theorem grantRun_keeps {k : Nat} {s₀ s : State} (hk : Keeps s₀ s) : Keeps s₀ (grantRun k s) := by
  unfold grantRun
  repeat' first
    | with_reducible assumption | extract_lets | with_reducible apply grantData_keeps | with_reducible apply grantShared_keeps
    | with_reducible apply noteDemand_keeps | split

theorem returnTracker_keeps {k : Nat} {i : Nat} {c : CredKind} {s₀ s : State} (hk : Keeps s₀ s) : Keeps s₀ (returnTracker k i c s) := by
  unfold returnTracker
  repeat' first
    | with_reducible assumption | extract_lets | with_reducible apply Keeps.modSlice | with_reducible apply sendCredit_keeps | (intro)
    | split | with_reducible apply WArr.upd

theorem returnWb_keeps {k : Nat} {i : Nat} {c : CredKind} {s₀ s : State} (hk : Keeps s₀ s) : Keeps s₀ (returnWb k i c s) := by
  unfold returnWb
  repeat' first
    | with_reducible assumption | extract_lets | with_reducible apply grantRun_keeps | with_reducible apply Keeps.modSlice
    | with_reducible apply sendCredit_keeps | (intro) | split | with_reducible apply WArr.upd

theorem restartSpan_keeps {i : Nat} {k : Nat} {s₀ s : State} (hk : Keeps s₀ s) : Keeps s₀ (restartSpan i k s) := by
  unfold restartSpan
  repeat' first
    | with_reducible assumption | with_reducible exact Keeps.refl _ | exact id | extract_lets
    | with_reducible apply State.setCredAt_keeps | with_reducible apply WArr.slice | with_reducible exact WArr.init _ | (intro) | split
    | with_reducible apply Keeps.upd | with_reducible apply WArr.upd

theorem endWait_keeps {i : Nat} {k : Nat} {s₀ s : State} (hk : Keeps s₀ s) : Keeps s₀ (endWait i k s) := by
  unfold endWait
  repeat' first
    | with_reducible assumption | with_reducible apply restartSpan_keeps | split

theorem endWaits_keeps {old : State} {s₀ s : State} (hk : Keeps s₀ s) : Keeps s₀ (endWaits old s) := by
  unfold endWaits
  repeat' first
    | with_reducible assumption | extract_lets | with_reducible apply Keeps.each | with_reducible apply endWait_keeps
    | with_reducible apply Keeps.foldl | (intro) | split

theorem Slice.takeSnp_warr {i : Nat} {s₀ : State} {v : Slice} (hk : WArr s₀ v) : WArr s₀ (Slice.takeSnp v i) := by
  unfold Slice.takeSnp
  repeat' first
    | with_reducible assumption | with_reducible apply WArr.upd

theorem Slice.freeSnp_warr {i : Nat} {s₀ : State} {v : Slice} (hk : WArr s₀ v) : WArr s₀ (Slice.freeSnp v i) := by
  unfold Slice.freeSnp
  repeat' first
    | with_reducible assumption | with_reducible apply WArr.upd

theorem sendMarks_keeps {k : Nat} {s₀ s : State} (hk : Keeps s₀ s) : Keeps s₀ (sendMarks k s) := by
  unfold sendMarks
  repeat' first
    | with_reducible assumption | with_reducible exact Keeps.refl _ | exact id | extract_lets
    | with_reducible apply State.fromSlice_keeps | with_reducible apply Keeps.modSlice | with_reducible apply Slice.takeSnp_warr
    | with_reducible apply Keeps.foldl | with_reducible apply WArr.foldl | with_reducible apply WArr.slice
    | with_reducible exact WArr.init _ | (intro) | split | with_reducible apply Keeps.upd | with_reducible apply WArr.upd

theorem giveSnp_keeps {k : Nat} {i : Nat} {s₀ s : State} (hk : Keeps s₀ s) : Keeps s₀ (giveSnp k i s) := by
  unfold giveSnp
  repeat' first
    | with_reducible assumption | extract_lets | with_reducible apply Slice.freeSnp_warr | with_reducible apply Keeps.modSlice
    | with_reducible apply sendMarks_keeps

/-! ### Machine/Engine.lean -/

theorem Slice.wroteBuf_warr {e : Nat} {ws : List Nat} {s₀ : State} {v : Slice} (hk : WArr s₀ v) : WArr s₀ (Slice.wroteBuf v e ws) := by
  unfold Slice.wroteBuf
  repeat' first
    | with_reducible assumption | extract_lets | with_reducible apply Slice.heal_warr | with_reducible apply WArr.foldl | (intro)

theorem readBufWord_keeps {k : Nat} {e : Nat} {l : LAddr} {a : Aid} {acc : Nat} {w : Nat} {s₀ s : State} (hk : Keeps s₀ s) :
    Keeps s₀ (readBufWord k e l a acc s w) := by
  unfold readBufWord
  repeat' first
    | with_reducible assumption | extract_lets | with_reducible apply Slice.heal_warr | with_reducible apply Keeps.modSlice
    | with_reducible apply State.modTxn_keeps | with_reducible apply raise_keeps | (intro) | split | with_reducible apply WArr.upd

theorem readBuf_keeps {k : Nat} {e : Nat} {ws : List Nat} {s₀ s : State} (hk : Keeps s₀ s) : Keeps s₀ (readBuf k e ws s) := by
  unfold readBuf
  repeat' first
    | with_reducible assumption | extract_lets | with_reducible apply Keeps.each | with_reducible apply readBufWord_keeps | (intro)
    | split

theorem reply_keeps {k : Nat} {t : Txn} {v : VC} {m : Msg} {s₀ s : State} (hk : Keeps s₀ s) : Keeps s₀ (reply k t v m s) := by
  unfold reply
  repeat' first
    | with_reducible assumption | with_reducible apply State.fromSlice_keeps

theorem sendChunk_keeps {k : Nat} {e : Nat} {i : Nat} {s₀ s : State} (hk : Keeps s₀ s) : Keeps s₀ (sendChunk k e s i) := by
  unfold sendChunk
  repeat' first
    | with_reducible assumption | extract_lets | with_reducible apply State.modTxn_keeps | with_reducible apply readBuf_keeps
    | with_reducible apply reply_keeps | split

theorem deliver_keeps {k : Nat} {e : Nat} {s₀ s : State} (hk : Keeps s₀ s) : Keeps s₀ (deliver k e s) := by
  unfold deliver
  repeat' first
    | with_reducible assumption | extract_lets | with_reducible apply Keeps.each | with_reducible apply sendChunk_keeps | (intro)
    | split

theorem sendErr_keeps {k : Nat} {e : Nat} {reason : BitVec 8} {s₀ s : State} (hk : Keeps s₀ s) : Keeps s₀ (sendErr k e reason s) := by
  unfold sendErr
  repeat' first
    | with_reducible assumption | with_reducible exact Keeps.refl _ | exact id | extract_lets | with_reducible apply State.modTxn_keeps
    | with_reducible apply reply_keeps | with_reducible apply WArr.slice | with_reducible exact WArr.init _ | (intro) | split
    | with_reducible apply Keeps.upd | with_reducible apply WArr.upd

theorem sendCmp_keeps {k : Nat} {e : Nat} {s₀ s : State} (hk : Keeps s₀ s) : Keeps s₀ (sendCmp k e s) := by
  unfold sendCmp
  repeat' first
    | with_reducible assumption | extract_lets | with_reducible apply State.modTxn_keeps | with_reducible apply reply_keeps | split

theorem wbAck_keeps {k : Nat} {w : WbMsg} {superseded : Bool} {s₀ s : State} (hk : Keeps s₀ s) : Keeps s₀ (wbAck k w superseded s) := by
  unfold wbAck
  repeat' first
    | with_reducible assumption | extract_lets | with_reducible apply State.fromSlice_keeps | with_reducible apply returnWb_keeps

theorem fetchHome_keeps {k : Nat} {e : Nat} {s₀ s : State} (hk : Keeps s₀ s) : Keeps s₀ (fetchHome k e s) := by
  unfold fetchHome
  split
  · exact hk
  · split
    · exact hk
    · dsimp only
      split
      · exact State.modTxn_keeps hk
      · split
        · exact Keeps.modSlice (State.modTxn_keeps hk) (fun v hv => Slice.wroteBuf_warr hv)
        · split
          · exact Keeps.modSlice (State.modTxn_keeps (Keeps.each hk (fun s x h => readBufWord_keeps h)))
              (fun v hv => Slice.count_warr (Slice.wroteBuf_warr hv))
          · exact memRead_keeps (State.modTxn_keeps hk)

theorem voidReads_keeps {k : Nat} {e : Nat} {l : LAddr} {s₀ s : State} (hk : Keeps s₀ s) : Keeps s₀ (voidReads k e l s) := by
  unfold voidReads
  repeat' first
    | with_reducible assumption | with_reducible apply Keeps.modMp

theorem endSpec_keeps {k : Nat} {t : Txn} {s₀ s : State} (hk : Keeps s₀ s) : Keeps s₀ (endSpec k t s) := by
  unfold endSpec
  repeat' first
    | with_reducible assumption | with_reducible exact Keeps.refl _ | exact id | extract_lets | with_reducible apply Slice.count_warr
    | with_reducible apply Keeps.modSlice | with_reducible apply voidReads_keeps | with_reducible apply WArr.slice
    | with_reducible exact WArr.init _ | (intro) | split | with_reducible apply Keeps.upd | with_reducible apply WArr.upd

theorem endDiscovery_keeps {k : Nat} {e : Nat} {t : Txn} {s₀ s : State} (hk : Keeps s₀ s) : Keeps s₀ (endDiscovery k e t s) := by
  unfold endDiscovery
  repeat' first
    | with_reducible assumption | extract_lets | with_reducible apply Keeps.modSlice | with_reducible apply State.modTxn_keeps | (intro)
    | with_reducible apply WArr.upd

theorem settle_keeps {k : Nat} {e : Nat} {s₀ s : State} (hk : Keeps s₀ s) : Keeps s₀ (settle k e s) := by
  unfold settle
  repeat' first
    | with_reducible assumption | exact id | extract_lets | with_reducible apply endDiscovery_keeps | with_reducible apply endSpec_keeps
    | with_reducible apply raiseAll_keeps | with_reducible apply Keeps.setSlice | with_reducible apply Slice.setTxn_warr
    | with_reducible apply WArr.slice | split | with_reducible apply Keeps.upd

theorem arrivedHome_keeps {k : Nat} {e : Nat} {s₀ s : State} (hk : Keeps s₀ s) : Keeps s₀ (arrivedHome k e s) := by
  unfold arrivedHome
  repeat' first
    | with_reducible assumption | extract_lets | with_reducible apply State.modTxn_keeps | split

theorem complete_keeps {k : Nat} {e : Nat} {s₀ s : State} (hk : Keeps s₀ s) : Keeps s₀ (complete k e s) := by
  unfold complete
  repeat' first
    | with_reducible assumption | extract_lets | with_reducible apply State.modTxn_keeps | with_reducible apply sendCmp_keeps
    | with_reducible apply wbAck_keeps | split

theorem shed_keeps {k : Nat} {e : Nat} {s₀ s : State} (hk : Keeps s₀ s) : Keeps s₀ (shed k e s) := by
  unfold shed
  repeat' first
    | with_reducible assumption | extract_lets | with_reducible apply grantRun_keeps | with_reducible apply Keeps.modSlice
    | with_reducible apply State.modTxn_keeps | (intro) | split | with_reducible apply WArr.upd

theorem advance_keeps {k : Nat} {e : Nat} {s₀ s : State} (hk : Keeps s₀ s) : Keeps s₀ (advance k e s) := by
  unfold advance
  repeat' first
    | with_reducible assumption | with_reducible exact Keeps.refl _ | exact id | extract_lets | with_reducible apply arrivedHome_keeps
    | with_reducible apply complete_keeps | with_reducible apply deliver_keeps | with_reducible apply fetchHome_keeps
    | with_reducible apply settle_keeps | with_reducible apply shed_keeps | with_reducible apply WArr.slice
    | with_reducible exact WArr.init _ | (intro) | split | with_reducible apply Keeps.upd | with_reducible apply WArr.upd

theorem decideAbsorbed_keeps {k : Nat} {e : Nat} {a : Aid} {superseded : Bool} {s₀ s : State} (hk : Keeps s₀ s) :
    Keeps s₀ (decideAbsorbed k e a superseded s) := by
  unfold decideAbsorbed
  repeat' first
    | with_reducible assumption | extract_lets | with_reducible apply Keeps.modSlice | with_reducible apply State.modTxn_keeps
    | with_reducible apply wbAck_keeps | with_reducible apply Keeps.foldl | (intro) | split | with_reducible apply WArr.upd

theorem addResp_keeps {k : Nat} {e : Nat} {r : Resp} {s₀ s : State} (hk : Keeps s₀ s) : Keeps s₀ (addResp k e r s) := by
  unfold addResp
  repeat' first
    | with_reducible assumption | with_reducible apply State.modTxn_keeps

theorem loseLine_keeps {k : Nat} {e : Nat} {r : Resp} {s₀ s : State} (hk : Keeps s₀ s) : Keeps s₀ (loseLine k e r s) := by
  unfold loseLine
  repeat' first
    | with_reducible assumption | extract_lets | with_reducible apply addResp_keeps | with_reducible apply State.modTxn_keeps

theorem resolveSnoop_keeps {k : Nat} {e : Nat} {p : SnpTodo} {s₀ s : State} (hk : Keeps s₀ s) : Keeps s₀ (resolveSnoop k e p s) := by
  unfold resolveSnoop
  dsimp only
  repeat' first
    | with_reducible assumption | with_reducible apply addResp_keeps | with_reducible apply advance_keeps
    | with_reducible apply decideAbsorbed_keeps | with_reducible apply loseLine_keeps | with_reducible apply State.modTxn_keeps
    | with_reducible apply raise_keeps | split

theorem ownerLost_keeps {k : Nat} {e : Nat} {t : Txn} {p : SnpTodo} {r : Resp} {s₀ s : State} (hk : Keeps s₀ s) :
    Keeps s₀ (ownerLost k e t p r s) := by
  unfold ownerLost
  repeat' first
    | with_reducible assumption | extract_lets | with_reducible apply addResp_keeps | with_reducible apply loseLine_keeps
    | with_reducible apply raiseAll_keeps | split

theorem countResp_keeps {k : Nat} {t : Txn} {p : SnpTodo} {r : Resp} {s₀ s : State} (hk : Keeps s₀ s) : Keeps s₀ (countResp k t p r s) := by
  unfold countResp
  repeat' first
    | with_reducible assumption | extract_lets | with_reducible apply Slice.count_warr | with_reducible apply Keeps.modSlice | (intro)
    | split | with_reducible apply WArr.upd

theorem takeResp_keeps {k : Nat} {e : Nat} {o : SnpOut} {r : Resp} {s₀ s : State} (hk : Keeps s₀ s) : Keeps s₀ (takeResp k e o r s) := by
  unfold takeResp
  repeat' first
    | with_reducible assumption | exact id | extract_lets | with_reducible apply addResp_keeps | with_reducible apply advance_keeps
    | with_reducible apply countResp_keeps | with_reducible apply decideAbsorbed_keeps | with_reducible apply giveSnp_keeps
    | with_reducible apply State.modTxn_keeps | with_reducible apply ownerLost_keeps | with_reducible apply raise_keeps | split
    | with_reducible apply Keeps.upd

end Sys2Proof.Machine
end

