-- ==== Sys2Proof/Laws/KeepsTxn.lean ====
section
/-! SUPPORT. Sys2Proof/Laws/KeepsTxn.lean: the operations and commands of Machine/Txn.lean, MemPort.lean, Unreach.lean, CaPort.lean, Mesh.lean keep what every command keeps. -/

namespace Sys2Proof.Machine

/-! ### Machine/Txn.lean -/

theorem State.takeAtSlice_keeps {k : Nat} {vc : VC} {gt : Bool} {s₀ s : State} (hk : Keeps s₀ s) :
    Keeps s₀ (State.takeAtSlice s k vc gt) := by
  unfold State.takeAtSlice
  repeat' first
    | with_reducible assumption | with_reducible apply State.dropArrived_keeps

theorem takeSlot_keeps {k : Nat} {wasted : Bool} {evs : List Nat} {s₀ s : State} (hk : Keeps s₀ s) :
    Keeps s₀ (takeSlot k wasted evs s) := by
  unfold takeSlot
  repeat' first
    | with_reducible assumption | extract_lets | with_reducible apply Slice.count_warr | with_reducible apply Keeps.modSlice
    | with_reducible apply Slice.slot_warr | with_reducible apply WArr.foldl | (intro)

theorem noteStale_keeps {k : Nat} {e : Nat} {src : Nat} {s₀ s : State} (hk : Keeps s₀ s) : Keeps s₀ (noteStale k e src s) := by
  unfold noteStale
  repeat' first
    | with_reducible assumption | with_reducible exact Keeps.refl _ | exact id | extract_lets | with_reducible apply Keeps.modCa
    | with_reducible apply WArr.slice | with_reducible exact WArr.init _ | (intro) | split | with_reducible apply Keeps.upd
    | with_reducible apply WArr.upd

theorem takeRequest_keeps {k : Nat} {gt : Bool} {gtc : Nat} {q : Req} {d : LineBuf} {be : BitVec 64} {src : Nat} {cred : CredKind} {wbCred : CredKind} {s₀ s : State} (hk : Keeps s₀ s) :
    Keeps s₀ (takeRequest k gt gtc q d be src cred wbCred s) := by
  unfold takeRequest
  repeat' first
    | with_reducible assumption | with_reducible exact Keeps.refl _ | exact id | extract_lets | with_reducible apply Slice.enter_warr
    | with_reducible apply noteStale_keeps | with_reducible apply Keeps.setSlice | with_reducible apply takeSlot_keeps
    | with_reducible apply WArr.slice | with_reducible exact WArr.init _ | (intro) | split | with_reducible apply Keeps.upd
    | with_reducible apply WArr.upd

theorem execSliceInputRequest_keeps {k : Nat} {gt : Bool} {s₀ s : State} (hk : Keeps s₀ s) :
    OutKeeps s₀ (execSliceInputRequest k gt s) := by
  unfold execSliceInputRequest
  repeat' first
    | with_reducible assumption | with_reducible exact Keeps.refl _ | exact id | extract_lets | with_reducible exact OutKeeps.fault _ _
    | with_reducible exact OutKeeps.refused _ _ | with_reducible apply OutKeeps.next | with_reducible apply Keeps.modSlice
    | with_reducible apply State.takeAtSlice_keeps | with_reducible apply takeRequest_keeps | with_reducible apply WArr.slice
    | with_reducible exact WArr.init _ | (intro) | split | with_reducible apply Keeps.upd | with_reducible apply WArr.upd

theorem recoverLine_keeps {k e : Nat} {l : LAddr} {s₀ s : State} (h : Keeps s₀ s) : Keeps s₀ (recoverLine k e l s) := by
  unfold recoverLine
  dsimp only
  split
  · split
    · exact poisonSlot_keeps (State.modTxn_keeps h)
    · exact State.modTxn_keeps h
  · exact State.modTxn_keeps h

theorem begin__keeps {k : Nat} {e : Nat} {s₀ s : State} (hk : Keeps s₀ s) : Keeps s₀ (begin_ k e s) := by
  unfold begin_
  repeat' first
    | with_reducible assumption | exact id | extract_lets | with_reducible apply advance_keeps | with_reducible apply clearHeld_keeps
    | with_reducible apply memRead_keeps | with_reducible apply Keeps.modSlice | with_reducible apply State.modTxn_keeps
    | with_reducible apply recoverLine_keeps | (intro) | split | with_reducible apply Keeps.upd | with_reducible apply WArr.upd

theorem actOn_keeps {k : Nat} {e : Nat} {s₀ s : State} (hk : Keeps s₀ s) : Keeps s₀ (actOn k e s) := by
  unfold actOn
  repeat' first
    | with_reducible assumption | extract_lets | with_reducible apply begin__keeps | with_reducible apply State.modTxn_keeps | split

theorem decideWb_keeps {k : Nat} {e : Nat} {s₀ s : State} (hk : Keeps s₀ s) : Keeps s₀ (decideWb k e s) := by
  unfold decideWb
  repeat' first
    | with_reducible assumption | exact id | extract_lets | with_reducible apply advance_keeps | with_reducible apply State.modTxn_keeps
    | with_reducible apply raise_keeps | with_reducible apply wbAck_keeps | split | with_reducible apply Keeps.upd

theorem giveUp_keeps {k : Nat} {e : Nat} {s₀ s : State} (hk : Keeps s₀ s) : Keeps s₀ (giveUp k e s) := by
  unfold giveUp
  repeat' first
    | with_reducible assumption | extract_lets | with_reducible apply Keeps.modSlice | with_reducible apply State.modTxn_keeps | (intro)
    | split | with_reducible apply WArr.upd

theorem yieldTo_keeps {k : Nat} {e : Nat} {f : Txn} {s₀ s : State} (hk : Keeps s₀ s) : Keeps s₀ (yieldTo k e f s) := by
  unfold yieldTo
  repeat' first
    | with_reducible assumption | extract_lets | with_reducible apply Keeps.modSlice | with_reducible apply State.modTxn_keeps | (intro)
    | split | with_reducible apply WArr.upd

theorem lookupReads_keeps {k e : Nat} {t : Txn} {s₀ s : State} (h : Keeps s₀ s) : Keeps s₀ (lookupReads k e t s) := by
  have r := sfReadSet_keeps (k := k) (set := sfSet t.l) (acc := t.acc) (sfParityCheck_keeps (k := k) (set := sfSet t.l) (acc := accInt) h)
  unfold lookupReads
  dsimp only
  split
  · exact r
  · exact hcReadFor_keeps r

theorem touchWay_keeps {k : Nat} {t : Txn} {s₀ s : State} (hk : Keeps s₀ s) : Keeps s₀ (touchWay k t s) := by
  unfold touchWay
  repeat' first
    | with_reducible assumption | extract_lets | with_reducible apply Keeps.modSlice | with_reducible apply Slice.sfTouch_warr | split

theorem settleAbsorbed_keeps {k : Nat} {e : Nat} {s₀ s : State} (hk : Keeps s₀ s) : Keeps s₀ (settleAbsorbed k e s) := by
  unfold settleAbsorbed
  repeat' first
    | with_reducible assumption | extract_lets | with_reducible apply Keeps.modSlice | with_reducible apply State.modTxn_keeps | (intro)
    | split | with_reducible apply WArr.upd

theorem activateReq_keeps {k : Nat} {e : Nat} {t : Txn} {s₀ s : State} (hk : Keeps s₀ s) : Keeps s₀ (activateReq k e t s) := by
  unfold activateReq
  dsimp only
  repeat' first
    | with_reducible assumption | with_reducible apply actOn_keeps | with_reducible apply Slice.count_warr
    | with_reducible apply giveUp_keeps | with_reducible apply lookupReads_keeps | with_reducible apply Keeps.modSlice
    | with_reducible apply State.modTxn_keeps | with_reducible apply raise_keeps | with_reducible apply sendErr_keeps
    | with_reducible apply Keeps.setSlice | with_reducible apply Slice.setTxn_warr | with_reducible apply settleAbsorbed_keeps
    | with_reducible apply touchHit_keeps | with_reducible apply touchWay_keeps | with_reducible apply yieldTo_keeps
    | with_reducible apply WArr.foldl | with_reducible apply WArr.slice | (intro) | split

theorem activateFlow_keeps {k : Nat} {e : Nat} {t : Txn} {s₀ s : State} (hk : Keeps s₀ s) : Keeps s₀ (activateFlow k e t s) := by
  unfold activateFlow
  repeat' first
    | with_reducible assumption | with_reducible exact Keeps.refl _ | exact id | extract_lets | with_reducible apply actOn_keeps
    | with_reducible apply Slice.count_warr | with_reducible apply decideWb_keeps | with_reducible apply giveUp_keeps
    | with_reducible apply lookupReads_keeps | with_reducible apply Keeps.modSlice | with_reducible apply Keeps.setSlice
    | with_reducible apply Slice.setTxn_warr | with_reducible apply settleAbsorbed_keeps | with_reducible apply touchWay_keeps
    | with_reducible apply yieldTo_keeps | with_reducible apply WArr.slice | with_reducible exact WArr.init _ | (intro) | split
    | with_reducible apply Keeps.upd | with_reducible apply WArr.upd

theorem activateBack_keeps {k : Nat} {e : Nat} {t : Txn} {s₀ s : State} (hk : Keeps s₀ s) : Keeps s₀ (activateBack k e t s) := by
  unfold activateBack
  repeat' first
    | with_reducible assumption | extract_lets | with_reducible apply actOn_keeps | with_reducible apply Keeps.setSlice
    | with_reducible apply Slice.setTxn_warr | with_reducible apply settleAbsorbed_keeps | with_reducible apply WArr.slice

theorem activate_keeps {k e : Nat} {s₀ s : State} (h : Keeps s₀ s) : Keeps s₀ (activate k e s) := by
  unfold activate
  split
  · exact h
  · rename_i t _
    split
    · exact h
    · have a : Keeps s₀ (s.modTxn k e (fun t => { t with ran := s.time.cycles })) := State.modTxn_keeps h
      have b : Keeps s₀ (if t.again && (t.kind == .req || t.kind == .wb) then
          (s.modTxn k e (fun t => { t with ran := s.time.cycles })).modSlice k (Slice.slot false)
        else s.modTxn k e (fun t => { t with ran := s.time.cycles })) := by
        split
        · exact a.modSlice (fun v hv => Slice.slot_warr hv)
        · exact a
      dsimp only
      split
      · exact activateReq_keeps b
      · exact activateBack_keeps b
      all_goals exact activateFlow_keeps b

theorem execTxnActivate_keeps {k : Nat} {e : Nat} {s₀ s : State} (hk : Keeps s₀ s) : OutKeeps s₀ (execTxnActivate k e s) := by
  unfold execTxnActivate
  repeat' first
    | with_reducible assumption | extract_lets | with_reducible apply OutKeeps.next | with_reducible apply activate_keeps

theorem Slice.admitHead_warr {t : Txn} {s₀ : State} {v : Slice} (hk : WArr s₀ v) : WArr s₀ (Slice.admitHead v t) := by
  unfold Slice.admitHead
  repeat' first
    | with_reducible assumption | with_reducible exact Keeps.refl _ | exact id | extract_lets | with_reducible apply Slice.count_warr
    | with_reducible apply Slice.setTxn_warr | with_reducible apply WArr.slice | with_reducible exact WArr.init _ | (intro) | split
    | with_reducible apply Keeps.upd | with_reducible apply WArr.upd

theorem pipeNext_keeps {k : Nat} {l : LAddr} {s₀ s : State} (hk : Keeps s₀ s) : Keeps s₀ (pipeNext k l s) := by
  unfold pipeNext
  repeat' first
    | with_reducible assumption | with_reducible exact Keeps.refl _ | exact id | extract_lets | with_reducible apply Keeps.setSlice
    | with_reducible apply Slice.setTxn_warr | with_reducible apply WArr.slice | with_reducible exact WArr.init _ | (intro) | split
    | with_reducible apply Keeps.upd | with_reducible apply WArr.upd

theorem execChainHeadActivate_keeps {k : Nat} {l : LAddr} {s₀ s : State} (hk : Keeps s₀ s) : OutKeeps s₀ (execChainHeadActivate k l s) := by
  unfold execChainHeadActivate
  repeat' first
    | with_reducible assumption | with_reducible exact Keeps.refl _ | exact id | extract_lets | with_reducible exact OutKeeps.fault _ _
    | with_reducible exact OutKeeps.refused _ _ | with_reducible apply OutKeeps.next | with_reducible apply Slice.admitHead_warr
    | with_reducible apply pipeNext_keeps | with_reducible apply Keeps.setSlice | with_reducible apply Slice.setTxn_warr
    | with_reducible apply WArr.slice | with_reducible exact WArr.init _ | (intro) | split | with_reducible apply Keeps.upd
    | with_reducible apply WArr.upd

theorem admitOne_keeps {k : Nat} {t : Txn} {s₀ s : State} (hk : Keeps s₀ s) : Keeps s₀ (admitOne k t s) := by
  unfold admitOne
  repeat' first
    | with_reducible assumption | with_reducible exact Keeps.refl _ | exact id | extract_lets | with_reducible apply Keeps.setSlice
    | with_reducible apply Slice.setTxn_warr | with_reducible apply WArr.slice | with_reducible exact WArr.init _ | (intro) | split
    | with_reducible apply Keeps.upd | with_reducible apply WArr.upd

theorem execAdmissionRelease_keeps {k : Nat} {set : Nat} {s₀ s : State} (hk : Keeps s₀ s) : OutKeeps s₀ (execAdmissionRelease k set s) := by
  unfold execAdmissionRelease
  dsimp only
  repeat' first
    | with_reducible assumption | with_reducible apply OutKeeps.next | with_reducible apply admitOne_keeps | split

theorem execBufferAcquire_keeps {k : Nat} {s₀ s : State} (hk : Keeps s₀ s) : OutKeeps s₀ (execBufferAcquire k s) := by
  unfold execBufferAcquire
  repeat' first
    | with_reducible assumption | extract_lets | with_reducible apply OutKeeps.next | with_reducible apply begin__keeps | split

theorem Slice.reserved_warr {set : Nat} {way : Nat} {l : LAddr} {s₀ : State} {v : Slice} (hk : WArr s₀ v) :
    WArr s₀ (Slice.reserved v set way l) := by
  unfold Slice.reserved
  repeat' first
    | with_reducible assumption | extract_lets | with_reducible apply Slice.sfTouch_warr | split | with_reducible apply WArr.upd

theorem startBackInv_keeps {k : Nat} {set : Nat} {way : Nat} {s₀ s : State} (hk : Keeps s₀ s) : Keeps s₀ (startBackInv k set way s) := by
  unfold startBackInv
  repeat' first
    | with_reducible assumption | extract_lets | with_reducible apply activate_keeps | with_reducible apply Slice.count_warr
    | with_reducible apply Slice.setSf_warr | with_reducible apply Keeps.setSlice | with_reducible apply WArr.slice
    | with_reducible apply WArr.upd

theorem takeWay_keeps {k set w : Nat} {l : LAddr} {s₀ s t : State} (e : takeWay k set l s = some (w, t)) (h : Keeps s₀ s) :
    Keeps s₀ t := by
  have h := sfParityCheck_keeps (k := k) (set := set) (acc := accInt) h
  unfold takeWay at e
  dsimp only at e
  split at e
  · cases e
  · injection e with e
    injection e with _ e
    rw [← e]
    exact Keeps.modSlice (by split <;> first | exact startBackInv_keeps h | exact h) (fun v hv => Slice.reserved_warr hv)

theorem execSfWayReserve_keeps {k e : Nat} {s₀ s : State} (h : Keeps s₀ s) : OutKeeps s₀ (execSfWayReserve k e s) := by
  unfold execSfWayReserve
  apply OutKeeps.next
  split
  · exact h
  · split
    · split
      · exact State.modTxn_keeps (takeWay_keeps (by assumption) h)
      · exact h
    · exact h

theorem countSent_keeps {k : Nat} {t : Txn} {p : SnpTodo} {i : Nat} {s₀ s : State} (hk : Keeps s₀ s) : Keeps s₀ (countSent k t p i s) := by
  unfold countSent
  repeat' first
    | with_reducible assumption | extract_lets | with_reducible apply Slice.count_warr | with_reducible apply Keeps.modSlice | (intro)
    | with_reducible apply WArr.upd

theorem sendSnoop_keeps {k : Nat} {e : Nat} {t : Txn} {p : SnpTodo} {i : Nat} {s₀ s : State} (hk : Keeps s₀ s) :
    Keeps s₀ (sendSnoop k e t p i s) := by
  unfold sendSnoop
  repeat' first
    | with_reducible assumption | extract_lets | with_reducible apply countSent_keeps | with_reducible apply State.fromSlice_keeps
    | with_reducible apply Keeps.modSlice | with_reducible apply State.modTxn_keeps | with_reducible apply Slice.takeSnp_warr | (intro)
    | with_reducible apply WArr.upd

theorem snoopIssue_keeps {k : Nat} {e : Nat} {s₀ s : State} (hk : Keeps s₀ s) : Keeps s₀ (snoopIssue k e s) := by
  unfold snoopIssue
  repeat' first
    | with_reducible assumption | extract_lets | with_reducible apply State.modTxn_keeps | with_reducible apply resolveSnoop_keeps
    | with_reducible apply sendSnoop_keeps | split

theorem execSnoopIssue_keeps {k : Nat} {e : Nat} {s₀ s : State} (hk : Keeps s₀ s) : OutKeeps s₀ (execSnoopIssue k e s) := by
  unfold execSnoopIssue
  repeat' first
    | with_reducible assumption | extract_lets | with_reducible apply OutKeeps.next | with_reducible apply snoopIssue_keeps

theorem discardAt_keeps {k : Nat} {slot : Bool} {s₀ s : State} (hk : Keeps s₀ s) : Keeps s₀ (discardAt k slot s) := by
  unfold discardAt
  repeat' first
    | with_reducible assumption | extract_lets | with_reducible apply Keeps.modSlice | with_reducible apply takeSlot_keeps | (intro)
    | split | with_reducible apply WArr.upd

theorem freeSnoopBuf_keeps {k : Nat} {e : Nat} {t : Txn} {brings : Bool} {s₀ s : State} (hk : Keeps s₀ s) :
    Keeps s₀ (freeSnoopBuf k e t brings s) := by
  unfold freeSnoopBuf
  repeat' first
    | with_reducible assumption | extract_lets | with_reducible apply grantRun_keeps | with_reducible apply Keeps.modSlice
    | with_reducible apply State.modTxn_keeps | (intro) | split | with_reducible apply WArr.upd

theorem openRole_keeps {k : Nat} {e : Nat} {t : Txn} {wbp : Bool} {s₀ s : State} (hk : Keeps s₀ s) : Keeps s₀ (openRole k e t wbp s) := by
  unfold openRole
  repeat' first
    | with_reducible assumption | with_reducible apply State.modTxn_keeps | split

theorem execSnoopResponse_keeps {k : Nat} {gt : Bool} {s₀ s : State} (hk : Keeps s₀ s) : OutKeeps s₀ (execSnoopResponse k gt s) := by
  unfold execSnoopResponse
  repeat' first
    | with_reducible assumption | extract_lets | with_reducible apply OutKeeps.next | with_reducible apply discardAt_keeps
    | with_reducible apply freeSnoopBuf_keeps | with_reducible apply openRole_keeps | with_reducible apply State.takeAtSlice_keeps
    | with_reducible apply takeResp_keeps | with_reducible apply takeSlot_keeps | split

theorem execHomeDat_keeps {k : Nat} {gt : Bool} {s₀ s : State} (hk : Keeps s₀ s) : OutKeeps s₀ (execHomeDat k gt s) := by
  unfold execHomeDat
  repeat' first
    | with_reducible assumption | with_reducible exact Keeps.refl _ | exact id | extract_lets | with_reducible exact OutKeeps.fault _ _
    | with_reducible exact OutKeeps.refused _ _ | with_reducible apply OutKeeps.next | with_reducible apply advance_keeps
    | with_reducible apply discardAt_keeps | with_reducible apply Keeps.modSlice | with_reducible apply State.modTxn_keeps
    | with_reducible apply State.takeAtSlice_keeps | with_reducible apply Slice.wroteBuf_warr | with_reducible apply WArr.slice
    | with_reducible exact WArr.init _ | (intro) | split | with_reducible apply Keeps.upd | with_reducible apply WArr.upd

theorem execCmpack_keeps {k : Nat} {gt : Bool} {s₀ s : State} (hk : Keeps s₀ s) : OutKeeps s₀ (execCmpack k gt s) := by
  unfold execCmpack
  repeat' first
    | with_reducible assumption | extract_lets | with_reducible apply OutKeeps.next | with_reducible apply discardAt_keeps
    | with_reducible apply State.modTxn_keeps | with_reducible apply State.takeAtSlice_keeps | with_reducible apply takeSlot_keeps | split

theorem Slice.enterWb_warr {w : WbMsg} {s₀ : State} {v : Slice} (hk : WArr s₀ v) : WArr s₀ (Slice.enterWb v w) := by
  unfold Slice.enterWb
  repeat' first
    | with_reducible assumption | extract_lets | with_reducible apply WArr.upd

theorem takeWriteback_keeps {k : Nat} {w : WbMsg} {s₀ s : State} (hk : Keeps s₀ s) : Keeps s₀ (takeWriteback k w s) := by
  unfold takeWriteback
  repeat' first
    | with_reducible assumption | with_reducible exact Keeps.refl _ | exact id | extract_lets | with_reducible apply activate_keeps
    | with_reducible apply Slice.enterWb_warr | with_reducible apply Keeps.modSlice | with_reducible apply State.modTxn_keeps
    | with_reducible apply Keeps.setSlice | with_reducible apply takeSlot_keeps | with_reducible apply wbAck_keeps
    | with_reducible apply WArr.slice | with_reducible exact WArr.init _ | (intro) | split | with_reducible apply Keeps.upd
    | with_reducible apply WArr.upd

theorem execWritebackArrive_keeps {k : Nat} {gt : Bool} {s₀ s : State} (hk : Keeps s₀ s) : OutKeeps s₀ (execWritebackArrive k gt s) := by
  unfold execWritebackArrive
  repeat' first
    | with_reducible assumption | with_reducible exact Keeps.refl _ | exact id | extract_lets | with_reducible exact OutKeeps.fault _ _
    | with_reducible exact OutKeeps.refused _ _ | with_reducible apply OutKeeps.next | with_reducible apply noteStale_keeps
    | with_reducible apply Keeps.setSlice | with_reducible apply State.takeAtSlice_keeps | with_reducible apply takeWriteback_keeps
    | with_reducible apply WArr.slice | with_reducible exact WArr.init _ | (intro) | split | with_reducible apply Keeps.upd
    | with_reducible apply WArr.upd

theorem operate_keeps {k : Nat} {e : Nat} {t : Txn} {s₀ s : State} (hk : Keeps s₀ s) : Keeps s₀ (operate k e t s) := by
  unfold operate
  repeat' first
    | with_reducible assumption | with_reducible exact Keeps.refl _ | exact id | extract_lets | with_reducible apply Slice.count_warr
    | with_reducible apply Keeps.modSlice | with_reducible apply State.modTxn_keeps | with_reducible apply pipeNext_keeps
    | with_reducible apply sendCmp_keeps | with_reducible apply WArr.slice | with_reducible exact WArr.init _ | (intro) | split
    | with_reducible apply Keeps.upd | with_reducible apply WArr.upd

theorem execAtomicOperate_keeps {k : Nat} {e : Nat} {s₀ s : State} (hk : Keeps s₀ s) : OutKeeps s₀ (execAtomicOperate k e s) := by
  unfold execAtomicOperate
  repeat' first
    | with_reducible assumption | extract_lets | with_reducible apply OutKeeps.next | with_reducible apply State.modTxn_keeps
    | with_reducible apply operate_keeps | with_reducible apply readBuf_keeps | with_reducible apply sendErr_keeps | split

theorem placementDone_keeps {k : Nat} {e : Nat} {s₀ s : State} (hk : Keeps s₀ s) : Keeps s₀ (placementDone k e s) := by
  unfold placementDone
  repeat' first
    | with_reducible assumption | extract_lets | with_reducible apply advance_keeps | with_reducible apply State.modTxn_keeps | split

theorem writeFor_keeps {k : Nat} {e : Nat} {l : LAddr} {d : LineBuf} {s₀ s : State} (hk : Keeps s₀ s) : Keeps s₀ (writeFor k e l d s) := by
  unfold writeFor
  repeat' first
    | with_reducible assumption | extract_lets | with_reducible apply memWrite_keeps | with_reducible apply State.modTxn_keeps

theorem writeThru_keeps {k e : Nat} {l : LAddr} {d : LineBuf} {s₀ s : State} (h : Keeps s₀ s) : Keeps s₀ (writeThru k e l d s) :=
  memWriteThru_keeps (State.modTxn_keeps h)

theorem afterDirty_keeps {k : Nat} {e : Nat} {l : LAddr} {n : Nat} {wasDirty : Bool} {d : LineBuf} {through : Bool} {s₀ s : State} (hk : Keeps s₀ s) :
    Keeps s₀ (afterDirty k e l n wasDirty d through s) := by
  unfold afterDirty
  repeat' first
    | with_reducible assumption | exact id | extract_lets | with_reducible apply mirrorSet_keeps
    | with_reducible apply State.modTxn_keeps | with_reducible apply writeThru_keeps | split | with_reducible apply Keeps.upd

theorem placePoison_keeps {k : Nat} {e : Nat} {l : LAddr} {s₀ s : State} (hk : Keeps s₀ s) : Keeps s₀ (placePoison k e l s) := by
  unfold placePoison
  dsimp only
  repeat' first
    | with_reducible assumption | with_reducible apply dropSlot_keeps | with_reducible apply mirrorClr_keeps
    | with_reducible apply placeLine_keeps | with_reducible apply writeFor_keeps | split

theorem placeDirty_keeps {k : Nat} {e : Nat} {t : Txn} {s₀ s : State} (hk : Keeps s₀ s) : Keeps s₀ (placeDirty k e t s) := by
  unfold placeDirty
  dsimp only
  repeat' first
    | with_reducible assumption | with_reducible apply afterDirty_keeps | with_reducible apply dropSlot_keeps
    | with_reducible apply memWriteP_keeps | with_reducible apply State.modTxn_keeps | with_reducible apply placeLine_keeps
    | with_reducible apply writeFor_keeps | split

theorem placeFill_keeps {k : Nat} {t : Txn} {s₀ s : State} (hk : Keeps s₀ s) : Keeps s₀ (placeFill k t s) := by
  unfold placeFill
  dsimp only
  repeat' first
    | with_reducible assumption | with_reducible apply placeLine_keeps | split

theorem placeClean_keeps {k : Nat} {e : Nat} {t : Txn} {s₀ s : State} (hk : Keeps s₀ s) : Keeps s₀ (placeClean k e t s) := by
  unfold placeClean
  dsimp only
  repeat' first
    | with_reducible assumption | with_reducible exact Keeps.refl _ | exact id | with_reducible apply afterDirty_keeps
    | with_reducible apply dropSlot_keeps | with_reducible apply placeLine_keeps | with_reducible apply Slice.slot_warr
    | with_reducible apply writeFor_keeps | with_reducible apply writeThru_keeps | with_reducible apply WArr.slice
    | with_reducible exact WArr.init _ | (intro) | split | with_reducible apply Keeps.upd | with_reducible apply WArr.upd

theorem placement_keeps {k : Nat} {e : Nat} {s₀ s : State} (hk : Keeps s₀ s) : Keeps s₀ (placement k e s) := by
  unfold placement
  dsimp only
  repeat' first
    | with_reducible assumption | with_reducible apply State.modTxn_keeps | with_reducible apply placeClean_keeps
    | with_reducible apply placeDirty_keeps | with_reducible apply placeFill_keeps | with_reducible apply placePoison_keeps
    | with_reducible apply placementDone_keeps | with_reducible apply readBuf_keeps | split

theorem execPlacement_keeps {k : Nat} {e : Nat} {s₀ s : State} (hk : Keeps s₀ s) : OutKeeps s₀ (execPlacement k e s) := by
  unfold execPlacement
  repeat' first
    | with_reducible assumption | extract_lets | with_reducible apply OutKeeps.next | with_reducible apply placement_keeps

theorem Slice.mirrorPut_warr {hset : Nat} {slot : BitVec 5} {ltag : BitVec 35} {s₀ : State} {v : Slice} (h : WArr s₀ v) :
    WArr s₀ (Slice.mirrorPut v hset slot ltag) := by
  unfold Slice.mirrorPut
  dsimp only
  split
  · refine Slice.heal_warr ⟨fun h0 => ?_⟩
    obtain ⟨h1, h2, h3, h4, h5⟩ := h.parts h0
    refine Slice.arraysWf_of h1 h2 h3 h4 ?_
    dsimp only
    exact canonical_tset _ _ h5
  · exact h

theorem Slice.mirrorDrop_warr {hset : Nat} {slot : BitVec 5} {ltag : BitVec 35} {s₀ : State} {v : Slice} (h : WArr s₀ v) :
    WArr s₀ (Slice.mirrorDrop v hset slot ltag) := by
  unfold Slice.mirrorDrop
  dsimp only
  split
  · refine Slice.heal_warr ⟨fun h0 => ?_⟩
    obtain ⟨h1, h2, h3, h4, h5⟩ := h.parts h0
    refine Slice.arraysWf_of h1 h2 h3 h4 ?_
    dsimp only
    exact canonical_tset _ _ h5
  · exact h

theorem execMirrorUpdate_keeps {k : Nat} {s₀ s : State} (hk : Keeps s₀ s) : OutKeeps s₀ (execMirrorUpdate k s) := by
  unfold execMirrorUpdate
  repeat' first
    | with_reducible assumption | extract_lets | with_reducible apply OutKeeps.next | with_reducible apply Slice.mirrorDrop_warr
    | with_reducible apply Slice.mirrorPut_warr | with_reducible apply Keeps.modSlice | with_reducible apply State.sliceToSlice_keeps
    | with_reducible apply State.takeAtSlice_keeps | with_reducible apply takeSlot_keeps | split

theorem execMirrorUpdateAck_keeps {k : Nat} {s₀ s : State} (hk : Keeps s₀ s) : OutKeeps s₀ (execMirrorUpdateAck k s) := by
  unfold execMirrorUpdateAck
  repeat' first
    | with_reducible assumption | extract_lets | with_reducible apply OutKeeps.next | with_reducible apply State.modTxn_keeps
    | with_reducible apply placementDone_keeps | with_reducible apply State.takeAtSlice_keeps | split

theorem nextDeferred_keeps {k : Nat} {w : WbMsg} {counted : Bool} {s₀ s : State} (hk : Keeps s₀ s) :
    Keeps s₀ (nextDeferred k w counted s) := by
  unfold nextDeferred
  repeat' first
    | with_reducible assumption | with_reducible exact Keeps.refl _ | exact id | extract_lets | with_reducible apply activate_keeps
    | with_reducible apply Keeps.setSlice | with_reducible apply WArr.slice | with_reducible exact WArr.init _ | (intro) | split
    | with_reducible apply Keeps.upd | with_reducible apply WArr.upd

theorem passOn_keeps {k : Nat} {l : LAddr} {counted : Bool} {s₀ s : State} (hk : Keeps s₀ s) : Keeps s₀ (passOn k l counted s) := by
  unfold passOn
  repeat' first
    | with_reducible assumption | extract_lets | with_reducible apply Slice.admitHead_warr | with_reducible apply State.modTxn_keeps
    | with_reducible apply nextDeferred_keeps | with_reducible apply Keeps.setSlice | with_reducible apply Slice.setTxn_warr
    | with_reducible apply WArr.slice | split

theorem release_keeps {k : Nat} {t : Txn} {s₀ s : State} (h : Keeps s₀ s) : Keeps s₀ (release k t s) := by
  unfold release
  exact returnWb_keeps (returnTracker_keeps (voidReads_keeps (h.modSlice (fun v hv => WArr.upd (Slice.wroteBuf_warr hv)))))

theorem closeTxn_keeps {k : Nat} {e : Nat} {s₀ s : State} (hk : Keeps s₀ s) : Keeps s₀ (closeTxn k e s) := by
  unfold closeTxn
  repeat' first
    | with_reducible assumption | with_reducible exact Keeps.refl _ | exact id | extract_lets | with_reducible apply Slice.count_warr
    | with_reducible apply State.endCmd_keeps | with_reducible apply grantRun_keeps | with_reducible apply Keeps.modSlice
    | with_reducible apply passOn_keeps | with_reducible apply release_keeps | with_reducible apply Slice.setSf_warr
    | with_reducible apply Keeps.foldl | with_reducible apply WArr.foldl | with_reducible apply WArr.slice
    | with_reducible exact WArr.init _ | (intro) | split | with_reducible apply Keeps.upd | with_reducible apply WArr.upd

theorem execTxnClose_keeps {k : Nat} {e : Nat} {s₀ s : State} (hk : Keeps s₀ s) : OutKeeps s₀ (execTxnClose k e s) := by
  unfold execTxnClose
  repeat' first
    | with_reducible assumption | extract_lets | with_reducible apply OutKeeps.next | with_reducible apply closeTxn_keeps

/-! ### Machine/MemPort.lean -/

theorem failRead_keeps {report : Bool} {c : MemCmd} {s₀ s : State} (hk : Keeps s₀ s) : Keeps s₀ (failRead report c s) := by
  unfold failRead
  repeat' first
    | with_reducible assumption | with_reducible exact Keeps.refl _ | exact id | extract_lets | with_reducible apply advance_keeps
    | with_reducible apply Keeps.modSlice | with_reducible apply State.modTxn_keeps | with_reducible apply raise_keeps
    | with_reducible apply sendErr_keeps | with_reducible apply Slice.wroteBuf_warr | with_reducible apply WArr.slice
    | with_reducible exact WArr.init _ | (intro) | split | with_reducible apply Keeps.upd | with_reducible apply WArr.upd

theorem noteFail_keeps {c : Option Nat} {s₀ s : State} (hk : Keeps s₀ s) : Keeps s₀ (noteFail c s) := by
  unfold noteFail
  repeat' first
    | with_reducible assumption | with_reducible apply State.modCmd_keeps | split

theorem reportWrite_keeps {c : MemCmd} {aid : Aid} {s₀ s : State} (h : Keeps s₀ s) : Keeps s₀ (reportWrite c aid s) := by
  have r := raise_keeps (ev := memEv 0x18 c aid accWrite) h
  unfold reportWrite
  revert r
  generalize raise (memEv 0x18 c aid accWrite) s = t
  exact fun r => r.upd id id

theorem dropThru_keeps {k : Nat} {l : LAddr} {n : Nat} {s₀ s : State} (hk : Keeps s₀ s) : Keeps s₀ (dropThru k l n s) := by
  unfold dropThru
  repeat' first
    | with_reducible assumption | extract_lets | with_reducible apply Keeps.modSlice | (intro) | with_reducible apply WArr.upd

theorem failTxnWrite_keeps {k : Nat} {e : Nat} {s₀ s : State} (hk : Keeps s₀ s) : Keeps s₀ (failTxnWrite k e s) := by
  unfold failTxnWrite
  repeat' first
    | with_reducible assumption | with_reducible exact Keeps.refl _ | exact id | extract_lets | with_reducible apply State.modTxn_keeps
    | with_reducible apply placementDone_keeps | with_reducible apply reply_keeps | with_reducible apply returnWb_keeps
    | with_reducible apply sendErr_keeps | with_reducible apply WArr.slice | with_reducible exact WArr.init _ | (intro) | split
    | with_reducible apply Keeps.upd | with_reducible apply WArr.upd

theorem endVictim_keeps {k : Nat} {e : Nat} {s₀ s : State} (hk : Keeps s₀ s) : Keeps s₀ (endVictim k e s) := by
  unfold endVictim
  repeat' first
    | with_reducible assumption | extract_lets | with_reducible apply mirrorClr_keeps | with_reducible apply Keeps.modSlice | (intro)
    | split | with_reducible apply WArr.upd

theorem wakeClean_keeps {k : Nat} {l : LAddr} {s₀ s : State} (hk : Keeps s₀ s) : Keeps s₀ (wakeClean k l s) := by
  unfold wakeClean
  repeat' first
    | with_reducible assumption | extract_lets | with_reducible apply complete_keeps | with_reducible apply Keeps.each | (intro)

theorem failVictim_keeps {c : MemCmd} {e : Nat} {s₀ s : State} (hk : Keeps s₀ s) : Keeps s₀ (failVictim c e s) := by
  unfold failVictim
  repeat' first
    | with_reducible assumption | extract_lets | with_reducible apply endVictim_keeps | with_reducible apply failRead_keeps
    | with_reducible apply Keeps.modMp | with_reducible apply noteFail_keeps | with_reducible apply sendErr_keeps
    | with_reducible apply wakeClean_keeps | with_reducible apply Keeps.foldl | (intro)

theorem failWrite_keeps {c : MemCmd} {s₀ s : State} (hk : Keeps s₀ s) : Keeps s₀ (failWrite c s) := by
  unfold failWrite
  repeat' first
    | with_reducible assumption | extract_lets | with_reducible apply dropThru_keeps | with_reducible apply failTxnWrite_keeps
    | with_reducible apply failVictim_keeps | with_reducible apply noteFail_keeps | with_reducible apply reportWrite_keeps | split

theorem failCmd_keeps {c : MemCmd} {s₀ s : State} (hk : Keeps s₀ s) : Keeps s₀ (failCmd s c) := by
  unfold failCmd
  repeat' first
    | with_reducible assumption | extract_lets | with_reducible apply failRead_keeps | with_reducible apply failWrite_keeps
    | with_reducible apply grantRun_keeps | split

theorem markSent_keeps {c : MemCmd} {s₀ s : State} (hk : Keeps s₀ s) : Keeps s₀ (markSent c s) := by
  unfold markSent
  repeat' first
    | with_reducible assumption | extract_lets | with_reducible apply Keeps.modSlice | (intro) | split | with_reducible apply WArr.upd

theorem readVictim_keeps {c : MemCmd} {s₀ s : State} (h : Keeps s₀ s) : Keeps s₀ (readVictim c s).2 := by
  have r (e : Nat) : Keeps s₀ (s.each (List.range 8) (readBufWord c.slice e c.laddr noAid accWrite)) :=
    h.each (fun s x hs => readBufWord_keeps hs)
  unfold readVictim
  split
  · rename_i e _
    have r := r e
    dsimp only
    revert r
    generalize s.each (List.range 8) (readBufWord c.slice e c.laddr noAid accWrite) = t
    intro r
    split
    · exact r
    · exact r
  all_goals exact h

theorem execMemCmdPresent_keeps {p : Nat} {write : Bool} {s₀ s : State} (h : Keeps s₀ s) : OutKeeps s₀ (execMemCmdPresent p write s) := by
  unfold execMemCmdPresent
  refine .next ?_
  dsimp only
  split
  · exact h
  · rename_i c rest _
    have r := readVictim_keeps (c := c) h
    generalize readVictim c s = x at r
    split
    · exact failCmd_keeps (Keeps.setMp h)
    · split
      · exact h
      · generalize (if write = true then (s.mp p).wrCred else (s.mp p).rdCred) = n
        split
        · exact h
        · exact markSent_keeps (State.emit_keeps (Keeps.setMp r))

theorem execMemCreditReturn_keeps {p : Nat} {write : Bool} {s₀ s : State} (hk : Keeps s₀ s) :
    OutKeeps s₀ (execMemCreditReturn p write s) := by
  unfold execMemCreditReturn
  repeat' first
    | with_reducible assumption | extract_lets | with_reducible apply OutKeeps.next | with_reducible apply Keeps.setMp | split

theorem readArrives_keeps {c : MemCmd} {valid : BitVec 4} {d : Line} {poison : BitVec 4} {s₀ s : State} (hk : Keeps s₀ s) :
    Keeps s₀ (readArrives c valid d poison s) := by
  unfold readArrives
  repeat' first
    | with_reducible assumption | extract_lets | with_reducible apply advance_keeps | with_reducible apply Keeps.setSlice
    | with_reducible apply Slice.setTxn_warr | with_reducible apply Slice.wroteBuf_warr | with_reducible apply WArr.slice | split

theorem execMemReadChunk_keeps {p : Nat} {tag : BitVec 8} {valid : BitVec 4} {d : BitVec 512} {poison : BitVec 4} {err : Bool} {s₀ s : State} (hk : Keeps s₀ s) :
    OutKeeps s₀ (execMemReadChunk p tag valid d poison err s) := by
  unfold execMemReadChunk
  repeat' first
    | with_reducible assumption | with_reducible exact Keeps.refl _ | exact id | extract_lets | with_reducible exact OutKeeps.fault _ _
    | with_reducible exact OutKeeps.refused _ _ | with_reducible apply OutKeeps.next | with_reducible apply failRead_keeps
    | with_reducible apply readArrives_keeps | with_reducible apply Keeps.setMp | with_reducible apply WArr.slice
    | with_reducible exact WArr.init _ | (intro) | split | with_reducible apply Keeps.upd | with_reducible apply WArr.upd

theorem ackWrite_keeps {c : MemCmd} {s₀ s : State} (hk : Keeps s₀ s) : Keeps s₀ (ackWrite c s) := by
  unfold ackWrite
  repeat' first
    | with_reducible assumption | exact id | extract_lets | with_reducible apply cleanSlot_keeps | with_reducible apply dropThru_keeps
    | with_reducible apply endVictim_keeps | with_reducible apply State.modTxn_keeps | with_reducible apply placementDone_keeps
    | with_reducible apply wakeClean_keeps | split | with_reducible apply Keeps.upd

theorem execMemWriteAck_keeps {p : Nat} {tag : BitVec 8} {err : Bool} {s₀ s : State} (hk : Keeps s₀ s) :
    OutKeeps s₀ (execMemWriteAck p tag err s) := by
  unfold execMemWriteAck
  repeat' first
    | with_reducible assumption | extract_lets | with_reducible apply OutKeeps.next | with_reducible apply ackWrite_keeps
    | with_reducible apply endWriteThrough_keeps | with_reducible apply failWrite_keeps | with_reducible apply grantRun_keeps
    | with_reducible apply Keeps.setMp | split

theorem failAll_keeps {p : Nat} {s₀ s : State} (hk : Keeps s₀ s) : Keeps s₀ (failAll p s) := by
  unfold failAll
  repeat' first
    | with_reducible assumption | extract_lets | with_reducible apply failCmd_keeps | with_reducible apply Keeps.setMp
    | with_reducible apply Keeps.foldl | (intro)

theorem failPort_keeps {p : Nat} {reason : Nat} {s₀ s : State} (hk : Keeps s₀ s) : Keeps s₀ (failPort p reason s) := by
  unfold failPort
  repeat' first
    | with_reducible assumption | extract_lets | with_reducible apply failAll_keeps | with_reducible apply Keeps.modMp
    | with_reducible apply raise_keeps

theorem execMemTimeout_keeps {p : Nat} {s₀ s : State} (hk : Keeps s₀ s) : OutKeeps s₀ (execMemTimeout p s) := by
  unfold execMemTimeout
  repeat' first
    | with_reducible assumption | extract_lets | with_reducible apply OutKeeps.next | with_reducible apply failPort_keeps | split

theorem execMemSrEnter_keeps {p : Nat} {s₀ s : State} (hk : Keeps s₀ s) : OutKeeps s₀ (execMemSrEnter p s) := by
  unfold execMemSrEnter
  repeat' first
    | with_reducible assumption | extract_lets | with_reducible apply OutKeeps.next | with_reducible apply Keeps.setMp | split

theorem execMemSrExit_keeps {p : Nat} {s₀ s : State} (hk : Keeps s₀ s) : OutKeeps s₀ (execMemSrExit p s) := by
  unfold execMemSrExit
  repeat' first
    | with_reducible assumption | extract_lets | with_reducible apply OutKeeps.next | with_reducible apply Keeps.modMp

theorem execMemWakeRaise_keeps {p : Nat} {s₀ s : State} (hk : Keeps s₀ s) : OutKeeps s₀ (execMemWakeRaise p s) := by
  unfold execMemWakeRaise
  repeat' first
    | with_reducible assumption | extract_lets | with_reducible apply OutKeeps.next | with_reducible apply Keeps.setMp | split

theorem execMemWakeDeadline_keeps {p : Nat} {s₀ s : State} (hk : Keeps s₀ s) : OutKeeps s₀ (execMemWakeDeadline p s) := by
  unfold execMemWakeDeadline
  repeat' first
    | with_reducible assumption | extract_lets | with_reducible apply OutKeeps.next | with_reducible apply failPort_keeps | split

/-! ### Machine/Unreach.lean -/

theorem drainFirst_keeps {r : Nat} {s₀ s : State} (hk : Keeps s₀ s) : Keeps s₀ (drainFirst r s) := by
  unfold drainFirst
  repeat' first
    | with_reducible assumption | extract_lets | with_reducible apply State.inject_keeps | with_reducible apply raise_keeps
    | with_reducible apply Keeps.setLink | split

theorem drainSnoops_keeps {r : Nat} {s₀ s : State} (hk : Keeps s₀ s) : Keeps s₀ (drainSnoops r s) := by
  unfold drainSnoops
  repeat' first
    | with_reducible assumption | extract_lets | with_reducible apply drainFirst_keeps | with_reducible apply Keeps.foldl | (intro)

theorem dropPeerSnoops_keeps {bad : Aid → Bool} {r : Nat} {s₀ s : State} (hk : Keeps s₀ s) : Keeps s₀ (dropPeerSnoops bad r s) := by
  unfold dropPeerSnoops
  repeat' first
    | with_reducible assumption | extract_lets | with_reducible apply drainSnoops_keeps | with_reducible apply Keeps.setLink | split

theorem resolveOut_keeps {k : Nat} {e : Nat} {o : SnpOut} {s₀ s : State} (hk : Keeps s₀ s) : Keeps s₀ (resolveOut k e s o) := by
  unfold resolveOut
  repeat' first
    | with_reducible assumption | extract_lets | with_reducible apply freeSnoopBuf_keeps | with_reducible apply giveSnp_keeps
    | with_reducible apply State.modTxn_keeps | with_reducible apply resolveSnoop_keeps | split

theorem resolveTxn_keeps {bad : Aid → Bool} {k : Nat} {e : Nat} {s₀ s : State} (hk : Keeps s₀ s) : Keeps s₀ (resolveTxn bad k s e) := by
  unfold resolveTxn
  repeat' first
    | with_reducible assumption | exact id | extract_lets | with_reducible apply State.modTxn_keeps
    | with_reducible apply resolveOut_keeps | with_reducible apply Keeps.foldl | (intro) | split | with_reducible apply Keeps.upd

theorem resolveAgents_keeps {bad : Aid → Bool} {s₀ s : State} (hk : Keeps s₀ s) : Keeps s₀ (resolveAgents bad s) := by
  unfold resolveAgents
  repeat' first
    | with_reducible assumption | extract_lets | with_reducible apply dropPeerSnoops_keeps | with_reducible apply Keeps.each
    | with_reducible apply resolveTxn_keeps | with_reducible apply Keeps.foldl | (intro)

theorem markUnreachable_keeps {as : List Aid} {s₀ s : State} (hk : Keeps s₀ s) : Keeps s₀ (markUnreachable as s) := by
  unfold markUnreachable
  repeat' first
    | with_reducible assumption | exact id | extract_lets | with_reducible apply resolveAgents_keeps | with_reducible apply Keeps.upd

theorem findUnreachable_keeps {x : Nat × Aid × Bool} {s₀ s : State} (hk : Keeps s₀ s) : Keeps s₀ (findUnreachable s x) := by
  unfold findUnreachable
  repeat' first
    | with_reducible assumption | exact id | extract_lets | with_reducible apply markUnreachable_keeps
    | with_reducible apply State.sendMgtFrom_keeps | split | with_reducible apply Keeps.upd

theorem execSnoopTimeoutCheck_keeps {s₀ s : State} (hk : Keeps s₀ s) : OutKeeps s₀ (execSnoopTimeoutCheck s) := by
  unfold execSnoopTimeoutCheck
  repeat' first
    | with_reducible assumption | extract_lets | with_reducible apply OutKeeps.next | with_reducible apply findUnreachable_keeps
    | with_reducible apply Keeps.foldl | (intro) | split

theorem clearAgents_keeps {p : Nat} {as : List Aid} {s₀ s : State} (hk : Keeps s₀ s) : Keeps s₀ (clearAgents p as s) := by
  unfold clearAgents
  repeat' first
    | with_reducible assumption | exact id | extract_lets | with_reducible apply State.toJoined_keeps | with_reducible apply Keeps.foldl
    | (intro) | with_reducible apply Keeps.upd

theorem dropCredits_keeps {i : Nat} {s₀ s : State} (hk : Keeps s₀ s) : Keeps s₀ (dropCredits i s) := by
  unfold dropCredits
  repeat' first
    | with_reducible assumption | extract_lets | with_reducible apply Keeps.each | with_reducible apply grantRun_keeps
    | with_reducible apply Keeps.modSlice | (intro) | with_reducible apply WArr.upd

theorem isolatePort_keeps {p : Nat} {s₀ s : State} (hk : Keeps s₀ s) : Keeps s₀ (isolatePort p s) := by
  unfold isolatePort
  repeat' first
    | with_reducible assumption | with_reducible exact Keeps.refl _ | exact id | extract_lets | with_reducible apply clearAgents_keeps
    | with_reducible apply dropCredits_keeps | with_reducible apply Keeps.each | with_reducible apply markUnreachable_keeps
    | with_reducible apply Keeps.modCa | with_reducible apply Keeps.modLink | with_reducible apply WArr.slice
    | with_reducible exact WArr.init _ | (intro) | split | with_reducible apply Keeps.upd | with_reducible apply WArr.upd

theorem execUnreachableNotice_keeps {aid : BitVec 11} {cmpAck : Bool} {s₀ s : State} (hk : Keeps s₀ s) :
    OutKeeps s₀ (execUnreachableNotice aid cmpAck s) := by
  unfold execUnreachableNotice
  repeat' first
    | with_reducible assumption | extract_lets | with_reducible apply OutKeeps.next | with_reducible apply isolatePort_keeps
    | with_reducible apply raise_keeps | split

theorem tryBringup_keeps {p : Nat} {s₀ s : State} (hk : Keeps s₀ s) : Keeps s₀ (tryBringup p s) := by
  unfold tryBringup
  repeat' first
    | with_reducible assumption | extract_lets | with_reducible apply Keeps.setCa | split

theorem retryBringups_keeps {s₀ s : State} (hk : Keeps s₀ s) : Keeps s₀ (retryBringups s) := by
  unfold retryBringups
  repeat' first
    | with_reducible assumption | extract_lets | with_reducible apply tryBringup_keeps | with_reducible apply Keeps.foldl | (intro)

theorem failLink_keeps {r : Nat} {reason : Nat} {s₀ s : State} (hk : Keeps s₀ s) : Keeps s₀ (failLink r reason s) := by
  unfold failLink
  repeat' first
    | with_reducible assumption | with_reducible exact Keeps.refl _ | exact id | extract_lets | with_reducible apply State.endCmd_keeps
    | with_reducible apply raise_keeps | with_reducible apply retryBringups_keeps | with_reducible apply Keeps.setLink
    | with_reducible apply WArr.slice | with_reducible exact WArr.init _ | (intro) | split | with_reducible apply Keeps.upd
    | with_reducible apply WArr.upd

/-! ### Machine/CaPort.lean -/

theorem sendRspo_keeps {p : Nat} {m : BitVec 128} {s₀ s : State} (hk : Keeps s₀ s) : Keeps s₀ (sendRspo p m s) := by
  unfold sendRspo
  repeat' first
    | with_reducible assumption | extract_lets | with_reducible apply State.emit_keeps | with_reducible apply Keeps.modCa | split

theorem discardCa_keeps {p : Nat} {s₀ s : State} (hk : Keeps s₀ s) : Keeps s₀ (discardCa p s) := by
  unfold discardCa
  repeat' first
    | with_reducible assumption | with_reducible exact Keeps.refl _ | exact id | extract_lets | with_reducible apply Slice.count_warr
    | with_reducible apply Keeps.modCa | with_reducible apply WArr.slice | with_reducible exact WArr.init _ | (intro) | split
    | with_reducible apply Keeps.upd | with_reducible apply WArr.upd

theorem portProtocol_keeps {p : Nat} {reason : Nat} {a : Aid} {s₀ s : State} (hk : Keeps s₀ s) : Keeps s₀ (portProtocol p reason a s) := by
  unfold portProtocol
  repeat' first
    | with_reducible assumption | with_reducible apply raise_keeps

theorem fromCa_keeps {p : Nat} {node : Nat} {port : Nat} {vc : VC} {gtc : Nat} {beat : Option Nat} {m : Msg} {s₀ s : State} (hk : Keeps s₀ s) :
    Keeps s₀ (fromCa p node port vc gtc beat m s) := by
  unfold fromCa
  repeat' first
    | with_reducible assumption | extract_lets | with_reducible apply State.inject_keeps

theorem routeCa_keeps {p : Nat} {i : Nat} {here : Nat × Nat} {vc : VC} {gtc : Nat} {beat : Option Nat} {m : Msg} {s₀ s : State} (hk : Keeps s₀ s) :
    Keeps s₀ (routeCa p i here vc gtc beat m s) := by
  unfold routeCa
  repeat' first
    | with_reducible assumption | with_reducible apply discardCa_keeps | with_reducible apply fromCa_keeps | split

theorem refuse_keeps {p : Nat} {reason : BitVec 8} {x : IngEntry} {s₀ s : State} (hk : Keeps s₀ s) : Keeps s₀ (refuse p reason x s) := by
  unfold refuse
  repeat' first
    | with_reducible assumption | extract_lets | with_reducible apply Keeps.modCa | with_reducible apply sendRspo_keeps

theorem execCaRequest_keeps {p : Nat} {msg : BitVec 128} {s₀ s : State} (hk : Keeps s₀ s) : OutKeeps s₀ (execCaRequest p msg s) := by
  unfold execCaRequest
  repeat' first
    | with_reducible assumption | with_reducible exact Keeps.refl _ | exact id | extract_lets | with_reducible exact OutKeeps.fault _ _
    | with_reducible exact OutKeeps.refused _ _ | with_reducible apply OutKeeps.next | with_reducible apply Slice.count_warr
    | with_reducible apply Keeps.modCa | with_reducible apply raise_keeps | with_reducible apply refuse_keeps
    | with_reducible apply WArr.slice | with_reducible exact WArr.init _ | (intro) | split | with_reducible apply Keeps.upd
    | with_reducible apply WArr.upd

theorem takeReqData_keeps {p : Nat} {a : Aid} {t : BitVec 12} {cidx : BitVec 2} {poison : Bool} {be : BitVec 16} {d : BitVec 128} {s₀ s : State} (hk : Keeps s₀ s) :
    Keeps s₀ (takeReqData p a t cidx poison be d s) := by
  unfold takeReqData
  repeat' first
    | with_reducible assumption | extract_lets | with_reducible apply discardCa_keeps | with_reducible apply portProtocol_keeps
    | with_reducible apply Keeps.setCa | split

theorem takeLane_keeps {p : Nat} {hdr : BitVec 80} {data : BitVec 128} {s₀ s : State} (hk : Keeps s₀ s) :
    Keeps s₀ (takeLane p hdr data s) := by
  unfold takeLane
  repeat' first
    | with_reducible assumption | extract_lets | with_reducible apply discardCa_keeps | with_reducible apply Keeps.modCa
    | with_reducible apply portProtocol_keeps | with_reducible apply routeCa_keeps | with_reducible apply takeReqData_keeps | split

theorem execCaDatiChunk_keeps {p : Nat} {hdr : BitVec 160} {data : BitVec 256} {s₀ s : State} (hk : Keeps s₀ s) :
    OutKeeps s₀ (execCaDatiChunk p hdr data s) := by
  unfold execCaDatiChunk
  repeat' first
    | with_reducible assumption | extract_lets | with_reducible apply OutKeeps.next | with_reducible apply discardCa_keeps
    | with_reducible apply Keeps.modCa | with_reducible apply takeLane_keeps | with_reducible apply Keeps.foldl | (intro) | split

theorem execCaRspiMessage_keeps {p : Nat} {msg : BitVec 128} {s₀ s : State} (hk : Keeps s₀ s) :
    OutKeeps s₀ (execCaRspiMessage p msg s) := by
  unfold execCaRspiMessage
  repeat' first
    | with_reducible assumption | with_reducible exact Keeps.refl _ | exact id | extract_lets | with_reducible exact OutKeeps.fault _ _
    | with_reducible exact OutKeeps.refused _ _ | with_reducible apply OutKeeps.next | with_reducible apply discardCa_keeps
    | with_reducible apply portProtocol_keeps | with_reducible apply routeCa_keeps | with_reducible apply Keeps.setCa
    | with_reducible apply WArr.slice | with_reducible exact WArr.init _ | (intro) | split | with_reducible apply Keeps.upd
    | with_reducible apply WArr.upd

theorem execCapActiveRise_keeps {p : Nat} {s₀ s : State} (hk : Keeps s₀ s) : OutKeeps s₀ (execCapActiveRise p s) := by
  unfold execCapActiveRise
  repeat' first
    | with_reducible assumption | extract_lets | with_reducible apply OutKeeps.next | with_reducible apply Keeps.modCa
    | with_reducible apply tryBringup_keeps

theorem execAdv_keeps {p : Nat} {msg : BitVec 128} {s₀ s : State} (hk : Keeps s₀ s) : OutKeeps s₀ (execAdv p msg s) := by
  unfold execAdv
  repeat' first
    | with_reducible assumption | extract_lets | with_reducible apply OutKeeps.next | with_reducible apply portProtocol_keeps
    | with_reducible apply sendRspo_keeps | with_reducible apply Keeps.setCa | split

theorem writeAgents_keeps {p : Nat} {l : List Adv} {s₀ s : State} (hk : Keeps s₀ s) : Keeps s₀ (writeAgents p l s) := by
  unfold writeAgents
  repeat' first
    | with_reducible assumption | with_reducible exact Keeps.refl _ | exact id | extract_lets | with_reducible apply Keeps.modCa
    | with_reducible apply State.toJoined_keeps | with_reducible apply Keeps.foldl | with_reducible apply WArr.foldl
    | with_reducible apply WArr.slice | with_reducible exact WArr.init _ | (intro) | split | with_reducible apply Keeps.upd
    | with_reducible apply WArr.upd

theorem execAdvCheck_keeps {p : Nat} {s₀ s : State} (h : Keeps s₀ s) : OutKeeps s₀ (execAdvCheck p s) := by
  refine .next ?_
  dsimp only
  split
  · split
    · exact writeAgents_keeps h
    · exact portProtocol_keeps (Keeps.modCa (h.foldl (fun s x hs => sendRspo_keeps hs)))
  · exact h

theorem sendFirst_keeps {i : Nat} {k : Nat} {s₀ s : State} (hk : Keeps s₀ s) : Keeps s₀ (sendFirst i k s) := by
  unfold sendFirst
  repeat' first
    | with_reducible assumption | extract_lets | with_reducible apply sendCredits_keeps

theorem agentsBack_keeps {as : List Aid} {s₀ s : State} (hk : Keeps s₀ s) : Keeps s₀ (agentsBack as s) := by
  unfold agentsBack
  repeat' first
    | with_reducible assumption | exact id | extract_lets | with_reducible apply Keeps.each | with_reducible apply Keeps.modLink
    | with_reducible apply Keeps.modSlice | (intro) | split | with_reducible apply Keeps.upd | with_reducible apply WArr.upd

theorem purgeCredits_keeps {p : Nat} {s₀ s : State} (hk : Keeps s₀ s) : Keeps s₀ (purgeCredits p s) := by
  unfold purgeCredits
  repeat' first
    | with_reducible assumption | exact id | extract_lets | with_reducible apply Keeps.upd

theorem peerQuiescing_keeps {i : BitVec 3} {cap : Nat} {s₀ s : State} (hk : Keeps s₀ s) : Keeps s₀ (peerQuiescing i cap s) := by
  unfold peerQuiescing
  repeat' first
    | with_reducible assumption | extract_lets | with_reducible apply Keeps.each | with_reducible apply Keeps.modSlice
    | with_reducible apply sendMarks_keeps | (intro) | split | with_reducible apply WArr.upd

theorem peerQuiesced_keeps {i : BitVec 3} {cap : Nat} {s₀ s : State} (hk : Keeps s₀ s) : Keeps s₀ (peerQuiesced i cap s) := by
  unfold peerQuiesced
  repeat' first
    | with_reducible assumption | with_reducible exact Keeps.refl _ | exact id | extract_lets | with_reducible apply Keeps.each
    | with_reducible apply Slice.freeSnp_warr | with_reducible apply sendMarks_keeps | with_reducible apply Keeps.setSlice
    | with_reducible apply Keeps.foldl | with_reducible apply WArr.foldl | with_reducible apply WArr.slice
    | with_reducible exact WArr.init _ | (intro) | split | with_reducible apply Keeps.upd | with_reducible apply WArr.upd

theorem startQuiesce_keeps {p : Nat} {s₀ s : State} (hk : Keeps s₀ s) : Keeps s₀ (startQuiesce p s) := by
  unfold startQuiesce
  repeat' first
    | with_reducible assumption | with_reducible exact Keeps.refl _ | exact id | extract_lets | with_reducible apply Keeps.each
    | with_reducible apply State.fromSlice_keeps | with_reducible apply Keeps.modCa | with_reducible apply State.toJoined_keeps
    | with_reducible apply WArr.slice | with_reducible exact WArr.init _ | (intro) | split | with_reducible apply Keeps.upd
    | with_reducible apply WArr.upd

theorem enterActive_keeps {p : Nat} {s₀ s : State} (hk : Keeps s₀ s) : Keeps s₀ (enterActive p s) := by
  unfold enterActive
  repeat' first
    | with_reducible assumption | with_reducible exact Keeps.refl _ | exact id | extract_lets | with_reducible apply agentsBack_keeps
    | with_reducible apply Keeps.each | with_reducible apply Keeps.modCa | with_reducible apply purgeCredits_keeps
    | with_reducible apply sendFirst_keeps | with_reducible apply sendRspo_keeps | with_reducible apply startQuiesce_keeps
    | with_reducible apply Keeps.foldl | with_reducible apply WArr.foldl | with_reducible apply WArr.slice
    | with_reducible exact WArr.init _ | (intro) | split | with_reducible apply Keeps.upd | with_reducible apply WArr.upd

theorem clearAbandoned_keeps {p : Nat} {s₀ s : State} (hk : Keeps s₀ s) : Keeps s₀ (clearAbandoned p s) := by
  unfold clearAbandoned
  repeat' first
    | with_reducible assumption | with_reducible exact Keeps.refl _ | exact id | extract_lets | with_reducible apply clearAgents_keeps
    | with_reducible apply Keeps.modCa | with_reducible apply tryBringup_keeps | with_reducible apply WArr.slice
    | with_reducible exact WArr.init _ | (intro) | split | with_reducible apply Keeps.upd | with_reducible apply WArr.upd

theorem execAdvack_keeps {p : Nat} {s₀ s : State} (hk : Keeps s₀ s) : OutKeeps s₀ (execAdvack p s) := by
  unfold execAdvack
  repeat' first
    | with_reducible assumption | with_reducible exact Keeps.refl _ | exact id | extract_lets | with_reducible exact OutKeeps.fault _ _
    | with_reducible exact OutKeeps.refused _ _ | with_reducible apply OutKeeps.next | with_reducible apply clearAbandoned_keeps
    | with_reducible apply enterActive_keeps | with_reducible apply Keeps.setCa | with_reducible apply WArr.slice
    | with_reducible exact WArr.init _ | (intro) | split | with_reducible apply Keeps.upd | with_reducible apply WArr.upd

theorem execCapActiveFall_keeps {p : Nat} {s₀ s : State} (hk : Keeps s₀ s) : OutKeeps s₀ (execCapActiveFall p s) := by
  unfold execCapActiveFall
  repeat' first
    | with_reducible assumption | with_reducible exact Keeps.refl _ | exact id | extract_lets | with_reducible exact OutKeeps.fault _ _
    | with_reducible exact OutKeeps.refused _ _ | with_reducible apply OutKeeps.next | with_reducible apply peerQuiescing_keeps
    | with_reducible apply Keeps.setCa | with_reducible apply startQuiesce_keeps | with_reducible apply State.toJoined_keeps
    | with_reducible apply WArr.slice | with_reducible exact WArr.init _ | (intro) | split | with_reducible apply Keeps.upd
    | with_reducible apply WArr.upd

theorem execAgentTableClearAck_keeps {p : Nat} {src : BitVec 3} {s₀ s : State} (hk : Keeps s₀ s) :
    OutKeeps s₀ (execAgentTableClearAck p src s) := by
  unfold execAgentTableClearAck
  repeat' first
    | with_reducible assumption | with_reducible exact Keeps.refl _ | exact id | extract_lets | with_reducible exact OutKeeps.fault _ _
    | with_reducible exact OutKeeps.refused _ _ | with_reducible apply OutKeeps.next | with_reducible apply Keeps.setCa
    | with_reducible apply tryBringup_keeps | with_reducible apply WArr.slice | with_reducible exact WArr.init _ | (intro) | split
    | with_reducible apply Keeps.upd | with_reducible apply WArr.upd

theorem execPortQuiesceComplete_keeps {p : Nat} {s₀ s : State} (hk : Keeps s₀ s) : OutKeeps s₀ (execPortQuiesceComplete p s) := by
  unfold execPortQuiesceComplete
  repeat' first
    | with_reducible assumption | extract_lets | with_reducible apply OutKeeps.next | with_reducible apply clearAgents_keeps
    | with_reducible apply dropCredits_keeps | with_reducible apply Keeps.modCa | with_reducible apply tryBringup_keeps | split

theorem cleanWay_keeps {bad : Aid → Bool} {k : Nat} {set : Nat} {way : Nat} {s₀ s : State} (hk : Keeps s₀ s) :
    Keeps s₀ (cleanWay bad k set s way) := by
  unfold cleanWay
  repeat' first
    | with_reducible assumption | with_reducible exact Keeps.refl _ | exact id | extract_lets | with_reducible apply activate_keeps
    | with_reducible apply Slice.enter_warr | with_reducible apply Slice.setSf_warr | with_reducible apply Keeps.setSlice
    | with_reducible apply Keeps.foldl | with_reducible apply WArr.foldl | with_reducible apply WArr.slice
    | with_reducible exact WArr.init _ | (intro) | split | with_reducible apply Keeps.upd | with_reducible apply WArr.upd

theorem cleanPass_keeps {bad : Aid → Bool} {k : Nat} {s₀ s : State} (hk : Keeps s₀ s) : Keeps s₀ (cleanPass bad k s) := by
  unfold cleanPass
  repeat' first
    | with_reducible assumption | extract_lets | with_reducible apply cleanWay_keeps | with_reducible apply Keeps.foldl | (intro)

theorem scanForPeer_keeps {i : BitVec 3} {cap : Nat} {s₀ s : State} (hk : Keeps s₀ s) : Keeps s₀ (scanForPeer i cap s) := by
  unfold scanForPeer
  repeat' first
    | with_reducible assumption | with_reducible exact Keeps.refl _ | exact id | extract_lets | with_reducible apply cleanPass_keeps
    | with_reducible apply Keeps.each | with_reducible apply State.sendMgt_keeps | with_reducible apply WArr.slice
    | with_reducible exact WArr.init _ | (intro) | split | with_reducible apply Keeps.upd | with_reducible apply WArr.upd

theorem execPortReleaseScanDone_keeps {p : Nat} {s₀ s : State} (hk : Keeps s₀ s) : OutKeeps s₀ (execPortReleaseScanDone p s) := by
  unfold execPortReleaseScanDone
  repeat' first
    | with_reducible assumption | with_reducible exact Keeps.refl _ | exact id | extract_lets | with_reducible exact OutKeeps.fault _ _
    | with_reducible exact OutKeeps.refused _ _ | with_reducible apply OutKeeps.next | with_reducible apply cleanPass_keeps
    | with_reducible apply Keeps.each | with_reducible apply State.endCmd_keeps | with_reducible apply Keeps.modCa
    | with_reducible apply scanForPeer_keeps | with_reducible apply tryBringup_keeps | with_reducible apply WArr.slice
    | with_reducible exact WArr.init _ | (intro) | split | with_reducible apply Keeps.upd | with_reducible apply WArr.upd

theorem execAgentTableUpdate_keeps {src : BitVec 3} {aid : BitVec 11} {valid : Bool} {cap : BitVec 7} {s₀ s : State} (hk : Keeps s₀ s) :
    OutKeeps s₀ (execAgentTableUpdate src aid valid cap s) := by
  unfold execAgentTableUpdate
  repeat' first
    | with_reducible assumption | exact id | extract_lets | with_reducible apply OutKeeps.next | with_reducible apply agentsBack_keeps
    | with_reducible apply peerQuiesced_keeps | with_reducible apply resolveAgents_keeps | with_reducible apply State.sendMgt_keeps
    | split | with_reducible apply Keeps.upd

theorem leaveIngress_keeps {i : Nat} {x : IngEntry} {s₀ s : State} (hk : Keeps s₀ s) : Keeps s₀ (leaveIngress i x s) := by
  unfold leaveIngress
  repeat' first
    | with_reducible assumption | exact id | extract_lets | with_reducible apply endWait_keeps | with_reducible apply Keeps.modCa
    | with_reducible apply Keeps.modLink | with_reducible apply State.setIngress_keeps | split | with_reducible apply Keeps.upd

theorem answerAt_keeps {i : Nat} {reason : BitVec 8} {x : IngEntry} {s₀ s : State} (hk : Keeps s₀ s) :
    Keeps s₀ (answerAt i reason x s) := by
  unfold answerAt
  repeat' first
    | with_reducible assumption | with_reducible apply Keeps.modLink | with_reducible apply sendRspo_keeps | split

theorem deny_keeps {i : Nat} {x : IngEntry} {s₀ s : State} (hk : Keeps s₀ s) : Keeps s₀ (deny i x s) := by
  unfold deny
  repeat' first
    | with_reducible assumption | extract_lets | with_reducible apply answerAt_keeps | with_reducible apply leaveIngress_keeps
    | with_reducible apply raise_keeps

theorem countGt_keeps {i : Nat} {x : IngEntry} {s₀ s : State} (hk : Keeps s₀ s) : Keeps s₀ (countGt i x s) := by
  unfold countGt
  repeat' first
    | with_reducible assumption | with_reducible exact Keeps.refl _ | exact id | extract_lets | with_reducible apply Slice.count_warr
    | with_reducible apply Keeps.modCa | with_reducible apply WArr.slice | with_reducible exact WArr.init _ | (intro) | split
    | with_reducible apply Keeps.upd | with_reducible apply WArr.upd

theorem sendEntry_keeps {i : Nat} {k : Nat} {x : IngEntry} {s₀ s : State} (hk : Keeps s₀ s) : Keeps s₀ (sendEntry i k x s) := by
  unfold sendEntry
  repeat' first
    | with_reducible assumption | with_reducible exact Keeps.refl _ | exact id | extract_lets | with_reducible apply countGt_keeps
    | with_reducible apply leaveIngress_keeps | with_reducible apply State.setCredAt_keeps | with_reducible apply State.toSlice_keeps
    | with_reducible apply Keeps.foldl | with_reducible apply WArr.foldl | with_reducible apply WArr.slice
    | with_reducible exact WArr.init _ | (intro) | split | with_reducible apply Keeps.upd | with_reducible apply WArr.upd

theorem noteProxies_keeps {r : Nat} {s₀ s : State} (hk : Keeps s₀ s) : Keeps s₀ (noteProxies r s) := by
  unfold noteProxies
  repeat' first
    | with_reducible assumption | extract_lets | with_reducible apply Keeps.modLink

theorem grantProxies_keeps {r n : Nat} {s₀ s : State} (h : Keeps s₀ s) : Keeps s₀ (grantProxies r n s) := by
  induction n generalizing s with
  | zero => exact h
  | succ n ih =>
    unfold grantProxies
    dsimp only
    split
    · split
      · exact h
      · exact ih (Keeps.modLink h)
    · exact h

theorem proxyRun_keeps {r : Nat} {s₀ s : State} (h : Keeps s₀ s) : Keeps s₀ (proxyRun r s) := grantProxies_keeps (noteProxies_keeps h)

theorem freeProxy_keeps {r : Nat} {q : Proxy → Bool} {s₀ s : State} (hk : Keeps s₀ s) : Keeps s₀ (freeProxy r q s) := by
  unfold freeProxy
  repeat' first
    | with_reducible assumption | extract_lets | with_reducible apply Keeps.modLink | with_reducible apply proxyRun_keeps | split

theorem sendProxy_keeps {p : Nat} {r : Nat} {s₀ s : State} (hk : Keeps s₀ s) : Keeps s₀ (sendProxy p r s) := by
  unfold sendProxy
  repeat' first
    | with_reducible assumption | with_reducible exact Keeps.refl _ | exact id | extract_lets | with_reducible apply countGt_keeps
    | with_reducible apply fromCa_keeps | with_reducible apply leaveIngress_keeps | with_reducible apply Keeps.modLink
    | with_reducible apply proxyRun_keeps | with_reducible apply Keeps.foldl | with_reducible apply WArr.foldl
    | with_reducible apply WArr.slice | with_reducible exact WArr.init _ | (intro) | split | with_reducible apply Keeps.upd
    | with_reducible apply WArr.upd

theorem execIngressSend_keeps {i : Nat} {d : Dest} {s₀ s : State} (hk : Keeps s₀ s) : OutKeeps s₀ (execIngressSend i d s) := by
  unfold execIngressSend
  repeat' first
    | with_reducible assumption | extract_lets | with_reducible apply OutKeeps.next | with_reducible apply deny_keeps
    | with_reducible apply grantRun_keeps | with_reducible apply noteDemand_keeps | with_reducible apply sendEntry_keeps
    | with_reducible apply sendProxy_keeps | split

theorem execCreditArrive_keeps {i : Nat} {s₀ s : State} (hk : Keeps s₀ s) : OutKeeps s₀ (execCreditArrive i s) := by
  unfold execCreditArrive
  repeat' first
    | with_reducible assumption | extract_lets | with_reducible apply OutKeeps.next | with_reducible apply State.dropArrived_keeps
    | with_reducible apply noteDemand_keeps | with_reducible apply State.setCredAt_keeps | split

theorem execCreditIdleReturn_keeps {i : Nat} {k : Nat} {grant : Bool} {s₀ s : State} (hk : Keeps s₀ s) :
    OutKeeps s₀ (execCreditIdleReturn i k grant s) := by
  unfold execCreditIdleReturn
  repeat' first
    | with_reducible assumption | with_reducible exact Keeps.refl _ | exact id | extract_lets | with_reducible exact OutKeeps.fault _ _
    | with_reducible exact OutKeeps.refused _ _ | with_reducible apply OutKeeps.next | with_reducible apply creditBack_keeps
    | with_reducible apply State.setCredAt_keeps | with_reducible apply State.toSlice_keeps | with_reducible apply WArr.slice
    | with_reducible exact WArr.init _ | (intro) | split | with_reducible apply Keeps.upd | with_reducible apply WArr.upd

theorem creditBack_keeps {k : Nat} {i : Nat} {c : CredKind} {s₀ s : State} (hk : Keeps s₀ s) : Keeps s₀ (creditBack k i c s) := by
  unfold creditBack
  repeat' first
    | with_reducible assumption | extract_lets | with_reducible apply grantRun_keeps | with_reducible apply Keeps.modSlice | (intro)
    | split | with_reducible apply WArr.upd

theorem execSnoopDeliver_keeps {p : Nat} {aid : BitVec 11} {s₀ s : State} (hk : Keeps s₀ s) : OutKeeps s₀ (execSnoopDeliver p aid s) := by
  unfold execSnoopDeliver
  repeat' first
    | with_reducible assumption | extract_lets | with_reducible apply OutKeeps.next | with_reducible apply State.emit_keeps
    | with_reducible apply Keeps.setCa | split

theorem loseInstance_keeps {s₀ s : State} (h : Keeps s₀ s) : Keeps s₀ (loseInstance s) := by
  unfold loseInstance
  split
  · exact h
  · refine Keeps.each (Keeps.each (Keeps.each (h.upd (fun _ => rfl) id) ?_) ?_) ?_
    · exact fun s p hs => hs.foldl (fun s x hs => refuse_keeps hs.modCa)
    · exact fun s r hs => hs.foldl (fun s x hs => answerAt_keeps (leaveIngress_keeps hs))
    · intro s r hs
      split
      · exact failLink_keeps hs
      · exact hs

/-! ### Machine/Mesh.lean -/

theorem observe_keeps {n : Nat} {ip : Nat} {p : Pkt} {s₀ s : State} (hk : Keeps s₀ s) : Keeps s₀ (observe n ip p s) := by
  unfold observe
  repeat' first
    | with_reducible assumption | exact id | extract_lets | with_reducible apply State.used_keeps | split
    | with_reducible apply Keeps.upd

theorem State.eject_keeps {n : Nat} {o : Nat} {p : Pkt} {s₀ s : State} (hk : Keeps s₀ s) : Keeps s₀ (State.eject s n o p) := by
  unfold State.eject
  repeat' first
    | with_reducible assumption | exact id | extract_lets | with_reducible apply Keeps.upd

theorem sliceOff_keeps {n : Nat} {p : Pkt} {s₀ s : State} (hk : Keeps s₀ s) : Keeps s₀ (sliceOff n p s) := by
  unfold sliceOff
  repeat' first
    | with_reducible assumption | exact id | extract_lets | with_reducible apply State.inject_keeps | with_reducible apply raise_keeps
    | split | with_reducible apply Keeps.upd

theorem strayAt_keeps {p : Nat} {a : Aid} {s₀ s : State} (hk : Keeps s₀ s) : Keeps s₀ (strayAt p a s) := by
  unfold strayAt
  repeat' first
    | with_reducible assumption | extract_lets | with_reducible apply discardCa_keeps | with_reducible apply portProtocol_keeps

theorem sendDato_keeps {p : Nat} {hdr : BitVec 80} {d : BitVec 128} {s₀ s : State} (hk : Keeps s₀ s) : Keeps s₀ (sendDato p hdr d s) := by
  unfold sendDato
  repeat' first
    | with_reducible assumption | exact id | extract_lets | with_reducible apply State.emit_keeps | with_reducible apply Keeps.modCa
    | split | with_reducible apply Keeps.upd

theorem arriveCa_keeps {n : Nat} {o : Nat} {x : Pkt} {s₀ s : State} (hk : Keeps s₀ s) : Keeps s₀ (arriveCa n o x s) := by
  unfold arriveCa
  repeat' first
    | with_reducible assumption | with_reducible exact Keeps.refl _ | exact id | extract_lets | with_reducible apply State.answer_keeps
    | with_reducible apply creditBack_keeps | with_reducible apply discardCa_keeps | with_reducible apply State.eject_keeps
    | with_reducible apply mirrorClr_keeps | with_reducible apply mirrorSet_keeps | with_reducible apply sendDato_keeps
    | with_reducible apply sendRspo_keeps | with_reducible apply Keeps.setCa | with_reducible apply strayAt_keeps
    | with_reducible apply wbAck_keeps | with_reducible apply WArr.slice | with_reducible exact WArr.init _ | (intro) | split
    | with_reducible apply Keeps.upd | with_reducible apply WArr.upd

theorem discardLink_keeps {r : Nat} {s₀ s : State} (hk : Keeps s₀ s) : Keeps s₀ (discardLink r s) := by
  unfold discardLink
  repeat' first
    | with_reducible assumption | with_reducible apply Keeps.modLink

theorem sendHeld_keeps {r : Nat} {s₀ s : State} (hk : Keeps s₀ s) : Keeps s₀ (sendHeld r s) := by
  unfold sendHeld
  repeat' first
    | with_reducible assumption | with_reducible exact Keeps.refl _ | exact id | extract_lets | with_reducible apply Keeps.modLink
    | with_reducible apply Keeps.foldl | with_reducible apply WArr.foldl | with_reducible apply WArr.slice
    | with_reducible exact WArr.init _ | (intro) | split | with_reducible apply Keeps.upd | with_reducible apply WArr.upd

theorem arriveRidge_keeps {r : Nat} {n : Nat} {o : Nat} {x : Pkt} {s₀ s : State} (hk : Keeps s₀ s) : Keeps s₀ (arriveRidge r n o x s) := by
  unfold arriveRidge
  repeat' first
    | with_reducible assumption | with_reducible exact Keeps.refl _ | exact id | extract_lets | with_reducible apply creditBack_keeps
    | with_reducible apply discardLink_keeps | with_reducible apply drainSnoops_keeps | with_reducible apply State.eject_keeps
    | with_reducible apply freeProxy_keeps | with_reducible apply State.inject_keeps | with_reducible apply mirrorClr_keeps
    | with_reducible apply mirrorSet_keeps | with_reducible apply Keeps.modLink | with_reducible apply sendHeld_keeps
    | with_reducible apply Keeps.setLink | with_reducible apply wbAck_keeps | with_reducible apply WArr.slice
    | with_reducible exact WArr.init _ | (intro) | split | with_reducible apply Keeps.upd | with_reducible apply WArr.upd

theorem arriveHub_keeps {n : Nat} {o : Nat} {p : Pkt} {s₀ s : State} (hk : Keeps s₀ s) : Keeps s₀ (arriveHub n o p s) := by
  unfold arriveHub
  repeat' first
    | with_reducible assumption | with_reducible exact Keeps.refl _ | exact id | extract_lets | with_reducible apply discardLink_keeps
    | with_reducible apply State.eject_keeps | with_reducible apply Keeps.modLink | with_reducible apply Keeps.modSlice
    | with_reducible apply WArr.slice | with_reducible exact WArr.init _ | (intro) | split | with_reducible apply Keeps.upd
    | with_reducible apply WArr.upd

theorem deliverPkt_keeps {n : Nat} {o : Nat} {p : Pkt} {s₀ s : State} (hk : Keeps s₀ s) : Keeps s₀ (deliverPkt n o p s) := by
  unfold deliverPkt
  repeat' first
    | with_reducible assumption | with_reducible exact Keeps.refl _ | exact id | extract_lets | with_reducible apply arriveCa_keeps
    | with_reducible apply arriveHub_keeps | with_reducible apply arriveRidge_keeps | with_reducible apply creditBack_keeps
    | with_reducible apply State.eject_keeps | with_reducible apply Keeps.modSlice | with_reducible apply sliceOff_keeps
    | with_reducible apply takeSlot_keeps | with_reducible apply WArr.slice | with_reducible exact WArr.init _ | (intro) | split
    | with_reducible apply Keeps.upd | with_reducible apply WArr.upd

theorem forwardPkt_keeps {n : Nat} {o : Nat} {ip : Nat} {data : Bool} {p : Pkt} {s₀ s : State} (hk : Keeps s₀ s) :
    Keeps s₀ (forwardPkt n o ip data p s) := by
  unfold forwardPkt
  repeat' first
    | with_reducible assumption | exact id | extract_lets | with_reducible apply deliverPkt_keeps | with_reducible apply observe_keeps
    | split | with_reducible apply Keeps.upd

theorem probeSend_keeps {n : Nat} {s₀ s : State} (hk : Keeps s₀ s) : Keeps s₀ (probeSend n s) := by
  unfold probeSend
  repeat' first
    | with_reducible assumption | exact id | extract_lets | with_reducible apply State.sendHub_keeps | split
    | with_reducible apply Keeps.upd

theorem takePkt_keeps {n : Nat} {o : Nat} {ip : Nat} {data : Bool} {p : Pkt} {err : LinkErr} {s₀ s : State} (hk : Keeps s₀ s) :
    Keeps s₀ (takePkt n o ip data p err s) := by
  unfold takePkt
  repeat' first
    | with_reducible assumption | exact id | extract_lets | with_reducible apply forwardPkt_keeps
    | with_reducible apply loseInstance_keeps | with_reducible apply raise_keeps | with_reducible apply State.used_keeps | split
    | with_reducible apply Keeps.upd

theorem execRouterPacket_keeps {n : Nat} {o : Nat} {dataLane : Bool} {err : LinkErr} {s₀ s : State} (hk : Keeps s₀ s) :
    OutKeeps s₀ (execRouterPacket n o dataLane err s) := by
  unfold execRouterPacket
  repeat' first
    | with_reducible assumption | extract_lets | with_reducible apply OutKeeps.next | with_reducible apply probeSend_keeps
    | with_reducible apply takePkt_keeps | split

theorem execLoftRecord_keeps {n : Nat} {s₀ s : State} (hk : Keeps s₀ s) : OutKeeps s₀ (execLoftRecord n s) := by
  unfold execLoftRecord
  repeat' first
    | with_reducible assumption | exact id | extract_lets | with_reducible apply OutKeeps.next | split | with_reducible apply Keeps.upd

theorem setShadow_keeps {t : Tbl (BitVec 8)} {x : Nat × Nat} {s₀ s : State} (hk : Keeps s₀ s) : Keeps s₀ (setShadow t s x) := by
  unfold setShadow
  repeat' first
    | with_reducible assumption | exact id | extract_lets | with_reducible apply Keeps.upd

theorem execBattenLoad_keeps {c : Nat} {s₀ s : State} (hk : Keeps s₀ s) : OutKeeps s₀ (execBattenLoad c s) := by
  unfold execBattenLoad
  repeat' first
    | with_reducible assumption | extract_lets | with_reducible apply OutKeeps.next | with_reducible apply Keeps.each
    | with_reducible apply finish_keeps | with_reducible apply Keeps.modLink | with_reducible apply runCmd_keeps
    | with_reducible apply setShadow_keeps | with_reducible apply Keeps.foldl | (intro) | split

theorem execBattenCommit_keeps {c : Nat} {s₀ s : State} (hk : Keeps s₀ s) : OutKeeps s₀ (execBattenCommit c s) := by
  unfold execBattenCommit
  repeat' first
    | with_reducible assumption | exact id | extract_lets | with_reducible apply OutKeeps.next | with_reducible apply finish_keeps
    | with_reducible apply genIssue_keeps | with_reducible apply runCmd_keeps | with_reducible apply State.startCmd_keeps | (intro)
    | split | with_reducible apply Keeps.upd

theorem switchBatten_keeps {s₀ s : State} (hk : Keeps s₀ s) : Keeps s₀ (switchBatten s) := by
  unfold switchBatten
  repeat' first
    | with_reducible assumption | exact id | extract_lets | with_reducible apply Keeps.each | with_reducible apply Keeps.modLink
    | (intro) | with_reducible apply Keeps.upd

theorem applyBatten_keeps {s₀ s : State} (hk : Keeps s₀ s) : Keeps s₀ (applyBatten s) := by
  unfold applyBatten
  repeat' first
    | with_reducible assumption | exact id | extract_lets | with_reducible apply State.bumpGen_keeps
    | with_reducible apply State.dropDue_keeps | with_reducible apply State.endCmd_keeps | with_reducible apply switchBatten_keeps
    | with_reducible apply Keeps.upd

theorem execBattenSwitch_keeps {s₀ s : State} (hk : Keeps s₀ s) : OutKeeps s₀ (execBattenSwitch s) := by
  unfold execBattenSwitch
  repeat' first
    | with_reducible assumption | extract_lets | with_reducible apply OutKeeps.next | with_reducible apply applyBatten_keeps | split

theorem execRouterDrain_keeps {c : Nat} {s₀ s : State} (hk : Keeps s₀ s) : OutKeeps s₀ (execRouterDrain c s) := by
  unfold execRouterDrain
  repeat' first
    | with_reducible assumption | with_reducible exact Keeps.refl _ | exact id | extract_lets | with_reducible exact OutKeeps.fault _ _
    | with_reducible exact OutKeeps.refused _ _ | with_reducible apply OutKeeps.next | with_reducible apply finish_keeps
    | with_reducible apply runCmd_keeps | with_reducible apply State.startCmd_keeps | with_reducible apply WArr.slice
    | with_reducible exact WArr.init _ | (intro) | split | with_reducible apply Keeps.upd | with_reducible apply WArr.upd

theorem execRouterDrainEmpty_keeps {s₀ s : State} (hk : Keeps s₀ s) : OutKeeps s₀ (execRouterDrainEmpty s) := by
  unfold execRouterDrainEmpty
  repeat' first
    | with_reducible assumption | with_reducible exact Keeps.refl _ | exact id | extract_lets | with_reducible exact OutKeeps.fault _ _
    | with_reducible exact OutKeeps.refused _ _ | with_reducible apply OutKeeps.next | with_reducible apply State.endCmd_keeps
    | with_reducible apply Keeps.foldl | with_reducible apply WArr.foldl | with_reducible apply WArr.slice
    | with_reducible exact WArr.init _ | (intro) | split | with_reducible apply Keeps.upd | with_reducible apply WArr.upd

theorem execProbeSet_keeps {c : Nat} {s₀ s : State} (hk : Keeps s₀ s) : OutKeeps s₀ (execProbeSet c s) := by
  unfold execProbeSet
  repeat' first
    | with_reducible assumption | exact id | extract_lets | with_reducible apply OutKeeps.next | with_reducible apply Keeps.each
    | with_reducible apply finish_keeps | with_reducible apply runCmd_keeps | (intro) | split | with_reducible apply Keeps.upd

end Sys2Proof.Machine
end

