-- ==== Sys2Proof/Laws/KeepsSlice.lean ====
section
/-! SUPPORT. Sys2Proof/Laws/KeepsSlice.lean: the operations and commands of Machine/Shingle.lean, CacheCmd.lean, Loss.lean, PortCmd.lean, SliceCmd.lean, Salvage.lean, Flip.lean, Scrub.lean keep what every command keeps. -/

namespace Sys2Proof.Machine

/-! ### Machine/Shingle.lean -/

theorem writeBackSlot_keeps {k : Nat} {owner : MemFor} {x : Nat × Nat} {s₀ s : State} (hk : Keeps s₀ s) :
    Keeps s₀ (writeBackSlot k owner s x) := by
  unfold writeBackSlot
  repeat' first
    | with_reducible assumption | extract_lets | with_reducible apply memWriteThru_keeps | with_reducible apply readData_keeps | split

theorem State.modMove_keeps {sh : Nat} {f : Move → Move} {s₀ s : State} (hk : Keeps s₀ s) : Keeps s₀ (State.modMove s sh f) := by
  unfold State.modMove
  repeat' first
    | with_reducible assumption | exact id | extract_lets | with_reducible apply Keeps.upd

theorem beginMove_keeps {m : Move} {s₀ s : State} (hk : Keeps s₀ s) : Keeps s₀ (beginMove m s) := by
  unfold beginMove
  repeat' first
    | with_reducible assumption | with_reducible exact Keeps.refl _ | exact id | extract_lets | with_reducible apply hcScan_keeps
    | with_reducible apply State.modMove_keeps | with_reducible apply writeBackSlot_keeps | with_reducible apply Keeps.foldl
    | with_reducible apply WArr.foldl | with_reducible apply WArr.slice | with_reducible exact WArr.init _ | (intro) | split
    | with_reducible apply Keeps.upd | with_reducible apply WArr.upd

theorem startMove_keeps {sh : Nat} {new : Nat} {cmd : Option Nat} {gate : Bool} {retried : Bool} {s₀ s : State} (hk : Keeps s₀ s) :
    Keeps s₀ (startMove sh new cmd gate retried s) := by
  unfold startMove
  repeat' first
    | with_reducible assumption | exact id | extract_lets | with_reducible apply beginMove_keeps | with_reducible apply Keeps.upd

theorem moveAway_keeps {pair : Nat} {k : Nat} {s₀ s : State} (hk : Keeps s₀ s) : Keeps s₀ (moveAway pair s k) := by
  unfold moveAway
  repeat' first
    | with_reducible assumption | with_reducible apply startMove_keeps | split

theorem moveTowards_keeps {pair : Nat} {d : Nat} {s₀ s : State} (hk : Keeps s₀ s) : Keeps s₀ (moveTowards pair d s) := by
  unfold moveTowards
  repeat' first
    | with_reducible assumption | with_reducible apply startMove_keeps | split

theorem endGating_keeps {reason : Nat} {s₀ s : State} (hk : Keeps s₀ s) : Keeps s₀ (endGating reason s) := by
  unfold endGating
  repeat' first
    | with_reducible assumption | exact id | extract_lets | with_reducible apply State.endCmd_keeps
    | with_reducible apply policyEvent_keeps | split | with_reducible apply Keeps.upd

theorem gateOn_keeps {s₀ s : State} (hk : Keeps s₀ s) : Keeps s₀ (gateOn s) := by
  unfold gateOn
  repeat' first
    | with_reducible assumption | extract_lets | with_reducible apply endGating_keeps | with_reducible apply moveAway_keeps
    | with_reducible apply moveTowards_keeps | split

theorem endMove_keeps {m : Move} {e : MoveEnd} {s₀ s : State} (hk : Keeps s₀ s) : Keeps s₀ (endMove m e s) := by
  unfold endMove
  repeat' first
    | with_reducible assumption | exact id | extract_lets | with_reducible apply State.endCmd_keeps
    | with_reducible apply endGating_keeps | with_reducible apply gateOn_keeps | with_reducible apply startMove_keeps | split
    | with_reducible apply Keeps.upd

theorem dropShingle_keeps {k : Nat} {sh : Nat} {s₀ s : State} (hk : Keeps s₀ s) : Keeps s₀ (dropShingle k sh s) := by
  unfold dropShingle
  repeat' first
    | with_reducible assumption | extract_lets | with_reducible apply dropSlot_keeps | with_reducible apply Keeps.modSlice
    | with_reducible apply Slice.setSf_warr | with_reducible apply Keeps.setSlice | with_reducible apply Keeps.foldl
    | with_reducible apply WArr.foldl | with_reducible apply WArr.slice | (intro) | with_reducible apply WArr.upd

theorem dropCopies_keeps {m : Move} {s₀ s : State} (hk : Keeps s₀ s) : Keeps s₀ (dropCopies m s) := by
  unfold dropCopies
  repeat' first
    | with_reducible assumption | extract_lets | with_reducible apply Keeps.modSlice | with_reducible apply Slice.setSf_warr
    | with_reducible apply WArr.foldl | (intro) | split

theorem revertMove_keeps {m : Move} {s₀ s : State} (hk : Keeps s₀ s) : Keeps s₀ (revertMove m s) := by
  unfold revertMove
  repeat' first
    | with_reducible assumption | extract_lets | with_reducible apply changeMap_keeps | with_reducible apply State.modMove_keeps

theorem execShingleQuery_keeps {c : Nat} {s₀ s : State} (hk : Keeps s₀ s) : OutKeeps s₀ (execShingleQuery c s) := by
  unfold execShingleQuery
  repeat' first
    | with_reducible assumption | extract_lets | with_reducible apply OutKeeps.next | with_reducible apply finish_keeps
    | with_reducible apply runCmd_keeps | (intro)

theorem execShingleMove_keeps {c : Nat} {s₀ s : State} (hk : Keeps s₀ s) : OutKeeps s₀ (execShingleMove c s) := by
  unfold execShingleMove
  repeat' first
    | with_reducible assumption | extract_lets | with_reducible apply OutKeeps.next | with_reducible apply finish_keeps
    | with_reducible apply runCmd_keeps | with_reducible apply State.startCmd_keeps | with_reducible apply startMove_keeps | (intro)
    | split

theorem withdrawMove_keeps {m : Move} {s₀ s : State} (hk : Keeps s₀ s) : Keeps s₀ (withdrawMove m s) := by
  unfold withdrawMove
  repeat' first
    | with_reducible assumption | extract_lets | with_reducible apply endMove_keeps | with_reducible apply rewriteChange_keeps

theorem execMovePrepareDone_keeps {sh : Nat} {s₀ s : State} (hk : Keeps s₀ s) : OutKeeps s₀ (execMovePrepareDone sh s) := by
  unfold execMovePrepareDone
  repeat' first
    | with_reducible assumption | extract_lets | with_reducible apply OutKeeps.next | with_reducible apply beginMove_keeps
    | with_reducible apply changeMap_keeps | with_reducible apply endMove_keeps | with_reducible apply State.modMove_keeps
    | with_reducible apply withdrawMove_keeps | split

theorem execFenceMarker_keeps {k : Nat} {vc : VC} {s₀ s : State} (hk : Keeps s₀ s) : OutKeeps s₀ (execFenceMarker k vc s) := by
  unfold execFenceMarker
  repeat' first
    | with_reducible assumption | with_reducible exact Keeps.refl _ | exact id | extract_lets | with_reducible exact OutKeeps.fault _ _
    | with_reducible exact OutKeeps.refused _ _ | with_reducible apply OutKeeps.next | with_reducible apply Slice.count_warr
    | with_reducible apply State.dropArrived_keeps | with_reducible apply takeSlot_keeps | with_reducible apply WArr.slice
    | with_reducible exact WArr.init _ | (intro) | split | with_reducible apply Keeps.upd | with_reducible apply WArr.upd

theorem readShingle_keeps {k : Nat} {sh : Nat} {s₀ s : State} (hk : Keeps s₀ s) : Keeps s₀ (readShingle k sh s) := by
  unfold readShingle
  repeat' first
    | with_reducible assumption | extract_lets | with_reducible apply sfReadWay_keeps | with_reducible apply Keeps.foldl | (intro)

theorem execMoveDrainDone_keeps {sh : Nat} {s₀ s : State} (hk : Keeps s₀ s) : OutKeeps s₀ (execMoveDrainDone sh s) := by
  unfold execMoveDrainDone
  repeat' first
    | with_reducible assumption | extract_lets | with_reducible apply OutKeeps.next | with_reducible apply State.modMove_keeps
    | with_reducible apply readShingle_keeps | with_reducible apply State.sliceToSlice_keeps | with_reducible apply Keeps.foldl | (intro)
    | split

theorem installEnt_keeps {k set : Nat} {e : SfEnt} {s₀ s t : State} (h : Keeps s₀ s) (q : installEnt k set e s = some t) : Keeps s₀ t := by
  unfold installEnt at q
  dsimp only at q
  split at q
  · split at q
    · injection q with q
      rw [← q]
      exact beginOpen_keeps h
    · cases q
  · split at q
    · injection q with q
      rw [← q]
      exact h
    · split at q
      · injection q with q
        rw [← q]
        exact h.modSlice (fun v hv => Slice.setSf_warr hv)
      · split at q
        · injection q with q
          rw [← q]
          exact Keeps.modSlice (takeWay_keeps (by assumption) h) (fun v hv => Slice.setSf_warr hv)
        · cases q

theorem installSalvaged_keeps {k sh set : Nat} {e : SfEnt} {s₀ s t : State} (h : Keeps s₀ s) (q : installSalvaged k sh set e s = some t) :
    Keeps s₀ t := by
  unfold installSalvaged at q
  dsimp only at q
  split at q
  · injection q with q
    rw [← q]
    exact h
  · rw [Option.map_eq_some_iff] at q
    obtain ⟨u, hu, q⟩ := q
    rw [← q]
    exact Keeps.modSlice (installEnt_keeps h hu) (fun v hv => hv.upd)

theorem execSfEntryInstall_keeps {k : Nat} {s₀ s : State} (h : Keeps s₀ s) : OutKeeps s₀ (execSfEntryInstall k s) := by
  refine .next ?_
  dsimp only
  split
  · split
    · exact h
    · split
      · split
        · exact State.modMove_keeps (installEnt_keeps (h.modSlice (fun v hv => hv.upd)) (by assumption))
        · exact h
      · generalize q : installSalvaged _ _ _ _ _ = r
        cases r with
        | none => exact h
        | some t => exact installSalvaged_keeps (h.modSlice (fun v hv => hv.upd)) q
  · exact h

theorem execMoveCopyDone_keeps {sh : Nat} {s₀ s : State} (hk : Keeps s₀ s) : OutKeeps s₀ (execMoveCopyDone sh s) := by
  unfold execMoveCopyDone
  repeat' first
    | with_reducible assumption | extract_lets | with_reducible apply OutKeeps.next | with_reducible apply changeMap_keeps
    | with_reducible apply State.modMove_keeps | with_reducible apply revertMove_keeps | split

theorem execMoveDecisionDeadline_keeps {sh : Nat} {s₀ s : State} (hk : Keeps s₀ s) : OutKeeps s₀ (execMoveDecisionDeadline sh s) := by
  unfold execMoveDecisionDeadline
  repeat' first
    | with_reducible assumption | extract_lets | with_reducible apply OutKeeps.next | with_reducible apply revertMove_keeps | split

theorem withdrawFailed_keeps {s₀ s : State} (hk : Keeps s₀ s) : Keeps s₀ (withdrawFailed s) := by
  unfold withdrawFailed
  repeat' first
    | with_reducible assumption | extract_lets | with_reducible apply withdrawMove_keeps | with_reducible apply Keeps.foldl | (intro)

theorem execFlipCopyAck_keeps {s₀ s : State} (hk : Keeps s₀ s) : OutKeeps s₀ (execFlipCopyAck s) := by
  unfold execFlipCopyAck
  repeat' first
    | with_reducible assumption | exact id | extract_lets | with_reducible apply OutKeeps.next | with_reducible apply nameFlip_keeps
    | with_reducible apply withdrawFailed_keeps | split | with_reducible apply Keeps.upd

/-! ### Machine/CacheCmd.lean -/

theorem finishUnits_keeps {k : Kcp} {detail : Nat} {ws : List W64} {s₀ s : State} (hk : Keeps s₀ s) :
    Keeps s₀ (finishUnits k detail ws s) := by
  unfold finishUnits
  repeat' first
    | with_reducible assumption | with_reducible apply finish_keeps | split

theorem setRepl_keeps {nru : Bool} {reason : Nat} {s₀ s : State} (hk : Keeps s₀ s) : Keeps s₀ (setRepl nru reason s) := by
  unfold setRepl
  repeat' first
    | with_reducible assumption | exact id | extract_lets | with_reducible apply Keeps.each | with_reducible apply Keeps.modSlice
    | with_reducible apply policyEvent_keeps | (intro) | split | with_reducible apply Keeps.upd | with_reducible apply WArr.upd

theorem Slice.clearBank_warr  {s₀ : State} {v : Slice} (h : WArr s₀ v) : WArr s₀ (Slice.clearBank v) := by
  refine ⟨fun h0 => ?_⟩
  obtain ⟨h1, h2, h3, h4, h5⟩ := h.parts h0
  exact Slice.arraysWf_of h1 rfl rfl rfl rfl

theorem Slice.clearTags_warr {s₀ : State} {v : Slice} (h : WArr s₀ v) : WArr s₀ (Slice.clearTags v) := by
  refine ⟨fun h0 => ?_⟩
  obtain ⟨h1, h2, h3, h4, h5⟩ := h.parts h0
  exact Slice.arraysWf_of h1 rfl h3 (canonical_map HcCtl.emptied h4) h5

theorem execHcInvalidateAll_keeps {c : Nat} {s₀ s : State} (hk : Keeps s₀ s) : OutKeeps s₀ (execHcInvalidateAll c s) := by
  unfold execHcInvalidateAll
  repeat' first
    | with_reducible assumption | extract_lets | with_reducible apply OutKeeps.next | with_reducible apply finish_keeps
    | with_reducible apply runCmd_keeps | with_reducible apply State.startCmd_keeps | (intro) | split

theorem execHcEnable_keeps {c : Nat} {s₀ s : State} (hk : Keeps s₀ s) : OutKeeps s₀ (execHcEnable c s) := by
  unfold execHcEnable
  repeat' first
    | with_reducible assumption | exact id | extract_lets | with_reducible apply OutKeeps.next | with_reducible apply Keeps.each
    | with_reducible apply finish_keeps | with_reducible apply Keeps.modSlice | with_reducible apply runCmd_keeps
    | with_reducible apply setRepl_keeps | (intro) | split | with_reducible apply Keeps.upd | with_reducible apply WArr.upd

theorem drainBank_keeps {c : Nat} {j : Nat} {s₀ s : State} (hk : Keeps s₀ s) : Keeps s₀ (drainBank c s j) := by
  unfold drainBank
  repeat' first
    | with_reducible assumption | with_reducible exact Keeps.refl _ | exact id | extract_lets | with_reducible apply evictFor_keeps
    | with_reducible apply hcScan_keeps | with_reducible apply Keeps.foldl | with_reducible apply WArr.foldl
    | with_reducible apply WArr.slice | with_reducible exact WArr.init _ | (intro) | split | with_reducible apply Keeps.upd
    | with_reducible apply WArr.upd

theorem execHcDisable_keeps {c : Nat} {s₀ s : State} (hk : Keeps s₀ s) : OutKeeps s₀ (execHcDisable c s) := by
  unfold execHcDisable
  repeat' first
    | with_reducible assumption | exact id | extract_lets | with_reducible apply OutKeeps.next | with_reducible apply drainBank_keeps
    | with_reducible apply Keeps.each | with_reducible apply finish_keeps | with_reducible apply Keeps.modSlice
    | with_reducible apply runCmd_keeps | with_reducible apply State.startCmd_keeps | (intro) | split | with_reducible apply Keeps.upd
    | with_reducible apply WArr.upd

theorem execBankPassDone_keeps {c : Nat} {s₀ s : State} (hk : Keeps s₀ s) : OutKeeps s₀ (execBankPassDone c s) := by
  unfold execBankPassDone
  repeat' first
    | with_reducible assumption | extract_lets | with_reducible apply OutKeeps.next | with_reducible apply Slice.clearBank_warr
    | with_reducible apply Slice.clearTags_warr | with_reducible apply drainBank_keeps | with_reducible apply Keeps.each
    | with_reducible apply finishUnits_keeps | with_reducible apply Keeps.modSlice | (intro) | split | with_reducible apply WArr.upd

theorem rangeLine_keeps {k : Kcp} {j : Nat} {l : LAddr} {s₀ s : State} (h : Keeps s₀ s) : Keeps s₀ (rangeLine k j s l).2 := by
  unfold rangeLine
  dsimp only
  repeat' first | with_reducible assumption | with_reducible exact Keeps.refl _ | exact id | with_reducible apply writeBackSlot_keeps | with_reducible apply evictFor_keeps | (intro) | split | with_reducible apply Keeps.upd | with_reducible apply WArr.upd

theorem rangeVisit_keeps {c : Nat} {x : Nat × LAddr} {s₀ s : State} (hk : Keeps s₀ s) : Keeps s₀ (rangeVisit c s x) := by
  unfold rangeVisit
  repeat' first
    | with_reducible assumption | extract_lets | with_reducible apply State.modCmd_keeps | with_reducible apply rangeLine_keeps | split

theorem startRange_keeps {k : Kcp} {s₀ s : State} (hk : Keeps s₀ s) : Keeps s₀ (startRange k s) := by
  unfold startRange
  repeat' first
    | with_reducible assumption | with_reducible exact Keeps.refl _ | exact id | extract_lets | with_reducible apply Keeps.each
    | with_reducible apply finish_keeps | with_reducible apply hcScan_keeps | with_reducible apply rangeVisit_keeps
    | with_reducible apply State.startCmd_keeps | with_reducible apply Keeps.foldl | with_reducible apply WArr.foldl
    | with_reducible apply WArr.slice | with_reducible exact WArr.init _ | (intro) | split | with_reducible apply Keeps.upd
    | with_reducible apply WArr.upd

theorem execInvalRange_keeps {c : Nat} {s₀ s : State} (hk : Keeps s₀ s) : OutKeeps s₀ (execInvalRange c s) := by
  unfold execInvalRange
  repeat' first
    | with_reducible assumption | extract_lets | with_reducible apply OutKeeps.next | with_reducible apply runCmd_keeps
    | with_reducible apply startRange_keeps | (intro)

theorem execFlushRange_keeps {c : Nat} {s₀ s : State} (hk : Keeps s₀ s) : OutKeeps s₀ (execFlushRange c s) := by
  unfold execFlushRange
  repeat' first
    | with_reducible assumption | extract_lets | with_reducible apply OutKeeps.next | with_reducible apply runCmd_keeps
    | with_reducible apply startRange_keeps | (intro)

theorem execRangeScanDone_keeps {c : Nat} {s₀ s : State} (hk : Keeps s₀ s) : OutKeeps s₀ (execRangeScanDone c s) := by
  unfold execRangeScanDone
  repeat' first
    | with_reducible assumption | extract_lets | with_reducible apply OutKeeps.next | with_reducible apply finishUnits_keeps
    | with_reducible apply State.modCmd_keeps | with_reducible apply rangeVisit_keeps | with_reducible apply Keeps.foldl | (intro) | split

theorem startLock_keeps {k : Kcp} {s₀ s : State} (hk : Keeps s₀ s) : Keeps s₀ (startLock k s) := by
  unfold startLock
  repeat' first
    | with_reducible assumption | extract_lets | with_reducible apply finish_keeps | with_reducible apply State.startCmd_keeps | split

theorem execWayLock_keeps {c : Nat} {s₀ s : State} (hk : Keeps s₀ s) : OutKeeps s₀ (execWayLock c s) := by
  unfold execWayLock
  repeat' first
    | with_reducible assumption | extract_lets | with_reducible apply OutKeeps.next | with_reducible apply runCmd_keeps
    | with_reducible apply startLock_keeps | (intro)

theorem execWayUnlock_keeps {c : Nat} {s₀ s : State} (hk : Keeps s₀ s) : OutKeeps s₀ (execWayUnlock c s) := by
  unfold execWayUnlock
  repeat' first
    | with_reducible assumption | extract_lets | with_reducible apply OutKeeps.next | with_reducible apply runCmd_keeps
    | with_reducible apply startLock_keeps | (intro)

theorem Slice.lockSet_warr {lock : Bool} {ways : BitVec 16} {set : Nat} {s₀ : State} {v : Slice} (hk : WArr s₀ v) :
    WArr s₀ (Slice.lockSet v lock ways set) := by
  unfold Slice.lockSet
  repeat' first
    | with_reducible assumption | extract_lets | with_reducible apply Slice.setCtl_warr

theorem execWayLockDone_keeps {c : Nat} {s₀ s : State} (hk : Keeps s₀ s) : OutKeeps s₀ (execWayLockDone c s) := by
  unfold execWayLockDone
  repeat' first
    | with_reducible assumption | with_reducible exact Keeps.refl _ | exact id | extract_lets | with_reducible exact OutKeeps.fault _ _
    | with_reducible exact OutKeeps.refused _ _ | with_reducible apply OutKeeps.next | with_reducible apply Keeps.each
    | with_reducible apply finishUnits_keeps | with_reducible apply Slice.lockSet_warr | with_reducible apply Keeps.modSlice
    | with_reducible apply readCtl_keeps | with_reducible apply Keeps.foldl | with_reducible apply WArr.foldl
    | with_reducible apply WArr.slice | with_reducible exact WArr.init _ | (intro) | split | with_reducible apply Keeps.upd
    | with_reducible apply WArr.upd

theorem atHome_keeps {f : Kcp → State → State} {k : Kcp} {s₀ s : State} (hk : Keeps s₀ s) (h_f : ∀ k s, Keeps s₀ s → Keeps s₀ (f k s)) :
    Keeps s₀ (atHome f k s) := by
  unfold atHome
  repeat' first
    | with_reducible assumption | with_reducible apply finish_keeps | with_reducible apply runAt_keeps | split

theorem execLineQuery_keeps {c : Nat} {s₀ s : State} (hk : Keeps s₀ s) : OutKeeps s₀ (execLineQuery c s) := by
  unfold execLineQuery
  repeat' first
    | with_reducible assumption | extract_lets | with_reducible apply OutKeeps.next | with_reducible apply atHome_keeps
    | with_reducible apply finish_keeps | with_reducible apply runCmd_keeps | (intro)

theorem execFlushLine_keeps {c : Nat} {s₀ s : State} (hk : Keeps s₀ s) : OutKeeps s₀ (execFlushLine c s) := by
  unfold execFlushLine
  repeat' first
    | with_reducible assumption | extract_lets | with_reducible apply OutKeeps.next | with_reducible apply atHome_keeps
    | with_reducible apply Slice.enter_warr | with_reducible apply runCmd_keeps | with_reducible apply Keeps.setSlice
    | with_reducible apply State.startCmd_keeps | with_reducible apply WArr.slice | (intro) | split

/-! ### Machine/Loss.lean -/

theorem endMirrorWaits_keeps {b : Nat} {s₀ s : State} (hk : Keeps s₀ s) : Keeps s₀ (endMirrorWaits b s) := by
  unfold endMirrorWaits
  repeat' first
    | with_reducible assumption | with_reducible exact Keeps.refl _ | exact id | extract_lets | with_reducible apply State.modTxn_keeps
    | with_reducible apply placementDone_keeps | with_reducible apply Keeps.foldl | with_reducible apply WArr.foldl
    | with_reducible apply WArr.slice | with_reducible exact WArr.init _ | (intro) | split | with_reducible apply Keeps.upd
    | with_reducible apply WArr.upd

theorem startWriteThrough_keeps {k : Nat} {s₀ s : State} (hk : Keeps s₀ s) : Keeps s₀ (startWriteThrough k s) := by
  unfold startWriteThrough
  repeat' first
    | with_reducible assumption | with_reducible exact Keeps.refl _ | exact id | extract_lets
    | with_reducible apply endMirrorWaits_keeps | with_reducible apply hcScan_keeps | with_reducible apply Keeps.setSlice
    | with_reducible apply writeBackSlot_keeps | with_reducible apply Keeps.foldl | with_reducible apply WArr.foldl
    | with_reducible apply WArr.slice | with_reducible exact WArr.init _ | (intro) | split | with_reducible apply Keeps.upd
    | with_reducible apply WArr.upd

theorem execWriteThroughScanDone_keeps {k : Nat} {s₀ s : State} (hk : Keeps s₀ s) : OutKeeps s₀ (execWriteThroughScanDone k s) := by
  unfold execWriteThroughScanDone
  repeat' first
    | with_reducible assumption | extract_lets | with_reducible apply OutKeeps.next | with_reducible apply endWriteThrough_keeps
    | with_reducible apply Keeps.modSlice | (intro) | split | with_reducible apply WArr.upd

theorem detachMem_keeps {k : Nat} {all : Bool} {s₀ s : State} (hk : Keeps s₀ s) : Keeps s₀ (detachMem k all s) := by
  unfold detachMem
  repeat' first
    | with_reducible assumption | extract_lets | with_reducible apply Keeps.each | with_reducible apply Keeps.modMp | (intro)

theorem voidCredits_keeps {k : Nat} {s₀ s : State} (hk : Keeps s₀ s) : Keeps s₀ (voidCredits k s) := by
  unfold voidCredits
  repeat' first
    | with_reducible assumption | extract_lets | with_reducible apply Keeps.each | with_reducible apply Keeps.modCa
    | with_reducible apply Keeps.modLink | (intro)

theorem noteLost_keeps {k : Nat} {src : Nat} {s₀ s : State} (hk : Keeps s₀ s) : Keeps s₀ (noteLost k src s) := by
  unfold noteLost
  repeat' first
    | with_reducible assumption | exact id | extract_lets | with_reducible apply State.endCmd_keeps | with_reducible apply Keeps.foldl
    | (intro) | with_reducible apply Keeps.upd

theorem Slice.wiped_warr {k : Nat} {s₀ : State} {v : Slice} (h : WArr s₀ v) : WArr s₀ (Slice.wiped k v) := ⟨fun h0 => by
  have := h.wf h0
  rfl⟩

theorem unwait_keeps {sh : Nat} {s₀ s : State} (hk : Keeps s₀ s) : Keeps s₀ (unwait sh s) := by
  unfold unwait
  repeat' first
    | with_reducible assumption | exact id | extract_lets | with_reducible apply Keeps.upd

theorem leaveMove_keeps {k : Nat} {m : Move} {s₀ s : State} (hk : Keeps s₀ s) : Keeps s₀ (leaveMove k s m) := by
  unfold leaveMove
  repeat' first
    | with_reducible assumption | with_reducible exact Keeps.refl _ | exact id | extract_lets | with_reducible exact OutKeeps.fault _ _
    | with_reducible exact OutKeeps.refused _ _ | with_reducible apply OutKeeps.next | with_reducible apply dropCopies_keeps
    | with_reducible apply endMove_keeps | with_reducible apply State.modMove_keeps | with_reducible apply revertMove_keeps
    | with_reducible apply rewriteChange_keeps | with_reducible apply unwait_keeps | with_reducible apply WArr.slice
    | with_reducible exact WArr.init _ | (intro) | split | with_reducible apply Keeps.upd | with_reducible apply WArr.upd

theorem State.modSalv_keeps {k : Nat} {f : Salv → Salv} {s₀ s : State} (hk : Keeps s₀ s) : Keeps s₀ (State.modSalv s k f) := by
  unfold State.modSalv
  repeat' first
    | with_reducible assumption | extract_lets | with_reducible apply Keeps.modSlice | (intro) | with_reducible apply WArr.upd

theorem setPhase_keeps {k : Nat} {n : Nat} {s₀ s : State} (hk : Keeps s₀ s) : Keeps s₀ (setPhase k n s) := by
  unfold setPhase
  repeat' first
    | with_reducible assumption | extract_lets | with_reducible apply State.modSalv_keeps | with_reducible apply raise_keeps | split

theorem instanceFatal_keeps {code : Nat} {s₀ s : State} (hk : Keeps s₀ s) : Keeps s₀ (instanceFatal code s) := by
  unfold instanceFatal
  repeat' first
    | with_reducible assumption | extract_lets | with_reducible apply loseInstance_keeps | with_reducible apply raise_keeps

theorem pairLost_keeps {k : Nat} {s₀ s : State} (hk : Keeps s₀ s) : Keeps s₀ (pairLost k s) := by
  unfold pairLost
  repeat' first
    | with_reducible assumption | with_reducible exact Keeps.refl _ | exact id | extract_lets | with_reducible apply instanceFatal_keeps
    | with_reducible apply State.modSalv_keeps | with_reducible apply WArr.slice | with_reducible exact WArr.init _ | (intro) | split
    | with_reducible apply Keeps.upd | with_reducible apply WArr.upd

theorem gatingLost_keeps {k : Nat} {s₀ s : State} (hk : Keeps s₀ s) : Keeps s₀ (gatingLost k s) := by
  unfold gatingLost
  repeat' first
    | with_reducible assumption | with_reducible exact Keeps.refl _ | exact id | extract_lets | with_reducible apply endGating_keeps
    | with_reducible apply Keeps.modSlice | with_reducible apply WArr.slice | with_reducible exact WArr.init _ | (intro) | split
    | with_reducible apply Keeps.upd | with_reducible apply WArr.upd

theorem dropVictimWrites_keeps {k : Nat} {s₀ s : State} (hk : Keeps s₀ s) : Keeps s₀ (dropVictimWrites k s) := by
  unfold dropVictimWrites
  repeat' first
    | with_reducible assumption | with_reducible exact Keeps.refl _ | exact id | extract_lets | with_reducible apply Keeps.each
    | with_reducible apply Keeps.modMp | with_reducible apply WArr.slice | with_reducible exact WArr.init _ | (intro) | split
    | with_reducible apply Keeps.upd | with_reducible apply WArr.upd

theorem loseSlice_keeps {k : Nat} {cause : FatalCause} {engine : Nat} {thread : Nat} {cmd : Option Nat} {s₀ s : State} (hk : Keeps s₀ s) :
    Keeps s₀ (loseSlice k cause engine thread cmd s) := by
  unfold loseSlice
  repeat' first
    | with_reducible assumption | with_reducible exact Keeps.refl _ | exact id | extract_lets | with_reducible apply changeMap_keeps
    | with_reducible apply detachMem_keeps | with_reducible apply dropVictimWrites_keeps | with_reducible apply Keeps.each
    | with_reducible apply gatingLost_keeps | with_reducible apply leaveMove_keeps | with_reducible apply State.modSalv_keeps
    | with_reducible apply Keeps.modSlice | with_reducible apply noteLost_keeps | with_reducible apply pairLost_keeps
    | with_reducible apply raise_keeps | with_reducible apply setPhase_keeps | with_reducible apply setRepl_keeps
    | with_reducible apply startWriteThrough_keeps | with_reducible apply voidCredits_keeps | with_reducible apply Keeps.foldl
    | with_reducible apply WArr.foldl | with_reducible apply WArr.slice | with_reducible exact WArr.init _ | (intro) | split
    | with_reducible apply Keeps.upd | with_reducible apply WArr.upd

theorem execSliceFatal_keeps {k : Nat} {cause : FatalCause} {s₀ s : State} (hk : Keeps s₀ s) : OutKeeps s₀ (execSliceFatal k cause s) := by
  unfold execSliceFatal
  repeat' first
    | with_reducible assumption | extract_lets | with_reducible apply OutKeeps.next | with_reducible apply loseSlice_keeps | split

theorem execEngineHang_keeps {k : Nat} {engine : BitVec 4} {thread : BitVec 2} {s₀ s : State} (hk : Keeps s₀ s) :
    OutKeeps s₀ (execEngineHang k engine thread s) := by
  unfold execEngineHang
  repeat' first
    | with_reducible assumption | extract_lets | with_reducible apply OutKeeps.next | with_reducible apply loseSlice_keeps | split

theorem execWrapperPacket_keeps {k : Nat} {vc : VC} {s₀ s : State} (hk : Keeps s₀ s) : OutKeeps s₀ (execWrapperPacket k vc s) := by
  unfold execWrapperPacket
  repeat' first
    | with_reducible assumption | with_reducible exact Keeps.refl _ | exact id | extract_lets | with_reducible exact OutKeeps.fault _ _
    | with_reducible exact OutKeeps.refused _ _ | with_reducible apply OutKeeps.next | with_reducible apply creditBack_keeps
    | with_reducible apply State.dropArrived_keeps | with_reducible apply State.fromSlice_keeps | with_reducible apply mirrorClr_keeps
    | with_reducible apply mirrorSet_keeps | with_reducible apply Keeps.modSlice | with_reducible apply wbAck_keeps
    | with_reducible apply WArr.slice | with_reducible exact WArr.init _ | (intro) | split | with_reducible apply Keeps.upd
    | with_reducible apply WArr.upd

/-! ### Machine/PortCmd.lean -/

theorem setCaFields_keeps {p : Nat} {w : W64} {s₀ s : State} (hk : Keeps s₀ s) : Keeps s₀ (setCaFields p w s) := by
  unfold setCaFields
  repeat' first
    | with_reducible assumption | extract_lets | with_reducible apply Keeps.modCa | with_reducible apply tryBringup_keeps | split

theorem execPortState_keeps {c : Nat} {s₀ s : State} (hk : Keeps s₀ s) : OutKeeps s₀ (execPortState c s) := by
  unfold execPortState
  repeat' first
    | with_reducible assumption | exact id | extract_lets | with_reducible apply OutKeeps.next | with_reducible apply finish_keeps
    | with_reducible apply Keeps.modMp | with_reducible apply runCmd_keeps | with_reducible apply setCaFields_keeps | (intro) | split
    | with_reducible apply Keeps.upd

theorem execPortResetCaAssert_keeps {c : Nat} {s₀ s : State} (hk : Keeps s₀ s) : OutKeeps s₀ (execPortResetCaAssert c s) := by
  unfold execPortResetCaAssert
  repeat' first
    | with_reducible assumption | extract_lets | with_reducible apply OutKeeps.next | with_reducible apply finish_keeps
    | with_reducible apply isolatePort_keeps | with_reducible apply runCmd_keeps | (intro) | split

theorem execPortResetCaRelease_keeps {c : Nat} {s₀ s : State} (hk : Keeps s₀ s) : OutKeeps s₀ (execPortResetCaRelease c s) := by
  unfold execPortResetCaRelease
  repeat' first
    | with_reducible assumption | with_reducible exact Keeps.refl _ | exact id | extract_lets | with_reducible exact OutKeeps.fault _ _
    | with_reducible exact OutKeeps.refused _ _ | with_reducible apply OutKeeps.next | with_reducible apply cleanPass_keeps
    | with_reducible apply Keeps.each | with_reducible apply finish_keeps | with_reducible apply Keeps.modCa
    | with_reducible apply release_keeps | with_reducible apply runCmd_keeps | with_reducible apply State.startCmd_keeps
    | with_reducible apply State.toJoined_keeps | with_reducible apply WArr.slice | with_reducible exact WArr.init _ | (intro) | split
    | with_reducible apply Keeps.upd | with_reducible apply WArr.upd

theorem execPortResetMemAssert_keeps {c : Nat} {s₀ s : State} (hk : Keeps s₀ s) : OutKeeps s₀ (execPortResetMemAssert c s) := by
  unfold execPortResetMemAssert
  repeat' first
    | with_reducible assumption | extract_lets | with_reducible apply OutKeeps.next | with_reducible apply failAll_keeps
    | with_reducible apply finish_keeps | with_reducible apply Keeps.modMp | with_reducible apply runCmd_keeps | (intro) | split

theorem execPortResetMemRelease_keeps {c : Nat} {s₀ s : State} (hk : Keeps s₀ s) : OutKeeps s₀ (execPortResetMemRelease c s) := by
  unfold execPortResetMemRelease
  repeat' first
    | with_reducible assumption | extract_lets | with_reducible apply OutKeeps.next | with_reducible apply finish_keeps
    | with_reducible apply runCmd_keeps | with_reducible apply Keeps.setMp | (intro) | split

/-! ### Machine/SliceCmd.lean -/

theorem execSliceState_keeps {c : Nat} {s₀ s : State} (hk : Keeps s₀ s) : OutKeeps s₀ (execSliceState c s) := by
  unfold execSliceState
  repeat' first
    | with_reducible assumption | extract_lets | with_reducible apply OutKeeps.next | with_reducible apply finish_keeps
    | with_reducible apply runCmd_keeps | (intro)

theorem powerCommand_keeps {up : Bool} {k : Kcp} {s₀ s : State} (hk : Keeps s₀ s) : Keeps s₀ (powerCommand up k s) := by
  unfold powerCommand
  repeat' first
    | with_reducible assumption | exact id | extract_lets | with_reducible apply finish_keeps
    | with_reducible apply State.startCmd_keeps | split | with_reducible apply Keeps.upd

theorem execSlicePowerUp_keeps {c : Nat} {s₀ s : State} (hk : Keeps s₀ s) : OutKeeps s₀ (execSlicePowerUp c s) := by
  unfold execSlicePowerUp
  repeat' first
    | with_reducible assumption | extract_lets | with_reducible apply OutKeeps.next | with_reducible apply powerCommand_keeps
    | with_reducible apply runCmd_keeps | (intro)

theorem execSlicePowerDown_keeps {c : Nat} {s₀ s : State} (hk : Keeps s₀ s) : OutKeeps s₀ (execSlicePowerDown c s) := by
  unfold execSlicePowerDown
  repeat' first
    | with_reducible assumption | extract_lets | with_reducible apply OutKeeps.next | with_reducible apply powerCommand_keeps
    | with_reducible apply runCmd_keeps | (intro)

theorem execGatingPowerDown_keeps {pair : Nat} {s₀ s : State} (hk : Keeps s₀ s) : OutKeeps s₀ (execGatingPowerDown pair s) := by
  unfold execGatingPowerDown
  repeat' first
    | with_reducible assumption | exact id | extract_lets | with_reducible apply OutKeeps.next | with_reducible apply gateOn_keeps
    | split | with_reducible apply Keeps.upd

theorem execGatingSwitchOpen_keeps {s₀ s : State} (hk : Keeps s₀ s) : OutKeeps s₀ (execGatingSwitchOpen s) := by
  unfold execGatingSwitchOpen
  repeat' first
    | with_reducible assumption | with_reducible exact Keeps.refl _ | exact id | extract_lets | with_reducible exact OutKeeps.fault _ _
    | with_reducible exact OutKeeps.refused _ _ | with_reducible apply OutKeeps.next | with_reducible apply Keeps.each
    | with_reducible apply Keeps.modSlice | with_reducible apply WArr.slice | with_reducible exact WArr.init _ | (intro) | split
    | with_reducible apply Keeps.upd | with_reducible apply WArr.upd

theorem execSlicePowerOffDone_keeps {k : Nat} {s₀ s : State} (hk : Keeps s₀ s) : OutKeeps s₀ (execSlicePowerOffDone k s) := by
  unfold execSlicePowerOffDone
  repeat' first
    | with_reducible assumption | extract_lets | with_reducible apply OutKeeps.next | with_reducible apply detachMem_keeps
    | with_reducible apply endGating_keeps | with_reducible apply Keeps.modSlice | with_reducible apply noteLost_keeps
    | with_reducible apply voidCredits_keeps | with_reducible apply Slice.wiped_warr | (intro) | split | with_reducible apply WArr.upd

theorem execGatingPowerUp_keeps {pair : Nat} {s₀ s : State} (hk : Keeps s₀ s) : OutKeeps s₀ (execGatingPowerUp pair s) := by
  unfold execGatingPowerUp
  repeat' first
    | with_reducible assumption | exact id | extract_lets | with_reducible apply OutKeeps.next | with_reducible apply Keeps.each
    | with_reducible apply gateOn_keeps | with_reducible apply Keeps.modSlice | (intro) | split | with_reducible apply Keeps.upd
    | with_reducible apply WArr.upd

theorem initCredits_keeps {k : Nat} {s₀ s : State} (hk : Keeps s₀ s) : Keeps s₀ (initCredits k s) := by
  unfold initCredits
  repeat' first
    | with_reducible assumption | extract_lets | with_reducible apply Keeps.each | with_reducible apply sendFirst_keeps | (intro)

theorem execSliceDomainGood_keeps {k : Nat} {s₀ s : State} (hk : Keeps s₀ s) : OutKeeps s₀ (execSliceDomainGood k s) := by
  unfold execSliceDomainGood
  repeat' first
    | with_reducible assumption | extract_lets | with_reducible apply OutKeeps.next | with_reducible apply gateOn_keeps
    | with_reducible apply initCredits_keeps | with_reducible apply Keeps.setSlice | with_reducible apply Slice.wiped_warr
    | with_reducible apply WArr.slice | split | with_reducible apply WArr.upd

theorem execSlicePowerTimeout_keeps {k : Nat} {s₀ s : State} (hk : Keeps s₀ s) : OutKeeps s₀ (execSlicePowerTimeout k s) := by
  unfold execSlicePowerTimeout
  repeat' first
    | with_reducible assumption | exact id | extract_lets | with_reducible apply OutKeeps.next | with_reducible apply loseSlice_keeps
    | with_reducible apply Keeps.modSlice | with_reducible apply raise_keeps | with_reducible apply setRepl_keeps
    | with_reducible apply Keeps.setSlice | with_reducible apply WArr.slice | (intro) | split | with_reducible apply Keeps.upd
    | with_reducible apply WArr.upd

theorem softReset_keeps {k : Nat} {s₀ s : State} (h : Keeps s₀ s) : Keeps s₀ (softReset k s) := by
  unfold softReset
  refine startWriteThrough_keeps (Keeps.modSlice (voidCredits_keeps (detachMem_keeps (noteLost_keeps (gatingLost_keeps h)))) (fun v hv => ?_))
  exact (Slice.wiped_warr hv).upd

theorem execSliceResetAssert_keeps {c : Nat} {s₀ s : State} (hk : Keeps s₀ s) : OutKeeps s₀ (execSliceResetAssert c s) := by
  unfold execSliceResetAssert
  repeat' first
    | with_reducible assumption | extract_lets | with_reducible apply OutKeeps.next | with_reducible apply finish_keeps
    | with_reducible apply loseSlice_keeps | with_reducible apply Keeps.modSlice | with_reducible apply runCmd_keeps
    | with_reducible apply softReset_keeps | with_reducible apply State.startCmd_keeps | (intro) | split | with_reducible apply WArr.upd

theorem execSliceResetRelease_keeps {c : Nat} {s₀ s : State} (hk : Keeps s₀ s) : OutKeeps s₀ (execSliceResetRelease c s) := by
  unfold execSliceResetRelease
  repeat' first
    | with_reducible assumption | extract_lets | with_reducible apply OutKeeps.next | with_reducible apply finish_keeps
    | with_reducible apply Keeps.modSlice | with_reducible apply runCmd_keeps | with_reducible apply State.startCmd_keeps | (intro)
    | split | with_reducible apply WArr.upd

theorem execSliceResetInitDone_keeps {j : Nat} {s₀ s : State} (h : Keeps s₀ s) : OutKeeps s₀ (execSliceResetInitDone j s) := by
  refine .next ?_
  split
  · have start : Keeps s₀ (endWriteThrough (buddy j) (initCredits j (s.setSlice j { (s.slice j) with
        sf := [], sfNru := [], sfRot := [], mirror := [], walkPos := 0, walkFrom := s.time.cycles, st := .on, wrapper := false,
        clamped := false, wt226 := !((s.slice (buddy j)).st.losable) }))) := by
      refine endWriteThrough_keeps (initCredits_keeps (h.setSlice ⟨fun h0 => ?_⟩))
      obtain ⟨-, h2, h3, h4, -⟩ := (WArr.slice (k := j) h).parts h0
      exact Slice.arraysWf_of rfl h2 h3 h4 rfl
    dsimp only
    split
    · exact finish_keeps start
    · exact start
  · exact h

/-! ### Machine/Salvage.lean -/

theorem salvIssue_keeps {k : Nat} {w : LAddr × LineBuf × BitVec 64} {s₀ s : State} (hk : Keeps s₀ s) : Keeps s₀ (salvIssue k s w) := by
  unfold salvIssue
  repeat' first
    | with_reducible assumption | with_reducible apply memWrite_keeps | with_reducible apply memWriteP_keeps | split

theorem issueLate_keeps {k : Nat} {s₀ s : State} (hk : Keeps s₀ s) : Keeps s₀ (issueLate k s) := by
  unfold issueLate
  repeat' first
    | with_reducible assumption | extract_lets | with_reducible apply State.modSalv_keeps | with_reducible apply salvIssue_keeps
    | with_reducible apply Keeps.foldl | (intro) | split

theorem lateWrite_keeps {k : Nat} {l : LAddr} {b : LineBuf} {be : BitVec 64} {s₀ s : State} (hk : Keeps s₀ s) :
    Keeps s₀ (lateWrite k l b be s) := by
  unfold lateWrite
  repeat' first
    | with_reducible assumption | extract_lets | with_reducible apply issueLate_keeps | with_reducible apply State.modSalv_keeps

theorem poisonLate_keeps {k : Nat} {l : LAddr} {a : Aid} {acc : Nat} {s₀ s : State} (hk : Keeps s₀ s) :
    Keeps s₀ (poisonLate k l a acc s) := by
  unfold poisonLate
  repeat' first
    | with_reducible assumption | extract_lets | with_reducible apply lateWrite_keeps | with_reducible apply State.modSalv_keeps
    | with_reducible apply reportPoison_keeps | split

theorem poisonNow_keeps {k : Nat} {mirrored : Bool} {l : LAddr} {s₀ s : State} (hk : Keeps s₀ s) : Keeps s₀ (poisonNow k mirrored s l) := by
  unfold poisonNow
  repeat' first
    | with_reducible assumption | extract_lets | with_reducible apply memWrite_keeps | with_reducible apply State.modSalv_keeps
    | with_reducible apply reportPoison_keeps | split

theorem unsettle_keeps {k : Nat} {l : LAddr} {s₀ s : State} (hk : Keeps s₀ s) : Keeps s₀ (unsettle k l s) := by
  unfold unsettle
  repeat' first
    | with_reducible assumption | with_reducible apply State.modSalv_keeps

theorem completeRec_keeps {k : Nat} {t : Txn} {buf : Bool} {s₀ s : State} (hk : Keeps s₀ s) : Keeps s₀ (completeRec k t buf s) := by
  unfold completeRec
  repeat' first
    | with_reducible assumption | with_reducible exact Keeps.refl _ | exact id | extract_lets | with_reducible apply lateWrite_keeps
    | with_reducible apply State.modSalv_keeps | with_reducible apply poisonLate_keeps | with_reducible apply WArr.slice
    | with_reducible exact WArr.init _ | (intro) | split | with_reducible apply Keeps.upd | with_reducible apply WArr.upd

theorem recAnswer_keeps {k : Nat} {r : WRec} {v : VC} {m : Msg} {s₀ s : State} (hk : Keeps s₀ s) : Keeps s₀ (recAnswer k r v m s) := by
  unfold recAnswer
  repeat' first
    | with_reducible assumption | with_reducible apply State.fromSlice_keeps

theorem recLost_keeps {k : Nat} {r : WRec} {s₀ s : State} (hk : Keeps s₀ s) : Keeps s₀ (recLost k r s) := by
  unfold recLost
  repeat' first
    | with_reducible assumption | with_reducible apply recAnswer_keeps

theorem recChunks_keeps {k : Nat} {r : WRec} {sent : BitVec 4} {line : Option LineBuf} {s₀ s : State} (hk : Keeps s₀ s) :
    Keeps s₀ (recChunks k r sent line s) := by
  unfold recChunks
  repeat' first
    | with_reducible assumption | extract_lets | with_reducible apply recAnswer_keeps | with_reducible apply Keeps.foldl | (intro)

theorem recComplete_keeps {k : Nat} {r : WRec} {t : Txn} {s₀ s : State} (hk : Keeps s₀ s) : Keeps s₀ (recComplete k r t s) := by
  unfold recComplete
  repeat' first
    | with_reducible assumption | with_reducible exact Keeps.refl _ | exact id | extract_lets | with_reducible apply completeRec_keeps
    | with_reducible apply recAnswer_keeps | with_reducible apply recChunks_keeps | with_reducible apply WArr.slice
    | with_reducible exact WArr.init _ | (intro) | split | with_reducible apply Keeps.upd | with_reducible apply WArr.upd

theorem recLine_keeps {k : Nat} {r : WRec} {t : Option Txn} {buf : Bool} {s₀ s : State} (hk : Keeps s₀ s) :
    Keeps s₀ (recLine k r t buf s) := by
  unfold recLine
  repeat' first
    | with_reducible assumption | with_reducible exact Keeps.refl _ | exact id | extract_lets | with_reducible apply lateWrite_keeps
    | with_reducible apply poisonLate_keeps | with_reducible apply unsettle_keeps | with_reducible apply WArr.slice
    | with_reducible exact WArr.init _ | (intro) | split | with_reducible apply Keeps.upd | with_reducible apply WArr.upd

theorem recRequest_keeps {k : Nat} {r : WRec} {t : Option Txn} {buf : Bool} {s₀ s : State} (hk : Keeps s₀ s) :
    Keeps s₀ (recRequest k r t buf s) := by
  unfold recRequest
  repeat' first
    | with_reducible assumption | with_reducible exact Keeps.refl _ | exact id | extract_lets | with_reducible apply completeRec_keeps
    | with_reducible apply recChunks_keeps | with_reducible apply recComplete_keeps | with_reducible apply recLine_keeps
    | with_reducible apply recLost_keeps | with_reducible apply reportPoison_keeps | with_reducible apply WArr.slice
    | with_reducible exact WArr.init _ | (intro) | split | with_reducible apply Keeps.upd | with_reducible apply WArr.upd

theorem recWriteback_keeps {k : Nat} {r : WRec} {t : Option Txn} {buf : Bool} {s₀ s : State} (hk : Keeps s₀ s) :
    Keeps s₀ (recWriteback k r t buf s) := by
  unfold recWriteback
  repeat' first
    | with_reducible assumption | with_reducible exact Keeps.refl _ | exact id | extract_lets | with_reducible apply completeRec_keeps
    | with_reducible apply recAnswer_keeps | with_reducible apply recLine_keeps | with_reducible apply recLost_keeps
    | with_reducible apply wbAck_keeps | with_reducible apply WArr.slice | with_reducible exact WArr.init _ | (intro) | split
    | with_reducible apply Keeps.upd | with_reducible apply WArr.upd

theorem execSalvageRecord_keeps {k : Nat} {s₀ s : State} (hk : Keeps s₀ s) : OutKeeps s₀ (execSalvageRecord k s) := by
  unfold execSalvageRecord
  repeat' first
    | with_reducible assumption | extract_lets | with_reducible apply OutKeeps.next | with_reducible apply State.modSalv_keeps
    | with_reducible apply recRequest_keeps | with_reducible apply recWriteback_keeps | split

theorem loseVictims_keeps {k : Nat} {lost : Nat → Bool} {s₀ s : State} (hk : Keeps s₀ s) : Keeps s₀ (loseVictims k lost s) := by
  unfold loseVictims
  repeat' first
    | with_reducible assumption | extract_lets | with_reducible apply Keeps.each | with_reducible apply Keeps.modMp
    | with_reducible apply Keeps.modSlice | with_reducible apply poisonNow_keeps | with_reducible apply Keeps.foldl | (intro)
    | with_reducible apply WArr.upd

theorem readFilter_keeps {k : Nat} {addr : Nat} {bad : Bool} {s₀ s : State} (hk : Keeps s₀ s) : Keeps s₀ (readFilter k addr bad s) := by
  unfold readFilter
  repeat' first
    | with_reducible assumption | exact id | extract_lets | with_reducible apply State.modSalv_keeps
    | with_reducible apply Keeps.modSlice | with_reducible apply unsettle_keeps | with_reducible apply Keeps.foldl | (intro) | split
    | with_reducible apply Keeps.upd | with_reducible apply WArr.upd

theorem readSalvTag_keeps {k : Nat} {n : Nat} {bad : Bool} {s₀ s : State} (hk : Keeps s₀ s) : Keeps s₀ (readSalvTag k n bad s) := by
  unfold readSalvTag
  repeat' first
    | with_reducible assumption | extract_lets | with_reducible apply State.modSalv_keeps | with_reducible apply poisonNow_keeps | split

theorem readSalvData_keeps {k : Nat} {n : Nat} {bad : Bool} {s₀ s : State} (hk : Keeps s₀ s) : Keeps s₀ (readSalvData k n bad s) := by
  unfold readSalvData
  repeat' first
    | with_reducible assumption | extract_lets | with_reducible apply memWrite_keeps | with_reducible apply State.modSalv_keeps
    | with_reducible apply poisonNow_keeps | split

theorem loseArray_keeps {k : Nat} {a : SalvArray} {s₀ s : State} (hk : Keeps s₀ s) : Keeps s₀ (loseArray k a s) := by
  unfold loseArray
  repeat' first
    | with_reducible assumption | extract_lets | with_reducible apply loseVictims_keeps | with_reducible apply State.modSalv_keeps
    | with_reducible apply poisonNow_keeps | with_reducible apply Keeps.foldl | (intro) | split

theorem execSalvageRead_keeps {k : Nat} {a : SalvArray} {n : Nat} {r : SalvRead} {s₀ s : State} (hk : Keeps s₀ s) :
    OutKeeps s₀ (execSalvageRead k a n r s) := by
  unfold execSalvageRead
  repeat' first
    | with_reducible assumption | extract_lets | with_reducible apply OutKeeps.next | with_reducible apply issueLate_keeps
    | with_reducible apply loseArray_keeps | with_reducible apply loseVictims_keeps | with_reducible apply State.modSalv_keeps
    | with_reducible apply readFilter_keeps | with_reducible apply readSalvData_keeps | with_reducible apply readSalvTag_keeps | split

theorem execMirrorReadDone_keeps {k : Nat} {s₀ s : State} (h : Keeps s₀ s) : OutKeeps s₀ (execMirrorReadDone k s) := by
  refine .next ?_
  split
  · exact h
  · split
    · exact h
    · refine issueLate_keeps (State.modSalv_keeps (Keeps.modSlice
        ((h.foldl (fun s x hs => correctWord_keeps hs)).foldl (fun s x hs => poisonNow_keeps hs)) (fun v hv => ⟨fun h0 => ?_⟩)))
      obtain ⟨h1, h2, h3, h4, -⟩ := hv.parts h0
      exact Slice.arraysWf_of h1 h2 h3 h4 rfl

theorem sendShingle_keeps {k : Nat} {sh : Nat} {s₀ s : State} (hk : Keeps s₀ s) : Keeps s₀ (sendShingle k s sh) := by
  unfold sendShingle
  repeat' first
    | with_reducible assumption | with_reducible exact Keeps.refl _ | exact id | extract_lets
    | with_reducible apply State.injectHub_keeps | with_reducible apply State.modSalv_keeps | with_reducible apply Keeps.foldl
    | with_reducible apply WArr.foldl | with_reducible apply WArr.slice | with_reducible exact WArr.init _ | (intro) | split
    | with_reducible apply Keeps.upd | with_reducible apply WArr.upd

theorem execShingleRehome_keeps {k : Nat} {s₀ s : State} (hk : Keeps s₀ s) : OutKeeps s₀ (execShingleRehome k s) := by
  unfold execShingleRehome
  repeat' first
    | with_reducible assumption | extract_lets | with_reducible apply OutKeeps.next | with_reducible apply issueLate_keeps
    | with_reducible apply State.modSalv_keeps | with_reducible apply sendShingle_keeps | with_reducible apply Keeps.foldl | (intro)
    | split

theorem execLineResolution_keeps {j : Nat} {s₀ s : State} (hk : Keeps s₀ s) : OutKeeps s₀ (execLineResolution j s) := by
  unfold execLineResolution
  repeat' first
    | with_reducible assumption | extract_lets | with_reducible apply OutKeeps.next | with_reducible apply activate_keeps
    | with_reducible apply Slice.enter_warr | with_reducible apply State.modSalv_keeps | with_reducible apply Keeps.setSlice
    | with_reducible apply WArr.slice | split

theorem rehomeRest_keeps {k n : Nat} {s₀ s : State} (h : Keeps s₀ s) : Keeps s₀ (rehomeRest k n s) := by
  induction n generalizing s with
  | zero => exact h
  | succ n ih =>
    unfold rehomeRest
    split
    · split
      · exact ih (State.modSalv_keeps h)
      · exact h
    · exact h

theorem installOpen_keeps {k j sh : Nat} {l : LAddr} {s₀ s : State} (h : Keeps s₀ s) : Keeps s₀ (installOpen k j sh s l) := by
  unfold installOpen
  split
  · exact installEnt_keeps h (by assumption)
  · exact State.modSalv_keeps (h.modSlice (fun v hv => hv.upd))

theorem openAtDecision_keeps {k sh : Nat} {s₀ s : State} (h : Keeps s₀ s) : Keeps s₀ (openAtDecision k s sh) := by
  unfold openAtDecision
  split
  · exact h
  · split
    · exact h
    · dsimp only
      split <;> try with_reducible apply sendShingle_keeps
      all_goals
        refine Keeps.foldl (State.modSalv_keeps (h.setSlice ((WArr.slice h).foldl ?_))) (fun s l hs => installOpen_keeps hs)
        intro v e hv
        split
        · exact hv
        · exact Slice.setSf_warr hv

theorem endSalvage_keeps {k : Nat} {s₀ s : State} (hk : Keeps s₀ s) : Keeps s₀ (endSalvage k s) := by
  unfold endSalvage
  repeat' first
    | with_reducible assumption | exact id | extract_lets | with_reducible apply setPhase_keeps | with_reducible apply Keeps.upd

theorem execSalvageDecision_keeps {k : Nat} {s₀ s : State} (hk : Keeps s₀ s) : OutKeeps s₀ (execSalvageDecision k s) := by
  unfold execSalvageDecision
  repeat' first
    | with_reducible assumption | extract_lets | with_reducible apply OutKeeps.next | with_reducible apply changeMap_keeps
    | with_reducible apply endSalvage_keeps | with_reducible apply State.modSalv_keeps | with_reducible apply openAtDecision_keeps
    | with_reducible apply rehomeRest_keeps | with_reducible apply Keeps.foldl | (intro) | split

/-! ### Machine/Flip.lean -/

theorem markHeld_keeps {shs : List Nat} {s₀ s : State} (hk : Keeps s₀ s) : Keeps s₀ (markHeld shs s) := by
  unfold markHeld
  repeat' first
    | with_reducible assumption | extract_lets | with_reducible apply Keeps.each | with_reducible apply State.setIngress_keeps | (intro)
    | split

theorem execOpenEavesWbMark_keeps {shingles : List (BitVec 12)} {src : BitVec 3} {s₀ s : State} (hk : Keeps s₀ s) :
    OutKeeps s₀ (execOpenEavesWbMark shingles src s) := by
  unfold execOpenEavesWbMark
  repeat' first
    | with_reducible assumption | extract_lets | with_reducible apply OutKeeps.next | with_reducible apply Keeps.each
    | with_reducible apply Keeps.modCa | with_reducible apply Keeps.modLink | (intro)

theorem fenceMove_keeps {m : Move} {s₀ s : State} (hk : Keeps s₀ s) : Keeps s₀ (fenceMove m s) := by
  unfold fenceMove
  repeat' first
    | with_reducible assumption | extract_lets | with_reducible apply State.modMove_keeps | with_reducible apply State.toSlice_keeps
    | with_reducible apply Keeps.foldl | (intro)

theorem flipMove_keeps {x : Nat × BitVec 8} {s₀ s : State} (hk : Keeps s₀ s) : Keeps s₀ (flipMove s x) := by
  unfold flipMove
  repeat' first
    | with_reducible assumption | extract_lets | with_reducible apply dropCopies_keeps | with_reducible apply dropShingle_keeps
    | with_reducible apply endMove_keeps | with_reducible apply fenceMove_keeps | split

theorem flipFence_keeps {chg : List (Nat × BitVec 8)} {k : Nat} {s₀ s : State} (hk : Keeps s₀ s) : Keeps s₀ (flipFence chg s k) := by
  unfold flipFence
  repeat' first
    | with_reducible assumption | with_reducible exact Keeps.refl _ | exact id | extract_lets | with_reducible apply State.modSalv_keeps
    | with_reducible apply setPhase_keeps | with_reducible apply WArr.slice | with_reducible exact WArr.init _ | (intro) | split
    | with_reducible apply Keeps.upd | with_reducible apply WArr.upd

theorem forcedReset_keeps {k : Nat} {cmd : Option Nat} {s₀ s : State} (hk : Keeps s₀ s) : Keeps s₀ (forcedReset k cmd s) := by
  unfold forcedReset
  repeat' first
    | with_reducible assumption | extract_lets | with_reducible apply detachMem_keeps | with_reducible apply State.endCmd_keeps
    | with_reducible apply Keeps.modSlice | with_reducible apply Slice.wiped_warr | (intro) | with_reducible apply WArr.upd

theorem flipUnfence_keeps {chg : List (Nat × BitVec 8)} {k : Nat} {s₀ s : State} (hk : Keeps s₀ s) : Keeps s₀ (flipUnfence chg s k) := by
  unfold flipUnfence
  repeat' first
    | with_reducible assumption | with_reducible exact Keeps.refl _ | exact id | extract_lets | with_reducible apply endSalvage_keeps
    | with_reducible apply forcedReset_keeps | with_reducible apply markHeld_keeps | with_reducible apply State.modSalv_keeps
    | with_reducible apply Keeps.modSlice | with_reducible apply setPhase_keeps | with_reducible apply WArr.slice
    | with_reducible exact WArr.init _ | (intro) | split | with_reducible apply Keeps.upd | with_reducible apply WArr.upd

theorem flipExit_keeps {chg : List (Nat × BitVec 8)} {k : Nat} {s₀ s : State} (hk : Keeps s₀ s) : Keeps s₀ (flipExit chg s k) := by
  unfold flipExit
  repeat' first
    | with_reducible assumption | with_reducible exact Keeps.refl _ | exact id | extract_lets | with_reducible apply endSalvage_keeps
    | with_reducible apply State.modSalv_keeps | with_reducible apply Keeps.modSlice | with_reducible apply WArr.slice
    | with_reducible exact WArr.init _ | (intro) | split | with_reducible apply Keeps.upd | with_reducible apply WArr.upd

theorem MapSt.turn_wf {m : MapSt} (f : Flip) (h : m.wf = true) : (m.turn f).wf = true := MapSt.write_wf _ _ h

theorem turnMap_keeps {s₀ s : State} (h : Keeps s₀ s) : Keeps s₀ (turnMap s) := by
  unfold turnMap
  split
  · exact h
  · refine endWaits_keeps (Keeps.foldl (Keeps.foldl (Keeps.foldl (Keeps.foldl (h.upd id (MapSt.turn_wf _)) ?_) ?_) ?_) ?_)
    · exact fun s x hs => flipExit_keeps hs
    · exact fun s x hs => flipMove_keeps hs
    · exact fun s x hs => flipFence_keeps hs
    · exact fun s x hs => flipUnfence_keeps hs

theorem execHomeMapFlip_keeps {s₀ s : State} (hk : Keeps s₀ s) : OutKeeps s₀ (execHomeMapFlip s) := by
  unfold execHomeMapFlip
  repeat' first
    | with_reducible assumption | extract_lets | with_reducible apply OutKeeps.next | with_reducible apply turnMap_keeps
    | with_reducible apply withdrawFailed_keeps | split

theorem execOpenEavesExit_keeps {sh : Nat} {s₀ s : State} (hk : Keeps s₀ s) : OutKeeps s₀ (execOpenEavesExit sh s) := by
  unfold execOpenEavesExit
  repeat' first
    | with_reducible assumption | extract_lets | with_reducible apply OutKeeps.next | with_reducible apply changeMap_keeps | split

theorem flushed_keeps {as : List Aid} {s₀ s : State} (hk : Keeps s₀ s) : Keeps s₀ (flushed as s) := by
  unfold flushed
  repeat' first
    | with_reducible assumption | extract_lets | with_reducible apply Keeps.each | with_reducible apply Keeps.modLink
    | with_reducible apply Keeps.modSlice | (intro) | split | with_reducible apply WArr.upd

theorem execAgentFlushNote_keeps {c : Nat} {s₀ s : State} (hk : Keeps s₀ s) : OutKeeps s₀ (execAgentFlushNote c s) := by
  unfold execAgentFlushNote
  repeat' first
    | with_reducible assumption | with_reducible exact Keeps.refl _ | exact id | extract_lets | with_reducible exact OutKeeps.fault _ _
    | with_reducible exact OutKeeps.refused _ _ | with_reducible apply OutKeeps.next | with_reducible apply finish_keeps
    | with_reducible apply flushed_keeps | with_reducible apply State.modCmd_keeps | with_reducible apply State.startCmd_keeps
    | with_reducible apply State.toJoined_keeps | with_reducible apply WArr.slice | with_reducible exact WArr.init _ | (intro) | split
    | with_reducible apply Keeps.upd | with_reducible apply WArr.upd

theorem execAgentFlushNoteReceive_keeps {src : BitVec 3} {aids : List (BitVec 11)} {s₀ s : State} (hk : Keeps s₀ s) :
    OutKeeps s₀ (execAgentFlushNoteReceive src aids s) := by
  unfold execAgentFlushNoteReceive
  repeat' first
    | with_reducible assumption | extract_lets | with_reducible apply OutKeeps.next | with_reducible apply flushed_keeps
    | with_reducible apply State.sendMgt_keeps

theorem execSalvageStatus_keeps {c : Nat} {s₀ s : State} (hk : Keeps s₀ s) : OutKeeps s₀ (execSalvageStatus c s) := by
  unfold execSalvageStatus
  repeat' first
    | with_reducible assumption | extract_lets | with_reducible apply OutKeeps.next | with_reducible apply finish_keeps
    | with_reducible apply runCmd_keeps | (intro)

/-! ### Machine/Scrub.lean -/

theorem execSfScrubVisit_keeps {k : Nat} {s₀ s : State} (hk : Keeps s₀ s) : OutKeeps s₀ (execSfScrubVisit k s) := by
  unfold execSfScrubVisit
  repeat' first
    | with_reducible assumption | with_reducible exact Keeps.refl _ | exact id | extract_lets | with_reducible exact OutKeeps.fault _ _
    | with_reducible exact OutKeeps.refused _ _ | with_reducible apply OutKeeps.next | with_reducible apply bankServes_keeps
    | with_reducible apply Keeps.modSlice | with_reducible apply sfParityCheck_keeps | with_reducible apply sfReadSet_keeps
    | with_reducible apply WArr.slice | with_reducible exact WArr.init _ | (intro) | split | with_reducible apply Keeps.upd
    | with_reducible apply WArr.upd

theorem scrubWords_keeps {k : Nat} {set : Nat} {s₀ s : State} (hk : Keeps s₀ s) : Keeps s₀ (scrubWords k set s) := by
  unfold scrubWords
  repeat' first
    | with_reducible assumption | extract_lets | with_reducible apply correctWord_keeps | with_reducible apply Keeps.each | (intro)
    | split

theorem patrolData_keeps {k : Nat} {set : Nat} {slot : Nat} {s₀ s : State} (hk : Keeps s₀ s) : Keeps s₀ (patrolData k set s slot) := by
  unfold patrolData
  repeat' first
    | with_reducible assumption | extract_lets | with_reducible apply activate_keeps | with_reducible apply Slice.enter_warr
    | with_reducible apply readData_keeps | with_reducible apply Keeps.setSlice | with_reducible apply WArr.slice | split

theorem execHcScrubVisit_keeps {k : Nat} {s₀ s : State} (hk : Keeps s₀ s) : OutKeeps s₀ (execHcScrubVisit k s) := by
  unfold execHcScrubVisit
  repeat' first
    | with_reducible assumption | with_reducible exact Keeps.refl _ | exact id | extract_lets | with_reducible exact OutKeeps.fault _ _
    | with_reducible exact OutKeeps.refused _ _ | with_reducible apply OutKeeps.next | with_reducible apply bankServes_keeps
    | with_reducible apply Keeps.each | with_reducible apply Keeps.modSlice | with_reducible apply patrolData_keeps
    | with_reducible apply readCtl_keeps | with_reducible apply readMirror_keeps | with_reducible apply readTag_keeps
    | with_reducible apply scrubWords_keeps | with_reducible apply WArr.slice | with_reducible exact WArr.init _ | (intro) | split
    | with_reducible apply Keeps.upd | with_reducible apply WArr.upd

theorem execMirrorRefresh_keeps {k set : Nat} {s₀ s : State} (h : Keeps s₀ s) : OutKeeps s₀ (execMirrorRefresh k set s) := by
  refine .next ?_
  split
  · refine raise_keeps (Keeps.foldl (Keeps.foldl (h.modSlice ?_) ?_) ?_)
    · refine fun v hv => WArr.upd (hv.foldl fun v i hv => Slice.heal_warr (WArr.ofArrays ?_ ?_ ?_ ?_ ?_))
      all_goals intro h0
      all_goals obtain ⟨h1, h2, h3, h4, h5⟩ := hv.parts h0
      · exact h1
      · exact h2
      · exact h3
      · exact h4
      · exact canonical_tdel _ h5
    · exact fun s t hs => mirrorSet_keeps hs
    · exact fun s x hs => mirrorSet_keeps hs
  · exact h

theorem execNruAgeingWalk_keeps {k : Nat} {s₀ s : State} (hk : Keeps s₀ s) : OutKeeps s₀ (execNruAgeingWalk k s) := by
  unfold execNruAgeingWalk
  repeat' first
    | with_reducible assumption | extract_lets | with_reducible apply OutKeeps.next | with_reducible apply Keeps.modSlice
    | with_reducible apply readCtl_keeps | with_reducible apply Slice.setCtl_warr | (intro) | split | with_reducible apply WArr.upd

theorem openLine_keeps {k : Nat} {t : Txn} {l : LAddr} {s₀ s : State} (hk : Keeps s₀ s) : Keeps s₀ (openLine k t l s) := by
  unfold openLine
  repeat' first
    | with_reducible assumption | extract_lets | with_reducible apply advance_keeps | with_reducible apply Keeps.setSlice
    | with_reducible apply Slice.setTxn_warr | with_reducible apply WArr.slice | with_reducible apply WArr.upd

theorem closeLine_keeps {k : Nat} {t : Txn} {s₀ s : State} (hk : Keeps s₀ s) : Keeps s₀ (closeLine k t s) := by
  unfold closeLine
  repeat' first
    | with_reducible assumption | with_reducible exact Keeps.refl _ | exact id | extract_lets | with_reducible apply grantRun_keeps
    | with_reducible apply Keeps.modSlice | with_reducible apply State.modTxn_keeps | with_reducible apply passOn_keeps
    | with_reducible apply Slice.setSf_warr | with_reducible apply WArr.slice | with_reducible exact WArr.init _ | (intro) | split
    | with_reducible apply Keeps.upd | with_reducible apply WArr.upd

theorem endOpen_keeps {k : Nat} {t : Txn} {s₀ s : State} (hk : Keeps s₀ s) : Keeps s₀ (endOpen k t s) := by
  unfold endOpen
  repeat' first
    | with_reducible assumption | with_reducible exact Keeps.refl _ | exact id | extract_lets | with_reducible apply grantRun_keeps
    | with_reducible apply Keeps.modSlice | with_reducible apply raise_keeps | with_reducible apply WArr.slice
    | with_reducible exact WArr.init _ | (intro) | split | with_reducible apply Keeps.upd | with_reducible apply WArr.upd

theorem listOpen_keeps {k : Nat} {t : Txn} {l : LAddr} {s₀ s : State} (hk : Keeps s₀ s) : Keeps s₀ (listOpen k t l s) := by
  unfold listOpen
  repeat' first
    | with_reducible assumption | extract_lets | with_reducible apply Slice.count_warr | with_reducible apply Keeps.setSlice
    | with_reducible apply Slice.setTxn_warr | with_reducible apply WArr.slice | with_reducible apply WArr.upd

theorem takeUp_keeps {k : Nat} {t : Txn} {l : LAddr} {s₀ s : State} (hk : Keeps s₀ s) : Keeps s₀ (takeUp k t l s) := by
  unfold takeUp
  repeat' first
    | with_reducible assumption | extract_lets | with_reducible apply listOpen_keeps | with_reducible apply openLine_keeps | split

theorem execOpenLineResolve_keeps {k : Nat} {e : Nat} {s₀ s : State} (hk : Keeps s₀ s) : OutKeeps s₀ (execOpenLineResolve k e s) := by
  unfold execOpenLineResolve
  repeat' first
    | with_reducible assumption | exact id | extract_lets | with_reducible apply OutKeeps.next | with_reducible apply closeLine_keeps
    | with_reducible apply endOpen_keeps | with_reducible apply takeUp_keeps | split | with_reducible apply Keeps.upd

end Sys2Proof.Machine
end

