-- ==== Sys2Proof/Laws/KeepsLink.lean ====
section
/-! SUPPORT. Sys2Proof/Laws/KeepsLink.lean: the operations and commands of Machine/Link.lean, Reset.lean, Time.lean keep what every command keeps. -/

namespace Sys2Proof.Machine

/-! ### Machine/Link.lean -/

theorem fromRidge_keeps {r : Nat} {node : Nat} {port : Nat} {vc : VC} {gtc : Nat} {m : Msg} {s₀ s : State} (hk : Keeps s₀ s) :
    Keeps s₀ (fromRidge r node port vc gtc m s) := by
  unfold fromRidge
  repeat' first
    | with_reducible assumption | with_reducible apply State.inject_keeps

theorem strayLink_keeps {r : Nat} {a : Aid} {s₀ s : State} (hk : Keeps s₀ s) : Keeps s₀ (strayLink r a s) := by
  unfold strayLink
  repeat' first
    | with_reducible assumption | extract_lets | with_reducible apply discardLink_keeps | with_reducible apply raise_keeps

theorem linkRequest_keeps {r : Nat} {gt : Bool} {gtc : Nat} {q : Req} {s₀ s : State} (hk : Keeps s₀ s) :
    Keeps s₀ (linkRequest r gt gtc q s) := by
  unfold linkRequest
  repeat' first
    | with_reducible assumption | exact id | extract_lets | with_reducible apply answerAt_keeps | with_reducible apply Keeps.modLink
    | with_reducible apply raise_keeps | split | with_reducible apply Keeps.upd

theorem linkToHome_keeps {r : Nat} {vc : VC} {gtc : Nat} {h : BitVec 20} {m : Msg} {s₀ s : State} (hk : Keeps s₀ s) :
    Keeps s₀ (linkToHome r vc gtc h m s) := by
  unfold linkToHome
  repeat' first
    | with_reducible assumption | with_reducible apply fromRidge_keeps

theorem linkToSlice_keeps {r : Nat} {vc : VC} {gtc : Nat} {a : Aid} {h : BitVec 20} {m : Msg} {s₀ s : State} (hk : Keeps s₀ s) :
    Keeps s₀ (linkToSlice r vc gtc a h m s) := by
  unfold linkToSlice
  repeat' first
    | with_reducible assumption | with_reducible apply discardLink_keeps | with_reducible apply linkToHome_keeps | split

theorem linkCompletion_keeps {r : Nat} {vc : VC} {gtc : Nat} {a : Aid} {t : BitVec 12} {h : BitVec 20} {keep : Bool} {m : Msg} {s₀ s : State} (hk : Keeps s₀ s) :
    Keeps s₀ (linkCompletion r vc gtc a t h keep m s) := by
  unfold linkCompletion
  repeat' first
    | with_reducible assumption | with_reducible exact Keeps.refl _ | exact id | extract_lets | with_reducible apply discardLink_keeps
    | with_reducible apply freeProxy_keeps | with_reducible apply fromRidge_keeps | with_reducible apply Keeps.modLink
    | with_reducible apply strayLink_keeps | with_reducible apply WArr.slice | with_reducible exact WArr.init _ | (intro) | split
    | with_reducible apply Keeps.upd | with_reducible apply WArr.upd

theorem linkData_keeps {r : Nat} {vc : VC} {gtc : Nat} {a : Aid} {t : BitVec 12} {m : Msg} {s₀ s : State} (hk : Keeps s₀ s) :
    Keeps s₀ (linkData r vc gtc a t m s) := by
  unfold linkData
  repeat' first
    | with_reducible assumption | with_reducible exact Keeps.refl _ | exact id | extract_lets | with_reducible apply discardLink_keeps
    | with_reducible apply fromRidge_keeps | with_reducible apply strayLink_keeps | with_reducible apply WArr.slice
    | with_reducible exact WArr.init _ | (intro) | split | with_reducible apply Keeps.upd | with_reducible apply WArr.upd

theorem linkReqData_keeps {r : Nat} {a : Aid} {t : BitVec 12} {cidx : BitVec 2} {poison : Bool} {be : BitVec 16} {d : BitVec 128} {s₀ s : State} (hk : Keeps s₀ s) :
    Keeps s₀ (linkReqData r a t cidx poison be d s) := by
  unfold linkReqData
  repeat' first
    | with_reducible assumption | extract_lets | with_reducible apply Keeps.modLink

theorem linkDeliver_keeps {r : Nat} {vc : VC} {gtc : Nat} {m : Msg} {s₀ s : State} (hk : Keeps s₀ s) :
    Keeps s₀ (linkDeliver r vc gtc s m) := by
  unfold linkDeliver
  repeat' first
    | with_reducible assumption | with_reducible exact Keeps.refl _ | exact id | extract_lets | with_reducible apply creditBack_keeps
    | with_reducible apply linkCompletion_keeps | with_reducible apply linkData_keeps | with_reducible apply linkReqData_keeps
    | with_reducible apply linkRequest_keeps | with_reducible apply linkToHome_keeps | with_reducible apply linkToSlice_keeps
    | with_reducible apply mirrorClr_keeps | with_reducible apply mirrorSet_keeps | with_reducible apply Keeps.modLink
    | with_reducible apply wbAck_keeps | with_reducible apply WArr.slice | with_reducible exact WArr.init _ | (intro) | split
    | with_reducible apply Keeps.upd | with_reducible apply WArr.upd

theorem linkMgt_keeps {r : Nat} {p : TxPkt} {s₀ s : State} (hk : Keeps s₀ s) : Keeps s₀ (linkMgt r p s) := by
  unfold linkMgt
  repeat' first
    | with_reducible assumption | extract_lets | with_reducible apply State.injectHub_keeps | with_reducible apply Keeps.modLink

theorem takeMgtSlot_keeps {r : Nat} {first : Bool} {x : BitVec 128} {s₀ s : State} (hk : Keeps s₀ s) :
    Keeps s₀ (takeMgtSlot r first x s) := by
  unfold takeMgtSlot
  repeat' first
    | with_reducible assumption | extract_lets | with_reducible apply linkMgt_keeps | with_reducible apply Keeps.setLink | split

theorem linkPacket_keeps {r : Nat} {p : TxPkt} {s₀ s : State} (hk : Keeps s₀ s) : Keeps s₀ (linkPacket r p s) := by
  unfold linkPacket
  repeat' first
    | with_reducible assumption | with_reducible exact Keeps.refl _ | exact id | extract_lets | with_reducible apply linkDeliver_keeps
    | with_reducible apply Keeps.modLink | with_reducible apply Keeps.foldl | with_reducible apply WArr.foldl
    | with_reducible apply WArr.slice | with_reducible exact WArr.init _ | (intro) | split | with_reducible apply Keeps.upd
    | with_reducible apply WArr.upd

theorem closeRx_keeps {r : Nat} {s₀ s : State} (hk : Keeps s₀ s) : Keeps s₀ (closeRx r s) := by
  unfold closeRx
  repeat' first
    | with_reducible assumption | extract_lets | with_reducible apply linkPacket_keeps | with_reducible apply Keeps.modLink | split

theorem takeRxSlot_keeps {r : Nat} {x : BitVec 8 × BitVec 128} {s₀ s : State} (hk : Keeps s₀ s) : Keeps s₀ (takeRxSlot r s x) := by
  unfold takeRxSlot
  repeat' first
    | with_reducible assumption | exact id | extract_lets | with_reducible apply closeRx_keeps | with_reducible apply Keeps.modLink
    | with_reducible apply takeMgtSlot_keeps | split | with_reducible apply Keeps.upd

theorem execFlitReceive_keeps {r : Nat} {flit : BitVec 1024} {s₀ s : State} (hk : Keeps s₀ s) : OutKeeps s₀ (execFlitReceive r flit s) := by
  unfold execFlitReceive
  repeat' first
    | with_reducible assumption | exact id | extract_lets | with_reducible apply OutKeeps.next | with_reducible apply drainSnoops_keeps
    | with_reducible apply Keeps.setLink | with_reducible apply takeRxSlot_keeps | with_reducible apply Keeps.foldl | (intro) | split
    | with_reducible apply Keeps.upd

theorem startReplay_keeps {r : Nat} {n : BitVec 10} {s₀ s : State} (hk : Keeps s₀ s) : Keeps s₀ (startReplay r n s) := by
  unfold startReplay
  repeat' first
    | with_reducible assumption | extract_lets | with_reducible apply raise_keeps | with_reducible apply Keeps.setLink | split

theorem execNakReceive_keeps {r : Nat} {s₀ s : State} (hk : Keeps s₀ s) : OutKeeps s₀ (execNakReceive r s) := by
  unfold execNakReceive
  repeat' first
    | with_reducible assumption | extract_lets | with_reducible apply OutKeeps.next | with_reducible apply Keeps.setLink
    | with_reducible apply startReplay_keeps | split

theorem execReplayTimeout_keeps {r : Nat} {s₀ s : State} (hk : Keeps s₀ s) : OutKeeps s₀ (execReplayTimeout r s) := by
  unfold execReplayTimeout
  repeat' first
    | with_reducible assumption | extract_lets | with_reducible apply OutKeeps.next | with_reducible apply startReplay_keeps | split

theorem execFlitTransmit_keeps {r : Nat} {s₀ s : State} (hk : Keeps s₀ s) : OutKeeps s₀ (execFlitTransmit r s) := by
  unfold execFlitTransmit
  repeat' first
    | with_reducible assumption | extract_lets | with_reducible apply OutKeeps.next | with_reducible apply State.emit_keeps
    | with_reducible apply Keeps.setLink | split

theorem execPhyTrained_keeps {r : Nat} {rate : BitVec 3} {s₀ s : State} (hk : Keeps s₀ s) : OutKeeps s₀ (execPhyTrained r rate s) := by
  unfold execPhyTrained
  repeat' first
    | with_reducible assumption | extract_lets | with_reducible apply OutKeeps.next | with_reducible apply State.endCmd_keeps
    | with_reducible apply Keeps.setLink | split

theorem execTrainTimeout_keeps {r : Nat} {s₀ s : State} (hk : Keeps s₀ s) : OutKeeps s₀ (execTrainTimeout r s) := by
  unfold execTrainTimeout
  repeat' first
    | with_reducible assumption | extract_lets | with_reducible apply OutKeeps.next | with_reducible apply State.endCmd_keeps
    | with_reducible apply retryBringups_keeps | with_reducible apply Keeps.setLink | split

theorem retrain_keeps {r : Nat} {s₀ s : State} (hk : Keeps s₀ s) : Keeps s₀ (retrain r s) := by
  unfold retrain
  repeat' first
    | with_reducible assumption | with_reducible exact Keeps.refl _ | exact id | extract_lets | with_reducible apply raise_keeps
    | with_reducible apply Keeps.setLink | with_reducible apply WArr.slice | with_reducible exact WArr.init _ | (intro) | split
    | with_reducible apply Keeps.upd | with_reducible apply WArr.upd

theorem execLinkRetrainEnter_keeps {r : Nat} {lossOfLink : Bool} {s₀ s : State} (hk : Keeps s₀ s) :
    OutKeeps s₀ (execLinkRetrainEnter r lossOfLink s) := by
  unfold execLinkRetrainEnter
  repeat' first
    | with_reducible assumption | with_reducible exact Keeps.refl _ | exact id | extract_lets | with_reducible exact OutKeeps.fault _ _
    | with_reducible exact OutKeeps.refused _ _ | with_reducible apply OutKeeps.next | with_reducible apply retrain_keeps
    | with_reducible apply WArr.slice | with_reducible exact WArr.init _ | (intro) | split | with_reducible apply Keeps.upd
    | with_reducible apply WArr.upd

theorem restartTimeouts_keeps {r : Nat} {s₀ s : State} (hk : Keeps s₀ s) : Keeps s₀ (restartTimeouts r s) := by
  unfold restartTimeouts
  repeat' first
    | with_reducible assumption | extract_lets | with_reducible apply Keeps.each | with_reducible apply Keeps.modSlice | (intro) | split
    | with_reducible apply WArr.upd

theorem execRetrainSuccess_keeps {r : Nat} {peerAck : BitVec 10} {peerGens : List Nat} {s₀ s : State} (hk : Keeps s₀ s) :
    OutKeeps s₀ (execRetrainSuccess r peerAck peerGens s) := by
  unfold execRetrainSuccess
  repeat' first
    | with_reducible assumption | with_reducible exact Keeps.refl _ | exact id | extract_lets | with_reducible exact OutKeeps.fault _ _
    | with_reducible exact OutKeeps.refused _ _ | with_reducible apply OutKeeps.next | with_reducible apply failLink_keeps
    | with_reducible apply restartTimeouts_keeps | with_reducible apply Keeps.setLink | with_reducible apply WArr.slice
    | with_reducible exact WArr.init _ | (intro) | split | with_reducible apply Keeps.upd | with_reducible apply WArr.upd

theorem execRetrainTimeout_keeps {r : Nat} {s₀ s : State} (hk : Keeps s₀ s) : OutKeeps s₀ (execRetrainTimeout r s) := by
  unfold execRetrainTimeout
  repeat' first
    | with_reducible assumption | extract_lets | with_reducible apply OutKeeps.next | with_reducible apply failLink_keeps | split

theorem failProxy_keeps {r : Nat} {y : Proxy} {s₀ s : State} (hk : Keeps s₀ s) : Keeps s₀ (failProxy r s y) := by
  unfold failProxy
  repeat' first
    | with_reducible assumption | extract_lets | with_reducible apply fromRidge_keeps | split

theorem failWaiting_keeps {peer : BitVec 3} {p : Nat} {s₀ s : State} (h : Keeps s₀ s) : Keeps s₀ (failWaiting peer s p) := by
  refine Keeps.foldl ?_ (fun s x hs => raise_keeps (refuse_keeps hs))
  split
  · exact h
  · exact h.modCa

theorem execLinkFail_keeps {r : Nat} {s₀ s : State} (hk : Keeps s₀ s) : OutKeeps s₀ (execLinkFail r s) := by
  unfold execLinkFail
  repeat' first
    | with_reducible assumption | with_reducible exact Keeps.refl _ | exact id | extract_lets | with_reducible exact OutKeeps.fault _ _
    | with_reducible exact OutKeeps.refused _ _ | with_reducible apply OutKeeps.next | with_reducible apply cleanPass_keeps
    | with_reducible apply dropCredits_keeps | with_reducible apply Keeps.each | with_reducible apply failProxy_keeps
    | with_reducible apply failWaiting_keeps | with_reducible apply Keeps.modSlice | with_reducible apply resolveAgents_keeps
    | with_reducible apply Keeps.setLink | with_reducible apply Keeps.foldl | with_reducible apply WArr.foldl
    | with_reducible apply WArr.slice | with_reducible exact WArr.init _ | (intro) | split | with_reducible apply Keeps.upd
    | with_reducible apply WArr.upd

theorem execLinkFailScanDone_keeps {k : Nat} {r : Nat} {s₀ s : State} (hk : Keeps s₀ s) : OutKeeps s₀ (execLinkFailScanDone k r s) := by
  unfold execLinkFailScanDone
  repeat' first
    | with_reducible assumption | extract_lets | with_reducible apply OutKeeps.next | with_reducible apply cleanPass_keeps
    | with_reducible apply Keeps.modLink | split

/-! ### Machine/Reset.lean -/

theorem execVddRise_keeps {s₀ s : State} (hk : Keeps s₀ s) : OutKeeps s₀ (execVddRise s) := by
  unfold execVddRise
  repeat' first
    | with_reducible assumption | exact id | extract_lets | with_reducible apply OutKeeps.next | with_reducible apply Keeps.upd

theorem releaseState_keeps {x : StrapSample} {r : Option Nat} {fuse : Bool} {s₀ s : State} (hk : Keeps s₀ s) :
    Keeps s₀ (releaseState x r fuse s) := by
  unfold releaseState
  repeat' first
    | with_reducible assumption | with_reducible exact Keeps.refl _ | exact id | extract_lets | with_reducible apply passOn_keeps
    | with_reducible apply WArr.slice | with_reducible exact WArr.init _ | (intro) | split | with_reducible apply Keeps.upd
    | with_reducible apply WArr.upd

theorem execResetRelease_keeps {samples : List StrapSample} {ohm1 : Nat} {ohm2 : Nat} {fieldFuse : Bool} {s₀ s : State} (hk : Keeps s₀ s) :
    OutKeeps s₀ (execResetRelease samples ohm1 ohm2 fieldFuse s) := by
  unfold execResetRelease
  repeat' first
    | with_reducible assumption | with_reducible exact Keeps.refl _ | exact id | extract_lets | with_reducible exact OutKeeps.fault _ _
    | with_reducible exact OutKeeps.refused _ _ | with_reducible apply OutKeeps.next | with_reducible apply policyEvent_keeps
    | with_reducible apply raiseAll_keeps | with_reducible apply releaseState_keeps | with_reducible apply WArr.slice
    | with_reducible exact WArr.init _ | (intro) | split | with_reducible apply Keeps.upd | with_reducible apply WArr.upd

theorem execMpAbortFall_keeps {s₀ s : State} (hk : Keeps s₀ s) : OutKeeps s₀ (execMpAbortFall s) := by
  unfold execMpAbortFall
  repeat' first
    | with_reducible assumption | extract_lets | with_reducible apply OutKeeps.next | with_reducible apply Keeps.each
    | with_reducible apply Keeps.modMp | (intro) | split

theorem State.setSeg_keeps {k : Nat} {v : SegSt} {s₀ s : State} (hk : Keeps s₀ s) : Keeps s₀ (State.setSeg s k v) := by
  unfold State.setSeg
  repeat' first
    | with_reducible assumption | exact id | extract_lets | with_reducible apply Keeps.upd

theorem disableSlice_keeps {k : Nat} {s₀ s : State} (hk : Keeps s₀ s) : Keeps s₀ (disableSlice k s) := by
  unfold disableSlice
  repeat' first
    | with_reducible assumption | extract_lets | with_reducible apply Keeps.modSlice | with_reducible apply raise_keeps
    | with_reducible apply State.setSeg_keeps | (intro) | with_reducible apply WArr.upd

theorem segFails_keeps {k : Nat} {s₀ s : State} (hk : Keeps s₀ s) : Keeps s₀ (segFails s k) := by
  unfold segFails
  repeat' first
    | with_reducible assumption | with_reducible apply disableSlice_keeps | with_reducible apply State.setSeg_keeps | split

theorem finishLoading_keeps {s₀ s : State} (hk : Keeps s₀ s) : Keeps s₀ (finishLoading s) := by
  unfold finishLoading
  repeat' first
    | with_reducible assumption | exact id | extract_lets | with_reducible apply Keeps.modSlice | with_reducible apply Keeps.foldl
    | (intro) | split | with_reducible apply Keeps.upd | with_reducible apply WArr.upd

theorem storeSegment_keeps {seg : BitVec 8} {payload : List (BitVec 32)} {s₀ s : State} (hk : Keeps s₀ s) :
    Keeps s₀ (storeSegment seg payload s) := by
  unfold storeSegment
  repeat' first
    | with_reducible assumption | exact id | extract_lets | with_reducible apply Keeps.upd

theorem loadSpares_keeps {k : Nat} {payload : List (BitVec 32)} {s₀ s : State} (hk : Keeps s₀ s) : Keeps s₀ (loadSpares k payload s) := by
  unfold loadSpares
  repeat' first
    | with_reducible assumption | with_reducible exact Keeps.refl _ | exact id | extract_lets | with_reducible apply WArr.slice
    | with_reducible exact WArr.init _ | (intro) | split | with_reducible apply Keeps.upd | with_reducible apply WArr.upd

theorem takeCommon_keeps {payload : List (BitVec 32)} {crc : BitVec 32} {s₀ s : State} (hk : Keeps s₀ s) :
    Keeps s₀ (takeCommon payload crc s) := by
  unfold takeCommon
  repeat' first
    | with_reducible assumption | with_reducible exact Keeps.refl _ | exact id | extract_lets | with_reducible apply passOn_keeps
    | with_reducible apply storeSegment_keeps | with_reducible apply WArr.slice | with_reducible exact WArr.init _ | (intro) | split
    | with_reducible apply Keeps.upd | with_reducible apply WArr.upd

theorem takeSegment_keeps {seg : BitVec 8} {payload : List (BitVec 32)} {crc : BitVec 32} {s₀ s : State} (hk : Keeps s₀ s) :
    Keeps s₀ (takeSegment seg payload crc s) := by
  unfold takeSegment
  repeat' first
    | with_reducible assumption | with_reducible exact Keeps.refl _ | exact id | extract_lets | with_reducible apply finishLoading_keeps
    | with_reducible apply loadSpares_keeps | with_reducible apply passOn_keeps | with_reducible apply segFails_keeps
    | with_reducible apply State.setSeg_keeps | with_reducible apply storeSegment_keeps | with_reducible apply takeCommon_keeps
    | with_reducible apply Keeps.foldl | with_reducible apply WArr.foldl | with_reducible apply WArr.slice
    | with_reducible exact WArr.init _ | (intro) | split | with_reducible apply Keeps.upd | with_reducible apply WArr.upd

theorem execFuseSegment_keeps {seg : BitVec 8} {payload : List (BitVec 32)} {crc : BitVec 32} {s₀ s : State} (hk : Keeps s₀ s) :
    OutKeeps s₀ (execFuseSegment seg payload crc s) := by
  unfold execFuseSegment
  repeat' first
    | with_reducible assumption | with_reducible exact Keeps.refl _ | exact id | extract_lets | with_reducible exact OutKeeps.fault _ _
    | with_reducible exact OutKeeps.refused _ _ | with_reducible apply OutKeeps.next | with_reducible apply takeCommon_keeps
    | with_reducible apply takeSegment_keeps | with_reducible apply WArr.slice | with_reducible exact WArr.init _ | (intro) | split
    | with_reducible apply Keeps.upd | with_reducible apply WArr.upd

theorem measure_keeps {comp : Nat} {ver : BitVec 32} {d : BitVec 384} {s₀ s : State} (hk : Keeps s₀ s) :
    Keeps s₀ (measure comp ver d s) := by
  unfold measure
  repeat' first
    | with_reducible assumption | exact id | extract_lets | split | with_reducible apply Keeps.upd

theorem State.setStep_keeps {n : Nat} {s₀ s : State} (hk : Keeps s₀ s) : Keeps s₀ (State.setStep s n) := by
  unfold State.setStep
  repeat' first
    | with_reducible assumption | exact id | extract_lets | with_reducible apply Keeps.upd

theorem rejectImage_keeps {fail : BitVec 3} {s₀ s : State} (hk : Keeps s₀ s) : Keeps s₀ (rejectImage fail s) := by
  unfold rejectImage
  repeat' first
    | with_reducible assumption | exact id | extract_lets | split | with_reducible apply Keeps.upd

theorem endStep2_keeps {s₀ s : State} (hk : Keeps s₀ s) : Keeps s₀ (endStep2 s) := by
  unfold endStep2
  repeat' first
    | with_reducible assumption | exact id | extract_lets | with_reducible apply Keeps.each | with_reducible apply Keeps.modLink
    | with_reducible apply Keeps.modSlice | (intro) | split | with_reducible apply Keeps.upd | with_reducible apply WArr.upd

theorem endStep3_keeps {s₀ s : State} (hk : Keeps s₀ s) : Keeps s₀ (endStep3 s) := by
  unfold endStep3
  repeat' first
    | with_reducible assumption | exact id | extract_lets | with_reducible apply State.setStep_keeps | split
    | with_reducible apply Keeps.upd

theorem endStep4_keeps {s₀ s : State} (hk : Keeps s₀ s) : Keeps s₀ (endStep4 s) := by
  unfold endStep4
  repeat' first
    | with_reducible assumption | exact id | extract_lets | with_reducible apply measure_keeps | with_reducible apply rejectImage_keeps
    | split | with_reducible apply Keeps.upd

theorem endStep5_keeps {s₀ s : State} (hk : Keeps s₀ s) : Keeps s₀ (endStep5 s) := by
  unfold endStep5
  repeat' first
    | with_reducible assumption | exact id | extract_lets | with_reducible apply Keeps.each | with_reducible apply measure_keeps
    | with_reducible apply Keeps.modSlice | with_reducible apply rejectImage_keeps | (intro) | split | with_reducible apply Keeps.upd
    | with_reducible apply WArr.upd

theorem endStep6_keeps {s₀ s : State} (h : Keeps s₀ s) : Keeps s₀ (endStep6 s) := by
  unfold endStep6
  split
  · exact h
  · refine Keeps.each (h.upd id (fun _ => rfl)) (fun s k hs => hs.modSlice (fun v hv => ⟨fun h0 => ?_⟩))
    obtain ⟨-, h2, h3, h4, h5⟩ := hv.parts h0
    exact Slice.arraysWf_of rfl h2 h3 h4 h5

theorem execBringupStepDone_keeps {s₀ s : State} (hk : Keeps s₀ s) : OutKeeps s₀ (execBringupStepDone s) := by
  unfold execBringupStepDone
  repeat' first
    | with_reducible assumption | exact id | extract_lets | with_reducible apply OutKeeps.next | with_reducible apply endStep2_keeps
    | with_reducible apply endStep3_keeps | with_reducible apply endStep4_keeps | with_reducible apply endStep5_keeps
    | with_reducible apply endStep6_keeps | with_reducible apply State.setStep_keeps | split | with_reducible apply Keeps.upd

theorem execBootImageFromPeer_keeps {r : Nat} {words : List W64} {s₀ s : State} (hk : Keeps s₀ s) :
    OutKeeps s₀ (execBootImageFromPeer r words s) := by
  unfold execBootImageFromPeer
  repeat' first
    | with_reducible assumption | exact id | extract_lets | with_reducible apply OutKeeps.next | split | with_reducible apply Keeps.upd

theorem execBootPushHi_keeps {w : Window} {v : BitVec 32} {s₀ s : State} (hk : Keeps s₀ s) : OutKeeps s₀ (execBootPushHi w v s) := by
  unfold execBootPushHi
  repeat' first
    | with_reducible assumption | exact id | extract_lets | with_reducible apply OutKeeps.next | with_reducible apply mgmtOnly_keeps
    | (intro) | split | with_reducible apply Keeps.upd

theorem execBootctlDone_keeps {w : Window} {s₀ s : State} (hk : Keeps s₀ s) : OutKeeps s₀ (execBootctlDone w s) := by
  unfold execBootctlDone
  repeat' first
    | with_reducible assumption | exact id | extract_lets | with_reducible apply OutKeeps.next | with_reducible apply mgmtOnly_keeps
    | (intro) | split | with_reducible apply Keeps.upd

theorem execBootctlRestart_keeps {w : Window} {s₀ s : State} (hk : Keeps s₀ s) : OutKeeps s₀ (execBootctlRestart w s) := by
  unfold execBootctlRestart
  repeat' first
    | with_reducible assumption | exact id | extract_lets | with_reducible apply OutKeeps.next | with_reducible apply mgmtOnly_keeps
    | (intro) | split | with_reducible apply Keeps.upd

/-! ### Machine/Time.lean -/

theorem stepTo_keeps {v : W64} {s₀ s : State} (hk : Keeps s₀ s) : Keeps s₀ (stepTo v s) := by
  unfold stepTo
  repeat' first
    | with_reducible assumption | exact id | extract_lets | with_reducible apply Keeps.each | with_reducible apply Keeps.modLink
    | (intro) | with_reducible apply Keeps.upd

theorem execTimeRecordSend_keeps {r : Nat} {s₀ s : State} (hk : Keeps s₀ s) : OutKeeps s₀ (execTimeRecordSend r s) := by
  unfold execTimeRecordSend
  repeat' first
    | with_reducible assumption | extract_lets | with_reducible apply OutKeeps.next | with_reducible apply Keeps.setLink | split

theorem offerImage_keeps {r : Nat} {peer : BitVec 3} {members : BitVec 8} {s₀ s : State} (hk : Keeps s₀ s) :
    Keeps s₀ (offerImage r peer members s) := by
  unfold offerImage
  repeat' first
    | with_reducible assumption | with_reducible exact Keeps.refl _ | exact id | extract_lets | with_reducible apply State.sendMgt_keeps
    | with_reducible apply Keeps.setLink | with_reducible apply WArr.slice | with_reducible exact WArr.init _ | (intro) | split
    | with_reducible apply Keeps.upd | with_reducible apply WArr.upd

theorem execTimeRecord_keeps {r : Nat} {s₀ s : State} (hk : Keeps s₀ s) : OutKeeps s₀ (execTimeRecord r s) := by
  unfold execTimeRecord
  repeat' first
    | with_reducible assumption | with_reducible exact Keeps.refl _ | exact id | extract_lets | with_reducible exact OutKeeps.fault _ _
    | with_reducible exact OutKeeps.refused _ _ | with_reducible apply OutKeeps.next | with_reducible apply State.endCmd_keeps
    | with_reducible apply failLink_keeps | with_reducible apply Keeps.modLink | with_reducible apply offerImage_keeps
    | with_reducible apply retryBringups_keeps | with_reducible apply Keeps.setLink | with_reducible apply stepTo_keeps
    | with_reducible apply WArr.slice | with_reducible exact WArr.init _ | (intro) | split | with_reducible apply Keeps.upd
    | with_reducible apply WArr.upd

theorem alignLost_keeps {r : Nat} {s₀ s : State} (hk : Keeps s₀ s) : Keeps s₀ (alignLost r s) := by
  unfold alignLost
  repeat' first
    | with_reducible assumption | extract_lets | with_reducible apply Keeps.modLink | with_reducible apply raise_keeps | split

theorem execCalWindowEnd_keeps {r : Nat} {s₀ s : State} (hk : Keeps s₀ s) : OutKeeps s₀ (execCalWindowEnd r s) := by
  unfold execCalWindowEnd
  repeat' first
    | with_reducible assumption | extract_lets | with_reducible apply OutKeeps.next | with_reducible apply alignLost_keeps
    | with_reducible apply Keeps.setLink | split

theorem alignBy_keeps {r : Nat} {theta : Int} {s₀ s : State} (hk : Keeps s₀ s) : Keeps s₀ (alignBy r theta s) := by
  unfold alignBy
  repeat' first
    | with_reducible assumption | extract_lets | with_reducible apply alignLost_keeps | with_reducible apply Keeps.modLink
    | with_reducible apply raise_keeps | with_reducible apply Keeps.setLink | split

theorem useTheta_keeps {r : Nat} {theta : Int} {s₀ s : State} (hk : Keeps s₀ s) : Keeps s₀ (useTheta r theta s) := by
  unfold useTheta
  repeat' first
    | with_reducible assumption | exact id | extract_lets | with_reducible apply Keeps.modLink | with_reducible apply stepTo_keeps
    | split | with_reducible apply Keeps.upd

theorem execCalRecord_keeps {r : Nat} {s₀ s : State} (hk : Keeps s₀ s) : OutKeeps s₀ (execCalRecord r s) := by
  unfold execCalRecord
  repeat' first
    | with_reducible assumption | extract_lets | with_reducible apply OutKeeps.next | with_reducible apply alignBy_keeps
    | with_reducible apply Keeps.modLink | with_reducible apply Keeps.setLink | with_reducible apply useTheta_keeps | split

theorem execTimeCorrection_keeps {s₀ s : State} (hk : Keeps s₀ s) : OutKeeps s₀ (execTimeCorrection s) := by
  unfold execTimeCorrection
  repeat' first
    | with_reducible assumption | exact id | extract_lets | with_reducible apply OutKeeps.next | split | with_reducible apply Keeps.upd

theorem execPtcSyncFrame_keeps {frame : BitVec 74} {s₀ s : State} (hk : Keeps s₀ s) : OutKeeps s₀ (execPtcSyncFrame frame s) := by
  unfold execPtcSyncFrame
  repeat' first
    | with_reducible assumption | exact id | extract_lets | with_reducible apply OutKeeps.next | with_reducible apply raise_keeps
    | with_reducible apply stepTo_keeps | split | with_reducible apply Keeps.upd

theorem execPtcStatus_keeps {c : Nat} {s₀ s : State} (hk : Keeps s₀ s) : OutKeeps s₀ (execPtcStatus c s) := by
  unfold execPtcStatus
  repeat' first
    | with_reducible assumption | extract_lets | with_reducible apply OutKeeps.next | with_reducible apply finish_keeps
    | with_reducible apply runCmd_keeps | (intro)

theorem execRidgeState_keeps {c : Nat} {s₀ s : State} (hk : Keeps s₀ s) : OutKeeps s₀ (execRidgeState c s) := by
  unfold execRidgeState
  repeat' first
    | with_reducible assumption | extract_lets | with_reducible apply OutKeeps.next | with_reducible apply finish_keeps
    | with_reducible apply runCmd_keeps | (intro)

end Sys2Proof.Machine
end

