-- ==== Sys2Proof/Laws/KeepsInstance.lean ====
section
/-! SUPPORT. Sys2Proof/Laws/KeepsInstance.lean: the operations and commands of Machine/Policy.lean, Ridge.lean, Prot.lean, Gen.lean, Inject.lean, Tick.lean keep what every command keeps. -/

namespace Sys2Proof.Machine

/-! ### Machine/Policy.lean -/

theorem Slice.takeSnapshot_warr {s₀ : State} {v : Slice} (hk : WArr s₀ v) : WArr s₀ (Slice.takeSnapshot v) := by
  unfold Slice.takeSnapshot
  repeat' first
    | with_reducible assumption | with_reducible apply WArr.upd

theorem endPeriod_keeps {s₀ s : State} (hk : Keeps s₀ s) : Keeps s₀ (endPeriod s) := by
  unfold endPeriod
  repeat' first
    | with_reducible assumption | exact id | extract_lets | with_reducible apply Keeps.each | with_reducible apply Keeps.modMp
    | with_reducible apply Keeps.modSlice | with_reducible apply Slice.takeSnapshot_warr | (intro) | split
    | with_reducible apply Keeps.upd

theorem endRepl_keeps {boundary : Nat} {s₀ s : State} (hk : Keeps s₀ s) : Keeps s₀ (endRepl boundary s) := by
  unfold endRepl
  repeat' first
    | with_reducible assumption | exact id | extract_lets | with_reducible apply setRepl_keeps | split | with_reducible apply Keeps.upd

theorem useEpoch_keeps {boundary : Nat} {s₀ s : State} (hk : Keeps s₀ s) : Keeps s₀ (useEpoch boundary s) := by
  unfold useEpoch
  repeat' first
    | with_reducible assumption | exact id | extract_lets | with_reducible apply State.endCmd_keeps
    | with_reducible apply policyEvent_keeps | split | with_reducible apply Keeps.upd

theorem execEpochBoundary_keeps {early : Bool} {s₀ s : State} (hk : Keeps s₀ s) : OutKeeps s₀ (execEpochBoundary early s) := by
  unfold execEpochBoundary
  repeat' first
    | with_reducible assumption | with_reducible exact Keeps.refl _ | exact id | extract_lets | with_reducible exact OutKeeps.fault _ _
    | with_reducible exact OutKeeps.refused _ _ | with_reducible apply OutKeeps.next | with_reducible apply endPeriod_keeps
    | with_reducible apply endRepl_keeps | with_reducible apply useEpoch_keeps | with_reducible apply WArr.slice
    | with_reducible exact WArr.init _ | (intro) | split | with_reducible apply Keeps.upd | with_reducible apply WArr.upd

theorem decideThreshold_keeps {k : Nat} {s₀ s : State} (hk : Keeps s₀ s) : Keeps s₀ (decideThreshold s k) := by
  unfold decideThreshold
  repeat' first
    | with_reducible assumption | extract_lets | with_reducible apply policyEvent_keeps | with_reducible apply Keeps.setSlice
    | with_reducible apply WArr.slice | split | with_reducible apply WArr.upd

theorem decideSpec_keeps {n : Nat} {s₀ s : State} (hk : Keeps s₀ s) : Keeps s₀ (decideSpec s n) := by
  unfold decideSpec
  repeat' first
    | with_reducible assumption | exact id | extract_lets | with_reducible apply policyEvent_keeps | split
    | with_reducible apply Keeps.upd

theorem decideStream_keeps {s₀ s : State} (hk : Keeps s₀ s) : Keeps s₀ (decideStream s) := by
  unfold decideStream
  repeat' first
    | with_reducible assumption | exact id | extract_lets | with_reducible apply policyEvent_keeps | split
    | with_reducible apply Keeps.upd

theorem startGate_keeps {pair : Nat} {up : Bool} {s₀ s : State} (hk : Keeps s₀ s) : Keeps s₀ (startGate pair up s) := by
  unfold startGate
  repeat' first
    | with_reducible assumption | exact id | extract_lets | with_reducible apply Keeps.upd

theorem driveGate_keeps {s₀ s : State} (hk : Keeps s₀ s) : Keeps s₀ (driveGate s) := by
  unfold driveGate
  repeat' first
    | with_reducible assumption | extract_lets | with_reducible apply gateOn_keeps | with_reducible apply startGate_keeps | split

theorem decideGating_keeps {s₀ s : State} (hk : Keeps s₀ s) : Keeps s₀ (decideGating s) := by
  unfold decideGating
  repeat' first
    | with_reducible assumption | exact id | extract_lets | with_reducible apply startGate_keeps | split
    | with_reducible apply Keeps.upd

theorem skipRegroup_keeps {reason : Nat} {s₀ s : State} (hk : Keeps s₀ s) : Keeps s₀ (skipRegroup reason s) := by
  unfold skipRegroup
  repeat' first
    | with_reducible assumption | with_reducible apply policyEvent_keeps

theorem endCals_keeps {named : Bool} {l : List Nat} {s₀ s : State} (hk : Keeps s₀ s) : Keeps s₀ (endCals named l s) := by
  unfold endCals
  repeat' first
    | with_reducible assumption | extract_lets | with_reducible apply State.endCmd_keeps | with_reducible apply Keeps.foldl | (intro)

theorem endCalibrate_keeps {named : Bool} {s₀ s : State} (hk : Keeps s₀ s) : Keeps s₀ (endCalibrate named s) := by
  unfold endCalibrate
  repeat' first
    | with_reducible assumption | exact id | extract_lets | with_reducible apply endCals_keeps | with_reducible apply Keeps.upd

theorem calDecided_keeps {computes : Bool} {s₀ s : State} (hk : Keeps s₀ s) : Keeps s₀ (calDecided computes s) := by
  unfold calDecided
  repeat' first
    | with_reducible assumption | exact id | extract_lets | with_reducible apply endCals_keeps | split | with_reducible apply Keeps.upd

theorem beginRegroup_keeps {s₀ s : State} (hk : Keeps s₀ s) : Keeps s₀ (beginRegroup s) := by
  unfold beginRegroup
  repeat' first
    | with_reducible assumption | with_reducible exact Keeps.refl _ | exact id | extract_lets | with_reducible apply calDecided_keeps
    | with_reducible apply skipRegroup_keeps | with_reducible apply WArr.slice | with_reducible exact WArr.init _ | (intro) | split
    | with_reducible apply Keeps.upd | with_reducible apply WArr.upd

theorem execCalibrationDecisions_keeps {s₀ s : State} (hk : Keeps s₀ s) : OutKeeps s₀ (execCalibrationDecisions s) := by
  unfold execCalibrationDecisions
  repeat' first
    | with_reducible assumption | exact id | extract_lets | with_reducible apply OutKeeps.next | with_reducible apply beginRegroup_keeps
    | with_reducible apply calDecided_keeps | with_reducible apply decideGating_keeps | with_reducible apply decideSpec_keeps
    | with_reducible apply decideStream_keeps | with_reducible apply decideThreshold_keeps | with_reducible apply driveGate_keeps
    | with_reducible apply State.sendMgt_keeps | with_reducible apply Keeps.foldl | (intro) | split | with_reducible apply Keeps.upd

theorem dropRegroup_keeps {reason : Nat} {s₀ s : State} (hk : Keeps s₀ s) : Keeps s₀ (dropRegroup reason s) := by
  unfold dropRegroup
  repeat' first
    | with_reducible assumption | with_reducible exact Keeps.refl _ | exact id | extract_lets | with_reducible apply endCalibrate_keeps
    | with_reducible apply skipRegroup_keeps | with_reducible apply WArr.slice | with_reducible exact WArr.init _ | (intro) | split
    | with_reducible apply Keeps.upd | with_reducible apply WArr.upd

theorem writeNewMap_keeps {m : Tbl (BitVec 6)} {s₀ s : State} (hk : Keeps s₀ s) : Keeps s₀ (writeNewMap m s) := by
  unfold writeNewMap
  repeat' first
    | with_reducible assumption | with_reducible exact Keeps.refl _ | exact id | extract_lets | with_reducible apply State.sendHub_keeps
    | with_reducible apply State.toPeers_keeps | with_reducible apply Keeps.foldl | with_reducible apply WArr.foldl
    | with_reducible apply WArr.slice | with_reducible exact WArr.init _ | (intro) | split | with_reducible apply Keeps.upd
    | with_reducible apply WArr.upd

theorem execRegroupComputeDone_keeps {more : List (Nat × List (BitVec 11))} {s₀ s : State} (hk : Keeps s₀ s) :
    OutKeeps s₀ (execRegroupComputeDone more s) := by
  unfold execRegroupComputeDone
  repeat' first
    | with_reducible assumption | with_reducible exact Keeps.refl _ | exact id | extract_lets | with_reducible exact OutKeeps.fault _ _
    | with_reducible exact OutKeeps.refused _ _ | with_reducible apply OutKeeps.next | with_reducible apply dropRegroup_keeps
    | with_reducible apply writeNewMap_keeps | with_reducible apply WArr.slice | with_reducible exact WArr.init _ | (intro) | split
    | with_reducible apply Keeps.upd | with_reducible apply WArr.upd

theorem execRegroupTimeout_keeps {s₀ s : State} (hk : Keeps s₀ s) : OutKeeps s₀ (execRegroupTimeout s) := by
  unfold execRegroupTimeout
  repeat' first
    | with_reducible assumption | with_reducible exact Keeps.refl _ | exact id | extract_lets | with_reducible exact OutKeeps.fault _ _
    | with_reducible exact OutKeeps.refused _ _ | with_reducible apply OutKeeps.next | with_reducible apply dropRegroup_keeps
    | with_reducible apply WArr.slice | with_reducible exact WArr.init _ | (intro) | split | with_reducible apply Keeps.upd
    | with_reducible apply WArr.upd

theorem nameRegroup_keeps {s₀ s : State} (hk : Keeps s₀ s) : Keeps s₀ (nameRegroup s) := by
  unfold nameRegroup
  repeat' first
    | with_reducible assumption | with_reducible exact Keeps.refl _ | exact id | extract_lets | with_reducible apply endCalibrate_keeps
    | with_reducible apply genIssue_keeps | with_reducible apply tick_keeps | with_reducible apply State.used_keeps
    | with_reducible apply WArr.slice | with_reducible exact WArr.init _ | (intro) | split | with_reducible apply Keeps.upd
    | with_reducible apply WArr.upd

theorem execRegroupMapWritten_keeps {s₀ s : State} (hk : Keeps s₀ s) : OutKeeps s₀ (execRegroupMapWritten s) := by
  unfold execRegroupMapWritten
  repeat' first
    | with_reducible assumption | with_reducible exact Keeps.refl _ | exact id | extract_lets | with_reducible exact OutKeeps.fault _ _
    | with_reducible exact OutKeeps.refused _ _ | with_reducible apply OutKeeps.next | with_reducible apply dropRegroup_keeps
    | with_reducible apply nameRegroup_keeps | with_reducible apply WArr.slice | with_reducible exact WArr.init _ | (intro) | split
    | with_reducible apply Keeps.upd | with_reducible apply WArr.upd

theorem applyBundle_keeps {m : Tbl (BitVec 6)} {s₀ s : State} (hk : Keeps s₀ s) : Keeps s₀ (applyBundle m s) := by
  unfold applyBundle
  repeat' first
    | with_reducible assumption | with_reducible exact Keeps.refl _ | exact id | extract_lets | with_reducible apply State.bumpGen_keeps
    | with_reducible apply State.dropDue_keeps | with_reducible apply Keeps.each | with_reducible apply Keeps.modSlice
    | with_reducible apply policyEvent_keeps | with_reducible apply Keeps.foldl | with_reducible apply WArr.foldl
    | with_reducible apply WArr.slice | with_reducible exact WArr.init _ | (intro) | split | with_reducible apply Keeps.upd
    | with_reducible apply WArr.upd

theorem sweepWay_keeps {k : Nat} {set : Nat} {way : Nat} {s₀ s : State} (hk : Keeps s₀ s) : Keeps s₀ (sweepWay k set s way) := by
  unfold sweepWay
  repeat' first
    | with_reducible assumption | extract_lets | with_reducible apply Slice.setSf_warr | with_reducible apply Keeps.setSlice
    | with_reducible apply WArr.slice | split

theorem execGenSweepSet_keeps {k : Nat} {set : Nat} {s₀ s : State} (hk : Keeps s₀ s) : OutKeeps s₀ (execGenSweepSet k set s) := by
  unfold execGenSweepSet
  repeat' first
    | with_reducible assumption | with_reducible exact Keeps.refl _ | exact id | extract_lets | with_reducible exact OutKeeps.fault _ _
    | with_reducible exact OutKeeps.refused _ _ | with_reducible apply OutKeeps.next | with_reducible apply bankServes_keeps
    | with_reducible apply Keeps.modSlice | with_reducible apply sfReadSet_keeps | with_reducible apply sweepWay_keeps
    | with_reducible apply Keeps.foldl | with_reducible apply WArr.foldl | with_reducible apply WArr.slice
    | with_reducible exact WArr.init _ | (intro) | split | with_reducible apply Keeps.upd | with_reducible apply WArr.upd

theorem reportFree_keeps {s₀ s : State} (hk : Keeps s₀ s) : Keeps s₀ (reportFree s) := by
  unfold reportFree
  repeat' first
    | with_reducible assumption | exact id | extract_lets | with_reducible apply Keeps.each | with_reducible apply Keeps.modSlice
    | (intro) | split | with_reducible apply Keeps.upd | with_reducible apply WArr.upd

theorem execRegroupDone_keeps {s₀ s : State} (hk : Keeps s₀ s) : OutKeeps s₀ (execRegroupDone s) := by
  unfold execRegroupDone
  repeat' first
    | with_reducible assumption | exact id | extract_lets | with_reducible apply OutKeeps.next | with_reducible apply policyEvent_keeps
    | with_reducible apply reportFree_keeps | with_reducible apply State.sendMgt_keeps | split | with_reducible apply Keeps.upd

theorem execCalibrateNow_keeps {c : Nat} {s₀ s : State} (hk : Keeps s₀ s) : OutKeeps s₀ (execCalibrateNow c s) := by
  unfold execCalibrateNow
  repeat' first
    | with_reducible assumption | exact id | extract_lets | with_reducible apply OutKeeps.next | with_reducible apply endPeriod_keeps
    | with_reducible apply finish_keeps | with_reducible apply runAt_keeps | with_reducible apply runCmd_keeps
    | with_reducible apply State.startCmd_keeps | with_reducible apply State.toPeers_keeps | (intro) | split
    | with_reducible apply Keeps.upd

theorem execBundleMapRead_keeps {c : Nat} {s₀ s : State} (hk : Keeps s₀ s) : OutKeeps s₀ (execBundleMapRead c s) := by
  unfold execBundleMapRead
  repeat' first
    | with_reducible assumption | extract_lets | with_reducible apply OutKeeps.next | with_reducible apply finish_keeps
    | with_reducible apply runCmd_keeps | (intro)

theorem setThreshold_keeps {w : W64} {k : Nat} {s₀ s : State} (hk : Keeps s₀ s) : Keeps s₀ (setThreshold w s k) := by
  unfold setThreshold
  repeat' first
    | with_reducible assumption | extract_lets | with_reducible apply policyEvent_keeps | with_reducible apply Keeps.setSlice
    | with_reducible apply WArr.slice | split | with_reducible apply WArr.upd

theorem setSpec_keeps {w : W64} {n : Nat} {s₀ s : State} (hk : Keeps s₀ s) : Keeps s₀ (setSpec w s n) := by
  unfold setSpec
  repeat' first
    | with_reducible assumption | exact id | extract_lets | with_reducible apply policyEvent_keeps | split
    | with_reducible apply Keeps.upd

theorem setStream_keeps {w : W64} {s₀ s : State} (hk : Keeps s₀ s) : Keeps s₀ (setStream w s) := by
  unfold setStream
  repeat' first
    | with_reducible assumption | exact id | extract_lets | with_reducible apply policyEvent_keeps | split
    | with_reducible apply Keeps.upd

theorem setGating_keeps {w : W64} {s₀ s : State} (hk : Keeps s₀ s) : Keeps s₀ (setGating w s) := by
  unfold setGating
  repeat' first
    | with_reducible assumption | exact id | extract_lets | with_reducible apply driveGate_keeps
    | with_reducible apply policyEvent_keeps | split | with_reducible apply Keeps.upd

theorem setEpoch_keeps {k : Kcp} {ms : Nat} {s₀ s : State} (hk : Keeps s₀ s) : Keeps s₀ (setEpoch k ms s) := by
  unfold setEpoch
  repeat' first
    | with_reducible assumption | exact id | extract_lets | with_reducible apply finish_keeps | with_reducible apply genIssue_keeps
    | with_reducible apply State.startCmd_keeps | with_reducible apply State.used_keeps | split | with_reducible apply Keeps.upd

theorem applyEpoch_keeps {ms : Nat} {s₀ s : State} (hk : Keeps s₀ s) : Keeps s₀ (applyEpoch ms s) := by
  unfold applyEpoch
  repeat' first
    | with_reducible assumption | exact id | extract_lets | with_reducible apply State.bumpGen_keeps
    | with_reducible apply State.dropDue_keeps | with_reducible apply Keeps.upd

theorem setRegroup_keeps {k : Kcp} {s₀ s : State} (hk : Keeps s₀ s) : Keeps s₀ (setRegroup k s) := by
  unfold setRegroup
  repeat' first
    | with_reducible assumption | exact id | extract_lets | with_reducible apply finish_keeps | with_reducible apply Keeps.upd

theorem execPolicySet_keeps {c : Nat} {s₀ s : State} (hk : Keeps s₀ s) : OutKeeps s₀ (execPolicySet c s) := by
  unfold execPolicySet
  repeat' first
    | with_reducible assumption | extract_lets | with_reducible apply OutKeeps.next | with_reducible apply finish_keeps
    | with_reducible apply runAt_keeps | with_reducible apply runCmd_keeps | with_reducible apply setEpoch_keeps
    | with_reducible apply setGating_keeps | with_reducible apply setRegroup_keeps | with_reducible apply setSpec_keeps
    | with_reducible apply setStream_keeps | with_reducible apply setThreshold_keeps | with_reducible apply Keeps.foldl | (intro) | split

theorem readPolicy_keeps {k : Kcp} {s₀ s : State} (hk : Keeps s₀ s) : Keeps s₀ (readPolicy k s) := by
  unfold readPolicy
  repeat' first
    | with_reducible assumption | extract_lets | with_reducible apply finish_keeps

theorem execPolicyRead_keeps {c : Nat} {s₀ s : State} (hk : Keeps s₀ s) : OutKeeps s₀ (execPolicyRead c s) := by
  unfold execPolicyRead
  repeat' first
    | with_reducible assumption | extract_lets | with_reducible apply OutKeeps.next | with_reducible apply readPolicy_keeps
    | with_reducible apply runAt_keeps | with_reducible apply runCmd_keeps | (intro) | split

/-! ### Machine/Ridge.lean -/

theorem refuseJoin_keeps {r : Nat} {code : Nat} {s₀ s : State} (hk : Keeps s₀ s) : Keeps s₀ (refuseJoin r code s) := by
  unfold refuseJoin
  repeat' first
    | with_reducible assumption | extract_lets | with_reducible apply State.endCmd_keeps | with_reducible apply Keeps.modLink
    | with_reducible apply raise_keeps | with_reducible apply retryBringups_keeps

theorem adopt_keeps {r : Nat} {rec : JoinRec} {s₀ s : State} (hk : Keeps s₀ s) : Keeps s₀ (adopt r rec s) := by
  unfold adopt
  repeat' first
    | with_reducible assumption | with_reducible exact Keeps.refl _ | exact id | extract_lets | with_reducible apply Keeps.each
    | with_reducible apply Keeps.modLink | with_reducible apply WArr.slice | with_reducible exact WArr.init _ | (intro) | split
    | with_reducible apply Keeps.upd | with_reducible apply WArr.upd

theorem sourceOfTwo_keeps {rec : JoinRec} {s₀ s : State} (hk : Keeps s₀ s) : Keeps s₀ (sourceOfTwo rec s) := by
  unfold sourceOfTwo
  repeat' first
    | with_reducible assumption | exact id | extract_lets | split | with_reducible apply Keeps.upd

theorem takeAgents_keeps {rec : JoinRec} {s₀ s : State} (hk : Keeps s₀ s) : Keeps s₀ (takeAgents rec s) := by
  unfold takeAgents
  repeat' first
    | with_reducible assumption | exact id | extract_lets | with_reducible apply Keeps.upd

theorem issueGrowth_keeps {s₀ s : State} (hk : Keeps s₀ s) : Keeps s₀ (issueGrowth s) := by
  unfold issueGrowth
  repeat' first
    | with_reducible assumption | exact id | extract_lets | with_reducible apply genIssue_keeps | with_reducible apply State.used_keeps
    | split | with_reducible apply Keeps.upd

theorem growMembers_keeps {rec : JoinRec} {adopted : Bool} {lower : Bool} {s₀ s : State} (hk : Keeps s₀ s) :
    Keeps s₀ (growMembers rec adopted lower s) := by
  unfold growMembers
  repeat' first
    | with_reducible assumption | exact id | extract_lets | with_reducible apply issueGrowth_keeps | split
    | with_reducible apply Keeps.upd

theorem State.lateFor_keeps {i : Nat} {s₀ s : State} (hk : Keeps s₀ s) : Keeps s₀ (State.lateFor s i) := by
  unfold State.lateFor
  repeat' first
    | with_reducible assumption | exact id | extract_lets | with_reducible apply Keeps.upd

theorem joinLink_keeps {r : Nat} {rec : JoinRec} {s₀ s : State} (hk : Keeps s₀ s) : Keeps s₀ (joinLink r rec s) := by
  unfold joinLink
  repeat' first
    | with_reducible assumption | exact id | extract_lets | with_reducible apply adopt_keeps | with_reducible apply Keeps.each
    | with_reducible apply State.endCmd_keeps | with_reducible apply growMembers_keeps | with_reducible apply State.lateFor_keeps
    | with_reducible apply Keeps.modLink | with_reducible apply purgeCredits_keeps | with_reducible apply retryBringups_keeps
    | with_reducible apply sendFirst_keeps | with_reducible apply sourceOfTwo_keeps | with_reducible apply takeAgents_keeps | (intro)
    | split | with_reducible apply Keeps.upd

theorem decideJoin_keeps {r : Nat} {s₀ s : State} (hk : Keeps s₀ s) : Keeps s₀ (decideJoin r s) := by
  unfold decideJoin
  repeat' first
    | with_reducible assumption | extract_lets | with_reducible apply joinLink_keeps | with_reducible apply refuseJoin_keeps | split

theorem notAdmitted_keeps {r : Nat} {s₀ s : State} (hk : Keeps s₀ s) : Keeps s₀ (notAdmitted r s) := by
  unfold notAdmitted
  repeat' first
    | with_reducible assumption | exact id | extract_lets | with_reducible apply State.endCmd_keeps | with_reducible apply raise_keeps
    | with_reducible apply retryBringups_keeps | with_reducible apply State.sendMgt_keeps | with_reducible apply Keeps.setLink | split
    | with_reducible apply Keeps.upd

theorem tryJoin_keeps {r : Nat} {s₀ s : State} (hk : Keeps s₀ s) : Keeps s₀ (tryJoin r s) := by
  unfold tryJoin
  repeat' first
    | with_reducible assumption | extract_lets | with_reducible apply decideJoin_keeps | with_reducible apply notAdmitted_keeps
    | with_reducible apply State.sendMgt_keeps | with_reducible apply Keeps.setLink | split

theorem startJoins_keeps {s₀ s : State} (hk : Keeps s₀ s) : Keeps s₀ (startJoins s) := by
  unfold startJoins
  repeat' first
    | with_reducible assumption | extract_lets | with_reducible apply Keeps.each | with_reducible apply issueGrowth_keeps
    | with_reducible apply tryJoin_keeps | (intro) | split

theorem takeMaps_keeps {rec : JoinRec} {s₀ s : State} (hk : Keeps s₀ s) : Keeps s₀ (takeMaps rec s) := by
  unfold takeMaps
  repeat' first
    | with_reducible assumption | with_reducible exact Keeps.refl _ | exact id | extract_lets | with_reducible apply Keeps.each
    | with_reducible apply Keeps.modSlice | with_reducible apply WArr.slice | with_reducible exact WArr.init _ | (intro) | split
    | with_reducible apply Keeps.upd | with_reducible apply WArr.upd

theorem sendLate_keeps {s₀ s : State} (hk : Keeps s₀ s) : Keeps s₀ (sendLate s) := by
  unfold sendLate
  repeat' first
    | with_reducible assumption | with_reducible exact Keeps.refl _ | exact id | extract_lets | with_reducible apply State.sendMgt_keeps
    | with_reducible apply Keeps.foldl | with_reducible apply WArr.foldl | with_reducible apply WArr.slice
    | with_reducible exact WArr.init _ | (intro) | split | with_reducible apply Keeps.upd | with_reducible apply WArr.upd

theorem execJoinRecord_keeps {r : Nat} {rec : JoinRec} {s₀ s : State} (hk : Keeps s₀ s) : OutKeeps s₀ (execJoinRecord r rec s) := by
  unfold execJoinRecord
  repeat' first
    | with_reducible assumption | extract_lets | with_reducible apply OutKeeps.next | with_reducible apply Keeps.setLink
    | with_reducible apply takeMaps_keeps | with_reducible apply tryJoin_keeps | split

theorem ridgeConflict_keeps {k : Kcp} {s₀ s : State} (hk : Keeps s₀ s) : Keeps s₀ (ridgeConflict k s) := by
  unfold ridgeConflict
  repeat' first
    | with_reducible assumption | with_reducible apply finish_keeps

theorem execRidgeTrainTrain_keeps {c : Nat} {s₀ s : State} (hk : Keeps s₀ s) : OutKeeps s₀ (execRidgeTrainTrain c s) := by
  unfold execRidgeTrainTrain
  repeat' first
    | with_reducible assumption | extract_lets | with_reducible apply OutKeeps.next | with_reducible apply ridgeConflict_keeps
    | with_reducible apply runCmd_keeps | with_reducible apply Keeps.setLink | with_reducible apply State.startCmd_keeps | (intro) | split

theorem execRidgeTrainQuiesce_keeps {c : Nat} {s₀ s : State} (hk : Keeps s₀ s) : OutKeeps s₀ (execRidgeTrainQuiesce c s) := by
  unfold execRidgeTrainQuiesce
  repeat' first
    | with_reducible assumption | extract_lets | with_reducible apply OutKeeps.next | with_reducible apply dropCredits_keeps
    | with_reducible apply finish_keeps | with_reducible apply Keeps.modLink | with_reducible apply ridgeConflict_keeps
    | with_reducible apply runCmd_keeps | (intro) | split

theorem execRidgeTrainJoin_keeps {c : Nat} {s₀ s : State} (hk : Keeps s₀ s) : OutKeeps s₀ (execRidgeTrainJoin c s) := by
  unfold execRidgeTrainJoin
  repeat' first
    | with_reducible assumption | extract_lets | with_reducible apply OutKeeps.next | with_reducible apply finish_keeps
    | with_reducible apply raise_keeps | with_reducible apply ridgeConflict_keeps | with_reducible apply runCmd_keeps
    | with_reducible apply Keeps.setLink | with_reducible apply State.startCmd_keeps | with_reducible apply tryJoin_keeps | (intro)
    | split

theorem execRidgeTrainOff_keeps {c : Nat} {s₀ s : State} (hk : Keeps s₀ s) : OutKeeps s₀ (execRidgeTrainOff c s) := by
  unfold execRidgeTrainOff
  repeat' first
    | with_reducible assumption | extract_lets | with_reducible apply OutKeeps.next | with_reducible apply finish_keeps
    | with_reducible apply retryBringups_keeps | with_reducible apply ridgeConflict_keeps | with_reducible apply runCmd_keeps
    | with_reducible apply Keeps.setLink | (intro) | split

/-! ### Machine/Prot.lean -/

theorem execMeasureRead_keeps {c : Nat} {s₀ s : State} (hk : Keeps s₀ s) : OutKeeps s₀ (execMeasureRead c s) := by
  unfold execMeasureRead
  repeat' first
    | with_reducible assumption | extract_lets | with_reducible apply OutKeeps.next | with_reducible apply finish_keeps
    | with_reducible apply runCmd_keeps | (intro)

theorem renewNonce_keeps {s₀ s : State} (hk : Keeps s₀ s) : Keeps s₀ (renewNonce s) := by
  unfold renewNonce
  repeat' first
    | with_reducible assumption | exact id | extract_lets | with_reducible apply State.used_keeps | with_reducible apply Keeps.upd

theorem endPending_keeps {last : Nat} {s₀ s : State} (hk : Keeps s₀ s) : Keeps s₀ (endPending last s) := by
  unfold endPending
  repeat' first
    | with_reducible assumption | exact id | extract_lets | with_reducible apply renewNonce_keeps | with_reducible apply Keeps.upd

theorem expire_keeps {s₀ s : State} (hk : Keeps s₀ s) : Keeps s₀ (expire s) := by
  unfold expire
  repeat' first
    | with_reducible assumption | exact id | extract_lets | with_reducible apply endPending_keeps | with_reducible apply raise_keeps
    | split | with_reducible apply Keeps.upd

theorem execProtExpire_keeps {s₀ s : State} (hk : Keeps s₀ s) : OutKeeps s₀ (execProtExpire s) := by
  unfold execProtExpire
  repeat' first
    | with_reducible assumption | extract_lets | with_reducible apply OutKeeps.next | with_reducible apply expire_keeps

theorem execProtProposeStage_keeps {c : Nat} {s₀ s : State} (hk : Keeps s₀ s) : OutKeeps s₀ (execProtProposeStage c s) := by
  unfold execProtProposeStage
  repeat' first
    | with_reducible assumption | with_reducible exact Keeps.refl _ | exact id | extract_lets | with_reducible exact OutKeeps.fault _ _
    | with_reducible exact OutKeeps.refused _ _ | with_reducible apply OutKeeps.next | with_reducible apply expire_keeps
    | with_reducible apply finish_keeps | with_reducible apply runCmd_keeps | with_reducible apply WArr.slice
    | with_reducible exact WArr.init _ | (intro) | split | with_reducible apply Keeps.upd | with_reducible apply WArr.upd

theorem issueBlock_keeps {s₀ s : State} (hk : Keeps s₀ s) : Keeps s₀ (issueBlock s) := by
  unfold issueBlock
  repeat' first
    | with_reducible assumption | with_reducible exact Keeps.refl _ | exact id | extract_lets | with_reducible apply genIssue_keeps
    | with_reducible apply tick_keeps | with_reducible apply State.used_keeps | with_reducible apply WArr.slice
    | with_reducible exact WArr.init _ | (intro) | split | with_reducible apply Keeps.upd | with_reducible apply WArr.upd

theorem commitBlock_keeps {k : Kcp} {s₀ s : State} (hk : Keeps s₀ s) : Keeps s₀ (commitBlock k s) := by
  unfold commitBlock
  repeat' first
    | with_reducible assumption | exact id | extract_lets | with_reducible apply endPending_keeps | with_reducible apply finish_keeps
    | with_reducible apply issueBlock_keeps | with_reducible apply raise_keeps | with_reducible apply Keeps.upd

theorem denyProposal_keeps {k : Kcp} {detail : Nat} {outcome : Nat} {s₀ s : State} (hk : Keeps s₀ s) :
    Keeps s₀ (denyProposal k detail outcome s) := by
  unfold denyProposal
  repeat' first
    | with_reducible assumption | extract_lets | with_reducible apply finish_keeps | with_reducible apply raise_keeps

theorem propose_keeps {k : Kcp} {s₀ s : State} (hk : Keeps s₀ s) : Keeps s₀ (propose k s) := by
  unfold propose
  repeat' first
    | with_reducible assumption | exact id | extract_lets | with_reducible apply commitBlock_keeps
    | with_reducible apply denyProposal_keeps | with_reducible apply endPending_keeps | with_reducible apply expire_keeps
    | with_reducible apply finish_keeps | with_reducible apply raise_keeps | split | with_reducible apply Keeps.upd

theorem execProtPropose_keeps {c : Nat} {s₀ s : State} (hk : Keeps s₀ s) : OutKeeps s₀ (execProtPropose c s) := by
  unfold execProtPropose
  repeat' first
    | with_reducible assumption | extract_lets | with_reducible apply OutKeeps.next | with_reducible apply propose_keeps
    | with_reducible apply runCmd_keeps | (intro)

theorem execProtStatus_keeps {c : Nat} {s₀ s : State} (hk : Keeps s₀ s) : OutKeeps s₀ (execProtStatus c s) := by
  unfold execProtStatus
  repeat' first
    | with_reducible assumption | extract_lets | with_reducible apply OutKeeps.next | with_reducible apply finish_keeps
    | with_reducible apply runCmd_keeps | (intro)

theorem execProtWithdraw_keeps {c : Nat} {s₀ s : State} (hk : Keeps s₀ s) : OutKeeps s₀ (execProtWithdraw c s) := by
  unfold execProtWithdraw
  repeat' first
    | with_reducible assumption | extract_lets | with_reducible apply OutKeeps.next | with_reducible apply endPending_keeps
    | with_reducible apply expire_keeps | with_reducible apply finish_keeps | with_reducible apply raise_keeps
    | with_reducible apply runCmd_keeps | (intro) | split

theorem execProtRetry_keeps {s₀ s : State} (hk : Keeps s₀ s) : OutKeeps s₀ (execProtRetry s) := by
  unfold execProtRetry
  repeat' first
    | with_reducible assumption | with_reducible exact Keeps.refl _ | exact id | extract_lets | with_reducible exact OutKeeps.fault _ _
    | with_reducible exact OutKeeps.refused _ _ | with_reducible apply OutKeeps.next | with_reducible apply issueBlock_keeps
    | with_reducible apply WArr.slice | with_reducible exact WArr.init _ | (intro) | split | with_reducible apply Keeps.upd
    | with_reducible apply WArr.upd

theorem applyInstant_keeps {x : Rec} {s₀ s : State} (hk : Keeps s₀ s) : Keeps s₀ (applyInstant s x) := by
  unfold applyInstant
  repeat' first
    | with_reducible assumption | exact id | extract_lets | split | with_reducible apply Keeps.upd

theorem endBlock_keeps {s₀ s : State} (hk : Keeps s₀ s) : Keeps s₀ (endBlock s) := by
  unfold endBlock
  repeat' first
    | with_reducible assumption | exact id | extract_lets | with_reducible apply issueBlock_keeps | with_reducible apply Keeps.upd

theorem startTransition_keeps {words : List W64} {issuer : BitVec 3} {s₀ s : State} (hk : Keeps s₀ s) :
    Keeps s₀ (startTransition words issuer s) := by
  unfold startTransition
  repeat' first
    | with_reducible assumption | exact id | extract_lets | with_reducible apply applyInstant_keeps
    | with_reducible apply State.bumpGen_keeps | with_reducible apply State.dropDue_keeps | with_reducible apply Keeps.each
    | with_reducible apply endBlock_keeps | with_reducible apply Keeps.modSlice | with_reducible apply Keeps.foldl | (intro) | split
    | with_reducible apply Keeps.upd | with_reducible apply WArr.upd

theorem execPartitionTransitionStart_keeps {s₀ s : State} (hk : Keeps s₀ s) : OutKeeps s₀ (execPartitionTransitionStart s) := by
  unfold execPartitionTransitionStart
  repeat' first
    | with_reducible assumption | extract_lets | with_reducible apply OutKeeps.next | with_reducible apply startTransition_keeps | split

theorem partSweepWay_keeps {imp : W64 × W64} {k : Nat} {addr : Nat} {s₀ s : State} (hk : Keeps s₀ s) :
    Keeps s₀ (partSweepWay imp k s addr) := by
  unfold partSweepWay
  repeat' first
    | with_reducible assumption | extract_lets | with_reducible apply startBackInv_keeps | split

theorem reportSweep_keeps {b : Blk} {s₀ s : State} (hk : Keeps s₀ s) : Keeps s₀ (reportSweep b s) := by
  unfold reportSweep
  repeat' first
    | with_reducible assumption | exact id | extract_lets | with_reducible apply State.sendMgt_keeps | split
    | with_reducible apply Keeps.upd

theorem execPartitionSweepDone_keeps {k : Nat} {s₀ s : State} (hk : Keeps s₀ s) : OutKeeps s₀ (execPartitionSweepDone k s) := by
  unfold execPartitionSweepDone
  repeat' first
    | with_reducible assumption | extract_lets | with_reducible apply OutKeeps.next | with_reducible apply Keeps.modSlice
    | with_reducible apply partSweepWay_keeps | with_reducible apply reportSweep_keeps | with_reducible apply Keeps.foldl | (intro)
    | split | with_reducible apply WArr.upd

theorem allReported_keeps {s₀ s : State} (hk : Keeps s₀ s) : Keeps s₀ (allReported s) := by
  unfold allReported
  repeat' first
    | with_reducible assumption | exact id | extract_lets | with_reducible apply State.sendMgt_keeps
    | with_reducible apply State.toPeers_keeps | with_reducible apply State.used_keeps | split | with_reducible apply Keeps.upd

theorem execPartitionSweepReport_keeps {src : BitVec 3} {s₀ s : State} (hk : Keeps s₀ s) :
    OutKeeps s₀ (execPartitionSweepReport src s) := by
  unfold execPartitionSweepReport
  repeat' first
    | with_reducible assumption | exact id | extract_lets | with_reducible apply OutKeeps.next | with_reducible apply allReported_keeps
    | split | with_reducible apply Keeps.upd

theorem execForcedRegroup_keeps {s₀ s : State} (hk : Keeps s₀ s) : OutKeeps s₀ (execForcedRegroup s) := by
  unfold execForcedRegroup
  repeat' first
    | with_reducible assumption | with_reducible exact Keeps.refl _ | exact id | extract_lets | with_reducible exact OutKeeps.fault _ _
    | with_reducible exact OutKeeps.refused _ _ | with_reducible apply OutKeeps.next | with_reducible apply endCalibrate_keeps
    | with_reducible apply skipRegroup_keeps | with_reducible apply writeNewMap_keeps | with_reducible apply WArr.slice
    | with_reducible exact WArr.init _ | (intro) | split | with_reducible apply Keeps.upd | with_reducible apply WArr.upd

theorem activateTables_keeps {s₀ s : State} (hk : Keeps s₀ s) : Keeps s₀ (activateTables s) := by
  unfold activateTables
  repeat' first
    | with_reducible assumption | exact id | extract_lets | with_reducible apply endBlock_keeps | with_reducible apply startJoins_keeps
    | with_reducible apply Keeps.upd

theorem flipNow_keeps {m : Tbl (BitVec 6)} {s₀ s : State} (hk : Keeps s₀ s) : Keeps s₀ (flipNow m s) := by
  unfold flipNow
  repeat' first
    | with_reducible assumption | extract_lets | with_reducible apply activateTables_keeps | with_reducible apply applyBundle_keeps
    | with_reducible apply State.dropDue_keeps | with_reducible apply sendLate_keeps | split

theorem execGenFlip_keeps {s₀ s : State} (hk : Keeps s₀ s) : OutKeeps s₀ (execGenFlip s) := by
  unfold execGenFlip
  repeat' first
    | with_reducible assumption | extract_lets | with_reducible apply OutKeeps.next | with_reducible apply flipNow_keeps | split

theorem nameTa_keeps {t : Nat} {s₀ s : State} (hk : Keeps s₀ s) : Keeps s₀ (nameTa t s) := by
  unfold nameTa
  repeat' first
    | with_reducible assumption | with_reducible exact Keeps.refl _ | exact id | extract_lets | with_reducible apply WArr.slice
    | with_reducible exact WArr.init _ | (intro) | split | with_reducible apply Keeps.upd | with_reducible apply WArr.upd

theorem execPartitionActivate_keeps {s₀ s : State} (hk : Keeps s₀ s) : OutKeeps s₀ (execPartitionActivate s) := by
  unfold execPartitionActivate
  repeat' first
    | with_reducible assumption | with_reducible exact Keeps.refl _ | exact id | extract_lets | with_reducible exact OutKeeps.fault _ _
    | with_reducible exact OutKeeps.refused _ _ | with_reducible apply OutKeeps.next | with_reducible apply activateTables_keeps
    | with_reducible apply flipNow_keeps | with_reducible apply nameTa_keeps | with_reducible apply State.used_keeps
    | with_reducible apply WArr.slice | with_reducible exact WArr.init _ | (intro) | split | with_reducible apply Keeps.upd
    | with_reducible apply WArr.upd

theorem execUcodeStage_keeps {c : Nat} {s₀ s : State} (hk : Keeps s₀ s) : OutKeeps s₀ (execUcodeStage c s) := by
  unfold execUcodeStage
  repeat' first
    | with_reducible assumption | exact id | extract_lets | with_reducible apply OutKeeps.next | with_reducible apply finish_keeps
    | with_reducible apply runCmd_keeps | (intro) | with_reducible apply Keeps.upd

theorem nextSwitch_keeps {c : Nat} {l : List Nat} {s₀ s : State} (hk : Keeps s₀ s) : Keeps s₀ (nextSwitch c l s) := by
  unfold nextSwitch
  repeat' first
    | with_reducible assumption | exact id | extract_lets | with_reducible apply finishUnits_keeps | with_reducible apply Keeps.modSlice
    | (intro) | split | with_reducible apply Keeps.upd | with_reducible apply WArr.upd

theorem execUcodeActivate_keeps {c : Nat} {s₀ s : State} (hk : Keeps s₀ s) : OutKeeps s₀ (execUcodeActivate c s) := by
  unfold execUcodeActivate
  repeat' first
    | with_reducible assumption | exact id | extract_lets | with_reducible apply OutKeeps.next | with_reducible apply finish_keeps
    | with_reducible apply measure_keeps | with_reducible apply nextSwitch_keeps | with_reducible apply runCmd_keeps
    | with_reducible apply State.startCmd_keeps | (intro) | split | with_reducible apply Keeps.upd

theorem execUcodeSliceSwitch_keeps {s₀ s : State} (hk : Keeps s₀ s) : OutKeeps s₀ (execUcodeSliceSwitch s) := by
  unfold execUcodeSliceSwitch
  repeat' first
    | with_reducible assumption | extract_lets | with_reducible apply OutKeeps.next | with_reducible apply Keeps.modSlice
    | with_reducible apply nextSwitch_keeps | (intro) | split | with_reducible apply WArr.upd

/-! ### Machine/Gen.lean -/

theorem State.dropIssue_keeps {k : GenKind} {s₀ s : State} (hk : Keeps s₀ s) : Keeps s₀ (State.dropIssue s k) := by
  unfold State.dropIssue
  repeat' first
    | with_reducible assumption | exact id | extract_lets | with_reducible apply Keeps.upd

theorem onAbort_keeps {k : GenKind} {why : AbortWhy} {s₀ s : State} (hk : Keeps s₀ s) : Keeps s₀ (onAbort k why s) := by
  unfold onAbort
  repeat' first
    | with_reducible assumption | exact id | extract_lets | with_reducible apply State.endCmd_keeps
    | with_reducible apply skipRegroup_keeps | split | with_reducible apply Keeps.upd

theorem keepGrowth_keeps {c : GenChange} {s₀ s : State} (hk : Keeps s₀ s) : Keeps s₀ (keepGrowth c s) := by
  unfold keepGrowth
  repeat' first
    | with_reducible assumption | exact id | extract_lets | split | with_reducible apply Keeps.upd

theorem genAbort_keeps {c : GenChange} {why : AbortWhy} {s₀ s : State} (hk : Keeps s₀ s) : Keeps s₀ (genAbort c why s) := by
  unfold genAbort
  repeat' first
    | with_reducible assumption | extract_lets | with_reducible apply State.dropHold_keeps | with_reducible apply State.dropIssue_keeps
    | with_reducible apply keepGrowth_keeps | with_reducible apply onAbort_keeps | with_reducible apply State.sendMgt_keeps
    | with_reducible apply Keeps.foldl | (intro)

theorem displace_keeps {h : GenHold} {s₀ s : State} (hk : Keeps s₀ s) : Keeps s₀ (displace h s) := by
  unfold displace
  repeat' first
    | with_reducible assumption | with_reducible apply State.dropHold_keeps | with_reducible apply genAbort_keeps | split

theorem answerPrep_keeps {c : GenChange} {ok : Bool} {s₀ s : State} (hk : Keeps s₀ s) : Keeps s₀ (answerPrep c ok s) := by
  unfold answerPrep
  repeat' first
    | with_reducible assumption | with_reducible apply State.sendMgt_keeps

theorem writePrep_keeps {c : GenChange} {s₀ s : State} (hk : Keeps s₀ s) : Keeps s₀ (writePrep c s) := by
  unfold writePrep
  repeat' first
    | with_reducible assumption | exact id | extract_lets | split | with_reducible apply Keeps.upd

theorem takePrep_keeps {c : GenChange} {s₀ s : State} (hk : Keeps s₀ s) : Keeps s₀ (takePrep c s) := by
  unfold takePrep
  repeat' first
    | with_reducible assumption | exact id | extract_lets | with_reducible apply answerPrep_keeps | with_reducible apply displace_keeps
    | with_reducible apply writePrep_keeps | split | with_reducible apply Keeps.upd

theorem execGenPrep_keeps {chg : GenChange} {s₀ s : State} (hk : Keeps s₀ s) : OutKeeps s₀ (execGenPrep chg s) := by
  unfold execGenPrep
  repeat' first
    | with_reducible assumption | extract_lets | with_reducible apply OutKeeps.next | with_reducible apply answerPrep_keeps
    | with_reducible apply takePrep_keeps | split

theorem armIssue_keeps {x : GenIss} {s₀ s : State} (hk : Keeps s₀ s) : Keeps s₀ (armIssue x s) := by
  unfold armIssue
  repeat' first
    | with_reducible assumption | exact id | extract_lets | with_reducible apply State.dropIssue_keeps
    | with_reducible apply State.sendMgt_keeps | with_reducible apply Keeps.foldl | (intro) | with_reducible apply Keeps.upd

theorem execGenAck_keeps {k : GenKind} {src : BitVec 3} {ok : Bool} {s₀ s : State} (hk : Keeps s₀ s) :
    OutKeeps s₀ (execGenAck k src ok s) := by
  unfold execGenAck
  repeat' first
    | with_reducible assumption | exact id | extract_lets | with_reducible apply OutKeeps.next | with_reducible apply armIssue_keeps
    | with_reducible apply genAbort_keeps | split | with_reducible apply Keeps.upd

theorem execGenAckDeadline_keeps {k : GenKind} {s₀ s : State} (hk : Keeps s₀ s) : OutKeeps s₀ (execGenAckDeadline k s) := by
  unfold execGenAckDeadline
  repeat' first
    | with_reducible assumption | extract_lets | with_reducible apply OutKeeps.next | with_reducible apply genAbort_keeps | split

theorem execGenArm_keeps {k : GenKind} {issuer : BitVec 3} {s₀ s : State} (hk : Keeps s₀ s) : OutKeeps s₀ (execGenArm k issuer s) := by
  unfold execGenArm
  repeat' first
    | with_reducible assumption | exact id | extract_lets | with_reducible apply OutKeeps.next
    | with_reducible apply State.sendMgt_keeps | with_reducible apply Keeps.foldl | (intro) | split | with_reducible apply Keeps.upd

theorem execGenAbort_keeps {k : GenKind} {issuer : BitVec 3} {s₀ s : State} (hk : Keeps s₀ s) : OutKeeps s₀ (execGenAbort k issuer s) := by
  unfold execGenAbort
  repeat' first
    | with_reducible assumption | extract_lets | with_reducible apply OutKeeps.next | with_reducible apply State.dropHold_keeps | split

theorem applyMembers_keeps {mask : BitVec 8} {s₀ s : State} (hk : Keeps s₀ s) : Keeps s₀ (applyMembers mask s) := by
  unfold applyMembers
  repeat' first
    | with_reducible assumption | exact id | extract_lets | with_reducible apply State.bumpGen_keeps
    | with_reducible apply State.dropDue_keeps | with_reducible apply Keeps.upd

theorem applySource_keeps {i : BitVec 3} {s₀ s : State} (hk : Keeps s₀ s) : Keeps s₀ (applySource i s) := by
  unfold applySource
  repeat' first
    | with_reducible assumption | exact id | extract_lets | with_reducible apply State.bumpGen_keeps
    | with_reducible apply State.dropDue_keeps | with_reducible apply Keeps.upd

theorem applyChange_keeps {c : GenChange} {s₀ s : State} (hk : Keeps s₀ s) : Keeps s₀ (applyChange c s) := by
  unfold applyChange
  repeat' first
    | with_reducible assumption | with_reducible exact Keeps.refl _ | exact id | extract_lets | with_reducible apply applyBatten_keeps
    | with_reducible apply applyEpoch_keeps | with_reducible apply applyMembers_keeps | with_reducible apply applyRegion_keeps
    | with_reducible apply applySource_keeps | with_reducible apply flipNow_keeps | with_reducible apply sendLate_keeps
    | with_reducible apply startTransition_keeps | with_reducible apply WArr.slice | with_reducible exact WArr.init _ | (intro) | split
    | with_reducible apply Keeps.upd | with_reducible apply WArr.upd

theorem execGenApply_keeps {k : GenKind} {s₀ s : State} (hk : Keeps s₀ s) : OutKeeps s₀ (execGenApply k s) := by
  unfold execGenApply
  repeat' first
    | with_reducible assumption | extract_lets | with_reducible apply OutKeeps.next | with_reducible apply applyChange_keeps | split

theorem execGenLost_keeps {k : GenKind} {s₀ s : State} (hk : Keeps s₀ s) : OutKeeps s₀ (execGenLost k s) := by
  unfold execGenLost
  repeat' first
    | with_reducible assumption | extract_lets | with_reducible apply OutKeeps.next | with_reducible apply State.dropHold_keeps
    | with_reducible apply raise_keeps | split

theorem execTimeSourceChange_keeps {newSrc : BitVec 3} {s₀ s : State} (hk : Keeps s₀ s) : OutKeeps s₀ (execTimeSourceChange newSrc s) := by
  unfold execTimeSourceChange
  repeat' first
    | with_reducible assumption | extract_lets | with_reducible apply OutKeeps.next | with_reducible apply genIssue_keeps
    | with_reducible apply State.used_keeps | split

/-! ### Machine/Inject.lean -/

theorem Slice.flipBits_warr {array : Nat} {addr : Nat} {m : BitVec 2} {s₀ : State} {v : Slice} (hk : WArr s₀ v) :
    WArr s₀ (Slice.flipBits array addr m v) := by
  unfold Slice.flipBits
  repeat' first
    | with_reducible assumption | extract_lets | split | with_reducible apply WArr.upd

theorem Slice.flipNru_warr {set : Nat} {m : BitVec 2} {s₀ : State} {v : Slice} (hk : WArr s₀ v) : WArr s₀ (Slice.flipNru set m v) := by
  unfold Slice.flipNru
  repeat' first
    | with_reducible assumption | extract_lets | with_reducible apply WArr.upd

theorem injectArrayFault_keeps {array : Nat} {addr : Nat} {unit : Nat} {m : BitVec 2} {s₀ s : State} (hk : Keeps s₀ s) :
    Keeps s₀ (injectArrayFault array addr unit m s) := by
  unfold injectArrayFault
  repeat' first
    | with_reducible assumption | extract_lets | with_reducible apply Slice.flipBits_warr | with_reducible apply Slice.flipNru_warr
    | with_reducible apply Keeps.modSlice | (intro) | split

theorem failOldestRead_keeps {p : Nat} {s₀ s : State} (hk : Keeps s₀ s) : Keeps s₀ (failOldestRead p s) := by
  unfold failOldestRead
  repeat' first
    | with_reducible assumption | with_reducible exact Keeps.refl _ | exact id | extract_lets | with_reducible apply failRead_keeps
    | with_reducible apply Keeps.modMp | with_reducible apply WArr.slice | with_reducible exact WArr.init _ | (intro) | split
    | with_reducible apply Keeps.upd | with_reducible apply WArr.upd

theorem failOldestWrite_keeps {p : Nat} {s₀ s : State} (hk : Keeps s₀ s) : Keeps s₀ (failOldestWrite p s) := by
  unfold failOldestWrite
  repeat' first
    | with_reducible assumption | with_reducible exact Keeps.refl _ | exact id | extract_lets
    | with_reducible apply endWriteThrough_keeps | with_reducible apply failWrite_keeps | with_reducible apply grantRun_keeps
    | with_reducible apply Keeps.modMp | with_reducible apply WArr.slice | with_reducible exact WArr.init _ | (intro) | split
    | with_reducible apply Keeps.upd | with_reducible apply WArr.upd

theorem ownFault_keeps {src : Nat} {unit : Nat} {loc : Nat} {s₀ s : State} (hk : Keeps s₀ s) : Keeps s₀ (ownFault src unit loc s) := by
  unfold ownFault
  repeat' first
    | with_reducible assumption | with_reducible exact Keeps.refl _ | exact id | extract_lets | with_reducible apply alignLost_keeps
    | with_reducible apply failLink_keeps | with_reducible apply failOldestRead_keeps | with_reducible apply failOldestWrite_keeps
    | with_reducible apply failPort_keeps | with_reducible apply Slice.flipBits_warr | with_reducible apply isolatePort_keeps
    | with_reducible apply loseInstance_keeps | with_reducible apply loseQueue_keeps | with_reducible apply loseSlice_keeps
    | with_reducible apply Keeps.modSlice | with_reducible apply raise_keeps | with_reducible apply readBuf_keeps
    | with_reducible apply retrain_keeps | with_reducible apply WArr.slice | with_reducible exact WArr.init _ | (intro) | split
    | with_reducible apply Keeps.upd | with_reducible apply WArr.upd

theorem execFactoryInject_keeps {c : Nat} {s₀ s : State} (hk : Keeps s₀ s) : OutKeeps s₀ (execFactoryInject c s) := by
  unfold execFactoryInject
  repeat' first
    | with_reducible assumption | with_reducible exact Keeps.refl _ | exact id | extract_lets | with_reducible exact OutKeeps.fault _ _
    | with_reducible exact OutKeeps.refused _ _ | with_reducible apply OutKeeps.next | with_reducible apply finish_keeps
    | with_reducible apply injectArrayFault_keeps | with_reducible apply ownFault_keeps | with_reducible apply raise_keeps
    | with_reducible apply runCmd_keeps | with_reducible apply WArr.slice | with_reducible exact WArr.init _ | (intro) | split
    | with_reducible apply Keeps.upd | with_reducible apply WArr.upd

theorem execTapAccess_keeps {acc : TapAccess} {s₀ s : State} (hk : Keeps s₀ s) : OutKeeps s₀ (execTapAccess acc s) := by
  unfold execTapAccess
  repeat' first
    | with_reducible assumption | with_reducible exact Keeps.refl _ | exact id | extract_lets | with_reducible exact OutKeeps.fault _ _
    | with_reducible exact OutKeeps.refused _ _ | with_reducible apply OutKeeps.next | with_reducible apply State.used_keeps
    | with_reducible apply WArr.slice | with_reducible exact WArr.init _ | (intro) | split | with_reducible apply Keeps.upd
    | with_reducible apply WArr.upd

/-! ### Machine/Tick.lean -/

theorem countSlice_keeps {n : Nat} {k : Nat} {s₀ s : State} (hk : Keeps s₀ s) : Keeps s₀ (countSlice n k s) := by
  unfold countSlice
  repeat' first
    | with_reducible assumption | with_reducible exact Keeps.refl _ | exact id | extract_lets | with_reducible apply Keeps.setSlice
    | with_reducible apply Keeps.foldl | with_reducible apply WArr.foldl | with_reducible apply WArr.slice
    | with_reducible exact WArr.init _ | (intro) | split | with_reducible apply Keeps.upd | with_reducible apply WArr.upd

theorem tickSlice_keeps {n : Nat} {k : Nat} {s₀ s : State} (hk : Keeps s₀ s) : Keeps s₀ (tickSlice n s k) := by
  unfold tickSlice
  repeat' first
    | with_reducible assumption | with_reducible exact Keeps.refl _ | exact id | extract_lets | with_reducible apply countSlice_keeps
    | with_reducible apply Keeps.setSlice | with_reducible apply WArr.slice | with_reducible exact WArr.init _ | (intro) | split
    | with_reducible apply Keeps.upd | with_reducible apply WArr.upd

theorem tickPort_keeps {n : Nat} {p : Nat} {s₀ s : State} (hk : Keeps s₀ s) : Keeps s₀ (tickPort n s p) := by
  unfold tickPort
  repeat' first
    | with_reducible assumption | with_reducible exact Keeps.refl _ | exact id | extract_lets | with_reducible apply Keeps.setCa
    | with_reducible apply Keeps.foldl | with_reducible apply WArr.foldl | with_reducible apply WArr.slice
    | with_reducible exact WArr.init _ | (intro) | split | with_reducible apply Keeps.upd | with_reducible apply WArr.upd

theorem tickRidge_keeps {n : Nat} {r : Nat} {s₀ s : State} (hk : Keeps s₀ s) : Keeps s₀ (tickRidge n s r) := by
  unfold tickRidge
  repeat' first
    | with_reducible assumption | extract_lets | with_reducible apply Keeps.setLink | split

theorem returnMarks_keeps {s₀ s : State} (hk : Keeps s₀ s) : Keeps s₀ (returnMarks s) := by
  unfold returnMarks
  repeat' first
    | with_reducible assumption | with_reducible exact Keeps.refl _ | exact id | extract_lets | with_reducible apply Keeps.each
    | with_reducible apply giveSnp_keeps | with_reducible apply Keeps.modSlice | with_reducible apply WArr.slice
    | with_reducible exact WArr.init _ | (intro) | split | with_reducible apply Keeps.upd | with_reducible apply WArr.upd

theorem tick_keeps {s₀ s : State} (hk : Keeps s₀ s) : Keeps s₀ (tick s) := by
  unfold tick
  repeat' first
    | with_reducible assumption | with_reducible exact Keeps.refl _ | exact id | extract_lets | with_reducible apply advance_keeps
    | with_reducible apply drainBacklog_keeps | with_reducible apply driveGate_keeps | with_reducible apply Keeps.each
    | with_reducible apply returnMarks_keeps | with_reducible apply startJoins_keeps | with_reducible apply tickPort_keeps
    | with_reducible apply tickRidge_keeps | with_reducible apply tickSlice_keeps | with_reducible apply WArr.slice
    | with_reducible exact WArr.init _ | (intro) | split | with_reducible apply Keeps.upd | with_reducible apply WArr.upd

end Sys2Proof.Machine
end

