-- ==== Sys2Proof/WellFormed.lean ====
section
/-! DEFINITION. Sys2Proof/WellFormed.lean: which commands are well formed on a configuration: the units and the table places that
they name exist there (R13, R15, R25, R30), and their operands are ones that the spec gives. A command that is not well formed has no
sender. -/

namespace Sys2Proof

open Sys2Proof.Machine (Gh)

/-- Whether a slice, which is also a router, exists (R13). -/
def Machine.Gh.hasSlice (g : Gh) (k : Nat) : Bool := decide (k < g.slices)

/-- Whether a ridge port exists (R25). -/
def Machine.Gh.hasRidge (g : Gh) (r : Nat) : Bool := decide (r < g.ridgePorts)

/-- Whether an ingress point exists: a CA port, or 128 + a ridge port (R249). -/
def Machine.Gh.hasIngress (g : Gh) (i : Nat) : Bool := decide (i < g.caPorts) || (decide (128 ≤ i) && g.hasRidge (i - 128))

/-- Whether the destination of a request exists (R34). -/
def Machine.Gh.hasDest (g : Gh) : Dest → Bool
  | .slice k => g.hasSlice k
  | .ridge r => g.hasRidge r

/-- Whether the salvage path has such a word to read (R457): a tracker entry, or a place of the filter, the tags or the lines. -/
def salvWord (a : SalvArray) (n : Nat) : Bool :=
  match a with
  | .tracker | .buffers => decide (n < 2048)
  | .snoopFilter | .tags | .data => decide (n < 65536)

/-- The causes that the slice reports of itself: a forced or an injected loss, and a hang, come by commands of their own (R454). -/
def ownCause : FatalCause → Bool
  | .power | .tracker | .ctrlStore | .internal => true
  | .engineHang | .forced | .injected => false

/-- Whether a join record has the parts of R313: at most 32 regions, six generation counts. -/
def joinOk (j : JoinRec) : Bool := decide (j.regions.length ≤ 32) && decide (j.gens.length = 6)

/-- Whether a package-wide change carries what its kind says (R315), with an EPOCH_LEN in range (R197). -/
def changeOk (c : GenChange) : Bool :=
  match c.kind, c.payload with
  | .region, .region l => decide (l.length ≤ 32)
  | .bundle, .bundle _ => true
  | .batten, .batten => true
  | .epoch, .epoch ms => decide (10 ≤ ms) && decide (ms ≤ 1000)
  | .partition, .block .. => true
  | .member, .members _ => true
  | .member, .timeSource _ => true
  | _, _ => false

/-- Whether a command is well formed on configuration `g`. -/
def Instr.wf (g : Gh) : Instr → Bool
  | .echo _ | .identify _ | .measureRead _ | .sliceState _ | .slicePowerUp _ | .slicePowerDown _ | .sliceResetAssert _
  | .sliceResetRelease _ | .portState _ | .portResetCaAssert _ | .portResetCaRelease _ | .portResetMemAssert _
  | .portResetMemRelease _ | .hcInvalidateAll _ | .hcEnable _ | .hcDisable _ | .invalRange _ | .flushRange _ | .wayLock _
  | .wayUnlock _ | .lineQuery _ | .flushLine _ | .shingleQuery _ | .shingleMove _ | .bundleMapRead _ | .policySet _
  | .policyRead _ | .calibrateNow _ | .battenLoad _ | .battenCommit _ | .routerDrain _ | .probeSet _ | .ridgeState _
  | .ridgeTrainTrain _ | .ridgeTrainQuiesce _ | .ridgeTrainJoin _ | .ridgeTrainOff _ | .ptcStatus _ | .protProposeStage _
  | .protPropose _ | .protStatus _ | .protWithdraw _ | .ucodeStage _ | .ucodeActivate _ | .errSeveritySetThreshold _
  | .errSeveritySet _ | .errLogRead _ | .ferrClear _ | .remapLoad _ | .remapRead _ | .salvageStatus _ | .agentFlushNote _
  | .scrubConfig _ | .perfConfig _ | .factoryInject _ | .cmdDataHi _ _ _ | .cmdEndHi _ _ _ | .kcpTake _ => true
  | .forwardedReply _ _ _ ws => decide (ws.length ≤ 255)
  | .forwardTimeout _ | .cmdTruncate _ | .queuePop _ _ _ | .qFlushCmdq _ _ | .qFlushRplq _ _ | .qFlushEvq _ _
  | .qFlushLoft _ _ | .flushComplete _ _ | .qownerWrite _ _ _ => true
  | .queueOwnerSwitch q => decide (q = .evq) || decide (q = .loft)
  | .quotaWrite _ _ _ _ | .errOutPulseEnd | .errpinWrite _ _ _ | .regionCommit _ _ _ _ | .regionTableActivate
  | .perfCapture _ _ _ | .perfctlWrite _ _ _ | .snpTimeoutWrite _ _ _ | .halfLatchRead _ _ _ | .bootPushHi _ _
  | .bootctlDone _ | .bootctlRestart _ | .registerWrite _ _ _ _ | .porTaken | .resetNTaken | .resetRelease _ _ _ _
  | .mpAbortFall | .fuseSegment _ _ _ | .bringupStepDone => true
  | .bootImageFromPeer r _ => g.hasRidge r
  | .sliceDomainGood s | .slicePowerTimeout s | .slicePowerOffDone s => g.hasSlice s
  | .capActiveRise p | .adv p _ | .advCheck p | .advack p | .portQuiesceComplete p
  | .portReleaseScanDone p => decide (p < g.caPorts)
  | .capActiveFall p => decide (p < g.caPorts) || (decide (128 ≤ p) && decide (p < 1152))
  | .agentTableUpdate _ _ _ _ => true
  | .caRequest p _ | .caDatiChunk p _ _ | .caRspiMessage p _ => decide (p < g.caPorts)
  | .ingressSend i d => g.hasIngress i && g.hasDest d
  | .creditArrive i => g.hasIngress i
  | .creditIdleReturn i s _ => g.hasIngress i && g.hasSlice s
  | .sliceInputRequest s _ => g.hasSlice s
  | .txnActivate s e => g.hasSlice s && decide (e < 2048)
  | .chainHeadActivate s _ => g.hasSlice s
  | .admissionRelease s set => g.hasSlice s && decide (set < 4096)
  | .bufferAcquire s => g.hasSlice s
  | .sfWayReserve s e | .snoopIssue s e => g.hasSlice s && decide (e < 2048)
  | .snoopDeliver p _ => decide (p < g.caPorts)
  | .snoopResponse s _ | .homeDat s _ | .cmpack s _ | .writebackArrive s _ => g.hasSlice s
  | .atomicOperate s e | .placement s e => g.hasSlice s && decide (e < 2048)
  | .mirrorUpdate s | .mirrorUpdateAck s => g.hasSlice s
  | .mirrorRefresh s set => g.hasSlice s && decide (set < 2048)
  | .txnClose s e => g.hasSlice s && decide (e < 2048)
  | .memCmdPresent m _ | .memCreditReturn m _ | .memReadChunk m _ _ _ _ _ | .memWriteAck m _ _ | .memTimeout m
  | .memSrEnter m | .memSrExit m | .memWakeRaise m | .memWakeDeadline m => decide (m < g.memPorts)
  | .snoopTimeoutCheck | .unreachableNotice _ _ => true
  | .routerPacket n o _ _ => g.hasSlice n && decide (o < 9)
  | .loftRecord n => g.hasSlice n
  | .battenSwitch | .routerDrainEmpty => true
  | .fenceMarker s _ => g.hasSlice s
  | .homeMapFlip | .flipCopyAck => true
  | .movePrepareDone sh | .moveDrainDone sh => decide (sh < 4096)
  | .sfEntryInstall s => g.hasSlice s
  | .moveCopyDone sh | .moveDecisionDeadline sh => decide (sh < 4096)
  | .epochBoundary _ | .calibrationDecisions | .regroupComputeDone _ | .regroupTimeout | .regroupMapWritten | .genFlip => true
  | .genSweepSet s set => g.hasSlice s && decide (set < 4096)
  | .regroupDone | .forcedRegroup => true
  | .gatingPowerDown pair => decide (pair < g.slices / 2)
  | .gatingSwitchOpen => true
  | .gatingPowerUp pair => decide (pair < g.slices / 2)
  | .sfScrubVisit s | .hcScrubVisit s => g.hasSlice s
  | .openLineResolve s e => g.hasSlice s && decide (e < 2048)
  | .nruAgeingWalk s => g.hasSlice s
  | .flitReceive r _ | .nakReceive r | .replayTimeout r | .linkRetrainEnter r _ => g.hasRidge r
  | .phyTrained r rate => g.hasRidge r && decide (rate.toNat ≤ 5)
  | .trainTimeout r => g.hasRidge r
  | .retrainSuccess r _ gens => g.hasRidge r && decide (gens.length = 6)
  | .retrainTimeout r | .linkFail r | .timeRecord r | .timeRecordSend r | .calWindowEnd r | .calRecord r => g.hasRidge r
  | .timeCorrection | .ptcSyncFrame _ => true
  | .joinRecord r j => g.hasRidge r && joinOk j
  | .genPrep chg => changeOk chg
  | .genAck _ _ _ | .genAckDeadline _ | .genArm _ _ | .genAbort _ _ | .genApply _ | .genLost _ | .timeSourceChange _
  | .protExpire | .protRetry | .partitionTransitionStart | .partitionSweepReport _ | .partitionActivate => true
  | .engineHang s _ _ => g.hasSlice s
  | .sliceFatal s c => g.hasSlice s && ownCause c
  | .wrapperPacket s _ | .salvageRecord s => g.hasSlice s
  | .salvageRead s a addr _ => g.hasSlice s && salvWord a addr
  | .mirrorReadDone s | .shingleRehome s | .lineResolution s | .salvageDecision s => g.hasSlice s
  | .openEavesWbMark _ _ => true
  | .openEavesExit sh => decide (sh < 4096)
  | .vddRise | .bankPassDone _ | .rangeScanDone _ | .wayLockDone _ => true
  | .sliceResetInitDone s => g.hasSlice s
  | .ucodeSliceSwitch => true
  | .writeThroughScanDone s => g.hasSlice s
  | .linkFailScanDone s r => g.hasSlice s && g.hasRidge r
  | .partitionSweepDone s => g.hasSlice s
  | .forwardedCommand _ _ _ ps => decide (ps.length ≤ 255)
  | .agentFlushNoteReceive _ _ => true
  | .agentTableClearAck p _ => decide (p < g.caPorts)
  | .cellPoolRebuildDone => true
  | .flitTransmit r => g.hasRidge r
  | .tapAccess _ => true

end Sys2Proof
end

