-- ==== Sys2Proof/Tests/Slice0.lean ====
section
/-! SUPPORT. Sys2Proof/Tests/Slice0.lean: tests of single operations and commands against values of the spec, the smoke test of WellFormed, and
for every obligation with hypotheses a concrete state and operands that meet them, clause by clause, at the ends of their ranges. -/

namespace Sys2Proof.Tests

-- One test at a time: tests that wait for the kernel together take a thread each.
set_option Elab.async false

open Sys2Proof Sys2Proof.Machine

/-! ### Helpers: small states -/

/-- A released instance that has reached READY, alone in its package. -/
def tLive : State := { rst := { inReset := false, step := 9, ready := true }, pkg := { members := 1 } }

/-- The same, at a count of package time. -/
def tAt (n : Nat) : State := { tLive with time := { ptc := BitVec.ofNat 64 n, cycles := n } }

/-- Command 0 in progress, with its opcode and parameter words. -/
def tKcp (op : BitVec 7) (ps : List W64) : Kcp := { id := 0, op := op, ps := ps }

/-- A state with one command in progress. -/
def tRun (k : Kcp) (s : State) : State := { s with hub := { s.hub with inProg := [k] } }

/-- A powered slice. -/
def tOn : Slice := { st := .on, clamped := false }

/-- A state whose slice `k` is `v`. -/
def tSl (k : Nat) (v : Slice) (s : State) : State := { s with slices := [(k, v)] }

/-- A state whose slices 0 and 1 are given. -/
def tPair (a b : Slice) (s : State) : State := { s with slices := [(0, a), (1, b)] }

/-- A state whose CA port 0 is `c`. -/
def tCa (c : CaPort) (s : State) : State := { s with cas := [(0, c)] }

/-- A state whose memory port 0 is `m`. -/
def tMp (m : MemPort) (s : State) : State := { s with mps := [(0, m)] }

/-- A state whose ridge port 0 is `l`. -/
def tLink (l : Ridge) (s : State) : State := { s with rdg := [(0, l)] }

/-- A packet with a message. -/
def tPkt (vc : VC) (node port : Nat) (m : Msg) : Pkt :=
  { vc := vc, dnode := node, dport := port, snode := 1, sport := portCa0, msg := m }

/-- A state with one packet arrived at a local port. -/
def tArr (vc : VC) (node port : Nat) (m : Msg) (s : State) : State :=
  { s with mesh := { s.mesh with eject := [(bufKey node port vc, [tPkt vc node port m])] } }

/-- A well-formed cell. -/
def tCell (v : W64) (fin : Bool) : Cell := { idx := 0, data := v, fin := fin, ptag := false, par := parOf v }

/-- CA port 0 ACTIVE with the agent of AID 5, and credits to send; instance 0 homes granule 0. -/
def tPort (c : CaPort) : State :=
  { tLive with
    cas := [(0, { c with st := .active, agents := [{ aid := 5, scred := 4, free := 1 }], reqCrd := 1, rspiCrd := 1, datiCrd := 1 })]
    map := { active := [(0, (0x8000000000000000#64, 0))] }
    pkg := { agents := [(5, (0, 0))], members := 1 } }

/-- Slice 0 powered, with one transaction, and optionally a message at its input. -/
def tTxn (t : Txn) (s : State) : State := tSl 0 { tOn with txns := [t] } s

/-- A request message for line `l`. -/
def tReqMsg (op : ReqOp) (l : LAddr) : Msg := .req { op := op, aid := 5, laddr := l } 0 .any .none

/-- Fifteen counted transactions of one set, on lines of their own. -/
def tFull : List Txn := (List.range 15).map (fun n => { e := n, counted := true, phase := .ready, q := { laddr := BitVec.ofNat 46 (4096 * n) } })

/-- A snoop of AID 5 that is outstanding. -/
def tOut : SnpOut := { snp := { aid := 5, op := .inv }, via := 0, start := 0, limit := 100000 }

/-- A command in progress that names a unit. -/
def tTgt (op : BitVec 7) (t : BitVec 8) (cls : BitVec 6) (ps : List W64) : Kcp := { tKcp op ps with target := t, flags := cls }

/-- A state whose slice 0 homes every shingle. -/
def tZero (s : State) : State := { s with map := { s.map with base := [] } }

/-- A state whose regroup stands at `g`. -/
def tRg (g : RgPhase) (s : State) : State := { s with pol := { s.pol with rg := g } }

/-- A strap sample with CFGSRC 0 and the ID straps `n`. -/
def tStrap (n : BitVec 4) : StrapSample := { boot := 0, clkmode := 0, cfgsrc := false, id := n, testmode := false }

/-- A member of instances 0 and 1 that holds and issues given changes, at tick `n`. -/
def tPkg (h : List GenHold) (i : List GenIss) (n : Nat) : State := { tAt n with pkg := { members := 3, hold := h, issue := i } }

/-- A flit of a type, with no packets. -/
def tFlit (t : BitVec 2) : Flit :=
  { ftype := t, gstart := true, ackv := false, seq := 0, ackseq := 0, half := 0, desc := List.replicate 7 0, slots := List.replicate 7 0 }

/-- A change of EPOCH_LEN by instance `i` for tick `t`. -/
def tChange (i : BitVec 3) (t : Nat) : GenChange := { kind := .epoch, issuer := i, tick := t, payload := .epoch 100 }

/-- A join record of instance `i` with a hardware version. -/
def tJoin (i : BitVec 3) (v : BitVec 8) : JoinRec :=
  { inst := i, hwver := v, newcomer := false, members := 0x02, agents := [], regions := [], rgen := 0, map0 := [], map1 := [], curgen := false
    parts := [], gtMask := 0, maskGen := 0, epochMs := 100, master := 1, timeSrc := 1, roleOfSender := 0, batten := []
    gens := [0, 0, 0, 0, 0, 0], flushOk := true, accept := true }

/-! ### WellFormed: every check refuses an ill-formed command and takes the one beside it -/

theorem test_wf_units :
    Instr.wf .gh16 (.sliceDomainGood 16) = false ∧ Instr.wf .gh16 (.sliceDomainGood 15) = true ∧
    Instr.wf .gh16 (.capActiveRise 32) = false ∧ Instr.wf .gh16 (.capActiveRise 31) = true ∧
    Instr.wf .gh16 (.capActiveFall 32) = false ∧ Instr.wf .gh16 (.capActiveFall 128) = true ∧ Instr.wf .gh16 (.capActiveFall 1152) = false ∧
    Instr.wf .gh64 (.memSrEnter 16) = false ∧ Instr.wf .gh64 (.memSrEnter 15) = true ∧
    Instr.wf .gh16 (.memSrEnter 8) = false ∧ Instr.wf .gh16 (.memSrEnter 7) = true ∧
    Instr.wf .gh64 (.linkFail 8) = false ∧ Instr.wf .gh64 (.linkFail 7) = true ∧
    Instr.wf .gh16 (.creditArrive 127) = false ∧ Instr.wf .gh16 (.creditArrive 128) = true ∧ Instr.wf .gh64 (.creditArrive 136) = false ∧
    Instr.wf .gh16 (.ingressSend 0 (.slice 16)) = false ∧ Instr.wf .gh64 (.ingressSend 0 (.ridge 8)) = false ∧
    Instr.wf .gh64 (.ingressSend 0 (.ridge 7)) = true ∧ Instr.wf .gh16 (.gatingPowerDown 8) = false ∧ Instr.wf .gh16 (.gatingPowerDown 7) = true ∧
    Instr.wf .gh64 (.routerPacket 0 9 false .none) = false ∧ Instr.wf .gh64 (.routerPacket 63 8 true .control) = true := by decide

theorem test_wf_places :
    Instr.wf .gh64 (.txnActivate 0 2048) = false ∧ Instr.wf .gh64 (.txnActivate 0 2047) = true ∧
    Instr.wf .gh64 (.admissionRelease 0 4096) = false ∧ Instr.wf .gh64 (.admissionRelease 0 4095) = true ∧
    Instr.wf .gh64 (.mirrorRefresh 0 2048) = false ∧ Instr.wf .gh64 (.mirrorRefresh 0 2047) = true ∧
    Instr.wf .gh64 (.movePrepareDone 4096) = false ∧ Instr.wf .gh64 (.openEavesExit 4096) = false ∧ Instr.wf .gh64 (.genSweepSet 0 4096) = false ∧
    Instr.wf .gh64 (.salvageRead 0 .tracker 2048 .ok) = false ∧ Instr.wf .gh64 (.salvageRead 0 .data 65535 .noWord) = true ∧
    Instr.wf .gh64 (.salvageRead 0 .snoopFilter 65536 .ok) = false := by decide

theorem test_wf_values :
    Instr.wf .gh64 (.forwardedReply 0 0 0 (List.replicate 256 0)) = false ∧ Instr.wf .gh64 (.forwardedReply 0 0 0 (List.replicate 255 0)) = true ∧
    Instr.wf .gh64 (.forwardedCommand 0 0 0 (List.replicate 256 0)) = false ∧
    Instr.wf .gh64 (.queueOwnerSwitch .hrq) = false ∧ Instr.wf .gh64 (.queueOwnerSwitch .loft) = true ∧
    Instr.wf .gh64 (.phyTrained 0 6) = false ∧ Instr.wf .gh64 (.phyTrained 0 5) = true ∧
    Instr.wf .gh64 (.retrainSuccess 0 0 [0, 0, 0, 0, 0]) = false ∧ Instr.wf .gh64 (.retrainSuccess 0 0 [0, 0, 0, 0, 0, 0]) = true ∧
    Instr.wf .gh64 (.sliceFatal 0 .forced) = false ∧ Instr.wf .gh64 (.sliceFatal 0 .power) = true ∧
    Instr.wf .gh64 (.joinRecord 0 { tJoin 1 0x31 with regions := List.replicate 33 (0, 0) }) = false ∧
    Instr.wf .gh64 (.joinRecord 0 { tJoin 1 0x31 with gens := [] }) = false ∧ Instr.wf .gh64 (.joinRecord 0 (tJoin 1 0x31)) = true ∧
    Instr.wf .gh64 (.genPrep { tChange 0 0 with payload := .epoch 9 }) = false ∧ Instr.wf .gh64 (.genPrep { tChange 0 0 with payload := .epoch 1000 }) = true ∧
    Instr.wf .gh64 (.genPrep { tChange 0 0 with payload := .batten }) = false := by decide +kernel

/-! ### Digests and CRCs against published values -/

/-- SHA-384 of the empty message, and of the bytes "abcdefgh" as one little-endian word (FIPS 180-4; R428). -/
theorem test_sha384 :
    digestWords [] = 0x38b060a751ac96384cd9327eb1b1e36a21fdb71114be07434c0cc7bf63f6e1da274edebfe76f65fbd51ad2f14898b95b ∧
    digestWords [0x6867666564636261] =
      0x9000cd7cada59d1d2eb82912f7f24e5e69cc5517f68283b005fa27c285b61e05edf1ad1a8a9bded6fd29eb87d75ad806 := by decide +kernel

/-- CRC-32C of "123456789" (the usual check value). -/
theorem test_crc32c : crc32c [0x31, 0x32, 0x33, 0x34, 0x35, 0x36, 0x37, 0x38, 0x39] = 0xE3069283 := by decide +kernel

/-! ### Messages, written out from the bit tables of R62, R65, R66 and R67 -/

theorem test_request_word :
    ({ op := .atomCas, aid := 0x7F1, txid := 0xABC, laddr := 0x2AAAAAAAAAAB, cidx := 2, widx := 5, stream := true } : Req).encode = 0x1B555555555557579FC52#128 := by
  decide +kernel

theorem test_snoop_word : encodeSnp .unique 0x123 0x54321 0x3000000000F1 3 0x7FE 0xFED = 0xFEDFFDE000000001E2A864248E1#128 := by decide +kernel

theorem test_response_word : encodeRsp .rspIFwd 0x123 0xFFFFF true false = 0x3FFFFE48F4#128 := by decide +kernel

theorem test_cmp_word : encodeCmp 0x55 0x801 0x80001 .m true 0x1122334455667788 = 0x1122334455667788001700003002157C#128 := by decide +kernel

theorem test_cmperr_word : encodeCmpErr 0x55 0x801 0 0x12 = 0x48000001002157D#128 := by decide +kernel

/-- A reply header of ECHO with two words, TAG 0x1234 and status OK (R359). -/
theorem test_reply_header : replyHeader 0x01 2 0x1234 0 0 = 0x8102123400000000#64 := by decide

/-! ### Single commands -/

/-- ECHO writes its reply of one header and its words into the reply queue of its window (R371, R387). -/
theorem test_echo :
    (match exec (.echo 0) (tRun (tKcp 0x01 [5, 6]) tLive) with
     | .next t => t.hub.mrq.waiting.map (fun p => p.cells.map (fun c => (c.data, c.fin)))
     | _ => []) = [[(0x8102000000000000, false), (5, false), (6, true)]] := by decide +kernel

/-- The LFSR of a slice starts from 0x5A5A XOR its ID (R218). -/
theorem test_lfsr_start : (tLive.slice 3).lfsr = 0x5A59 := by decide

/-- RESET_RELEASE with CFGSRC 1 and RSENSE at 2,150 ohms takes code 4: instance 4, no time master (R484, R485). -/
theorem test_release_rsense :
    (match exec (.resetRelease (List.replicate 16 { tStrap 9 with cfgsrc := true }) 2150 2070 false) State.reset with
     | .next t => (t.rst.code, t.inst, t.tmcap, t.rst.inReset)
     | _ => (0, 0, true, true)) = (4, 4, false, false) := by decide +kernel

/-- Samples that differ leave the block in reset (R481). -/
theorem test_release_samples_differ :
    exec (.resetRelease (tStrap 0 :: List.replicate 15 (tStrap 1)) 1000 1000 false) State.reset = .next State.reset := rfl

/-- A write of 1 to RSTCAUSE.POR clears it through MGMTP and not through HOSTP (R487, R527). -/
theorem test_rstcause_w1c :
    (match exec (.registerWrite .mgmtp 0x0024 1 true) { tLive with rst := { tLive.rst with cPor := true } } with
     | .next t => t.rst.cPor
     | _ => true) = false ∧
    (match exec (.registerWrite .hostp 0x0024 1 true) { tLive with rst := { tLive.rst with cPor := true } } with
     | .next t => t.rst.cPor
     | _ => false) = true := by decide +kernel

/-- A word written to CMD_DATA_LO and CMD_END_HI closes a packet of one word: ECHO without parameters waits in MCQ (R364, R365). -/
theorem test_command_packet :
    (match exec (.registerWrite .mgmtp 0x0100 0 true) tLive with
     | .next a => match exec (.cmdEndHi .mgmtp 0x81000007 true) a with
       | .next b => b.hub.mcq.waiting.map (fun p => p.cells.map (fun c => c.data))
       | _ => []
     | _ => []) = [[0x8100000700000000]] := by decide +kernel

/-- With the lock of CLKMODE 10 a tick makes two whole cycles (R20). -/
theorem test_tick_cycles :
    (match step { tLive with gh := .gh16, rst := { tLive.rst with clkmode := 2 }, time := { frac := 200 } } with
     | .next t => (t.time.cycles, t.time.frac, t.time.ptc)
     | _ => (9, 9, 9)) = (2, 0, 1) := by decide +kernel

/-- A returned credit during MPn_ABORT breaks an obligation, and the port goes on without it (R4, R347). -/
theorem test_credit_in_abort : exec (.memCreditReturn 0 true) tLive = .next tLive := rfl

/-- An AtomAdd of the all-ones word wraps (R87). -/
theorem test_atom_add_wraps : atomicWord .atomAdd (BitVec.allOnes 64) 2 0 = 1 ∧ atomicWord .atomCas 7 8 9 = 7 := by decide

/-- Bounds of GATING: half the slices of a GH16 are 8 (R197). -/
theorem test_gate_max : ({ tLive with gh := .gh16 } : State).gateMaxOf = 8 ∧ tLive.gateMaxOf = 32 := by decide
/-! ### Witnesses: the machine and the command queues -/

theorem test_witness_StepRunsFrontCommand :
    ({ tLive with pending := [.vddRise, .porTaken] } : State).pending = .vddRise :: [.porTaken] := by decide

theorem test_witness_EmptyQueueTicks :
    State.reset.pending = [] ∧ State.reset.rst.inReset = true ∧ tLive.pending = [] ∧ tLive.rst.inReset = false ∧ tLive.prot.ucAct = none ∧
    ({ tLive with prot := { ucAct := some (0, 3, 7) } } : State).prot.ucAct = some (0, 3, 7) :=
  ⟨rfl, rfl, rfl, rfl, rfl, rfl⟩

theorem test_witness_ReplyHeaderLayout :
    127 < 128 ∧ 255 < 256 ∧ 65535 < 65536 ∧ (0xFFFFFF : Nat) < 2 ^ 24 ∧ (tKcp 1 []).remote = none ∧ tLive.hub.rebuild = none := by decide

theorem test_witness_FinishWritesReply :
    (tKcp 1 []).remote = none ∧ tLive.hub.rebuild = none ∧ ({ tKcp 1 [] with remote := some (7, 0) } : Kcp).remote = some (7, 0) ∧
    tLive.inst ≠ 7 ∧ tLive.peerPort 7 = none ∧ (tLink { st := .joined, peer := 7, peerV := true } tLive).peerPort 7 ≠ none := by decide

/-- A window with a command packet being written, last touched at tick 0. -/
def tOpen (o : OpenPkt) (s : State) : State := { s with hub := { s.hub with mgm := { opn := some o } } }

theorem test_witness_WordsAndForwardedCommands :
    (tLive.rst.inReset = false ∧ (Window.hostp = .hostp → true = true) ∧ (Window.mgmtp = .hostp → false = true)) ∧
    tLive.hub.rebuild = none ∧ ({ tLive.hub with rebuild := some .hcq } : HubSt).rebuild ≠ none ∧
    (((tOpen {} (tAt 1000000)).hub.win .mgmtp).opn = some {} ∧ ({} : OpenPkt).last + 1000000 ≤ (tOpen {} (tAt 1000000)).now ∧
      ({} : OpenPkt).collect = false) ∧
    (((tOpen { collect := true } (tAt 1000000)).hub.win .mgmtp).opn = some { collect := true } ∧
      ({ collect := true } : OpenPkt).last + 1000000 ≤ (tOpen { collect := true } (tAt 1000000)).now ∧
      ({ collect := true } : OpenPkt).collect = true) ∧
    (let k : Kcp := { tKcp 1 [] with fwd := some 0 }
     (tRun k (tAt 10000000)).cmd 0 = some k ∧ k.fwd = some 0 ∧ 0 + 10000000 ≤ (tRun k (tAt 10000000)).now) := by decide

/-- An open packet with a header of LEN `n` and VALID 1, and `c` words written in all. -/
def tPacket (n c : Nat) : OpenPkt := { hdr := pack 64 [(63, 1), (48, n)], count := c }

/-- A state with one whole packet waiting in the command queue of MGMTP. -/
def tWaiting (p : QPkt) : State := { tLive with hub := { mcq := { quota := 1024, waiting := [p] } } }

theorem test_witness_PacketsAreCheckedAndTaken :
    (((tOpen (tPacket 65 66) tLive).hub.win .mgmtp).opn = some (tPacket 65 66) ∧ (tPacket 65 66).collect = false ∧ 64 < fld (tPacket 65 66).hdr 48 8) ∧
    (fld (tPacket 64 64).hdr 48 8 ≤ 64 ∧ bit (tPacket 64 64).hdr 63 = true ∧ (tPacket 64 64).count - 1 ≠ fld (tPacket 64 64).hdr 48 8) ∧
    (fld (0 : W64) 48 8 ≤ 64 ∧ bit (0 : W64) 63 = false) ∧
    (fld (tPacket 64 65).hdr 48 8 ≤ 64 ∧ bit (tPacket 64 65).hdr 63 = true ∧ (tPacket 64 65).count - 1 = fld (tPacket 64 65).hdr 48 8) ∧
    ({ tPacket 64 65 with collect := true } : OpenPkt).collect = true ∧
    (let p : QPkt := { prio := 3, arr := 0, cells := [tCell (pack 64 [(63, 1), (56, 1)]) true] }
     let s := tWaiting p
     s.rst.ready = true ∧ s.hub.inProgressOf .mgmtp < 16 ∧ s.hub.cellsHeld (rplqOf .mgmtp) + 264 ≤ (s.hub.queue (rplqOf .mgmtp)).quota.toNat ∧
     (s.hub.win .mgmtp).flushCmd = none ∧ s.hub.rebuild = none ∧ s.hub.linkBad ≠ some (cmdqOf .mgmtp) ∧
     bestPkt (s.hub.queue (cmdqOf .mgmtp)).waiting = some p) := by decide +kernel

/-- A state whose reply queue of MGMTP is `q`, with EVQ and LOFT owned by MGMTP. -/
def tReplies (q : Queue) : State := { tLive with hub := { mrq := q } }

theorem test_witness_QueuesArePoppedAndFlushed :
    (tLive.rst.inReset = false ∧ tLive.hub.rebuild = none) ∧
    tLive.hub.owns .hostp .evq = false ∧ tLive.hub.owns .mgmtp .evq = true ∧ tLive.hub.owns .mgmtp .loft = true ∧
    (let s := tReplies { begun := some [tCell 0 true] }
     s.hub.owns .mgmtp .rpl = true ∧ s.hub.linkBad ≠ some (selQueue .mgmtp .rpl) ∧
     (s.hub.queue (selQueue .mgmtp .rpl)).begun = some (tCell 0 true :: [])) ∧
    (let p : QPkt := { prio := 0, arr := 0, cells := [tCell 1 false, tCell 2 true] }
     let s := tReplies { waiting := [p] }
     (s.hub.queue (selQueue .mgmtp .rpl)).begun = none ∧ bestPkt (s.hub.queue (selQueue .mgmtp .rpl)).waiting = some p ∧
     p.cells = tCell 1 false :: [tCell 2 true]) ∧
    ((tLive.hub.queue (selQueue .mgmtp .rpl)).begun = none ∧ bestPkt (tLive.hub.queue (selQueue .mgmtp .rpl)).waiting = none) ∧
    (({ tLive.hub with linkBad := some .mrq } : HubSt).linkBad = some (selQueue .mgmtp .rpl)) ∧
    ((tLive.hub.win .mgmtp).flushCmd = none ∧ (tLive.hub.win .mgmtp).flushRpl = none ∧ (tLive.hub.win .mgmtp).flushEvq = none ∧
      (tLive.hub.win .mgmtp).flushLoft = none) ∧
    (let s : State := { tLive with hub := { mgm := { flushCmd := some { pkts := 65536 } } } }
     (s.hub.win .mgmtp).flushOf .cmdq = some { pkts := 65536 } ∧ (s.hub.queue (flushQueue .mgmtp .cmdq)).begun = none ∧
     (s.hub.win .mgmtp).opn = none) ∧
    (let o : OpenPkt := {}
     let s : State := { tLive with hub := { mgm := { flushCmd := some {}, opn := some o } } }
     (s.hub.win .mgmtp).flushOf .cmdq = some {} ∧ (s.hub.win .mgmtp).opn = some o ∧ o.collect = false) := by decide +kernel

theorem test_witness_OwnersQuotasAndRefusals :
    tLive.rst.inReset = false ∧ tLive.hub.evq.begun = none ∧ tLive.hub.loft.begun = none ∧
    (let h : HubSt := { evq := { begun := some [tCell 0 true] }, loft := { begun := some [tCell 0 true] } }
     h.evq.begun ≠ none ∧ h.loft.begun ≠ none) ∧
    ({ tLive.hub with rebuild := some .evq } : HubSt).rebuild ≠ none ∧
    State.reset.rst.inReset = true ∧ (Window.hostp = .hostp ∧ false = false) ∧ (0xEFFC : BitVec 16).toNat < 0xF000 := by decide

/-! ### Witnesses: registers -/

theorem test_witness_ReadsOfRegisters :
    tLive.rst.inReset = false ∧ 5 ≤ tLive.rst.step ∧
    (let s : State := { tAt 7 with err := { pulseEnd := some 7 } }
     s.err.pulseEnd = some 7 ∧ 7 ≤ s.now) ∧
    ({ tLive.hub with perfUser := true } : HubSt).perfUser = true ∧ (tRun (tKcp 0x70 [0]) tLive).newCmd 0 0x70 = some (tKcp 0x70 [0]) := by decide

theorem test_witness_WritesOfRegisters :
    tLive.rst.inReset = false ∧ 5 ≤ tLive.rst.step ∧ ({ tLive.hub with perfUser := true } : HubSt).perfUser = true ∧ (127 : Nat) < 128 ∧
    ((0x0FFC : BitVec 16) ≠ 0x0100 ∧ (0x0FFC : BitVec 16) ≠ 0x0300 ∧ (0x0FFC : BitVec 16) ≠ 0x0024 ∧ (0x0FFC : BitVec 16) ≠ 0x0030 ∧
      (0x0FFC : BitVec 16) < 0x1000) ∧ (0x1200 : BitVec 16) ≤ 0x1200 := by decide

/-- A state with a change of the region table in hold, at its activation tick. -/
def tRegionHold (armed : Bool) : State :=
  { tAt 10000 with pkg := { hold := [{ chg := { kind := .region, issuer := 0, tick := 10000, payload := .region [] }, armed := armed }] } }

theorem test_witness_RegionTableCommits :
    tLive.rst.inReset = false ∧ tLive.map.commit = none ∧ bit (1 : BitVec 32) 0 = true ∧
    regionFormatBad tLive [(0, (0x8000000000000000#64, 0)), (1, (0x8000000000000000#64, 0))] = true ∧
    regionFormatBad tLive [(0, (0x8000000000000000#64, 0))] = false ∧
    regionOnlyAdds [] [(0, (0x8000000000000000#64, 0))] = true ∧ tLive.pendingHold .region = none ∧
    regionOnlyAdds [(0, (0x8000000000000000#64, 0))] [] = false ∧ regionFormatBad tLive [] = false ∧
    tLive.unquiesced = 0 ∧ (tCa { st := .active } tLive).unquiesced ≠ 0 ∧ bit (0 : BitVec 32) 0 = false ∧
    ({ tLive.map with commit := some { tbl := [], tick := 0 } } : MapSt).commit ≠ none ∧
    (let h : GenHold := { chg := { kind := .region, issuer := 0, tick := 10000, payload := .region [] }, armed := true }
     (tRegionHold true).dueHold .region = some h ∧ h.chg.payload = .region [] ∧ h.chg.issuer = (tRegionHold true).inst ∧
     ({ tRegionHold true with inst := 1 } : State).inst ≠ h.chg.issuer ∧ ([] : List (W64 × W64)).length ≤ 32) := by decide +kernel

theorem test_witness_RegionTableCommits_earlier :
    let h : GenHold := { chg := { kind := .region, issuer := 0, tick := 10000, payload := .region [] }, armed := false }
    let s : State := { tRegionHold false with inst := 1 }
    s.pendingHold .region = some h ∧ h.chg.issuer.toNat < s.self := by decide +kernel

/-! ### Witnesses: hub commands -/

theorem test_witness_EchoIdentifyAndErrors :
    (tRun (tKcp 0x01 [5]) tLive).newCmd 0 0x01 = some (tKcp 0x01 [5]) ∧ (tRun (tKcp 0x02 []) tLive).newCmd 0 0x02 = some (tKcp 0x02 []) ∧
    (let k : Kcp := { tKcp 0x60 [3] with flags := 1 }
     (tRun k tLive).newCmd 0 0x60 = some k ∧ k.flag 0 = true) ∧
    (let k := tKcp 0x60 [0x0201]
     (tRun k tLive).newCmd 0 0x60 = some k ∧ k.flag 0 = false) ∧
    (tRun (tKcp 0x61 []) tLive).newCmd 0 0x61 = some (tKcp 0x61 []) ∧
    (let k := tKcp 0x62 [9]
     (tRun k tLive).newCmd 0 0x62 = some k ∧ tLive.err.ferr.valid = false ∧
     (let s := tRun k { tLive with err := { ferr := { valid := true, ptc := 9 } } }
      s.newCmd 0 0x62 = some k ∧ s.err.ferr.valid = true ∧ s.err.ferr.ptc = k.par 0) ∧
     (let s := tRun k { tLive with err := { ferr := { valid := true, ptc := 8 } } }
      s.newCmd 0 0x62 = some k ∧ s.err.ferr.valid = true ∧ s.err.ferr.ptc ≠ k.par 0)) := by decide

theorem test_witness_RepairAndScrubCommands :
    (let k : Kcp := { tKcp 0x63 [0] with target := 63 }
     (tRun k tLive).newCmd 0 0x63 = some k ∧ k.tgt ≠ 0xFF) ∧
    (let k : Kcp := { tKcp 0x63 [0] with target := 0xFF }
     let s := tCa { st := .active } (tRun k tLive)
     s.newCmd 0 0x63 = some k ∧ k.tgt = 0xFF ∧ s.unquiesced ≠ 0) ∧
    (∀ r ∈ [({ array := 0, waddr := 0, slice := 63 } : Remap)], r.slice.toNat ≠ 62) ∧
    (let k : Kcp := { tKcp 0x64 [] with target := 0 }
     (tRun k tLive).newCmd 0 0x64 = some k) ∧
    (tRun (tKcp 0x67 [0]) tLive).newCmd 0 0x67 = some (tKcp 0x67 [0]) := by decide
/-! ### Witnesses: slices, power, reset and bring-up -/

theorem test_witness_StateReplies :
    (tRun (tTgt 0x10 0xFF 0 []) tLive).newCmd 0 0x10 = some (tTgt 0x10 0xFF 0 []) ∧
    (let k := tTgt 0x18 0 2 [1]
     (tRun k tLive).newCmd 0 0x18 = some k ∧ k.uclass ≠ 0) ∧
    (let k := tTgt 0x18 0 0 []
     (tRun k tLive).newCmd 0 0x18 = some k ∧ k.uclass = 0 ∧ k.ps = []) ∧
    (let k := tTgt 0x18 0 0 [2]
     k.uclass = 0 ∧ bit (k.par 0) 0 = false) ∧
    (let k := tTgt 0x18 0 0 [3]
     (tRun k tLive).newCmd 0 0x18 = some k ∧ k.uclass = 0 ∧ k.ps ≠ [] ∧ bit (k.par 0) 0 = true) := by decide

theorem test_witness_SoftResets :
    (let k := tTgt 0x12 0 0 [1]
     (tRun k tLive).newCmd 0 0x12 = some k ∧ bit (k.par 0) 0 = true ∧ (tLive.slice k.tgt).st ≠ .on) ∧
    (let k := tTgt 0x12 63 0 [1]
     let s := tRun k (tZero (tSl 63 tOn tLive))
     bit (k.par 0) 0 = true ∧ (s.slice 63).st = .on ∧ s.map.moves = [] ∧ s.shingleCount 63 = 0) ∧
    (let k := tTgt 0x12 0 0 [3]
     let s := tRun k (tZero (tSl 0 tOn tLive))
     bit (k.par 0) 0 = true ∧ bit (k.par 0) 1 = true ∧ (s.slice 0).st = .on ∧ s.map.moves = [] ∧ 0 < s.shingleCount 0) ∧
    (let k := tTgt 0x12 0 0 [0]
     bit (k.par 0) 0 = false ∧ (tLive.slice k.tgt).st ≠ .reset ∧
     (let s := tRun k (tSl 0 { st := .reset } tLive)
      s.newCmd 0 0x12 = some k ∧ (s.slice k.tgt).st = .reset ∧ (s.slice k.tgt).lfsrRun = false)) ∧
    (let s := tSl 0 { st := .reset, lfsrRun := true } tLive
     (s.slice 0).st = .reset ∧ (s.slice 0).lfsrRun = true) ∧
    (let k := tTgt 0x19 0 0 [1]
     (tRun k tLive).newCmd 0 0x19 = some k ∧ k.uclass = 0 ∧ bit (k.par 0) 0 = true) ∧
    (let k := tTgt 0x19 0 0 [0]
     k.uclass = 0 ∧ bit (k.par 0) 0 = false ∧ (tLive.ca k.tgt).st ≠ .isolated ∧ ((tCa { st := .isolated } tLive).ca k.tgt).st = .isolated) ∧
    (let k := tTgt 0x19 0 2 [1]
     k.uclass ≠ 0 ∧ bit (k.par 0) 0 = true) ∧
    (let k := tTgt 0x19 0 2 [0]
     k.uclass ≠ 0 ∧ bit (k.par 0) 0 = false ∧ (tLive.mp k.tgt).inReset = false ∧
     (let s := tMp { inReset := true } (tAt 16)
      (s.mp k.tgt).inReset = true ∧ (s.mp k.tgt).abortFrom + 16 ≤ s.time.cycles)) := by decide +kernel

/-- A state whose slices 0 and 1 have the state `a` and the others are off, the gating policy pinned, a second of ticks later. -/
def tGate (a : SlState) (p : PolSt) : State :=
  { tPair { tOn with st := a } { tOn with st := a } (tAt 1000000000) with gh := .gh16, pol := p }

theorem test_witness_SlicePower :
    (let k := tTgt 0x11 0xFF 0 [0x100]
     (tRun k tLive).newCmd 0 0x11 = some k ∧ bit (k.par 0) 8 = true ∧ fld (k.par 0) 0 5 = 0) ∧
    (let k := tTgt 0x11 0xFF 0 [0]
     bit (k.par 0) 8 = false ∧ fld (k.par 0) 0 5 = 0) ∧
    tLive.pol.gatePin = false ∧
    (let s := tGate .on { gatePin := true }
     s.pol.gatePin = true ∧ (s.slice 0).st = .on ∧ (s.slice 1).st = .on) ∧
    (let s := tGate .failed { gatePin := true }
     ¬((s.slice 0).st = .on ∧ (s.slice 1).st = .on) ∧ (s.slice 0).st = .failed) ∧
    (let s : State := { tGate .off { gatePin := true } with time := {} }
     (s.slice 0).st = .off ∧ Nat.max (s.residencyLeft 0) (s.residencyLeft 1) ≠ 0) ∧
    (let s := tGate .off { gatePin := true, gateMax := 0 }
     Nat.max (s.residencyLeft 0) (s.residencyLeft 1) = 0 ∧ Nat.min s.pol.gateMax (s.gh.slices / 2) < s.poweredPairs.length + 1) ∧
    (let s := tGate .on { gatePin := true, gateMin := 8 }
     s.poweredPairs.length < s.pol.gateMin + 1) ∧
    (let s := tZero (tGate .off { gatePin := true })
     ¬(Nat.min s.pol.gateMax (s.gh.slices / 2) < s.poweredPairs.length + 1) ∧ s.gateHeld = false ∧ s.pol.gating = none) ∧
    (let s := tGate .on { gatePin := true, gateMin := 0 }
     ¬(s.poweredPairs.length < s.pol.gateMin + 1)) ∧
    (let s : State := { tGate .off { gatePin := true } with slices := [(2, { st := .failed })] }
     s.gateHeld = true) ∧
    (let s := tGate .off { gatePin := true, gating := some { pair := 1, up := false } }
     s.pol.gating ≠ none) ∧
    (let g : Gating := { pair := 1, up := false, begun := true }
     let s : State := { tZero (tGate .on { gating := some g }) with slices := [(2, tOn), (3, tOn)] }
     s.pol.gating = some g ∧ g.up = false ∧ g.begun = true ∧ s.idleSlice 2 = true ∧ s.idleSlice 3 = true) ∧
    (let g : Gating := { pair := 7, up := true }
     (tGate .on { gating := some g }).pol.gating = some g ∧ g.up = true ∧ g.begun = false) ∧
    (let g : Gating := { pair := 7, up := true, begun := true }
     g.up = true ∧ g.begun = true) ∧
    (let s := tGate .poweringDown {}
     (s.slice 0).st = .poweringDown ∧ s.pol.gating = none) ∧
    (let s : State := { tSl 0 { st := .poweringUp } (tAt 7000) with rst := { inReset := false, step := 6 } }
     (s.slice 0).st = .poweringUp ∧ (s.slice 0).segTick + 7000 ≤ s.now ∧ s.rst.step < 7) ∧
    (let s := tSl 0 { st := .poweringUp } (tAt 7000)
     (s.slice 0).segTick + 7000 ≤ s.now ∧ 7 ≤ s.rst.step) ∧
    (let s := tSl 0 { st := .poweringUp } (tAt 100000)
     (s.slice 0).st = .poweringUp ∧ (s.slice 0).segTick + 100000 ≤ s.now ∧ 7 ≤ s.rst.step) ∧
    (let s : State := { tSl 0 { st := .poweringUp } (tAt 100000) with rst := { inReset := false, step := 2 } }
     (s.slice 0).st = .poweringUp ∧ (s.slice 0).segTick + 100000 ≤ s.now ∧ s.rst.step < 7) := by decide +kernel

theorem test_witness_ReleaseAndTrim :
    (State.reset.rst.inReset = true ∧ (∀ y ∈ [tStrap 15], y = tStrap 15) ∧ rsenseCode 960 = rsenseCode 1040) ∧
    (tLive.rst.inReset = false ∧ (∃ y ∈ [tStrap 1], y ≠ tStrap 15) ∧ rsenseCode 1040 ≠ rsenseCode 1041) ∧
    (tLive.rst.inReset = false ∧ 16 ≤ (tAt 16).time.cycles ∧ (15 : Nat) < tLive.gh.memPorts) ∧
    tLive.rst.loading = false ∧
    (let s : State := { rst := { inReset := false, loading := true } }
     s.rst.loading = true ∧ s.rst.passOn = false) ∧
    (let s : State := { rst := { inReset := false, loading := true, passOn := true } }
     s.rst.loading = true ∧ s.rst.passOn = true ∧ (63#8).toNat < s.gh.slices ∧ s.segOf (63#8).toNat = .none ∧
     segChecks 63#8 [0] (crc32c (segBytes 63#8 [0])) = true) ∧
    (let s : State := { rst := { inReset := false, loading := true, passOn := true, segs := [(63, .failedOnce)] } }
     s.rst.passOn = true ∧ (63#8).toNat < s.gh.slices ∧ s.segOf (63#8).toNat = .failedOnce ∧ segChecks 63#8 [] 0 = false) ∧
    (let s : State := { gh := .gh16, rst := { inReset := false, loading := true, passOn := true, seenPass := List.range 16 } }
     s.rst.loading = true ∧ s.rst.passOn = true ∧ (∀ j < s.gh.slices, j ∈ s.rst.seenPass) ∧ s.gh.slices ≤ 0xC0) := by decide +kernel

/-- A released instance at a step of bring-up. -/
def tStep (r : RstSt) : State := { tAt 64 with rst := { r with inReset := false } }

theorem test_witness_BringUp :
    (tStep { step := 1 }).rst.inReset = false ∧ (tStep { step := 1 }).rst.fail = 0 ∧
    ((tStep { step := 1 }).rst.step = 1 ∧ 64 ≤ (tStep { step := 1 }).time.cycles) ∧
    (let s := tStep { step := 2 }
     s.rst.loading = false ∧ s.trimEnabled ≠ [] ∧ (∀ j ∈ s.trimEnabled, (s.slice j).st ≠ .poweringUp) ∧ s.rst.role ≠ 3) ∧
    (tStep { step := 2, role := 3 }).rst.role = 3 ∧
    (tStep { step := 3 }).rst.bootSrc = 0 ∧
    (let s := tStep { step := 3, bootSrc := 1, imageV := true }
     s.rst.step = 3 ∧ s.rst.bootSrc ≠ 0 ∧ s.rst.imageV = true) ∧
    (tStep { step := 4 }).rst.image.length ≤ 57856 ∧
    (let s : State := { tStep { step := 5, stepFrom := 2 } with time := { cycles := 16386 } }
     s.rst.step = 5 ∧ s.rst.stepFrom + 16384 ≤ s.time.cycles) ∧
    (let s : State := { tStep { step := 6, stepFrom := 2 } with time := { cycles := 4098 } }
     s.rst.step = 6 ∧ s.rst.stepFrom + 4096 ≤ s.time.cycles) ∧
    (∀ j ∈ (tStep { step := 6, sliceMask := 1 }).enabledSlices, j = 0) ∧ (tStep { step := 7 }).rst.step = 7 ∧ (tStep { step := 8 }).rst.step = 8 ∧
    (let s := tStep { step := 3, wait := true, pushN := 57855 }
     s.rst.inReset = false ∧ s.rst.wait = true ∧ s.rst.pushN < 57856) ∧
    (tStep { step := 3 }).rst.wait = false ∧
    (let s := tLink { st := .linked } (tStep { step := 3, bootSrc := 2 })
     s.rst.step = 3 ∧ s.rst.bootSrc = 2 ∧ (s.link 0).st = .linked) := by decide +kernel

/-- Whatever the free verdict on the image is, one of the two clauses of step 4 meets an image of no words; and the same of step 5. -/
theorem test_witness_BringUp_image :
    ((tStep { step := 4 }).rst.image.length ≤ 57856 ∧ Config.imageCheck (tStep { step := 4 }).rst.image = .good) ∨
    Config.imageCheck (tStep { step := 4 }).rst.image ≠ .good := by
  by_cases h : Config.imageCheck (tStep { step := 4 }).rst.image = .good
  · exact .inl ⟨Nat.zero_le _, h⟩
  · exact .inr h
/-! ### Witnesses: CA ports and their messages -/

/-- An ADV of AID 5, the only one, with SCRED 4 and NAG `n`. -/
def tAdv (n : Nat) : BitVec 128 := pack 128 [(0, 0x39), (6, 5), (17, 4), (21, n)]

theorem test_witness_PortsComeAndGo_bringup :
    (let s := tCa { enable := true } tLive
     (s.ca 0).st = .quiesced ∧ (s.ca 0).enable = true ∧ s.rst.ready = true ∧ s.joining = false) ∧
    (tLive.ca 0).enable = false ∧
    (let s := tCa { st := .bringup, rspiCrd := 1 } tLive
     (s.ca 0).st = .bringup ∧ (s.ca 0).rspiCrd ≠ 0 ∧ fld (tAdv 16) 0 6 = 0x39 ∧ (s.ca 0).abandoned = false ∧ (s.ca 0).refused = false ∧
     (s.ca 0).advs = [] ∧ (decodeAdv (tAdv 16)).badNag = false ∧ (decodeAdv (tAdv 17)).badNag = true) ∧
    (let s := tCa { st := .bringup, rspiCrd := 1, nag := 2, advs := [decodeAdv (tAdv 2)] } tLive
     (s.ca 0).advs ≠ [] ∧ (s.ca 0).advs.length < (s.ca 0).nag.toNat) ∧
    (tCa { st := .bringup, rspiCrd := 1, refused := true } tLive |>.ca 0).refused = true ∧
    (let s := tCa { st := .bringup, nag := 1, advs := [decodeAdv (tAdv 1)] } tLive
     ((s.ca 0).refused = false ∧ (s.ca 0).written = false ∧ (s.ca 0).abandoned = false) ∧ (s.ca 0).advs ≠ [] ∧
     (s.ca 0).advs.length = (s.ca 0).nag.toNat ∧ (∀ x ∈ s.advResults (s.ca 0).advs, x.2 = 0)) ∧
    (let s : State := { tCa { st := .bringup, nag := 1, advs := [decodeAdv (tAdv 1)] } tLive with pkg := { agents := [(5, (0, 1))], members := 1 } }
     ∃ x ∈ s.advResults (s.ca 0).advs, x.2 ≠ 0) ∧
    (let s := tCa { st := .bringup, written := true } tLive
     (s.ca 0).st = .bringup ∧ (s.ca 0).written = true ∧ (s.ca 0).abandoned = false ∧ s.joinedPeers = []) := by decide +kernel

theorem test_witness_PortsComeAndGo_end :
    ((tCa { st := .isolated } tLive).ca 0).st = .isolated ∧ ((tCa { st := .active } tLive).ca 0).st = .active ∧
    (((tCa { st := .bringup } tLive).ca 0).st = .bringup ∧ ((tCa { st := .bringup } tLive).ca 0).written = false) ∧
    (let s := tCa { st := .bringup, abandoned := true, awaitPeers := 0x80 } tLive
     (s.ca 0).abandoned = true ∧ (s.ca 0).awaitPeers &&& ~~~(1#8 <<< (7#3).toNat) = 0 ∧ (s.ca 0).awaitPeers &&& ~~~(1#8 <<< (0#3).toNat) ≠ 0) ∧
    (let s := tCa { st := .quiescing } tLive
     (s.ca 0).st = .quiescing ∧ s.markersIn (s.ca 0) = true ∧ (s.ca 0).snpBuf = [] ∧ (∀ x ∈ (s.ca 0).snpOut, x.due ≠ none)) ∧
    (let s := tCa { st := .isolated, relCmds := [0] } tLive
     (s.ca 0).st = .isolated ∧ (s.ca 0).relCmds ≠ [] ∧ s.slicesUp = []) ∧ (7 : BitVec 3) ≠ tLive.inst := by decide +kernel

theorem test_witness_PortMessages :
    ((tCa { st := .isolated } tLive).ca 0).st = .isolated ∧
    (let h : BitVec 160 := encodeDat 2 5 0 0 0 true false 0 ++ encodeDat 2 5 0 0 0 true false 0
     bit h 0 = true ∧ bit h 80 = true ∧ bit (1 : BitVec 160) 0 ≠ bit (1 : BitVec 160) 80) ∧
    (let s := tPort {}
     let m := ({ op := .rdShared, aid := 5 } : Req).encode
     (s.ca 0).st ≠ .isolated ∧ (s.ca 0).reqCrd ≠ 0 ∧ s.reqCheck 0 m = none) ∧
    ((tPort {}).reqCheck 0 (({ op := .rdShared, aid := 6 } : Req).encode)).isSome = true ∧
    (let q : Req := { op := .wrLine, aid := 5, txid := 0xFFF }
     let s := tPort { ingress := [{ q := q }] }
     let h : BitVec 160 := (0 : BitVec 80) ++ encodeDat 2 5 0xFFF 0 3 true false 0xFFFF
     s.datiFree 0 ≠ 0 ∧ decodeDat (h.extractLsb' 0 80) 0 = some (.dat 2 5 0xFFF 0 3 true false 0xFFFF 0) ∧
     decodeDat (h.extractLsb' 80 80) 0 = none ∧ s.ownAid 0 5 = true ∧ (s.ca 0).dataDrop = [] ∧
     (s.ca 0).ingress.find? (fun x => x.wants 5 0xFFF 3) = some { q := q }) ∧
    (let x : SnpDel := { aid := 5, htid := 0, op := .shared, raid := 6, rtxid := 0, gt := false, gtc := 0 }
     let s := tPort { snpOut := [x] }
     s.rspiFree 0 ≠ 0 ∧ decodeRsp (encodeRsp .rspI 5 0 false false) = some (.rsp .rspI 5 0 false false) ∧ s.ownAid 0 5 = true ∧
     (s.ca 0).snpOut.find? (fun x => x.aid == 5 && x.htid == 0 && x.due.isNone) = some x ∧ htidInst 0 = s.self ∧ 0 < 128) ∧
    decodeRsp (encodeCmpAck 5 0xFFFFF) = some (.cmpAck 5 0xFFFFF) ∧
    (let x : SnpIn := { m := .snp .inv 5 0 0 0 0 0 }
     let s := tPort { snpBuf := [x] }
     (s.ca 0).snpBuf.find? (SnpIn.dests 5) = some x ∧ (s.ca 0).agents.find? (fun a => a.aid == 5) = some { aid := 5, scred := 4, free := 1 } ∧
     x.m = .snp .inv 5 0 0 0 0 0 ∧ 0 < ({ aid := 5, scred := 4, free := 1 } : Agent).free ∧ (s.ca 0).st = .active) := by decide +kernel

theorem test_witness_CreditsAreSpentAndReturned :
    (tLive.err.lost = false ∧ (grantRun 0 tLive).nextFor 0 0 = none) ∧
    (let x : IngEntry := { q := { op := .rdShared, aid := 5 } }
     let s := tPort { ingress := [x], cred := [(0, { any := 1 })] }
     (grantRun 0 s).nextFor 0 0 = some (x, false) ∧
     (grantRun 0 { s with prot := { shmask := [(0, 0)] } }).nextFor 0 0 = some (x, true)) ∧
    (let x : IngEntry := { q := { op := .rdShared, aid := 5 }, peer := some 1 }
     let s := proxyRun 0 (tLink { st := .joined, peer := 1, peerV := true } (tPort { ingress := [x] }))
     (s.ca 0).ingress.find? (fun x => x.peer == some (s.link 0).peer) = some x ∧ x.whole = true ∧ (s.link 0).st = .joined ∧
     s.proxyFor 0 0 = some true ∧ 0 < 128) ∧
    (let s := tArr .rsp 0 portCa0 (.credit 63 .grant 1) tLive
     (s.arrived (s.ingressAt 0).1 (s.ingressAt 0).2 .rsp).head? = some (tPkt .rsp 0 portCa0 (.credit 63 .grant 1))) ∧
    (let s := tSl 0 tOn (tCa { st := .active, cred := [(0, { shared := 1, grant := 1 })] } (tAt 1000))
     0 < (s.credAt 0 0).shared ∧ 0 < (s.credAt 0 0).grant ∧ s.waitingFor 0 0 = [] ∧
     (s.credAt 0 0).sharedFrom.headD 0 + 1000 ≤ s.now ∧ (s.credAt 0 0).grantFrom.headD 0 + 1000 ≤ s.now ∧ s.works 0 = true) := by decide +kernel
/-! ### Witnesses: transactions of a slice -/

theorem test_witness_RequestsEnterTheTracker :
    (let s := tArr .req 0 portSlice (tReqMsg .rdShared 0) (tSl 0 tOn tLive)
     s.works 0 = true ∧ s.atSlice 0 .req false = some (tPkt .req 0 portSlice (tReqMsg .rdShared 0)) ∧ ReqOp.rdShared.isWb = false ∧
     (s.slice 0).txns.length < 2048 ∧ (s.slice 0).lineHeld 0 = false ∧ (s.slice 0).setFull (sfSet 0) = false) ∧
    (let v : Slice := { tOn with txns := tFull }
     v.lineHeld 0 = true ∧ v.lineHeld 0x10000 = false ∧ v.setFull (sfSet 0x10000) = true) ∧
    (let t : Txn := { e := 2047, phase := .ready }
     let s := tTxn t tLive
     s.works 0 = true ∧ (s.slice 0).txn 2047 = some t ∧ t.phase = .ready ∧ s.readWaits 0 t.l = false ∧
     s.threadFree 0 t = true ∧ t.kind = .req ∧ ({ t with kind := .backInv } : Txn).kind = .backInv ∧ s.threadFree 0 { t with kind := .wb } = true) ∧
    (let t : Txn := { e := 0, counted := true }
     let v := (tTxn t tLive).slice 0
     v.chainHead 0 = some t ∧ v.chainFree 0 = true ∧ t.counted = true ∧ v.txn 0 = some t) ∧
    (let t : Txn := { e := 0 }
     let v := (tTxn t tLive).slice 0
     v.chainHead 0 = some t ∧ v.chainFree 0 = true ∧ t.counted = false ∧ v.txn 0 = some t ∧ v.setFull (sfSet t.l) = false) ∧
    (let t : Txn := { e := 20, q := { laddr := 0x10000 } }
     let v : Slice := { tOn with txns := t :: tFull }
     v.chainHead 0x10000 = some t ∧ v.chainFree 0x10000 = true ∧ t.counted = false ∧ v.txn 20 = some t ∧ v.setFull (sfSet t.l) = true) ∧
    (let t : Txn := { e := 20, phase := .admission }
     let v : Slice := { tOn with txns := t :: tFull.drop 1 }
     v.admissionOf 0 = [t] ∧ v.countedIn 0 < 15) ∧
    (let t : Txn := { e := 0, phase := .bufWait, bufs := 2 }
     let s := tTxn t tLive
     (s.slice 0).firstBufWait = some t ∧ t.bufs ≤ s.freeBufs 0 ∧ s.bufsAhead 0 t.e t.act = false) := by decide +kernel

theorem test_witness_WaysSnoopsAndAnswers_snoops :
    (let t : Txn := { e := 0, fresh := true, phase := .running }
     let s := tTxn t tLive
     s.works 0 = true ∧ (s.slice 0).txn 0 = some t ∧ t.fresh = true ∧ t.way = none ∧ t.phase = .running ∧
     (sfParityCheck 0 (sfSet t.l) accInt s).wayFor 0 (sfSet t.l) = some (0, false) ∧
     (let v : Slice := { tOn with txns := t :: (List.range 16).map (fun n => { e := n + 1, phase := .running, way := some n }) }
      (sfParityCheck 0 (sfSet t.l) accInt (tSl 0 v tLive)).wayFor 0 (sfSet t.l) = none)) ∧
    (let t : Txn := { e := 0, phase := .running, todo := [{ aid := 5, op := .inv }] }
     let s := tTxn t tLive
     (s.slice 0).txn 0 = some t ∧ t.phase = .running ∧ t.todo.find? (s.snoopGo 0 t) = some { aid := 5, op := .inv } ∧ s.unreachable 5 = true) ∧
    (let t : Txn := { e := 0, phase := .running, todo := [{ aid := 5, op := .inv }] }
     let s := tTxn t (tPort {})
     t.todo.find? (s.snoopGo 0 t) = some { aid := 5, op := .inv } ∧ s.unreachable 5 = false ∧ s.wayTo 5 = some 0) := by decide +kernel

theorem test_witness_WaysSnoopsAndAnswers_answers :
    (let m : Msg := .rsp .rspI 5 0 false false
     let s := tArr .rsp 0 portSlice m (tSl 0 tOn tLive)
     s.works 0 = true ∧ s.atSlice 0 .rsp false = some (tPkt .rsp 0 portSlice m) ∧ (s.slice 0).txn (htidEntry 0) = none) ∧
    (let t : Txn := { e := 0 }
     ((tTxn t tLive).slice 0).txn (htidEntry 0) = some t ∧ t.outs.find? (fun o => o.snp.aid == 5) = none) ∧
    (let t : Txn := { e := 0, outs := [tOut] }
     ((tTxn t tLive).slice 0).txn (htidEntry 0) = some t ∧ t.outs.find? (fun o => o.snp.aid == 5) = some tOut ∧
     snpAllows t.ent.st tOut.snp .rspO false false = false ∧ t.broadcasts = false ∧ snpAllows t.ent.st tOut.snp .rspI false false = true) ∧
    (let m : Msg := .dat 1 5 0 0 3 true false 0xFFFF 0
     let s := tArr .dat 0 portSlice m (tSl 0 tOn tLive)
     s.atSlice 0 .dat false = some (tPkt .dat 0 portSlice m) ∧ (s.slice 0).txn (htidEntry 0) = none) ∧
    (let t : Txn := { e := 0 }
     t.chunksDue + 4 * t.outs.length ≤ t.nchunk) ∧
    (let t : Txn := { e := 0, nchunk := 3, resps := [{ aid := 5, op := .rspIWb }] }
     ((tTxn t tLive).slice 0).txn (htidEntry 0) = some t ∧ t.nchunk < t.chunksDue + 4 * t.outs.length) ∧
    (let m : Msg := .cmpAck 5 0
     let s := tArr .rsp 0 portSlice m (tTxn { e := 0, q := { aid := 5 }, ackFrom := some 0 } tLive)
     s.atSlice 0 .rsp false = some (tPkt .rsp 0 portSlice m) ∧
     (s.slice 0).txn (htidEntry 0) = some { e := 0, q := { aid := 5 }, ackFrom := some 0 } ∧ some 0 ≠ (none : Option Nat)) ∧
    (∀ t ∈ ((tTxn { e := 0 } tLive).slice 0).txn (htidEntry 0), t.ackFrom = none ∨ t.q.aid ≠ 5) := by decide +kernel

theorem test_witness_WritebackAndAtomicResults :
    (let x : SfEnt := { st := stX, own := 5 }
     x.owned = true ∧ x.own = 5 ∧ x.st = stX) ∧
    (let x : SfEnt := { st := stO, own := 5 }
     x.owned = true ∧ x.own = 5 ∧ x.st ≠ stX ∧ x.isFine = true ∧ ¬(x.owned = true ∧ x.own = 6) ∧ x.st ≠ stFree ∧ 6 ∉ x.ptrs) ∧
    (let x := entS {} 0 6
     ¬(x.owned = true ∧ x.own = 6) ∧ ¬(x.owned = false ∧ x.st = stFree) ∧ x.isFine = true ∧ 6 ∈ x.ptrs) ∧
    (let x : SfEnt := { st := stS, mode := coarse, payload := 1 }
     ¬(x.owned = true) ∧ x.st ≠ stFree ∧ x.isFine = false) ∧
    (({} : SfEnt).owned = false ∧ ({} : SfEnt).st = stFree) ∧ ((7 : Nat) < 8 ∧ (0 : Nat) < 8) ∧
    (let t : Txn := { e := 0, q := { op := .atomAdd, widx := 7 }, phase := .running, settled := true, line := { got := 15 } }
     let s := tTxn t tLive
     (s.slice 0).txn 0 = some t ∧ t.kind = .req ∧ t.q.op.isAtomic = true ∧ t.phase = .running ∧ t.settled = true ∧ t.operated = false ∧
     t.failed = false ∧ t.line.full = true ∧ ((readBuf 0 0 (List.range 8) s).bufLine 0 t) = t ∧ t.line.poison = false ∧
     t.wdata.poison = false ∧ s.works 0 = true ∧ s.placesAt 0 t.l (setWord t.line.data t.q.widx.toNat
       (atomicWord t.q.op (wordOf t.line.data t.q.widx.toNat) (wordOf t.wdata.data 0) (wordOf t.wdata.data 1))) = false ∧
     (s.slice 0).homeHeld t.l = false) := by decide +kernel

theorem test_witness_WritebacksAtomicsAndClose :
    (let s := tArr .req 0 portSlice (tReqMsg .wbDirty 0) (tSl 0 tOn tLive)
     s.works 0 = true ∧ s.atSlice 0 .req false = some (tPkt .req 0 portSlice (tReqMsg .wbDirty 0)) ∧ ReqOp.wbDirty.isWb = true ∧
     (s.slice 0).wbEntries < 32) ∧
    (let w : WbMsg := { e := 1, q := { op := .wbDirty, aid := 5 }, d := {}, src := 0, cred := .wb }
     let v := (tTxn { e := 0 } tLive).slice 0
     v.crossed w.q.laddr w.q.aid = none ∧ v.deferred.any (fun x => x.q.laddr == w.q.laddr) = false ∧
     ({ v with deferred := [w] } : Slice).deferred.any (fun x => x.q.laddr == w.q.laddr) = true) ∧
    (let t : Txn := { e := 0, q := { op := .atomOr }, phase := .running, settled := true, line := { got := 15 } }
     ((tTxn t tLive).slice 0).txn 0 = some t ∧ t.kind = .req ∧ t.q.op.isAtomic = true ∧ t.settled = true ∧ t.operated = false ∧ t.failed = false ∧
     t.line.full = true ∧ ((readBuf 0 0 (List.range 8) (tTxn t tLive)).bufLine 0 t) = t ∧ t.line.poison = false ∧ t.wdata.poison = false ∧
     t.use ≠ .rsp ∧
     (let u : Txn := { t with line := { got := 15, poison := true }, use := .rsp }
      ((readBuf 0 0 (List.range 8) (tTxn u tLive)).bufLine 0 u) = u ∧ u.line.poison = true ∧ u.use = .rsp)) ∧
    (let t : Txn := { e := 0, phase := .running, place := .due, what := .poison }
     let s := tTxn t tLive
     (s.slice 0).txn 0 = some t ∧ t.place = .due ∧ t.phase = .running ∧
     (s.slice 0).txns.any (fun x => x.e != 0 && x.phase.active && x.l == t.l && decide (x.act < t.act) && decide (x.place = .due)) = false ∧
     s.victimUse 0 + s.victimsFor 0 t ≤ 16 ∧ s.mirrorRoom 0 t = true) ∧
    (let s := tArr .rsp 0 portSlice (.mirrorSet 2047 31 0 0) (tSl 0 tOn tLive)
     s.atSlice 0 .rsp false = some (tPkt .rsp 0 portSlice (.mirrorSet 2047 31 0 0))) ∧
    (let s := tArr .rsp 0 portSlice (.mirrorClr 0 0 0) (tSl 0 tOn tLive)
     s.atSlice 0 .rsp false = some (tPkt .rsp 0 portSlice (.mirrorClr 0 0 0))) ∧
    (let s := tArr .rsp 0 portSlice (.mirrorAck 0) (tSl 0 tOn tLive)
     s.atSlice 0 .rsp false = some (tPkt .rsp 0 portSlice (.mirrorAck 0))) ∧
    (let s := tPair tOn { tOn with refresh := [2047] } tLive
     s.works 0 = true ∧ s.works (buddy 0) = true ∧ 2047 ∈ (s.slice (buddy 0)).refresh) ∧
    (let t : Txn := { e := 0, phase := .running, settled := true, cmpSent := true }
     ((tTxn t tLive).slice 0).txn 0 = some t ∧ ((tTxn t tLive).slice 0).closable t = true ∧ t.kind ≠ .flushLine ∧ t.way = none ∧
     (let u : Txn := { t with way := some 15, fresh := true }
      ((tTxn u tLive).slice 0).closable u = true ∧ u.way = some 15) ∧
     (let u : Txn := { t with kind := .flushLine }
      ((tTxn u tLive).slice 0).closable u = true ∧ u.kind = .flushLine)) := by decide +kernel
/-! ### Witnesses: memory ports, timeouts and scrubbing -/

/-- A memory command of slice 0 for line 0. -/
def tMem (write : Bool) : MemCmd := { write := write, laddr := 0, slice := 0, owner := .txn 0 }

theorem test_witness_MemoryCommandsArePresented :
    (let m : MemPort := { abort := false, held := [tMem true], wrCred := 1 }
     pickCmd m true [] m.held = some (tMem true, []) ∧ m.failed = false ∧ m.inReset = false ∧ m.freeTag true = some 0 ∧ m.sr = false ∧
     m.abort = false ∧ m.wrCred ≠ 0 ∧ (∀ e, (tMem true).owner ≠ .victim e)) ∧
    (let m : MemPort := { abort := false, held := [tMem false], rdCred := 1, outst := (List.range 255).map (fun n => { tMem false with tag := BitVec.ofNat 8 n }) }
     pickCmd m false [] m.held = some (tMem false, []) ∧ m.freeTag false = some 255 ∧ m.rdCred ≠ 0) ∧
    (let m : MemPort := { failed := true, held := [tMem true] }
     pickCmd m true [] m.held = some (tMem true, []) ∧ m.failed = true) ∧
    (let m : MemPort := { abort := false }
     m.failed = false ∧ m.inReset = false ∧ m.rdCred = 0 ∧ m.abort = false) ∧ ({} : MemPort).abort = true := by
  refine ⟨⟨by decide +kernel, rfl, rfl, by decide +kernel, rfl, rfl, by decide +kernel, fun e => nofun⟩, ?_⟩
  decide +kernel

theorem test_witness_MemoryAnswersAndFailures_answers :
    (({ failed := true } : MemPort).failed = true) ∧ (({} : MemPort).failed = false ∧ ({} : MemPort).abort = true) ∧
    (let m : MemPort := { abort := false }
     m.failed = false ∧ m.abort = false ∧ m.outst.find? (fun c => !c.write && c.tag == 255) = none ∧
     m.outst.find? (fun c => c.write && c.tag == 255) = none) ∧
    (let c : MemCmd := { tMem false with tag := 255, cidx := 3 }
     let m : MemPort := { abort := false, outst := [c] }
     m.outst.find? (fun c => !c.write && c.tag == 255) = some c ∧ c.void = false ∧ (c.got ||| 15#4) = 15#4 ∧ (c.got ||| 8#4) ≠ 15#4) ∧
    (let c : MemCmd := { tMem true with tag := 255 }
     let m : MemPort := { abort := false, outst := [c] }
     m.outst.find? (fun c => c.write && c.tag == 255) = some c ∧ c.void = false ∧ ({ c with void := true } : MemCmd).void = true) := by decide +kernel

theorem test_witness_MemoryAnswersAndFailures_limits :
    (let c : MemCmd := { tMem true with presented := some 0, limit := 1000000 }
     let s := tMp { abort := false, outst := [c] } (tAt 1000000)
     (s.mp 0).failed = false ∧ (s.mp 0).sr = false ∧ (∃ c ∈ (s.mp 0).outst, c.presented = some 0 ∧ 0 + c.limit ≤ s.now) ∧
     ({ sr := true } : MemPort).sr = true) ∧
    (let c : MemCmd := { tMem true with presented := some 0, limit := 1000000 }
     let s := tMp { abort := false, outst := [c] } (tAt 999999)
     ∀ c ∈ (s.mp 0).outst, ∀ t ∈ c.presented, s.now < t + c.limit) ∧
    ((tLive.mp 0).sr = false) ∧
    (let s := tMp { sr := true, heldFrom := some 0, wakeDelay := 9 } (tAt 9)
     (s.mp 0).heldFrom = some 0 ∧ (s.mp 0).sr = true ∧ (s.mp 0).wake = false ∧ (s.mp 0).never = false ∧ (s.mp 0).failed = false ∧
     0 + (s.mp 0).wakeDelay ≤ s.now) ∧ ((tMp { never := true } tLive).mp 0).never = true ∧
    (let s := tMp { sr := true, wake := true } (tAt 1000000)
     (s.mp 0).sr = true ∧ (s.mp 0).wake = true ∧ (s.mp 0).failed = false ∧ (s.mp 0).wakeAt + 1000000 ≤ s.now) ∧
    (tAt 999999).now < ((tAt 999999).mp 0).wakeAt + 1000000 := by decide +kernel

theorem test_witness_UnreachableAgentsAreIsolated :
    (tAt 1024).ptcNow % 1024 = 0 ∧ (tAt 1023).ptcNow % 1024 ≠ 0 ∧
    ({ tLive with pkg := { unreach := [5] } } : State).pkg.unreach.contains 5 = true ∧
    (let t : Txn := { e := 0, outs := [tOut] }
     let s := tTxn t (tAt 100000)
     s.works 0 = true ∧ (s.slice 0).txns.contains t = true ∧ t.outs.contains tOut = true ∧ tOut.start + tOut.limit ≤ s.now ∧ tOut.via < 128 ∧
     t.e = 0 ∧ 0 < s.gh.slices) ∧
    (let s := tPort {}
     s.agentAt 5 = some (s.self, 0) ∧ (s.ca 0).st ≠ .isolated) ∧
    (let s : State := { tPort {} with cas := [(0, { st := .isolated })] }
     s.agentAt 5 = some (s.self, 0) ∧ (s.ca 0).st = .isolated) ∧
    (let s : State := { tLive with pkg := { agents := [(5, (1, 0))] } }
     s.agentAt 5 = some (1, 0) ∧ 1 ≠ s.self) := by decide +kernel

theorem test_witness_ScrubAndOpenResolutions_visits :
    (let s := tSl 0 { tOn with sfPos := 4095, sfDue := 7, hcPos := 2047, hcDue := 7 } (tAt 7)
     s.works 0 = true ∧ (s.slice 0).sfInt ≠ 0 ∧ (s.slice 0).sfDue ≤ s.now ∧ s.scrubWaits 0 (s.slice 0).sfPos = false ∧
     (s.slice 0).hcInt ≠ 0 ∧ (s.slice 0).hcDue ≤ s.now ∧
     s.inputWaits 0 = false ∧ (tArr .rsp 0 portSlice (.wbAck 0 0 0 false) tLive).inputWaits 0 = true ∧
     ((List.range 32).filter (fun t => (s.slice 0).tagBad (s.slice 0).hcPos t || (s.slice 0).dataLost (s.slice 0).hcPos t)).length = 0 ∧
     (s.slice 0).hcinit = false) ∧
    (let v : Slice := { tOn with hcDue := 7, errs := [{ array := 1, addr := 0, flip := 3 }], txns := (List.range 16).map (fun n => { e := n, kind := .flushLine }) }
     let s := tSl 0 v (tAt 7)
     s.works 0 = true ∧ v.hcInt ≠ 0 ∧ v.hcDue ≤ s.now ∧ ((List.range 32).filter (fun t => v.tagBad 0 t || v.dataLost 0 t)).length = 1 ∧
     16 < s.homeUse 0 + 1) ∧
    (({ sfInt := 0, hcInt := 0, hcinit := true } : Slice).sfInt = 0 ∧ ({ hcInt := 0 } : Slice).hcInt = 0 ∧ ({ hcinit := true } : Slice).hcinit = true) ∧
    ((tSl 0 { sfDue := 8 } (tAt 7)).now < ((tSl 0 { sfDue := 8 } (tAt 7)).slice 0).sfDue) ∧
    (let s : State := { tSl 0 tOn (tAt 64) with pol := { nru := true } }
     s.pol.nru = true ∧ s.works 0 = true ∧ (s.slice 0).walkFrom + 64 * ((s.slice 0).walkPos + 1) ≤ s.time.cycles ∧
     (s.slice 0).errAt 3 0 = none ∧ ((s.slice 0).ctlAt 0).dcnt.toNat ≤ 16) ∧ tLive.pol.nru = false := by
  decide +kernel

theorem test_witness_ScrubAndOpenResolutions_open :
    (let t : Txn := { e := 0, kind := .openRes }
     let s := tTxn t tLive
     (s.slice 0).txn 0 = some t ∧ t.kind = .openRes ∧ s.works 0 = true ∧ t.phase ≠ .running ∧ t.cands = []) ∧
    (let t : Txn := { e := 0, kind := .openRes, cands := [4096] }
     t.cands = 4096 :: [] ∧ t.phase ≠ .admission ∧ ((tTxn t tLive).slice 0).activeOn 4096 = [] ∧ t.counted = false ∧
     ((tTxn t tLive).slice 0).setFull (sfSet 4096) = false ∧ ({ t with counted := true } : Txn).counted = true ∧
     ({ tOn with txns := t :: tFull } : Slice).setFull (sfSet 0x10000) = true ∧ ({ tOn with txns := t :: tFull } : Slice).activeOn 0x10000 = [] ∧
     (∃ x ∈ ({ tOn with txns := t :: tFull } : Slice).activeOn 4096, x.e ≠ t.e)) ∧
    (let t : Txn := { e := 0, kind := .openRes, phase := .running }
     (tTxn t tLive |>.slice 0).txn 0 = some t ∧ t.phase = .running ∧ t.lineDone = false) ∧
    (let t : Txn := { e := 0, kind := .openRes, phase := .running, settled := true, cands := [0] }
     let s := tTxn t tLive
     t.lineDone = true ∧ (((closeLine 0 t s).slice 0).txn 0).map (fun t => t.cands) = some []) ∧
    (let t : Txn := { e := 0, kind := .openRes, phase := .running, settled := true, cands := [0, 4096] }
     let s := tTxn t tLive
     t.lineDone = true ∧ (((closeLine 0 t s).slice 0).txn 0).map (fun t => t.cands) = some [4096]) ∧
    (let s := tPair tOn { tOn with refresh := [0] } tLive
     (s.slice (buddy 0)).refresh.contains 0 = true ∧ s.works 0 = true ∧ s.works (buddy 0) = true ∧ (s.slice (buddy 0)).refresh.contains 1 = false) := by
  decide +kernel

/-! ### Witnesses: the mesh -/

/-- A request for slice 1 at the local port of CA port 0 of router 0. -/
def tMesh : State :=
  let p : Pkt := { vc := .req, dnode := 1, dport := portSlice, snode := 0, sport := portCa0, msg := tReqMsg .rdShared 0 }
  tLive.inject p

theorem test_witness_RouterForwardsPackets :
    (tLive.gh.hasPort 63 0 = false ∧ tLive.arbitrate 0 1 false = none) ∧
    (let p : Pkt := { vc := .req, dnode := 1, dport := portSlice, snode := 0, sport := portCa0, msg := tReqMsg .rdShared 0 }
     tMesh.gh.hasPort 0 1 = true ∧ tMesh.laneFree 0 1 false = true ∧ tMesh.arbitrate 0 1 false = some (portCa0, p) ∧ 1 < 4 ∧
     bufKey (tMesh.gh.beyond 0 1).1 (tMesh.gh.beyond 0 1).2 p.vc ≠ bufKey 0 portCa0 p.vc) ∧
    probeSend 0 tMesh = tMesh ∧ (tPkt .dat 0 portSlice (.dat 1 5 0 0 0 true false 0xFFFF 0)).payload = true ∧
    (tPkt .req 0 portSlice (tReqMsg .rdShared 0)).payload = false ∧
    (let s : State := { tLive with mesh := { probes := [(0, { buf := [(1, 2, 3)] })] } }
     (s.probe 0).buf = (1, 2, 3) :: [] ∧ s.inputBuf 0 portSlice .mgt = []) ∧
    (let s := tMesh
     (s.battenSlot (s.mesh.battenOf 0 1)).getLsbD 4 = false ∧ s.hubDue 0 1 = true ∧ s.hubFlit 0 1 .err = none ∧ s.hubFlit 0 1 .mgt = none) ∧
    (let s : State := { tLive with mesh := { inBuf := [(bufKey 1 portSlice .mgt, [tPkt .mgt 0 portHub (.hub (.trace 1 2 3))])] } }
     s.hubDue 1 3 = true ∧ s.hubFlit 1 3 .err = none ∧ (s.hubFlit 1 3 .mgt).isSome = true) ∧
    (let s : State := { tLive with mesh := { inBuf := [(bufKey 1 portSlice .err, [tPkt .err 0 portHub (.hub (.trace 1 2 3))])] } }
     (s.hubFlit 1 3 .err).isSome = true) ∧
    (let s : State := { tMesh with mesh := { tMesh.mesh with hubAt := [(1, 0)] } }
     s.hubDue 0 1 = false) ∧
    ((tSl 0 tOn tLive).slice 0).poweredDown = false ∧ (tLive.slice 0).poweredDown = true ∧
    (tPkt .req 0 portSlice (tReqMsg .rdShared 0)).tail = true ∧ ({ tPkt .dat 0 portSlice (.dat 1 5 0 0 0 true false 0xFFFF 0) with tail := false } : Pkt).tail = false := by
  decide +kernel

theorem test_witness_RouterForwardsPackets_kinds :
    vcOfHub .req = false ∧ (∀ a b, tReqMsg .rdShared 0 ≠ .sfCopy a b) ∧ (∀ a b, tReqMsg .rdShared 0 ≠ .creditBack a b) ∧
    (∀ q a b c, Msg.cmpAck 5 0 ≠ .req q a b c) ∧
    (tPkt .req 0 portSlice (tReqMsg .rdShared 0)).msg = .req { op := .rdShared, aid := 5, laddr := 0 } 0 .any .none :=
  ⟨rfl, fun _ _ h => (nomatch h), fun _ _ h => (nomatch h), fun _ _ _ _ h => (nomatch h), rfl⟩

/-- A state that holds a batten commit for tick 20,480. -/
def tBatten (armed : Bool) : State :=
  { tAt 20480 with pkg := { members := 1, hold := [{ chg := { kind := .batten, issuer := 0, tick := 20480, payload := .batten }, armed := armed }] } }

theorem test_witness_BattenSchedulesAndProbes :
    (let k := tTgt 0x40 0xFF 0 (0 :: List.replicate 8 0)
     (tRun k tLive).newCmd 0 0x40 = some k ∧ k.tgt = 0xFF ∧ battenBad (k.ps.drop 1) = none ∧ tLive.holdOf .batten = none) ∧
    ((tBatten false).holdOf .batten).isSome = true ∧ (battenBad [0x41]).isSome = true ∧
    (let k := tKcp 0x41 [1]
     (tRun k tLive).newCmd 0 0x41 = some k ∧ (k.par 0).toNat % 1024 ≠ 0) ∧
    (20480 % 1024 = 0 ∧ 20480 < (tAt 481).ptcNow + 20000 ∧ (tAt 480).ptcNow + 20000 ≤ 20480 ∧ (tAt 480).holdOf .batten = none ∧
      (tBatten false).holdOf .batten ≠ none) ∧
    (let h : GenHold := { chg := { kind := .batten, issuer := 0, tick := 20480, payload := .batten }, armed := true }
     h ∈ (tBatten true).pkg.hold ∧ h.chg.kind = .batten ∧ h.armed = true ∧ h.chg.tick ≤ (tBatten true).ptcNow) ∧
    (∀ h ∈ (tBatten false).pkg.hold, h.chg.kind = .batten → h.armed = true → (tBatten false).ptcNow < h.chg.tick) ∧
    (let k := tKcp 0x42 []
     (tRun k tLive).newCmd 0 0x42 = some k ∧ tLive.unquiesced = 0 ∧ tLive.busyInside = false ∧ (tCa { st := .active } tLive).unquiesced ≠ 0) ∧
    (let s : State := { tLive with mesh := { drained := true, drainLeft := [(3, 0)], drainCmds := [(0, 0), (1, 5)] } }
     (∀ x ∈ s.mesh.inBuf, x.2 = [] ∨ 5 ≤ x.1 % 7 ∨ (s.mesh.drained = true ∧ 4 ≤ x.1 / 7 % 9)) ∧ (∀ x ∈ s.mesh.drainLeft, x.2 = 0) ∧
     (∀ x ∈ s.mesh.eject, x.2 = [] ∨ 5 ≤ x.1 % 7)) ∧
    (let s : State := { tLive with mesh := { drained := true, drainLeft := [(3, 1)] } }
     ¬ (∀ x ∈ s.mesh.drainLeft, x.2 = 0)) ∧
    (let k := tKcp 0x43 [3, 0, 0]
     (tRun k tLive).newCmd 0 0x43 = some k ∧ fld (k.par 0) 0 2 = 3) ∧
    (let k := tKcp 0x43 [2, 0, 0]
     (tRun k tLive).newCmd 0 0x43 = some k ∧ fld (k.par 0) 0 2 ≠ 3) ∧
    (let p : Pkt := { tPkt .mgt 0 portHub (.hub (.trace 1 2 3)) with snode := 63 }
     let s : State := { tLive with mesh := { eject := [(bufKey 0 portHub .mgt, [p])] } }
     (s.arrived 0 portHub .mgt).find? (fun p => p.snode == 63) = some p ∧ p.msg = .hub (.trace 1 2 3) ∧ s.hub.fits .loft 3 = true ∧ ({ loft := { quota := 2 } } : HubSt).fits .loft 3 = false) := by decide +kernel
/-! ### Witnesses: home-cache, shingle and policy commands -/

/-- A running hub command. -/
def tGo (k : Kcp) (units : List Nat) : Kcp := { k with running := true, units := units }

theorem test_witness_BankCommands :
    (let k := tTgt 0x20 0 0 []
     let s := tRun k (tSl 0 { tOn with bank := .on } tLive)
     s.newCmd 0 0x20 = some k ∧ s.refusing (s.bankTargets k) (fun v => v.bank.serves) = some 0 ∧
     (tSl 0 tOn tLive).refusing (s.bankTargets k) (fun v => v.bank.serves) = none) ∧
    (let k := tTgt 0x21 63 0 []
     let s := tRun k (tSl 63 { tOn with bank := .ready, hcinit := true } tLive)
     s.newCmd 0 0x21 = some k ∧ k.tgt ≠ 0xFF ∧ (s.slice k.tgt).st = .on ∧ (s.slice k.tgt).bank = .ready ∧ (s.slice k.tgt).hcinit = true ∧
     (tLive.slice k.tgt).st ≠ .on) ∧
    (let k := tTgt 0x22 0 0 []
     let s := tRun k (tSl 0 tOn tLive)
     s.newCmd 0 0x22 = some k ∧ k.tgt ≠ 0xFF ∧ (s.slice k.tgt).st = .on ∧ (s.slice k.tgt).bank = .off ∧
     ((tSl 0 { tOn with bank := .on } tLive).slice k.tgt).bank = .on) ∧
    (let k := tGo (tTgt 0x20 0 0 []) [0]
     let s := tRun k (tSl 0 tOn tLive)
     s.cmd 0 = some k ∧ k.running = true ∧ k.opc = 0x20 ∧ 0 ∈ k.units ∧ 0 ∉ k.lost ∧ 1 ∉ k.units) ∧
    (let k := tGo (tTgt 0x22 0 0 []) [0]
     let s := tRun k (tSl 0 { tOn with bank := .draining } tLive)
     s.cmd 0 = some k ∧ k.running = true ∧ k.opc = 0x22 ∧ (∀ j ∈ k.units, j ∉ k.lost → (s.slice j).drains 0 = false) ∧
     Sorted ({ tOn with hcCtl := [(0, { lock := 1 }), (2047, { lock := 1 })] } : Slice).hcCtl = true) := by decide +kernel

/-- Slice 0 with a Clean line 0 in slot 31, which ways it locks, and its bank in a state. -/
def tLine (bank : BankSt) (lock : BitVec 16) : Slice :=
  { tOn with bank := bank, hcTag := [(31, { ltag := hcLtag 0, hst := 1, fmt := 0 })], hcCtl := [(0, { lock := lock })] }

theorem test_witness_RangeLockAndLineCommands_ranges :
    (let k := tKcp 0x23 [0, 1]
     let s := tRun k (tSl 0 { tOn with bank := .draining } tLive)
     s.newCmd 0 0x23 = some k ∧ s.powered.find? (fun j => decide ((s.slice j).bank = .draining)) = some 0) ∧
    (let k := tKcp 0x24 [0, 0]
     (tRun k tLive).newCmd 0 0x24 = some k ∧ tLive.powered.find? (fun j => decide ((tLive.slice j).bank = .draining)) = none ∧
     fld (k.par 1) 0 40 = 0 ∧ tLive.powered = []) ∧
    (let k := tKcp 0x23 [0x3FFFFFFFFFFF, 0xFFFFFFFFFF]
     (rangeOf k).1 < (rangeOf k).2) ∧
    (tOn.slotOf 0 = none ∧ (tLine .on 0x8000).slotOf 0 = some 31 ∧ (tLine .on 0x8000).locked (hcSet 0) (31 / 2) = true ∧
      (tLine .on 0).locked (hcSet 0) (31 / 2) = false ∧ (tKcp 0x23 [0, 1]).flag 0 = false ∧ ({ tKcp 0x23 [0, 1] with flags := 1 } : Kcp).flag 0 = true) ∧
    (let k := tGo (tKcp 0x24 [0, 1]) []
     let s := tRun k tLive
     s.cmd 0 = some k ∧ k.running = true ∧ k.opc = 0x24 ∧ k.revisit = [] ∧ s.rangeWrites 0 = false ∧ k.lost = [] ∧ k.tgt = 0xFF ∧
     ({ k with lost := [3] } : Kcp).lost = [3]) ∧
    (let k : Kcp := { tGo (tTgt 0x23 0 0 []) [0] with lost := [0] }
     k.lost = [0] ∧ k.tgt ≠ 0xFF ∧ k.units = [k.tgt]) ∧
    (let k : Kcp := tGo (tKcp 0x23 [0, 1]) [3]
     k ∈ (tRun k tLive).hub.inProg ∧ k.id = 0 ∧ k.running = true ∧ 3 ∈ k.units ∧ 3 ∉ k.lost ∧ ((tRun k tLive).slice 3).txns = []) := by
  decide +kernel

theorem test_witness_RangeLockAndLineCommands_lines :
    (let k := tKcp 0x25 [0x0000_0000_0000_0000]
     (tRun k tLive).newCmd 0 0x25 = some k ∧ fld (k.par 0) 0 16 = 0) ∧
    (let k := tTgt 0x26 0 0 [0x07FF_0000_8000]
     let s := tRun k (tSl 0 { tOn with bank := .ready } tLive)
     s.newCmd 0 0x26 = some k ∧ fld (k.par 0) 0 16 ≠ 0 ∧
     (∀ j ∈ s.bankTargets k, (s.slice j).st = .on ∧ ((s.slice j).bank = .on ∨ (s.slice j).bank = .ready))) ∧
    (let k := tGo (tTgt 0x25 0 0 [0x07FF_0000_8000]) [0]
     let s := tRun k (tSl 0 tOn tLive)
     s.cmd 0 = some k ∧ k.running = true ∧ k.opc = 0x25 ∧ k.units = [k.tgt] ∧ k.lost = [] ∧ fld (k.par 0) 16 11 ≤ 2047 ∧ 2047 ≤ fld (k.par 0) 32 11) ∧
    (let k := tKcp 0x27 [0xFFFF]
     let s := tRun k (tPort {})
     s.newCmd 0 0x27 = some k ∧ (homeOf s.map.active ((k.par 0).extractLsb' 0 46)).map (fun x => x.1) = some s.self ∧
     homeOf tLive.map.active ((k.par 0).extractLsb' 0 46) = none) ∧
    (let k := tKcp 0x27 [0]
     let s : State := { tRun k tLive with map := { active := [(0, (0x8000000000000000#64, 0x100))] } }
     (homeOf s.map.active ((k.par 0).extractLsb' 0 46)).map (fun x => x.1) = some 1 ∧ 1 ≠ s.self ∧ k.remote = none) ∧
    (let k := tKcp 0x28 [0]
     let s := tRun k (tZero (tSl 0 tOn (tPort {})))
     s.newCmd 0 0x28 = some k ∧ (homeOf s.map.active ((k.par 0).extractLsb' 0 46)).map (fun x => x.1) = some s.self ∧
     s.fencedAt (shingleOf 0) = false ∧ s.works (s.homeSlice (shingleOf 0)) = true ∧ s.homeUse (s.homeSlice (shingleOf 0)) < 16) ∧
    (let s : State := { tLive with map := { g0 := [(shingleOf 0, hmEntry 0 hmFenced)] } }
     s.fencedAt (shingleOf 0) = true) ∧
    (let s := tSl 0 { tOn with wtScan := true } tLive
     (s.slice 0).wtScan = true ∧ s.works 0 = true) := by decide +kernel

/-- A state of GH16 with one shingle move, of shingle 4095 from slice 0 to slice 1. -/
def tMove (m : MoveStep) (failed : Bool) : State :=
  let mv : Move := { sh := 4095, old := 0, new := 1, step := m, failed := failed }
  { tPair tOn tOn (tAt 18600) with gh := .gh16, map := { base := [0], moves := [mv] } }

theorem test_witness_ShingleMoves_commands :
    (let k := tKcp 0x30 [4095]
     (tRun k tLive).newCmd 0 0x30 = some k ∧ tLive.moveOf 4095 = none ∧ ((tMove .drain false).moveOf 4095).isSome = true) ∧
    (let k := tKcp 0x31 [0x10FFF]
     let s := tRun k (tPair tOn tOn { tLive with map := { base := [0] } })
     s.newCmd 0 0x31 = some k ∧ s.homeSlice 4095 ≠ 1 ∧ (s.slice 1).st = .on ∧ s.shState 4095 = hmNormal ∧ s.map.moves.length < 8 ∧
     s.map.moves.any (fun m => m.old == s.homeSlice 4095) = false ∧ s.moveOf 4095 = none ∧ (s.slice (s.homeSlice 4095)).dirtyOf 4095 = [] ∧
     (tLive.slice 1).st ≠ .on ∧ 8 ≤ (List.replicate 8 ({ sh := 0, old := 0, new := 1 } : Move)).length ∧
     (tMove .drain false).map.moves.any (fun m => m.old == s.homeSlice 4095) = true) ∧
    (let m : Move := { sh := 4095, old := 0, new := 1, step := .prepare }
     (tMove .prepare false).moveOf 4095 = some m ∧ m.step = .prepare ∧ m.begun = false ∧
     (let b : Move := { m with begun := true }
      let s : State := { tMove .prepare false with map := { base := [0], moves := [b] } }
      s.moveOf 4095 = some b ∧ b.begun = true ∧ s.writesOf b.old 4095 = false ∧ b.failed = false ∧ ({ b with failed := true } : Move).failed = true) ∧
     (tMove .fenceWait true).moveOf 4095 = some { m with step := .fenceWait, failed := true } ∧
     (let v : Slice := { tOn with txns := (List.range 16).map (fun n => { e := n, kind := .flushLine }) }
      16 ≤ (tSl 0 v tLive).homeUse m.old)) ∧
    (let c : MemCmd := { write := true, laddr := 0, slice := 0, owner := .prep (shingleOf 0) }
     (tMp { held := [c] } tLive).writesOf 0 (shingleOf 0) = true) ∧
    (let s := tArr .dat 0 portSlice (.marker 128) (tMove .drain false)
     (s.arrived 0 portSlice .dat).head? = some (tPkt .dat 0 portSlice (.marker 128)) ∧ s.works 0 = true ∧
     s.map.moves = { sh := 4095, old := 0, new := 1, step := .drain } :: [] ∧ tLive.arrived 0 portSlice .dat = [] ∧
     tLive.map.moves.any (fun m => m.old == 0 && decide (m.step = .drain)) = false) := by decide +kernel

theorem test_witness_ShingleMoves_course :
    (let s0 := tMove .drain false
     let m : Move := { sh := 4095, old := 0, new := 1, step := .drain, marks := s0.ingresses.flatMap (fun i => fenceVcs.map (fun v => (i, v))) }
     let s : State := { s0 with map := { s0.map with moves := [m] } }
     s.moveOf 4095 = some m ∧ m.step = .drain ∧ s.allMarks m = true ∧ (s.slice m.old).openOnShingle 4095 = false ∧ s.works m.old = true ∧
     s0.allMarks { m with marks := [] } = false) ∧
    (let e : SfEnt := entS {} 0 5
     let m : Move := { sh := 4095, old := 0, new := 1, step := .copy }
     let full : Slice := { tOn with copyIn := [(4095, 0, e.content)], txns := (List.range 16).map (fun n => { e := n, phase := .running, way := some n }) }
     let s := { tMove .copy false with slices := [(0, tOn), (1, { tOn with copyIn := [(4095, 0, e.content)] })] }
     (s.slice 1).copyIn = (4095, 0, e.content) :: [] ∧ s.works 1 = true ∧
     s.map.moves.find? (fun m => m.sh == 4095 && m.new == 1 && decide (m.step = .copy)) = some m ∧
     (installEnt 1 (0 / 16) (entOf e.content) s).isSome = true ∧
     (installEnt 1 (0 / 16) (entOf e.content) { s with slices := [(0, tOn), (1, full)] }).isNone = true ∧
     tLive.map.moves.find? (fun m => m.sh == 4095 && m.new == 1 && decide (m.step = .copy)) = none ∧ (s.slice 1).salv = none ∧
     ({ tOn with sf := [(15, e)] } : Slice).sfWay (sfLine 0 e.tag) = some 15) ∧
    (let m : Move := { sh := 4095, old := 0, new := 1, step := .copy }
     let s := tMove .copy false
     s.moveOf 4095 = some m ∧ m.failed = false ∧ m.copied.length = m.toCopy ∧ s.writesOf m.old 4095 = false ∧
     (s.slice m.old).openOnShingle 4095 = false ∧ m.tf + 18600 ≤ s.now ∧ (tAt 18599).now < m.tf + 18600 ∧
     (tMove .copy true).moveOf 4095 = some { m with failed := true }) ∧
    (let f : Flip := { chg := [(4095, hmEntry 1 hmNormal)], tick := 7 }
     let s : State := { tAt 7 with map := { flip := some f } }
     s.map.flip = some f ∧ f.flipped = false ∧ f.tick ≤ s.now ∧ s.map.moves = [] ∧ s.slices = [] ∧ (tAt 6).now < f.tick ∧
     f.chg = [(4095, hmEntry 1 hmNormal)] ∧ ({ f with flipped := true } : Flip).flipped = true) := by decide +kernel

theorem test_witness_EpochsAndDecisions :
    (let s : State := { tAt 100000000 with pol := {} }
     s.pol.epochNext ≤ s.ptcNow ∧ s.pol.startFrom = none ∧ s.pol.recovery = false ∧ s.rst.test = false ∧ s.pol.nru = false ∧
     s.pol.epochNew = none) ∧
    (let s : State := { tAt 100000000 with pol := { epochNew := some 50 } }
     s.pol.epochNext ≤ s.ptcNow ∧ s.pol.epochNew = some 50 ∧ ∃ t : State, exec (.epochBoundary false) s = .next t) ∧
    ((tAt 99999999).ptcNow < (tAt 99999999).pol.epochNext ∧ tLive.pol.snapDue = false ∧ ({ snapDue := true } : PolSt).snapDue = true ∧
      tLive.calMaster = tLive.self ∧ ({ tLive with inst := 1, pkg := { members := 3 } } : State).calMaster ≠ 1) ∧
    (({ thrPin := true } : Slice).thrPin = true ∧ ({} : Slice).thrMin ≤ ({} : Slice).thr ∧ ({} : Slice).thr ≤ ({} : Slice).thrMax) ∧
    ((63 : Nat) < 64 ∧ (64 : Nat) ≤ 64 ∧ 64 ≤ 8 * 8 ∧ 100 * 69 < 70 * 100 ∧ 16 * 3 < 64 ∧ 0 < 100 ∧ 85 * 100 ≤ 100 * 85) ∧
    ((0 : Nat) ≤ 2 ∧ 1024 ≤ 1024 ∧ 32 * 31 < 1024 ∧ 1024 ≤ 4 * 256) := by
  refine ⟨by decide +kernel, ⟨by decide +kernel, by decide +kernel, _, by simp only [exec, execEpochBoundary]; rfl⟩, by decide +kernel, by decide +kernel, by decide, by decide⟩

theorem test_witness_RegroupsRun :
    (tRg .computing tLive).pol.rg = .computing ∧ tLive.gains 32 16 = true ∧ tLive.gains 32 17 = false ∧
    (tRg .computing (tAt 40000000)).pol.rgFrom + 40000000 ≤ (tAt 40000000).ptcNow ∧ (tAt 39999999).ptcNow < 0 + 40000000 ∧
    tLive.pol.rg ≠ .computing ∧ (tRg .written tLive).pol.rg = .written ∧ tLive.dueFlip = none ∧
    (let s : State := { tAt 10000 with pkg := { hold := [{ chg := { kind := .bundle, issuer := 0, tick := 10000, payload := .bundle [] }, armed := true }] } }
     s.dueFlip = some []) ∧
    (let s := tSl 0 { tOn with genSweep := true } tLive
     (s.slice 0).genSweep = true ∧ s.works 0 = true ∧ 0 ∈ s.slicesUp ∧ s.pol.rgForced = false ∧ (4095 : Nat) < 4096) ∧ (tLive.slice 0).genSweep = false ∧
    (let e : SfEnt := { st := stS, mode := coarse, gen := true, payload := 1 }
     let s := tSl 0 { tOn with sf := [(65535, e)] } tLive
     ((s.slice 0).sfAt 4095 15).old s.pol = true ∧ (s.slice 0).sfPinned 4095 15 = false) ∧
    (let t : State := { tLive with pkg := { members := 3 }, pol := { rg := .sweeping, rgAwait := 1 } }
     let u : State := { t with pol := { t.pol with rgAwait := 3 } }
     let v : State := { t with pol := { t.pol with rgAwait := 2 } }
     t.oldGone = true ∧ t.calMaster = t.self ∧ t.nextFree = some t.self ∧ bit t.pol.rgAwait t.self = true ∧
     (t.pol.rgAwait &&& ~~~(1#8 <<< 0)) &&& (t.pkg.members ||| (1#8 <<< t.self)) = 0 ∧
     (u.pol.rgAwait &&& ~~~(1#8 <<< 0)) &&& (u.pkg.members ||| (1#8 <<< u.self)) ≠ 0 ∧ v.nextFree = some 1 ∧ 1 ≠ v.self) ∧
    (let e : SfEnt := { st := stS, mode := coarse, gen := true, payload := 1 }
     let s : State := { tSl 0 { tOn with sf := [(65535, e)] } tLive with pol := { rg := .sweeping, rgAwait := 1 } }
     s.oldGone = false ∧ bit s.pol.rgAwait s.self = true ∧ (∀ i, i < 8 → i ≠ s.self → bit s.pol.rgAwait i = false)) ∧
    (let s : State := { tRg .sweeping tLive with inst := 1, pkg := { members := 3 } }
     s.pol.rg = .sweeping ∧ s.oldGone = true ∧ s.calMaster ≠ s.self) ∧
    tLive.forcedMap [] = false ∧
    (let b : Blk := { words := [], issuer := 0, phase := .regroup }
     let s : State := { tLive with prot := { trans := true, blks := [b], newPart := [(2047, 1)] } }
     s.activeBlk = some b ∧ b.issuer = s.inst ∧ b.phase = .regroup ∧ s.calMaster = s.self ∧ s.prot.trans = true ∧ s.movesAids = true ∧
     s.pol.rg = .idle ∧ s.pol.otherFree = true) := by decide +kernel

set_option maxRecDepth 100000 in
theorem test_witness_RegroupsRun_pure :
    tLive.mapPure [] = true ∧ ({ tLive with prot := { part := [(2047, 1)] } } : State).mapPure [] = false := by decide +kernel

theorem test_witness_PolicyCommands :
    (let k := tKcp 0x3B []
     (tRun k tLive).newCmd 0 0x3B = some k ∧ tLive.calMaster = tLive.self ∧ (tRg .named tLive).pol.rg = .named ∧
     (tRg .sweeping tLive).pol.rg = .sweeping ∧ tLive.pol.rg ≠ .named ∧ tLive.pol.rg ≠ .sweeping ∧ k.remote = none ∧
     ({ tLive with inst := 1, pkg := { members := 3 } } : State).calMaster ≠ 1) ∧
    (let k := tKcp 0x38 [0x000A_0000_0002]
     (tRun k tLive).newCmd 0 0x38 = some k ∧ bit (k.par 0) 1 = true ∧ fld (k.par 0) 16 11 = 0 ∧ fld (k.par 0) 32 12 = 10) ∧
    (let k := tTgt 0x39 0 0 [0x0002_0003_0000_0003]
     (tRun k tLive).newCmd 0 0x39 = some k ∧ fld (k.par 0) 0 8 = 3 ∧ fld (k.par 0) 48 16 < fld (k.par 0) 32 16) ∧
    (let k := tTgt 0x39 0 0 [0x0005_0005_0005_0103]
     (tRun k tLive).newCmd 0 0x39 = some k ∧ fld (k.par 0) 0 8 = 3 ∧ fld (k.par 0) 32 16 ≤ fld (k.par 0) 48 16 ∧ k.tgt ≠ 0xFF ∧
     bit (k.par 0) 8 = true ∧ fld (k.par 0) 16 16 = (tLive.slice 0).thr) ∧
    ((2 : Nat) ≤ 3 ∧ (3 : Nat) ≤ 5 ∧ (2 : Nat) ≤ 5) ∧
    (let k := tKcp 0x39 [0x0064_0001]
     (tRun k tLive).newCmd 0 0x39 = some k ∧ fld (k.par 0) 0 8 = 1 ∧ tLive.calMaster = tLive.self ∧ tLive.holdOf .epoch = none ∧
     tLive.pol.epochNew = none) ∧
    (let k := tKcp 0x3A [1]
     (tRun k tLive).newCmd 0 0x3A = some k ∧ fld (k.par 0) 0 8 ≠ 2) ∧
    (let k := tKcp 0x3A [2]
     (tRun k tLive).newCmd 0 0x3A = some k ∧ fld (k.par 0) 0 8 = 2 ∧ k.remote = none) := by decide +kernel
/-! ### Witnesses: package-wide changes, links and time -/

theorem test_witness_GenerationProtocol :
    (let c := tChange 1 5000
     let s := tLink { st := .joined, peer := 1, peerV := true } (tPkg [] [] 4999)
     c.issuer ≠ s.inst ∧ s.pendingHold c.kind = none ∧ s.prepOk c = true ∧ s.peerPort c.issuer.toNat ≠ none ∧ (tPkg [] [] 5000).prepOk c = false) ∧
    (let h : GenHold := { chg := tChange 1 5000, armed := true }
     let s := tPkg [h] [] 0
     s.pendingHold .epoch = some h ∧ (tChange 2 5000).issuer ≠ s.inst ∧ h.chg.issuer.toNat < (tChange 2 5000).issuer.toNat) ∧
    (let h : GenHold := { chg := tChange 2 5000 }
     let s := tPkg [h] [] 0
     s.pendingHold .epoch = some h ∧ h.chg.issuer ≠ s.inst ∧ (tChange 1 6000).issuer.toNat ≤ h.chg.issuer.toNat ∧ s.prepOk (tChange 1 6000) = true) ∧
    (let x : GenIss := { chg := tChange 0 5000, deadline := 1000 }
     let s := tPkg [] [x] 1000
     s.issueOf .epoch = some x ∧ (s.changePeers x.chg).all (fun i => bit (x.acks ||| (1#8 <<< (1#3).toNat)) i) = true ∧ s.ptcNow ≤ x.deadline ∧
     x.deadline ≤ s.ptcNow ∧ (tPkg [] [x] 999).ptcNow < x.deadline ∧
     (({ s with pkg := { s.pkg with members := 7 } } : State).changePeers x.chg).all (fun i => bit (x.acks ||| (1#8 <<< (1#3).toNat)) i) = false) ∧
    (tLive.issueOf .epoch = none ∧ tLive.holdFrom .epoch 1 = none ∧ tLive.pendingHold .epoch = none) ∧
    (let h : GenHold := { chg := tChange 1 5000 }
     let a : GenHold := { h with armed := true }
     let s := tPkg [h] [] 4000
     s.holdFrom .epoch 1 = some h ∧ (1 : BitVec 3) ≠ s.inst ∧ h.armed = false ∧ (tPkg [a] [] 4000).holdFrom .epoch 1 = some a ∧
     s.pendingHold .epoch = some h ∧ h.chg.issuer ≠ s.inst ∧ h.chg.tick ≤ s.ptcNow + 1000 ∧ (tPkg [h] [] 3999).ptcNow + 1000 < h.chg.tick ∧
     (let w := tPkg [a] [] 5000
      w.pkg.hold.find? (fun h => decide (h.chg.kind = .epoch) && (h.armed && decide (h.chg.tick ≤ w.ptcNow))) = some a) ∧
     (∀ x ∈ s.pkg.hold, x.chg.kind = .epoch → x.armed = false ∨ s.ptcNow < x.chg.tick)) ∧
    (let s : State := { tLive with pkg := { members := 3, timeSrc := 1 } }
     s.pkg.timeSrc ≠ s.inst ∧ s.keepsLink s.pkg.timeSrc = false ∧ s.remaining.head? = some s.self ∧ (0 : BitVec 3).toNat = s.nextSource ∧
     s.holdOf .member = none ∧
     (tLink { st := .joined, peer := 1, peerV := true } s).keepsLink s.pkg.timeSrc = true) := by decide +kernel

theorem flit_crc_low (c : BitVec 32) (x : BitVec 992) : (c ++ x).extractLsb' 0 992 = x := by
  rw [BitVec.extractLsb'_append_eq_ite]; simp

theorem flit_crc_high (c : BitVec 32) (x : BitVec 992) : (c ++ x).extractLsb' 992 32 = c := by
  rw [BitVec.extractLsb'_append_eq_ite]; simp

theorem flit_type_of (c : BitVec 32) (x : BitVec 992) : (decodeFlit (c ++ x)).ftype = x.extractLsb' 0 2 := by
  simp only [decodeFlit]
  rw [BitVec.extractLsb'_append_eq_ite]; simp

theorem flit_seq_of (c : BitVec 32) (x : BitVec 992) : (decodeFlit (c ++ x)).seq = x.extractLsb' 4 10 := by
  simp only [decodeFlit]
  rw [BitVec.extractLsb'_append_eq_ite]; simp

/-- A flit with its CRC inverted has a bad one; a flit of the model has a good one, whatever its type. -/
theorem test_witness_FlitsAndReplays_crc :
    (LinkSt.off.up = false ∧ LinkSt.joined.up = true) ∧
    (let b : BitVec 1024 := ~~~(flitCrc (tFlit 1).body) ++ (tFlit 1).body
     flitCrc (b.extractLsb' 0 992) ≠ b.extractLsb' 992 32) ∧
    (∀ n ∈ [0, 1, 3], flitCrc ((tFlit n).bits.extractLsb' 0 992) = (tFlit n).bits.extractLsb' 992 32 ∧
      (decodeFlit (tFlit n).bits).ftype = n ∧ (decodeFlit (tFlit n).bits).seq = 0) := by
  refine ⟨by decide, ?_, ?_⟩
  · simp only [flit_crc_low, flit_crc_high]
    intro h
    have h0 := congrArg (fun v : BitVec 32 => v.getLsbD 0) h
    simp at h0
  · have h : ∀ n ∈ [(0 : BitVec 2), 1, 3], (tFlit n).body.extractLsb' 0 2 = n ∧ (tFlit n).body.extractLsb' 4 10 = 0 := by decide +kernel
    intro n hn
    simp only [Flit.bits, flit_crc_low, flit_crc_high, flit_type_of, flit_seq_of]
    exact ⟨trivial, h n hn⟩

theorem test_witness_FlitsAndReplays :
    (let x : BitVec 128 := pack 128 [(0, 1), (4, 1023)]
     ((tLink { ctlIn := [x] } tLive).link 0).ctlIn = x :: [] ∧ fld x 0 4 = 1) ∧
    (let s := tLink { st := .joined, replay := [(0, 0, 0)] } (tAt 2000)
     (s.link 0).replay = (0, 0, 0) :: [] ∧ (s.link 0).st.up = true ∧ (s.link 0).replayFrom = none ∧ 0 + 2000 ≤ s.now ∧ (tAt 1999).now < 0 + 2000) ∧
    (let s := tLink { replayedIn := some 0 } tLive
     (s.link 0).replayedIn = some s.pol.lastB) ∧
    (({ nakDue := true } : Ridge).replayFrom = none ∧ ({ nakDue := true } : Ridge).nakDue = true) ∧
    (({ st := .linked } : Ridge).nakDue = false ∧ ({ st := .linked } : Ridge).ctlOut = [] ∧
      LinkSt.duplicate ≠ .joined ∧ LinkSt.duplicate ≠ .linked ∧ 256 ≤ (List.replicate 256 ((0 : BitVec 10), (0 : BitVec 1024), 0)).length) ∧
    (let l : Ridge := { st := .linked, txMgt := some { vc := .mgt, slots := [0] } }
     l.replayFrom = none ∧ l.nakDue = false ∧ l.ctlOut = [] ∧ l.replay.length < 256 ∧ l.mgtSlot ≠ none) ∧
    (let l : Ridge := { st := .joined, txCur := some { vc := .req, slots := [0] } }
     l.replayFrom = none ∧ l.nakDue = false ∧ l.ctlOut = [] ∧ l.st = .joined ∧ l.replay.length < 256 ∧ l.txCur ≠ none) := by decide +kernel

theorem test_witness_LinksTrainAndFail :
    (({ st := .training } : Ridge).st = .training ∧ (5 : BitVec 3).toNat ≤ ({} : Ridge).maxRate.toNat ∧ ({} : Ridge).st ≠ .training) ∧
    (let s := tLink { st := .training } (tAt 1000000)
     (s.link 0).st = .training ∧ (s.link 0).since + 1000000 ≤ s.now) ∧
    (LinkSt.duplicate.up = true ∧ ({ stuckN := 3 } : Ridge).stuckN < 4) ∧
    (let s := tLink { st := .retraining } (tAt 200000)
     (s.link 0).st = .retraining ∧ (s.link 0).was = .joined ∧ [1, 0, 0, 0, 0, 0] ≠ s.genCounts ∧ s.genCounts = s.genCounts ∧
     (s.link 0).since + 200000 ≤ s.now ∧ (tAt 199999).now < (s.link 0).since + 200000) ∧
    (let s := tLink { failDue := true } tLive
     (s.link 0).failDue = true ∧ (s.link 0).proxies = []) ∧
    (let s := tSl 0 tOn (tLink { scansDue := [0], duePeer := 1 } (tPort {}))
     (s.link 0).scansDue.contains 0 = true ∧ (s.link 0).failDue = false ∧ s.works 0 = true ∧
     ((cleanPass (s.onInstance (s.link 0).duePeer.toNat) 0 s).slice 0).cleanOf (s.onInstance (s.link 0).duePeer.toNat) = true) := by
  decide +kernel

theorem test_witness_RidgeCommandsAndJoins :
    (let k := tTgt 0x48 0 0 []
     (tRun k tLive).newCmd 0 0x48 = some k) ∧
    (let k := tTgt 0x49 0 0 [0]
     (tRun k tLive).newCmd 0 0x49 = some k ∧ fld (k.par 0) 0 2 = 0 ∧ (tLive.link k.tgt).st = .off ∧ tLive.rst.role ≠ roleFree ∧
     ((tLink { st := .linked } tLive).link k.tgt).st = .linked) ∧
    (let k := tTgt 0x49 0 0 [1]
     let s := tLink { st := .joined } (tRun k tLive)
     s.newCmd 0 0x49 = some k ∧ fld (k.par 0) 0 2 = 1 ∧ s.canQuiesce k.tgt = true ∧ tLive.canQuiesce k.tgt = false) ∧
    (let k := tTgt 0x49 0 0 [2]
     let s := tLink { st := .linked, peerV := true } (tRun k { tLive with prot := { admitMask := 0 } })
     s.newCmd 0 0x49 = some k ∧ fld (k.par 0) 0 2 = 2 ∧ (s.link k.tgt).st = .linked ∧ (s.link k.tgt).peerV = true ∧
     s.admitsLink k.tgt (s.link k.tgt).peer = false ∧
     (let s := tLink { st := .linked } (tRun k tLive)
      (s.link k.tgt).peerV = false ∧ (s.link k.tgt).joinCmd = none)) ∧
    (let k := tTgt 0x49 0 0 [3]
     (tRun k tLive).newCmd 0 0x49 = some k ∧ fld (k.par 0) 0 2 = 3 ∧ (tLive.link k.tgt).st ≠ .joined ∧ (tLive.link k.tgt).st ≠ .retraining ∧
     ((tLink { st := .joined } tLive).link k.tgt).st = .joined) ∧
    (let s := tLink { st := .linked, peer := 1, peerV := true, joinSent := true } { tLive with rst := { inReset := false, fwRun := true } }
     (s.link 0).st = .linked ∧ (tJoin 1 0x31).inst = (s.link 0).peer ∧ (s.link 0).peerV = true ∧ (s.link 0).joinSent = true ∧ s.rst.fwRun = true ∧
     s.prot.trans = false ∧ s.err.lost = false ∧ s.refusal (tJoin 1 0x31) = 0) ∧
    ((tLive.link 0).st ≠ .linked ∧ (tLive.link 0).st ≠ .joined ∧ (tJoin 1 0x30).hwver ≠ 0x31) ∧
    (let s := tLink { st := .joined, peer := 1, peerV := true } tLive
     (s.link 0).st = .joined ∧ (tJoin 1 0x31).inst = (s.link 0).peer) ∧
    (let s := tLink { st := .linked } tLive
     (s.link 0).st = .linked ∧ (s.link 0).peerV = false) ∧
    (let s := tLink { st := .joined } tLive
     (tJoin 1 0x31).hwver = 0x31 ∧ s.hasJoined = true ∧ (tJoin 1 0x31).newcomer = false ∧ (tJoin 1 0x31).members &&& s.pkg.members = 0) := by
  decide +kernel

/-- A frame of PTC_SYNC with the value 5 and a CRC that is off by `x`. -/
def tFrame (x : BitVec 8) : BitVec 74 :=
  pack 74 [(0, 1), (1, (crc8 5 ^^^ x).toNat), (9, 5)]

theorem test_witness_TimeRecordsAndCorrections :
    (let s := tLink { st := .linked } tLive
     (s.link 0).st.up = true ∧ (s.link 0).timeNext ≤ s.now ∧ tLive.now < ({ timeNext := 1 } : Ridge).timeNext) ∧
    (let x : BitVec 128 := pack 128 [(0, 3), (68, 1)]
     let s := tLink { st := .joined, ctlIn := [x] } tLive
     (s.link 0).ctlIn = x :: [] ∧ fld x 0 4 = 3 ∧ (s.link 0).st.up = true ∧ (s.link 0).st = .joined ∧ x.extractLsb' 68 3 ≠ s.inst ∧
     x.extractLsb' 68 3 = ({ s with inst := 1 } : State).inst) ∧
    (let s := tLink { st := .linked, noneRun := 7 } (tAt 2048)
     (s.link 0).st.up = true ∧ s.ptcNow % 2048 = 0 ∧ (s.link 0).win ≠ some (BitVec.ofNat 16 (s.ptcNow / 2048 - 1)) ∧ (s.link 0).noneRun < 8 ∧
     (tAt 2047).ptcNow % 2048 ≠ 0) ∧
    (let x : BitVec 128 := pack 128 [(0, 2), (4, 16), (44, 3)]
     let s := tLink { st := .linked, mIn := some 8, win := some 3, ctlIn := [x] } tLive
     (s.link 0).ctlIn = x :: [] ∧ fld x 0 4 = 2 ∧ (s.link 0).st.up = true ∧ (s.link 0).mIn = some 8 ∧ decodeEst (x.extractLsb' 4 24) = some 16 ∧
     some (x.extractLsb' 44 16) = (s.link 0).win ∧ ({} : Ridge).mIn = none) ∧
    (let s : State := { tLive with time := { ptc := 1000, corrN := 1 } }
     s.ptcNow % 1000 = 0 ∧ 0 < s.time.corrN ∧ s.time.corrAt ≠ some s.time.ptc ∧ s.time.corrUp = false ∧ tLive.time.corrN = 0 ∧
     ({ corrUp := true } : TimeSt).corrUp = true) ∧
    (let s : State := { tLive with rst := { inReset := false, role := roleMaster } }
     s.rst.inReset = false ∧ s.rst.role = roleMaster ∧ (tFrame 1).getLsbD 73 = false ∧ (tFrame 1).getLsbD 0 = true ∧ tLive.rst.role ≠ roleMaster ∧
     crc8 ((tFrame 1).extractLsb' 9 64) ≠ (tFrame 1).extractLsb' 1 8 ∧ crc8 ((tFrame 0).extractLsb' 9 64) = (tFrame 0).extractLsb' 1 8 ∧
     s.time.syncSeen = false ∧ s.hasJoined = false ∧ ({ s.time with syncSeen := true } : TimeSt).syncSeen = true ∧
     (tFrame 0).extractLsb' 9 64 ≠ s.time.ptc) ∧
    (tRun (tKcp 0x4A []) tLive).newCmd 0 0x4A = some (tKcp 0x4A []) := by decide +kernel
/-! ### Witnesses: dual-party control -/

/-- The change block of one record, RTYPE 4, and the staging buffer that holds it closed. -/
def tBlock : List W64 := [0x0101, 0x0104, 0]
def tStage : Stage := { words := [(0, 0x0101), (1, 0x0104)], len := 3, last := true }

theorem test_witness_ProposalsAreDecided_stage :
    (let k : Kcp := { tKcp 0x50 (0x3000 :: tBlock) with flags := 1 }
     let w := k.par 0
     let n := (tLive.prot.stage k.win).write (fld w 0 12) (bit w 12) (bit w 13) (k.ps.drop 1)
     (tRun k tLive).newCmd 0 0x50 = some k ∧ k.flag 0 = true ∧ tLive.prot.pend = none ∧ n.last = true ∧ blockBad n.block = none ∧
     blockBad [0x0102, 0x0104, 0] = some 0 ∧ (tLive.prot.stage k.win).last = false) ∧
    (let p : Pend := { win := .mgmtp, digest := 0, deadline := 100 }
     let k : Kcp := { tKcp 0x50 [] with flags := 1 }
     let s : State := { tRun k tLive with prot := { pend := some p } }
     let late : State := { s with time := { ptc := 100 } }
     s.newCmd 0 0x50 = some k ∧ s.prot.pend = some p ∧ p.win = k.win ∧ s.now < p.deadline ∧ p.win ≠ .hostp ∧
     late.newCmd 0 0x50 = some k ∧ late.prot.pend = some p ∧ p.deadline ≤ late.now ∧
     (((expire late).prot.stage k.win).write (fld (k.par 0) 0 12) (bit (k.par 0) 12) (bit (k.par 0) 13) (k.ps.drop 1)).last = false) ∧
    (let k := tKcp 0x52 []
     (tRun k tLive).newCmd 0 0x52 = some k ∧ tLive.prot.pend = none ∧ (tRun (tKcp 0x51 []) tLive).newCmd 0 0x51 = some (tKcp 0x51 [])) := by
  decide +kernel

/-- A proposal of MGMTP with a nonce and a digest. -/
def tProp (nonce : W64) (d : BitVec 384) : Kcp := tKcp 0x50 (nonce :: digestSplit d)

theorem digest_join_split (d : BitVec 384) : digestJoin (digestSplit d) = d := by
  show (d.extractLsb' 320 64 ++ d.extractLsb' 256 64 ++ d.extractLsb' 192 64 ++ d.extractLsb' 128 64 ++ d.extractLsb' 64 64 ++ d.extractLsb' 0 64) = d
  have a : ∀ n < 6, ∀ (i : Nat), i < 64 → (d.extractLsb' (64 * n) 64).getLsbD i = d.getLsbD (64 * n + i) := by
    intro n _ i hi
    rw [BitVec.getLsbD_extractLsb', decide_eq_true hi, Bool.true_and]
  apply BitVec.eq_of_getLsbD_eq
  intro i hi
  rw [BitVec.getLsbD_append, BitVec.getLsbD_append, BitVec.getLsbD_append, BitVec.getLsbD_append, BitVec.getLsbD_append]
  split
  · rw [a 0 (by omega) i (by omega)]; exact congrArg d.getLsbD (by omega)
  · split
    · rw [a 1 (by omega) _ (by omega)]; exact congrArg d.getLsbD (by omega)
    · split
      · rw [a 2 (by omega) _ (by omega)]; exact congrArg d.getLsbD (by omega)
      · split
        · rw [a 3 (by omega) _ (by omega)]; exact congrArg d.getLsbD (by omega)
        · split
          · rw [a 4 (by omega) _ (by omega)]; exact congrArg d.getLsbD (by omega)
          · rw [a 5 (by omega) _ (by omega)]; exact congrArg d.getLsbD (by omega)

theorem digest_of_proposal (n : W64) (d : BitVec 384) : digestJoin ((tProp n d).ps.drop 1) = d := digest_join_split d

theorem not_self {w : Nat} (x : BitVec (w + 1)) : ~~~x ≠ x := by
  intro h
  have h0 := congrArg (fun v : BitVec (w + 1) => v.getLsbD 0) h
  simp at h0

/-- MGMTP proposes the block of a closed buffer with a nonce and a digest; the nonce in force is 7. -/
def tProposal (n : W64) (d : BitVec 384) (pend : Option Pend) (old : Option W64) : State :=
  { tRun (tProp n d) tLive with prot := { nonce := 7, expNonce := old, stM := tStage, pend := pend } }

/-- The proposals of a closed buffer: in time, with a stale or an expired nonce, with a wrong digest, and the second one. -/
theorem test_witness_ProposalsAreDecided :
    (let d := digestWords tStage.block
     let s := tProposal 7 d none none
     s.newCmd 0 0x50 = some (tProp 7 d) ∧ (tProp 7 d).flag 0 = false ∧ s.prot.pend = none ∧ (s.prot.stage .mgmtp).last = true ∧
     s.prot.expNonce ≠ some ((tProp 7 d).par 0) ∧ (tProp 7 d).par 0 = s.prot.nonce ∧
     digestJoin ((tProp 7 d).ps.drop 1) = digestWords (s.prot.stage .mgmtp).block) ∧
    ((tProposal 8 0 none none).newCmd 0 0x50 = some (tProp 8 0) ∧ (tProp 8 0).par 0 ≠ (tProposal 8 0 none none).prot.nonce ∧
      (tProposal 8 0 none (some 8)).prot.expNonce = some ((tProp 8 0).par 0)) ∧
    (let d := ~~~digestWords tStage.block
     digestJoin ((tProp 7 d).ps.drop 1) ≠ digestWords ((tProposal 7 d none none).prot.stage .mgmtp).block) ∧
    (let d := digestWords tStage.block
     let p : Pend := { win := .hostp, digest := d, deadline := 100 }
     let s := tProposal 7 d (some p) none
     s.prot.pend = some p ∧ s.now < p.deadline ∧ p.win ≠ (tProp 7 d).win ∧ p.digest = digestJoin ((tProp 7 d).ps.drop 1) ∧
     ({ p with digest := ~~~d } : Pend).digest ≠ digestJoin ((tProp 7 d).ps.drop 1)) := by
  refine ⟨⟨rfl, rfl, rfl, rfl, nofun, rfl, digest_of_proposal _ _⟩, ⟨rfl, ?_, rfl⟩, ?_, rfl, ?_, nofun, (digest_of_proposal _ _).symm, ?_⟩
  · show (8 : W64) ≠ 7
    decide
  · exact fun h => not_self _ ((digest_of_proposal _ _).symm.trans h)
  · show (0 : Nat) < 100
    decide
  · exact fun h => not_self _ (h.trans (digest_of_proposal _ _))

theorem test_witness_TransitionsAndMicrocode :
    (let b : Blk := { words := [], issuer := 0 }
     let s : State := { tLive with prot := { blks := [b] } }
     s.prot.blks = b :: [] ∧ b.phase = .waiting ∧ b.retryAt ≤ s.now ∧ s.holdOf .partition = none ∧ s.prot.trans = false ∧
     s.now < ({ b with retryAt := 1 } : Blk).retryAt ∧ s.activeBlk = none) ∧
    (let h : GenHold := { chg := { kind := .partition, issuer := 1, tick := 5, payload := .block [] 0 }, armed := true }
     let s := tPkg [h] [] 5
     s.holdOf .partition = some h ∧ h.chg.payload = .block [] 0 ∧ h.armed = true ∧ h.chg.tick ≤ s.ptcNow ∧
     (let u := tPkg [{ h with armed := false }, h] [] 4
      ∀ x ∈ u.pkg.hold, x.chg.kind = .partition → x.armed = false ∨ u.ptcNow < x.chg.tick)) ∧
    (let b : Blk := { words := [], issuer := 0, phase := .sweeping }
     let s : State := tSl 0 tOn { tLive with prot := { blks := [b] } }
     s.activeBlk = some b ∧ b.phase = .sweeping ∧ s.works 0 = true ∧ (s.slice 0).sf = []) ∧
    (let b : Blk := { words := [], issuer := 0, phase := .reported }
     let s : State := { tLive with prot := { blks := [b] } }
     s.prot.blks = b :: [] ∧ b.phase = .reported ∧ b.issuer = s.inst ∧ (1 : BitVec 3) ≠ s.inst) ∧
    (let b : Blk := { words := [], issuer := 0, phase := .named, ta := some 9 }
     let s : State := { tAt 9 with prot := { blks := [b] } }
     s.activeBlk = some b ∧ s.movesAids = false ∧ b.issuer = s.inst ∧ b.phase = .named ∧ b.ta = some 9 ∧ 9 ≤ s.ptcNow) ∧
    (let b : Blk := { words := [], issuer := 0, phase := .named }
     let s : State := { tAt 10000 with prot := { blks := [b], newPart := [(2047, 1)] },
                                       pkg := { hold := [{ chg := { kind := .bundle, issuer := 0, tick := 10000, payload := .bundle [] }, armed := true }] } }
     s.activeBlk = some b ∧ s.movesAids = true ∧ s.dueFlip = some []) ∧
    (let k := tKcp 0x58 [0x30000, 5]
     (tRun k tLive).newCmd 0 0x58 = some k) ∧
    (let k := tKcp 0x59 []
     let u : Stage := { len := 1, last := true }
     (tRun k tLive).newCmd 0 0x59 = some k ∧ tLive.prot.ucSt.last = false ∧ u.last = true ∧ tLive.prot.uc = none ∧ tLive.prot.log.length < 1024) ∧
    (let s : State := tSl 0 tOn { tAt 16384 with prot := { ucAct := some (0, 0, 0) } }
     s.prot.ucAct = some (0, 0, 0) ∧ s.works 0 = true ∧ (s.slice 0).threadsIdle = true ∧ 0 + 16384 ≤ s.time.cycles ∧ (tAt 16383).time.cycles < 0 + 16384) ∧
    (tRun (tKcp 0x03 []) tLive).newCmd 0 0x03 = some (tKcp 0x03 []) := by decide +kernel

/-- An authorisation whose digest is that of the staged image, and one whose digest is another. -/
theorem test_witness_TransitionsAndMicrocode_digest :
    (let u : Stage := { len := 1, last := true }
     let d := digestWords u.block
     let s (d : BitVec 384) : State := { tLive with prot := { ucSt := u, uc := some (1, d) } }
     (s d).prot.ucSt.last = true ∧ (s d).prot.uc = some (1, d) ∧ digestWords (s d).prot.ucSt.block = d ∧
     digestWords (s (~~~d)).prot.ucSt.block ≠ ~~~d) := ⟨rfl, rfl, rfl, fun h => not_self _ h.symm⟩

/-! ### Witnesses: the loss of a slice, injection, the whole block -/

/-- Slice 0 lost, with its salvage. -/
def tLost (x : Salv) (s : State) : State := tPair { st := .failed, wrapper := true, salv := some x } tOn s

/-- A back-invalidation that waits on nothing and has not moved for 65,536 cycles, and for one cycle fewer. -/
theorem test_witness_SlicesAreLost_hung :
    let t : Txn := { e := 0, kind := .backInv, phase := .running }
    let s (n : Nat) := tTxn t (tAt n)
    ((s 65536).slice 0).hung (s 65536).time.cycles = true ∧ ((s 65536).slice 0).st.losable = true ∧
    (∀ x ∈ ((s 65535).slice 0).txns, (s 65535).time.cycles < x.ran + 65536) := by decide +kernel

theorem test_witness_SlicesAreLost :
    (SlState.on.losable = true ∧ SlState.poweringUp.losable = true ∧ FatalCause.internal ≠ .forced ∧ FatalCause.internal ≠ .injected ∧
      (tLive.slice 0).st = .off) ∧
    (let s := tArr .req 0 portSlice (tReqMsg .rdShared 0) (tLost {} tLive)
     (s.arrived 0 portSlice .req).head? = some (tPkt .req 0 portSlice (tReqMsg .rdShared 0)) ∧ (s.slice 0).wrapper = true ∧ (tLive.slice 0).wrapper = false) ∧
    (let s := tArr .rsp 0 portSlice (.rsp .rspI 5 0 false false) (tLost {} tLive)
     (s.arrived 0 portSlice .rsp).head? = some (tPkt .rsp 0 portSlice (.rsp .rspI 5 0 false false))) ∧
    (let r : WRec := { q := {}, src := 0, htid := 0 }
     let x : Salv := { recs := [r], read := [(.tracker, 0), (.buffers, 0)] }
     let s := tLost x tLive
     s.salv 0 = some x ∧ (s.slice 0).st = .failed ∧ x.recs = [r] ∧ x.good .tracker (htidEntry r.htid) = true ∧
     x.good .buffers (htidEntry r.htid) = true ∧ r.isGt = false) ∧
    (let r : WRec := { q := {}, src := 0, htid := 0 }
     let x : Salv := { recs := [r] }
     (tLost x tLive).salv 0 = some x ∧ x.recs.all (fun r => !(x.known .tracker (htidEntry r.htid)) || !(x.known .buffers (htidEntry r.htid))) = true) ∧
    (let s := tLost {} tLive
     s.salv 0 = some {} ∧ ({} : Salv).decided = false ∧ ({} : Salv).reads (s.slice 0) .tracker 2047 = true ∧
     ({} : Salv).reads (s.slice 0) .tracker 2048 = false ∧ ({} : Salv).mirrorDone = false ∧ s.works (buddy 0) = true ∧
     ({} : Salv).cacheDone (s.slice 0) = true) := by decide +kernel

theorem test_witness_SlicesAreLost_mirror :
    (let x : Salv := { mirLines := some [] }
     let s := tLost x tLive
     s.salv 0 = some x ∧ x.mirLines ≠ none ∧ x.mirrorDone = false ∧ x.cacheDone (s.slice 0) = true) := by decide +kernel

theorem test_witness_SalvageEnds :
    (let x : Salv := { fenced := true, mirrorDone := true, shs := [4, 5] }
     let s := tLost x tLive
     s.salv 0 = some x ∧ (s.slice 0).st = .failed ∧ x.fenced = true ∧ x.decided = false ∧ x.recs = [] ∧ x.mirrorDone = true ∧
     x.filterDone (s.slice 0) = true ∧ x.cacheDone (s.slice 0) = true ∧ x.homes = [] ∧ x.late = [] ∧ x.shs = 4 :: 5 :: [] ∧
     (s.newHome 0).isSome = true ∧ ({} : Salv).fenced = false) ∧
    (let x : Salv := { fenced := true, mirrorDone := true, shs := [shingleOf 0], homes := [(shingleOf 0, 1)], unsettled := [0] }
     let s := tLost x tLive
     s.resolvable 1 = (0, 0) :: [] ∧ s.works 1 = true ∧ (s.slice 1).txns.any (fun t => decide (t.kind = .lineRes)) = false ∧ s.homeUse 1 < 16) ∧
    (let s := tTxn { e := 0, kind := .lineRes } tLive
     (s.slice 0).txns.any (fun t => decide (t.kind = .lineRes)) = true) ∧
    (let x : Salv := { fenced := true }
     let s := tLost x (tAt 480000)
     s.salv 0 = some x ∧ (s.slice 0).st = .failed ∧ x.decided = false ∧ x.fenced = true ∧ x.shs = [] ∧ x.t0 + 480000 ≤ s.now) ∧
    ((tLost {} (tAt 479999)).salvageDone 0 {} = false ∧ (tAt 479999).now < ({} : Salv).t0 + 480000) ∧
    (let s : State := { tLive with map := { g0 := [(4095, hmEntry 0 hmOpen)] } }
     s.shState 4095 = hmOpen ∧ s.exitEmpty 4095 = true ∧ hmState (s.map.pendingEntry 4095) = hmOpen ∧
     (tSl 0 { exitSets := [(4095, [5])] } s).exitEmpty 4095 = false) ∧
    (let k := tTgt 0x65 0 0 []
     (tRun k tLive).newCmd 0 0x65 = some k ∧ k.tgt ≠ 0xFF ∧ tLive.salv 0 = none ∧ (tLost {} tLive).salv k.tgt = some {}) ∧
    (let k := tKcp 0x66 [5]
     (tRun k tLive).cmd 0 = some k ∧ k.opc = 0x66 ∧ k.fwd = none ∧ k.running = false ∧ (flushed (notedAids k.ps) tLive).joinedPeers = []) ∧
    (let k := tKcp 0x66 [5]
     let s := tLink { st := .joined, peer := 1, peerV := true } { tLive with pkg := { members := 3 } }
     (flushed (notedAids k.ps) s).joinedPeers ≠ [] ∧ ∀ p ∈ [1], p ∈ s.joinedPeers) ∧
    (let k := { tKcp 0x66 [5] with running := true, units := [1, 1] }
     let s := tRun k (tLink { st := .joined, peer := 1, peerV := true } { tLive with pkg := { members := 3 } })
     s.cmd 0 = some k ∧ k.opc = 0x66 ∧ k.fwd = none ∧ k.running = true ∧ k.units = 1 :: 1 :: [] ∧ ∀ p ∈ k.units, p ∈ s.joinedPeers) ∧
    (let k := { tKcp 0x66 [5] with running := true, units := [1] }
     (tRun k tLive).cmd 0 = some k ∧ k.running = true ∧ k.units = [1]) ∧
    (63 : Nat) < tLive.gh.slices := by decide +kernel

theorem test_witness_InjectionAndDebugPort :
    (let k := tKcp 0x7E [pack 64 [(0, 0x04), (8, 1), (16, 63)], 16 * 1048575 + 6]
     (tRun k tLive).newCmd 0 0x7E = some k ∧ fld (k.par 0) 8 2 < 2 ∧ hasArray (fld (k.par 0) 0 6) = true ∧ fld (k.par 0) 16 8 < tLive.gh.slices ∧
     injectPlace (fld (k.par 0) 0 6) (fld (k.par 1) 0 32) = some (6, 1048575)) ∧
    (let k := tKcp 0x7E [pack 64 [(0, 0x01), (8, 1), (16, 63)], BitVec.ofNat 64 (injectWords 0 - 1)]
     injectPlace (fld (k.par 0) 0 6) (fld (k.par 1) 0 32) = some (0, injectWords 0 - 1) ∧ injectWords 0 - 1 < injectWords 0) ∧
    (hasArray 0x02 = false ∧ injectPlace 0x04 0 = none ∧ injectPlace 0x01 (injectWords 0) = some (0, injectWords 0)) ∧
    (let k := tKcp 0x7E [pack 64 [(0, 0x0C), (8, 2), (16, 63)], 0]
     2 ≤ fld (k.par 0) 8 2 ∧ faultUnits tLive.gh (fld (k.par 0) 0 6) = some 64 ∧ fld (k.par 0) 16 8 < 64 ∧ 64 ≤ 64) ∧
    (let k := tKcp 0x7E [pack 64 [(0, 0x0B), (8, 2), (16, 63)], BitVec.ofNat 64 (injectWords 6 - 1)]
     (faultUnits tLive.gh (fld (k.par 0) 0 6)).isSome = true ∧ fld (k.par 1) 0 32 < injectWords 6) ∧
    (({} : Slice).errAt 2 0 = none ∧ (1 : BitVec 2) ≠ 0 ∧ (tLive.slice 0).st ≠ .on ∧ ((tSl 0 tOn tLive).slice 0).st.losable = true) ∧
    (tLive.debugOpen = false ∧ ({ tLive with prot := { dbg := true } } : State).debugOpen = true ∧ tLive.mesh.drained = false) := by decide +kernel

theorem test_witness_EveryCommandAnswersANextState :
    (∀ n d, Instr.vddRise = .tapAccess (.instrument n true d) →
      tLive.debugOpen = false ∨ (tLive.mesh.drained = false ∧ Config.routerScan n = true)) ∧
    (∀ n d, Instr.tapAccess (.instrument 3 true 7) = .tapAccess (.instrument n true d) →
      tLive.debugOpen = false ∨ (tLive.mesh.drained = false ∧ Config.routerScan n = true)) ∧
    ({ tLive with prot := { dbg := true } } : State).debugOpen = true := ⟨nofun, fun _ _ _ => .inl rfl, rfl⟩

theorem test_witness_StepKeepsWellFormed :
    tLive.wf = true ∧ step { tLive with pending := [.vddRise] } = .next { tLive with rst := { tLive.rst with dirtyV := false } } :=
  ⟨by decide +kernel, rfl⟩

theorem test_witness_LossOfInstanceIsSticky :
    (let s : State := { tLive with err := { lost := true } }
     isReset .vddRise = false ∧ s.err.lost = true ∧ exec .vddRise s = .next { s with rst := { s.rst with dirtyV := false } } ∧ s.pending = []) ∧
    isReset .porTaken = true ∧ isReset .resetNTaken = true := ⟨⟨rfl, rfl, rfl, rfl⟩, rfl, rfl⟩

theorem test_witness_QueueAndConfigurationStay :
    exec .vddRise tLive = .next { tLive with rst := { tLive.rst with dirtyV := false } } := rfl

theorem test_witness_QueriesChangeOnlyReplies :
    Instr.portState 3 ∈ [Instr.measureRead 3, .lineQuery 3, .shingleQuery 3, .bundleMapRead 3, .policyRead 3, .ridgeState 3, .ptcStatus 3,
      .protStatus 3, .remapRead 3, .salvageStatus 3, .sliceState 3, .portState 3] := by decide

theorem test_witness_FlitsRoundTrip :
    (tFlit 1).desc.length = 7 ∧ (tFlit 1).slots.length = 7 ∧ (List.replicate 4 (⟨0, false, false, 0, 0⟩ : LineChunk)).length ≤ 4 := by decide

theorem test_witness_RegroupTimeIsBounded :
    (tRg .computing (tAt 40000000)).pol.rg = .computing ∧ (tRg .computing (tAt 40000000)).pol.rgFrom + 40000000 ≤ (tRg .computing (tAt 40000000)).ptcNow ∧
    (tRg .computing (tAt 39999999)).ptcNow < (tRg .computing (tAt 39999999)).pol.rgFrom + 40000000 := by decide

theorem test_witness_ConfigurationCodeIsTaken :
    State.reset.rst.inReset = true ∧ (∀ y ∈ List.replicate 15 (tStrap 15), y = tStrap 15) ∧ (List.replicate 15 (tStrap 15)).length = 15 ∧ rsenseCode 18510 = rsenseCode 17090 ∧ (tStrap 15).cfgsrc = false ∧
    ({ tStrap 15 with cfgsrc := true } : StrapSample).cfgsrc = true ∧ rsenseCode 18510 = some 15 := by decide +kernel

/-! ### Witnesses: waits, first chunks, and acknowledgements of the peers -/

theorem test_witness_FinishWritesReply_waits :
    (let k := tKcp 0x01 [5]
     k.remote = none ∧ tLive.hub.rebuild = none ∧ tLive.hub.fits (rplqOf k.win) 257 = true ∧ tLive.hub.awaits (rplqOf k.win) = false) ∧
    (let h : HubSt := { rebuild := some .hrq }
     h.rebuild ≠ none) ∧
    (let h : HubSt := { waiting := [.packet .mrq 0 false [0]] }
     h.awaits (rplqOf (tKcp 0x01 [5]).win) = true) ∧
    (let h : HubSt := { mrq := { quota := 0 } }
     h.fits (rplqOf (tKcp 0x01 [5]).win) 1 = false) := by decide +kernel

theorem test_witness_ReadsOfRegisters_early :
    (let s : State := { tAt 9 with err := { raisedAt := some 9, mgmtAt := some 9 } }
     s.err.raisedAt = some s.time.cycles ∧ s.err.mgmtAt = some s.time.cycles) ∧
    (let s : State := { tLive with rst := { inReset := false, step := 4 }, hub := { perfUser := true } }
     s.rst.inReset = false ∧ s.rst.step < 5 ∧ s.hub.perfUser = true) := by decide +kernel

theorem test_witness_RequestsEnterTheTracker_data :
    (let q : Req := { op := .wrLine, aid := 5, txid := 3 }
     let y : ReqData := { aid := 5, txid := 3, d := { got := 15 } }
     q.dataIn [] = none ∧ q.dataIn [y] = some y ∧ q.op.isWb = false ∧ q.dataIn [{ y with d := { got := 7 } }] = none) ∧
    (let t : Txn := { e := 0, again := true }
     t.again = true ∧ t.kind = .req) ∧
    (let a : Txn := { e := 0, counted := true, operated := true, phase := .running, q := { op := .atomAdd } }
     let t : Txn := { e := 1, phase := .chained, q := { op := .atomAdd } }
     let v : Slice := { tOn with txns := [a, t] }
     v.chainHead 0 = some t ∧ v.chainFree 0 = false ∧ t.kind = .req ∧ t.q.op.isAtomic = true) := by decide +kernel

theorem test_witness_MemoryAnswersAndFailures_counts :
    (tMp { failed := true } tLive).mp 0 = { failed := true } := by decide

theorem test_witness_ScrubAndOpenResolutions_deadline :
    (let s := tArr .req 0 portSlice (tReqMsg .rdShared 0) (tSl 0 { tOn with sfWait := some 0, hcWait := some 0 } (tAt 63))
     s.inputWaits 0 = true ∧ ¬ ((s.slice 0).sfWait.getD s.time.cycles + 64 ≤ s.time.cycles)) ∧
    (let s := tArr .req 0 portSlice (tReqMsg .rdShared 0) (tSl 0 { tOn with sfWait := some 0, hcWait := some 0 } (tAt 64))
     (s.slice 0).sfWait.getD s.time.cycles + 64 ≤ s.time.cycles ∧ (s.slice 0).hcWait.getD s.time.cycles + 64 ≤ s.time.cycles) := by decide +kernel

theorem test_witness_PortsComeAndGo_acks :
    (let s : State := { tLink { st := .joined, peer := 1, peerV := true } tLive with pkg := { members := 7 } }
     s.peerMask ≠ 0 ∧
     (let m := (6 : BitVec 8) &&& s.peerMask
      m &&& (m - 1) ≠ 0 ∨ m &&& (m - 1) = 0)) ∧
    (let c : CaPort := { st := .bringup, written := true, tableAcks := 2 }
     c.abandoned = false ∧ c.tableAcks &&& (2 : BitVec 8) ≠ 0 ∧ c.tableAcks &&& (c.tableAcks - 1) = 0) ∧
    (let c : CaPort := { st := .isolated, relCmds := [0], scansDue := 6 }
     c.relCmds ≠ [] ∧ c.scansDue &&& (c.scansDue - 1) ≠ 0) := by decide +kernel

theorem test_witness_RegroupsRun_waits :
    (let s : State := { tRg .written tLive with pol := { rg := .written, rgAwait := 3 } }
     s.pol.rg = .written ∧ s.prot.trans = false ∧ (s.pol.rgAwait &&& (s.pkg.members ||| (1#8 <<< s.self))) ≠ 0) ∧
    (let s : State := { tRg .written tLive with prot := { trans := true } }
     s.pol.rg = .written ∧ s.prot.trans = true ∧ s.pol.rgForced = false) ∧
    (let s := tSl 0 { tOn with genSweep := true, genAt := 8 } (tAt 7)
     ¬ ((s.slice 0).genAt ≤ s.time.cycles)) ∧
    (let s := tSl 0 { tOn with genSweep := true, genAt := 8 } (tAt 8)
     (s.slice 0).genAt ≤ s.time.cycles ∧ s.inputWaits 0 = false ∧ (s.slice 0).genSweep = true ∧ s.works 0 = true) := by decide +kernel

theorem test_witness_PolicyCommands_busy :
    (let s : State := { tLive with pol := { epochNew := some 50 } }
     s.calMaster = s.self ∧ s.pol.epochNew ≠ none) := by decide +kernel

theorem test_witness_ShingleMoves_install :
    ({ mode := 2 } : SfEnt).valid = false ∧ ({ st := stX, own := 5 } : SfEnt).valid = true ∧ ({ st := stX } : SfEnt).st ≠ stFree ∧ (tLive.slice 0).faultySets = [] ∧
    tLive.map.moves.any (fun m => m.old == 0) = false ∧ tLive.homeUse 0 < 16 := by decide +kernel

theorem test_witness_TransitionsAndMicrocode_member :
    (let b : Blk := { words := [], issuer := 1, phase := .reported }
     let s : State := { tLive with prot := { blks := [b], trans := true } }
     s.activeBlk = some b ∧ s.movesAids = false ∧ b.issuer ≠ s.inst ∧ b.ta = none) ∧
    (let b : Blk := { words := [], issuer := 1, phase := .named, ta := some 8 }
     let s : State := { tAt 8 with prot := { blks := [b], trans := true } }
     s.activeBlk = some b ∧ s.movesAids = false ∧ b.phase = .named ∧ b.ta = some 8 ∧ 8 ≤ s.ptcNow) := by decide +kernel

end Sys2Proof.Tests
end

section
/-! Accesses through the two windows: what the answer of an access changes, and when an access is done (R349, R351, R500). -/

namespace Sys2Proof.Machine

/-! ### A window after a change, and the answer of an access -/

@[simp] theorem State.modWin_win (s : State) (w x : Window) (f : Win → Win) :
    (s.modWin w f).hub.win x = if x = w then f (s.hub.win w) else s.hub.win x :=
  HubSt.win_setWin s.hub w x _

@[simp] theorem State.modWin_queue (s : State) (w : Window) (f : Win → Win) (q : QCode) : (s.modWin w f).hub.queue q = s.hub.queue q :=
  HubSt.queue_setWin s.hub w _ q

/-- Two changes of one window are one. -/
@[simp] theorem State.modWin_modWin (s : State) (w : Window) (f g : Win → Win) : (s.modWin w f).modWin w g = s.modWin w (g ∘ f) := by
  cases w <;> rfl

@[simp] theorem State.answer_win (s : State) (w x : Window) (e : Bool) (d : BitVec 32) :
    (s.answer w e d).hub.win x = if x = w then { s.hub.win x with err := e, rdata := d } else s.hub.win x := by
  cases w <;> cases x <;> rfl

/-- The last answer of a window stands. -/
@[simp] theorem State.answer_answer (s : State) (w : Window) (e e' : Bool) (d d' : BitVec 32) :
    (s.answer w e d).answer w e' d' = s.answer w e' d' := by
  cases w <;> rfl

@[simp] theorem State.answer_regsLive (s : State) (w : Window) (e : Bool) (d : BitVec 32) : (s.answer w e d).regsLive = s.regsLive := rfl

/-! ### Admitted accesses -/

theorem State.regsLive_of_le {s : State} (h : 5 ≤ s.rst.step) : s.regsLive = true := decide_eq_true h

theorem State.regsLive_of_lt {s : State} (h : s.rst.step < 5) : s.regsLive = false := decide_eq_false (Nat.not_le.mpr h)

theorem unprivileged_eq_false {w : Window} {priv : Bool} (h : w = .hostp → priv = true) : unprivileged w priv = false := by
  cases w with
  | hostp => simp [unprivileged, h rfl]
  | mgmtp => rfl

/-- An access that is neither in reset nor without privilege is answered without an error, and done (R351, R500). -/
theorem windowWrite_of_admitted {s : State} {w : Window} {priv : Bool} (f : State → State) (hr : s.rst.inReset = false)
    (hp : w = .hostp → priv = true) : windowWrite w priv f s = f (s.answer w false 0) := by
  simp [windowWrite, hr, unprivileged_eq_false hp]

theorem mgmtWrite_mgmtp {s : State} {priv : Bool} (f : State → State) (hr : s.rst.inReset = false) :
    mgmtWrite .mgmtp priv f s = f (s.answer .mgmtp false 0) :=
  windowWrite_of_admitted _ hr nofun

/-- A write through HOSTP of a register that MGMTP alone writes has no effect but its answer (R526, R527). -/
theorem mgmtWrite_hostp {s : State} (f : State → State) (hr : s.rst.inReset = false) :
    mgmtWrite .hostp true f s = s.answer .hostp false 0 :=
  windowWrite_of_admitted _ hr (fun _ => rfl)

end Sys2Proof.Machine
end

section
/-! Writes of the registers that have no command of their own (R11, R527). -/

namespace Sys2Proof.Machine

@[simp] theorem isUser_mgmtp (off : Nat) : isUser .mgmtp off = false := rfl

theorem isUser_of_lt (w : Window) {off : Nat} (h : off < 0xF000) : isUser w off = false := by
  simp [isUser, h]

/-! ### What a window maps -/

/-- R500 names no register from 0x1000 on. -/
theorem earlyReg_of_ge (s : State) (w : Window) {off : Nat} (h : 0x1000 ≤ off) : earlyReg s w off = none := by
  unfold earlyReg
  extract_lets
  split
  rotate_right
  · rw [if_neg (by omega), if_neg (by omega)]
  all_goals omega

/-- Every staging location of the region table is mapped. -/
theorem lateReg_stage_isSome (s : State) (w : Window) {n : Nat} (h : n < 128) : (lateReg s w (0x1000 + 4 * n)).isSome = true := by
  unfold lateReg
  split
  rotate_right
  · rw [if_neg (by omega), if_pos (by omega)]
    rfl
  all_goals rfl

theorem regValue_stage_isSome (s : State) (w : Window) {n : Nat} (h : n < 128) :
    (regValue s w (0x1000 + 4 * n)).isSome = true := by
  simp only [regValue, earlyReg_of_ge s w (Nat.le_add_right 0x1000 (4 * n))]
  split <;> exact lateReg_stage_isSome _ w h

/-! ### What a write does -/

/-- An admitted write outside the user page does what its offset says (R11, R351). -/
theorem execRegisterWrite_of_admitted {s : State} {w : Window} {off : BitVec 16} {v : BitVec 32} {priv : Bool} (hr : s.rst.inReset = false)
    (hp : w = .hostp → priv = true) (hu : isUser w off.toNat = false) (hm : (regValue s w off.toNat).isSome = true) :
    execRegisterWrite w off v priv s = .next (writeReg w off.toNat v (s.answer w false 0)) := by
  simp [execRegisterWrite, refusedAt, mapped, hr, hu, hm, unprivileged_eq_false hp]

/-- A write to a location of the open user page that exists does what its offset says (R536). -/
theorem execRegisterWrite_of_user {s : State} {off : BitVec 16} {v : BitVec 32} {priv : Bool} (hr : s.rst.inReset = false)
    (ho : s.hub.perfUser = true) (hu : isUser .hostp off.toNat = true) (hm : (userReg s off.toNat).isSome = true) :
    execRegisterWrite .hostp off v priv s = .next (writeReg .hostp off.toNat v (s.answer .hostp false 0)) := by
  simp [execRegisterWrite, refusedAt, mapped, hr, hu, hm, ho]

theorem writeReg_cmdLo (w : Window) (v : BitVec 32) (s : State) :
    writeReg w 0x0100 v s = s.modWin w (fun x => { x with cmdLo := v }) := by
  cases w <;> rfl

theorem writeReg_perfSel (w : Window) (v : BitVec 32) (s : State) :
    writeReg w 0x0300 v s = s.modWin w (fun x => { x with perf := writePerfSel v x.perf }) := by
  cases w <;> rfl

theorem writeReg_stage {off : Nat} (h : 0x1000 ≤ off ∧ off < 0x1200) (v : BitVec 32) (s : State) :
    writeReg .mgmtp off v s = { s with map := writeStage off v s.map } := by
  have h1 : off ≠ 0x0100 := by omega
  have h2 : off ≠ 0x0300 := by omega
  have h3 : off ≠ 0x0024 := by omega
  have h4 : off ≠ 0x0030 := by omega
  simp [writeReg, h, h1, h2, h3, h4]

/-- A write of MGMTP at an offset that the write map does not take changes no register (R11, R527). -/
theorem writeReg_mgmtp_of_unwritable {off : Nat} (h1 : off ≠ 0x0100) (h2 : off ≠ 0x0300) (h3 : off ≠ 0x0024) (h4 : off ≠ 0x0030)
    (h5 : ¬(0x1000 ≤ off ∧ off < 0x1200)) (v : BitVec 32) (s : State) : writeReg .mgmtp off v s = s := by
  simp [writeReg, h1, h2, h3, h4, h5]

/-- A write of MGMTP at an offset that the write map does not take, mapped or not, changes the answer of the access alone (R11, R351). -/
theorem execRegisterWrite_mgmtp_of_unwritable {off : BitVec 16} (h1 : off ≠ 0x0100) (h2 : off ≠ 0x0300) (h3 : off ≠ 0x0024)
    (h4 : off ≠ 0x0030) (h5 : off < 0x1000 ∨ 0x1200 ≤ off) (v : BitVec 32) (priv : Bool) (s : State) :
    execRegisterWrite .mgmtp off v priv s = .next (s.answer .mgmtp (refusedAt s .mgmtp off.toNat priv) 0) := by
  have hs : writeReg .mgmtp off.toNat v (s.answer .mgmtp false 0) = s.answer .mgmtp false 0 :=
    writeReg_mgmtp_of_unwritable (by bv_omega) (by bv_omega) (by bv_omega) (by bv_omega) (by bv_omega) v _
  unfold execRegisterWrite
  rw [hs]
  cases refusedAt s .mgmtp off.toNat priv <;> rfl

/-! ### The staging table -/

theorem toNat_stageOffset {n : Nat} (h : n < 128) : (BitVec.ofNat 16 (0x1000 + 4 * n)).toNat = 0x1000 + 4 * n := by
  rw [BitVec.toNat_ofNat]
  omega

/-- A staging write leaves the other entries as they are (R31). -/
theorem regionAt_writeStage_of_ne {n j : Nat} (h : j ≠ n / 4) (v : BitVec 32) (m : MapSt) :
    regionAt (writeStage (0x1000 + 4 * n) v m).stage j = regionAt m.stage j := by
  have hj : j ≠ (0x1000 + 4 * n - 0x1000) / 16 := by omega
  simp only [regionAt, writeStage, tget_tset, if_neg hj]

/-- A staging write replaces one half of one word of its entry, less the reserved bits (R8, R10, R31). -/
theorem regionAt_writeStage_self (n : Nat) (v : BitVec 32) (m : MapSt) :
    regionAt (writeStage (0x1000 + 4 * n) v m).stage (n / 4) =
      (let e := regionAt m.stage (n / 4)
       if n % 4 < 2 then (setHalf e.1 (decide (n % 2 = 1)) v &&& 0x803FFFFF003FFFFF#64, e.2)
       else (e.1, setHalf e.2 (decide (n % 2 = 1)) v &&& 0x000007F7FFFFFF1F#64)) := by
  have hn : (0x1000 + 4 * n - 0x1000) / 16 = n / 4 := by omega
  have hw : (0x1000 + 4 * n) % 16 < 8 ↔ n % 4 < 2 := by omega
  have hh : ((0x1000 + 4 * n) % 8 == 4) = decide (n % 2 = 1) := decide_eq_decide.mpr (by omega)
  simp only [regionAt, writeStage, hn, hw, hh, tget_tset_self]

/-! ### The obligation -/

/-- Settles O13: an admitted write does what `writeReg` says, offset by offset. -/
theorem writesOfRegisters : Obligations.WritesOfRegisters := by
  unfold Obligations.WritesOfRegisters
  refine ⟨fun s v priv hr hstep => ⟨fun w hp => ⟨?cmdLo, ?perfSel⟩, ⟨?rstCause, ?bootLo, fun n hn => ?stage⟩, fun ho => ?user⟩,
    ?unwritable⟩
  case cmdLo => exact (execRegisterWrite_of_admitted hr hp (isUser_of_lt w (by decide)) rfl).trans (congrArg _ (writeReg_cmdLo w v _))
  case perfSel =>
    have hm : (regValue s w (0x0300#16).toNat).isSome = true := by simp [regValue, earlyReg, lateReg, State.regsLive_of_le hstep]
    refine (execRegisterWrite_of_admitted hr hp (isUser_of_lt w (by decide)) hm).trans ((congrArg _ (writeReg_perfSel w v _)).trans ?_)
    cases w <;> rfl
  case rstCause => exact execRegisterWrite_of_admitted hr nofun rfl rfl
  case bootLo => exact execRegisterWrite_of_admitted hr nofun rfl rfl
  case stage =>
    have ho := toNat_stageOffset hn
    refine ⟨(writeStage (0x1000 + 4 * n) v s.map).stage, ?_, fun j _ hj => regionAt_writeStage_of_ne hj v s.map, ?_⟩
    · have hm : (regValue s .mgmtp (BitVec.ofNat 16 (0x1000 + 4 * n)).toNat).isSome = true := by
        rw [ho]
        exact regValue_stage_isSome s .mgmtp hn
      refine (execRegisterWrite_of_admitted (w := .mgmtp) hr nofun rfl hm).trans ?_
      rw [ho, writeReg_stage (by omega)]
      rfl
    · rw [regionAt_writeStage_self]
      simp [setHalf]
  case user => exact execRegisterWrite_of_user hr ho rfl rfl
  case unwritable =>
    exact fun s off v priv h1 h2 h3 h4 h5 => ⟨_, execRegisterWrite_mgmtp_of_unwritable h1 h2 h3 h4 h5 v priv s⟩

end Sys2Proof.Machine
end

section
/-! The registers of ERR_OUT, the snoop timeout, the halves of 64-bit registers, and the performance registers (17, 18). -/

namespace Sys2Proof.Machine

/-! ### ERR_OUT -/

theorem driveWrite_eq (b : Bool) (s : State) : driveWrite b s = { s with err :=
    if b then { s.err with drive := true, pin := true, deferW := false }
    else if s.err.pulseEnd.isSome then { s.err with deferW := true } else { s.err with drive := false, pin := false } } := by
  unfold driveWrite
  split
  · rfl
  · split <;> rfl

/-- A write of the drive bit changes the drive bit, the pin and the deferred write alone (R534). -/
theorem driveWrite_frame (b : Bool) (s : State) :
    driveWrite b s = { s with err := { (driveWrite b s).err with mgmtAt := s.err.mgmtAt } } := by
  unfold driveWrite
  split
  · rfl
  · split <;> rfl

/-- A write of ERRPIN that an error of its cycle, or a write of MGMTP, overtakes changes nothing but the note of the write itself
(R530, R534). -/
theorem errpinWrite_eq (w : Window) (b : Bool) (s : State) : errpinWrite w b s = { s with err :=
    { (if s.err.raisedAt = some s.time.cycles ∨ (w = .hostp ∧ s.err.mgmtAt = some s.time.cycles) then s.err else (driveWrite b s).err) with
      mgmtAt := if w = .mgmtp then some s.time.cycles else s.err.mgmtAt } } := by
  simp only [errpinWrite, Bool.or_eq_true, Bool.and_eq_true, decide_eq_true_eq]
  by_cases hl : s.err.raisedAt = some s.time.cycles ∨ (w = .hostp ∧ s.err.mgmtAt = some s.time.cycles)
  · simp only [if_pos hl]
    split <;> rfl
  · simp only [if_neg hl]
    rw [driveWrite_frame]
    split <;> rfl

theorem execErrOutPulseEnd_of_due {s : State} {t : Nat} (h : s.err.pulseEnd = some t) (ht : t ≤ s.now) :
    execErrOutPulseEnd s = .next { s with err := { s.err with
      pulseEnd := none
      deferW := false
      drive := s.err.drive && !s.err.deferW
      pin := s.err.drive && !s.err.deferW } } := by
  simp [execErrOutPulseEnd, h, Nat.not_lt.mpr ht]

/-! ### The halves of 64-bit registers -/

theorem half_append_half (v : W64) : half v true ++ half v false = v := by
  simpa [half] using BitVec.extractLsb'_append_extractLsb'_eq_extractLsb' (x := v) (start₁ := 0) (len₁ := 32) (start₂ := 32) (len₂ := 32) rfl

/-- The value that a read of a register with a latched half shows: until step 4 is done that of reset, but for SLICEMASK (R500). -/
def State.halfShown (s : State) (r : HalfReg) : W64 :=
  if s.regsLive || decide (r = .slicemask) then halfRegValue s r else halfRegValue s.regsAtReset r

theorem State.halfShown_slicemask (s : State) : s.halfShown .slicemask = s.rst.sliceMask := by
  simp [State.halfShown, halfRegValue]

theorem State.halfShown_of_ne {r : HalfReg} (h : r ≠ .slicemask) (s : State) :
    s.halfShown r = halfRegValue (if 5 ≤ s.rst.step then s else s.regsAtReset) r := by
  simp [State.halfShown, State.regsLive, h, apply_ite (halfRegValue · r)]

theorem State.halfShown_admitMask (s : State) : s.halfShown .admitMask =
    (if 5 ≤ s.rst.step then s else s.regsAtReset).prot.admitMask &&& BitVec.ofNat 64 (2 ^ (8 * s.gh.ridgePorts) - 1) := by
  rw [State.halfShown_of_ne (r := .admitMask) nofun]
  split <;> rfl

@[simp] theorem State.answer_halfShown (s : State) (w : Window) (e : Bool) (d : BitVec 32) (r : HalfReg) :
    (s.answer w e d).halfShown r = s.halfShown r := by
  cases r <;> rfl

@[simp] theorem latchHalf_err (r : HalfReg) (v : BitVec 32) (x : Win) : (latchHalf r v x).err = x.err := by
  cases r <;> rfl

/-- An admitted read of a _LO location answers the low half, and its window keeps the high half (R529). -/
theorem execHalfLatchRead_of_admitted {s : State} {w : Window} {priv : Bool} (r : HalfReg) (hr : s.rst.inReset = false)
    (hp : w = .hostp → priv = true) : execHalfLatchRead w r priv s = .next
      (s.modWin w (fun x => latchHalf r (half (s.halfShown r) true) { x with err := false, rdata := half (s.halfShown r) false })) := by
  unfold execHalfLatchRead
  rw [windowWrite_of_admitted _ hr hp]
  change Host.Outcome.next (((s.answer w false 0).answer w false (half ((s.answer w false 0).halfShown r) false)).modWin w
    (latchHalf r (half ((s.answer w false 0).halfShown r) true))) = _
  rw [State.answer_halfShown, State.answer_answer]
  exact congrArg _ (State.modWin_modWin ..)

/-! ### What a capture reads -/

/-- What a capture leaves beside the counter: the count of package time, and the selection as it was (R522). -/
theorem capturePerf_stamp (p : PerfWin) (s : State) : (capturePerf p s).stamp = s.time.ptc ∧ (capturePerf p s).cls = p.cls := by
  unfold capturePerf
  split <;> exact ⟨rfl, rfl⟩

theorem capturePerf_of_none {p : PerfWin} {s : State} (h : selectCtr p s = none) :
    (capturePerf p s).lo = 0 ∧ bit (capturePerf p s).hi 30 = true ∧ bit (capturePerf p s).hi 31 = false := by
  simp only [capturePerf, h]
  decide

/-- PERF_DATA_HI of a counter: its high bits, and its overflow bit above them (R522). -/
theorem perfHi_eq (v : BitVec 48) (o : Bool) :
    (pack 32 [(0, fld v 32 16), (31, b2n o)] : BitVec 32) = BitVec.ofBool o ++ 0#15 ++ v.extractLsb' 32 16 := by
  apply BitVec.eq_of_toNat_eq
  rw [BitVec.toNat_append, ← Nat.shiftLeft_add_eq_or_of_lt (BitVec.isLt _), BitVec.extractLsb'_toNat]
  cases o <;> simp [pack, lsum, fld, b2n] <;> omega

theorem capturePerf_of_some {p : PerfWin} {s : State} {x : Ctr} (h : selectCtr p s = some x) :
    (capturePerf p s).lo = x.val.extractLsb' 0 32 ∧ (capturePerf p s).hi.extractLsb' 0 16 = x.val.extractLsb' 32 16 ∧
      bit (capturePerf p s).hi 31 = x.ovf ∧ bit (capturePerf p s).hi 30 = false := by
  simp only [capturePerf, h, perfHi_eq, bit]
  refine ⟨trivial, ?_, ?_, ?_⟩
  · rw [BitVec.extractLsb'_append_eq_ite]; simp
  · rw [BitVec.getLsbD_append, BitVec.getLsbD_append]; simp
  · rw [BitVec.getLsbD_append, BitVec.getLsbD_append]; simp

/-! ### PERF_CAPTURE -/

theorem execPerfCapture_window_of_early {s : State} {w : Window} {priv : Bool} (hr : s.rst.inReset = false) (hs : s.rst.step < 5)
    (hp : w = .hostp → priv = true) : execPerfCapture w false priv s = .next (s.answer w false 0) := by
  simp [execPerfCapture, windowWrite_of_admitted _ hr hp, State.regsLive_of_lt hs]

theorem execPerfCapture_user_of_early {s : State} {priv : Bool} (hr : s.rst.inReset = false) (hs : s.rst.step < 5)
    (ho : s.hub.perfUser = true) : execPerfCapture .hostp true priv s = .next (s.answer .hostp false 0) := by
  simp [execPerfCapture, hr, ho, State.regsLive_of_lt hs]

theorem capturePerf_answer (p : PerfWin) (s : State) (w : Window) (e : Bool) (d : BitVec 32) :
    capturePerf p (s.answer w e d) = capturePerf p s := rfl

/-- A capture through a window leaves what it captured in the read registers of that window, and answers the low half (R521, R522). -/
theorem execPerfCapture_window {s : State} {w : Window} {priv : Bool} (hr : s.rst.inReset = false) (hs : 5 ≤ s.rst.step)
    (hp : w = .hostp → priv = true) : execPerfCapture w false priv s = .next
      (s.modWin w (fun x => { x with perf := capturePerf x.perf s, err := false, rdata := (capturePerf x.perf s).lo })) := by
  simp only [execPerfCapture, Bool.false_eq_true, if_false, windowWrite_of_admitted _ hr hp, State.answer_regsLive, State.regsLive_of_le hs,
    Bool.not_true, State.win, State.answer_win, if_true, capturePerf_answer]
  simp only [State.answer, State.modWin_modWin]
  rfl

/-- A capture in the user page leaves what it captured there, and answers the low half through HOSTP (R522, R536). -/
theorem execPerfCapture_user {s : State} {priv : Bool} (hr : s.rst.inReset = false) (hs : 5 ≤ s.rst.step)
    (ho : s.hub.perfUser = true) : execPerfCapture .hostp true priv s = .next
      (State.answer { s with hub := { s.hub with user := capturePerf s.hub.user s } } .hostp false (capturePerf s.hub.user s).lo) := by
  simp [execPerfCapture, hr, ho, State.regsLive_of_le hs]

/-! ### The obligation -/

/-- Settles O12: each access and each command by its own rule. -/
theorem readsOfRegisters : Obligations.ReadsOfRegisters := by
  unfold Obligations.ReadsOfRegisters
  refine ⟨fun s w v priv => ⟨?errpin, ?pulseEnd, ?snpTimeout, ?snpTimeoutHost⟩, ?halves,
    fun s w v priv c k => ⟨?captureEarly, ?userEarly, ?capture, ?user, ?perfctl, ?perfctlMgmt, ?perfConfig⟩⟩
  case errpin =>
    intro hr hp
    change Host.Outcome.next (windowWrite w priv (errpinWrite w (bit v 0)) s) = _
    rw [windowWrite_of_admitted _ hr hp, errpinWrite_eq, driveWrite_eq]
    rfl
  case pulseEnd => exact fun t h ht => execErrOutPulseEnd_of_due h ht
  case snpTimeout =>
    intro hr
    refine congrArg Host.Outcome.next ((mgmtWrite_mgmtp _ hr).trans ?_)
    split <;> rfl
  case snpTimeoutHost =>
    rintro hr rfl
    exact congrArg Host.Outcome.next (mgmtWrite_hostp _ hr)
  case halves =>
    intro s w r priv hr hp
    refine ⟨_, execHalfLatchRead_of_admitted r hr hp, by simp, ?_, rfl, fun w' hw => by simp [hw], fun q => by simp⟩
    simp only [State.modWin_win, if_true]
    cases r with
    | slicemask => rw [State.halfShown_slicemask]; exact half_append_half _
    | ferrAddr => rw [State.halfShown_of_ne (r := .ferrAddr) nofun]; exact half_append_half _
    | ferrPtc => rw [State.halfShown_of_ne (r := .ferrPtc) nofun]; exact half_append_half _
    | admitMask => rw [State.halfShown_admitMask]; exact half_append_half _
  case captureEarly => exact execPerfCapture_window_of_early
  case userEarly => exact execPerfCapture_user_of_early
  case capture =>
    intro hr hs hp
    obtain ⟨hstamp, hcls⟩ := capturePerf_stamp (s.hub.win w).perf s
    refine ⟨_, capturePerf (s.hub.win w).perf s, execPerfCapture_window hr hs hp, by simp, by simp, hstamp, hcls, ?_⟩
    split
    next hn => exact capturePerf_of_none hn
    next x hx => exact capturePerf_of_some hx
  case user =>
    intro hr hs ho
    exact ⟨_, execPerfCapture_user hr hs ho, (capturePerf_stamp _ _).1, rfl, rfl⟩
  case perfctl =>
    intro hr hp
    exact congrArg Host.Outcome.next (windowWrite_of_admitted _ hr (fun _ => hp))
  case perfctlMgmt => exact fun hr => congrArg Host.Outcome.next (windowWrite_of_admitted _ hr nofun)
  case perfConfig => exact fun h => congrArg Host.Outcome.next (runCmd_of_some h rfl)

end Sys2Proof.Machine
end

section
/-! Every command answers a next state, but a write of an instrument of the open debug network (R4, R353). -/

namespace Sys2Proof.Machine

/-- A request is taken, refused at its port, or ignored; the block goes on (R4). -/
theorem execCaRequest_next (p : Nat) (msg : BitVec 128) (s : State) : ∃ t, execCaRequest p msg s = .next t := by
  unfold execCaRequest
  extract_lets
  split <;> exact ⟨_, rfl⟩

/-- A snoop response is taken, discarded, or waits; the block goes on (R4). -/
theorem execSnoopResponse_next (k : Nat) (gt : Bool) (s : State) : ∃ t, execSnoopResponse k gt s = .next t := by
  unfold execSnoopResponse
  split
  · split
    · extract_lets
      repeat' split
      all_goals exact ⟨_, rfl⟩
    · exact ⟨_, rfl⟩
  · exact ⟨_, rfl⟩

/-- A command of any form but TAP_ACCESS answers a next state, whatever the state and the operands (R4). -/
theorem exec_next_of_ne_tapAccess (s : State) (c : Instr) (hc : ∀ acc, c ≠ .tapAccess acc) : ∃ t, exec c s = .next t := by
  cases c with
  | tapAccess acc => exact absurd rfl (hc acc)
  | caRequest p msg => exact execCaRequest_next p msg s
  | snoopResponse k gt => exact execSnoopResponse_next k gt s
  | _ => exact ⟨_, rfl⟩

/-- A write to an instrument of the open debug network is refused, except the scan of a router whose instance is not drained, which ignores
it (R283, R353). -/
theorem execTapAccess_write_of_open {s : State} (ho : s.debugOpen = true) (n : Nat) (d : W64) :
    execTapAccess (.instrument n true d) s =
      if s.mesh.drained = false ∧ Config.routerScan n = true then .next { s with tapSel := false } else .refused .debugInstrument := by
  cases hd : s.mesh.drained <;> cases hn : Config.routerScan n <;> simp [execTapAccess, ho, hd, hn]

/-- A write to a locked instrument is ignored (R353). -/
theorem execTapAccess_write_of_locked {s : State} (ho : s.debugOpen = false) (n : Nat) (d : W64) :
    execTapAccess (.instrument n true d) s = .next { s with tapSel := false } := by
  simp [execTapAccess, ho]

theorem execTapAccess_read_next (s : State) (n : Nat) (d : W64) : ∃ t, execTapAccess (.instrument n false d) s = .next t := by
  simp only [execTapAccess, Bool.false_eq_true, if_false]
  split <;> exact ⟨_, rfl⟩

/-- An access to the DBG port answers a next state, when a write of an instrument finds it locked or undrained (R283, R353). -/
theorem execTapAccess_next {s : State} {acc : TapAccess} (h : ∀ n d, acc = .instrument n true d →
    s.debugOpen = false ∨ (s.mesh.drained = false ∧ Config.routerScan n = true)) : ∃ t, execTapAccess acc s = .next t := by
  cases acc with
  | instrument n write d =>
    cases write with
    | false => exact execTapAccess_read_next s n d
    | true =>
      cases ho : s.debugOpen with
      | false => exact ⟨_, execTapAccess_write_of_locked ho n d⟩
      | true =>
        have hd := (h n d rfl).resolve_left (by simp [ho])
        exact ⟨_, (execTapAccess_write_of_open ho n d).trans (if_pos hd)⟩
  | _ => exact ⟨_, rfl⟩

/-- Settles O1: the forms of the table one by one, the accesses of the DBG port apart. -/
theorem everyCommandAnswersANextState : Obligations.EveryCommandAnswersANextState := by
  unfold Obligations.EveryCommandAnswersANextState
  refine ⟨fun s c hc => ?_, fun s n d ho => execTapAccess_write_of_open ho n d, fun s c up => ?_⟩
  · by_cases h : ∃ acc, c = .tapAccess acc
    · obtain ⟨acc, rfl⟩ := h
      exact execTapAccess_next fun n d e => hc n d (congrArg _ e)
    · exact exec_next_of_ne_tapAccess s c (not_exists.mp h)
  · exact ⟨_, _, _, _, _, rfl, rfl, rfl, rfl, rfl⟩

end Sys2Proof.Machine
end

section
/-! The last acknowledgement of a new map names the flip in the same step (R184). -/

namespace Sys2Proof.Machine

/-! ### What the end of a regroup computation leaves of the policies -/

@[simp] theorem State.endCmd_pol (s : State) (c : Option Nat) (st d : Nat) (ws : List W64) : (s.endCmd c st d ws).pol = s.pol :=
  have h := congrArg State.pol (s.endCmd_frame c st d ws)
  h

theorem endCals_pol (named : Bool) (l : List Nat) (s : State) : (endCals named l s).pol = s.pol := by
  unfold endCals
  induction l generalizing s with
  | nil => rfl
  | cons c l ih => exact (ih _).trans (s.endCmd_pol _ _ _ _)

@[simp] theorem endCalibrate_pol (named : Bool) (s : State) : (endCalibrate named s).pol = { s.pol with calRuns := [] } :=
  endCals_pol _ _ _

@[simp] theorem genIssue_pol (c : GenChange) (deadline : Nat) (s : State) : (genIssue c deadline s).pol = s.pol := by
  unfold genIssue
  dsimp only
  split
  · rfl
  · exact List.foldlRecOn (motive := fun t : State => t.pol = s.pol) _ _ rfl fun t h i _ => (t.sendMgt_pol i _).trans h

theorem nameRegroup_rg (s : State) : (nameRegroup s).pol.rg = .named := by
  simp [nameRegroup]

/-! ### The acknowledgement that is the last one -/

/-- The state after the acknowledgement of instance `i` is taken. -/
def State.acked (s : State) (i : Nat) : State := { s with pol := { s.pol with rgAwait := s.pol.rgAwait &&& ~~~(1#8 <<< i) } }

/-- When no acknowledgement is awaited after that of instance `i`, the flip is named in the step that takes it. -/
theorem execRegroupMapWritten_last {s : State} {i : Nat} (hw : s.pol.rg = .written) (ht : s.prot.trans = false)
    (hi : s.nextWritten = some i) (hl : (s.acked i).nextWritten = none) :
    execRegroupMapWritten s = .next (nameRegroup (s.acked i)) := by
  unfold execRegroupMapWritten
  rw [if_pos hw, if_neg (by simp [ht]), hi]
  exact congrArg _ (if_pos (Option.isNone_iff_eq_none.mpr hl))

/-- A new map is written, and this instance alone, the only one of the package, has not acknowledged it. -/
def State.oneAckLeft : State := { State.reset with pol := { rg := .written, rgAwait := 1 } }

/-- Refutes O41: where one acknowledgement is left (`State.oneAckLeft`), REGROUP_MAP_WRITTEN takes it and names the flip in the same step, so the
regroup is NAMED after it, while the statement has every awaited acknowledgement leave the regroup WRITTEN. -/
theorem not_regroupsRun : ¬ Obligations.RegroupsRun := by
  unfold Obligations.RegroupsRun
  intro h
  obtain ⟨-, -, -, -, -, -, hack, -⟩ := h State.oneAckLeft [] 0 0
  obtain ⟨i, -, -, hexec⟩ := hack rfl (.inl rfl) (by decide)
  have hlast : exec .regroupMapWritten State.oneAckLeft = .next (nameRegroup (State.oneAckLeft.acked 0)) :=
    execRegroupMapWritten_last rfl rfl (by decide) (by decide)
  have hstate := Host.Outcome.next.inj (hlast.symm.trans hexec)
  have hrg : RgPhase.named = RgPhase.written := (nameRegroup_rg _).symm.trans (congrArg (fun t : State => t.pol.rg) hstate)
  exact absurd hrg (by decide)

end Sys2Proof.Machine
end

section
/-! The power of a pair of slices: its command, its gating action, and the switches of a slice (R192 to R197, R390, R505, R506). -/

namespace Sys2Proof.Machine

/-! ### What an event, a wipe of credits and a change of mode leave -/

@[simp] theorem raise_slices (ev : Ev) (s : State) : (raise ev s).slices = s.slices :=
  have h := congrArg State.slices (raise_frame ev s)
  h

@[simp] theorem raise_pol (ev : Ev) (s : State) : (raise ev s).pol = s.pol :=
  have h := congrArg State.pol (raise_frame ev s)
  h

@[simp] theorem slice_raise (ev : Ev) (s : State) (j : Nat) : (raise ev s).slice j = s.slice j := by
  simp [State.slice]

@[simp] theorem slice_policyEvent (pid code tgt reason old new : Nat) (s : State) (j : Nat) :
    (policyEvent pid code tgt reason old new s).slice j = s.slice j :=
  slice_raise _ _ _

@[simp] theorem policyEvent_recovery (pid code tgt reason old new : Nat) (s : State) :
    (policyEvent pid code tgt reason old new s).pol.recovery = s.pol.recovery :=
  (congrArg PolSt.recovery (raise_pol _ _)).trans rfl

/-- A switch of the replacement mode restarts the ageing walk of each slice, and changes nothing else of a slice (R219, R221). -/
theorem setRepl_slice (nru : Bool) (reason : Nat) (s : State) (j : Nat) :
    { (setRepl nru reason s).slice j with walkPos := (s.slice j).walkPos, walkFrom := (s.slice j).walkFrom } = s.slice j := by
  unfold setRepl
  dsimp only
  split
  · rfl
  · rw [slice_policyEvent]
    split
    · refine State.each_induction (fun t => { t.slice j with walkPos := (s.slice j).walkPos, walkFrom := (s.slice j).walkFrom } = s.slice j)
        _ _ (fun t k h => ?_) _ rfl
      rw [State.slice_modSlice]
      split
      next e => subst e; exact h
      next => exact h
    · rfl

theorem setRepl_recovery (nru : Bool) (reason : Nat) (s : State) : (setRepl nru reason s).pol.recovery = s.pol.recovery := by
  unfold setRepl
  dsimp only
  split
  · rfl
  · rw [policyEvent_recovery]
    split
    · exact State.each_induction (fun t => t.pol.recovery = s.pol.recovery) _
        (fun t k => t.modSlice k fun v => { v with walkPos := 0, walkFrom := t.time.cycles }) (fun t k h => h) _ rfl
    · rfl

/-- A change of two slices in turn. -/
theorem State.slice_each_pair {a b : Nat} (h : a ≠ b) (f : Slice → Slice) (s : State) (j : Nat) :
    (s.each [a, b] (fun s k => s.modSlice k f)).slice j = if j ∈ [a, b] then f (s.slice j) else s.slice j := by
  change ((s.modSlice a f).modSlice b f).slice j = _
  rw [State.slice_modSlice, State.slice_modSlice, State.slice_modSlice, if_neg h.symm]
  by_cases ha : j = a
  · subst ha; simp [h]
  · by_cases hb : j = b <;> simp [ha, hb]

/-! ### SLICE_POWER -/

/-- A SLICE_POWER of a direction runs the form of that direction. -/
theorem execSlicePower {s : State} {c : Nat} {k : Kcp} {up : Bool} (hk : s.newCmd c 0x11 = some k) (hb : bit (k.par 0) 8 = up) :
    exec (if up then .slicePowerUp c else .slicePowerDown c) s = .next (powerCommand up k s) := by
  cases up
  · exact congrArg Host.Outcome.next (runCmd_of_some hk (by simp [hb]))
  · exact congrArg Host.Outcome.next (runCmd_of_some hk hb)

/-- A reason of R390 not to start turns the command away. -/
theorem powerCommand_conflict {s : State} {k : Kcp} {up : Bool} {r : Nat} (hr : s.gateReason (fld (k.par 0) 0 5) up = r + 1) :
    powerCommand up k s = finish k stConflict (r + 1 + 16 * Nat.max (s.residencyLeft (2 * fld (k.par 0) 0 5))
      (s.residencyLeft (2 * fld (k.par 0) 0 5 + 1))) [] s := by
  simp [powerCommand, hr]

theorem powerCommand_start {s : State} {k : Kcp} {up : Bool} (hr : s.gateReason (fld (k.par 0) 0 5) up = 0) :
    powerCommand up k s = { s.startCmd k id with pol := { s.pol with
      gateVal := if up then s.pol.gateVal + 1 else s.pol.gateVal - 1
      gating := some { pair := fld (k.par 0) 0 5, up := up, cmd := some k.id } } } := by
  simp [powerCommand, hr]

theorem max_residencyLeft_eq_zero (s : State) (i j : Nat) :
    Nat.max (s.residencyLeft i) (s.residencyLeft j) = 0 ↔ ¬(s.residencyLeft i ≠ 0 ∨ s.residencyLeft j ≠ 0) := by
  have h : Nat.max (s.residencyLeft i) (s.residencyLeft j) = max (s.residencyLeft i) (s.residencyLeft j) := rfl
  omega

/-- The slices of a pair are both in a state. -/
abbrev State.PairIn (s : State) (pair : Nat) (x : SlState) : Prop := (s.slice (2 * pair)).st = x ∧ (s.slice (2 * pair + 1)).st = x

/-- A slice that no gating action may touch (R390). -/
abbrev Slice.Ungated (v : Slice) : Prop := v.st = .failed ∨ v.st = .disabled ∨ v.st = .reset

/-- No more pair may change its power in a direction (R197, R390). -/
abbrev State.GateAtEnd (s : State) (up : Bool) : Prop :=
  if up then Nat.min s.pol.gateMax (s.gh.slices / 2) < s.poweredPairs.length + 1 else s.poweredPairs.length < s.pol.gateMin + 1

/-- The reasons of R390 in their order. -/
theorem State.gateReason_eq (s : State) (pair : Nat) (up : Bool) : s.gateReason pair up =
    if s.pol.gatePin = true then
      if s.PairIn pair (if up then .on else .off) then 2
      else if (s.slice (2 * pair)).Ungated ∨ (s.slice (2 * pair + 1)).Ungated then 3
      else if Nat.max (s.residencyLeft (2 * pair)) (s.residencyLeft (2 * pair + 1)) = 0 then
        if s.GateAtEnd up then 5 else if s.gateHeld = true then 6 else if s.pol.gating = none then 0 else 7
      else 4
    else 1 := by
  simp only [max_residencyLeft_eq_zero, ite_not]
  unfold State.gateReason State.PairIn Slice.Ungated State.GateAtEnd State.gateMaxOf
  cases up <;> cases s.pol.gatePin <;> cases s.pol.gating <;> simp [or_assoc]

/-! ### The gating action -/

theorem State.gatingOf_of_some {s : State} {g : Gating} (h : s.pol.gating = some g) : s.gatingOf g.pair g.up = some g := by
  simp [State.gatingOf, h]

theorem execGatingPowerDown_of_some {s : State} {g : Gating} (h : s.pol.gating = some g) (hu : g.up = false) :
    exec (.gatingPowerDown g.pair) s = .next (gateOn { s with pol := { s.pol with gating := some { g with begun := true } } }) := by
  have hg := State.gatingOf_of_some h
  rw [hu] at hg
  change execGatingPowerDown g.pair s = _
  rw [execGatingPowerDown, hg]

/-- The power-down of a pair whose slices are idle: both wrappers close, both slices are clamped (R194, R506). -/
theorem execGatingSwitchOpen_of_idle {s : State} {g : Gating} (h : s.pol.gating = some g) (hu : g.up = false) (hb : g.begun = true)
    (ha : s.idleSlice (2 * g.pair) = true) (hc : s.idleSlice (2 * g.pair + 1) = true) :
    exec .gatingSwitchOpen s = .next (s.each [2 * g.pair, 2 * g.pair + 1]
      (fun s k => s.modSlice k (fun v => { v with st := .poweringDown, wrapper := true, clamped := true }))) := by
  change execGatingSwitchOpen s = _
  rw [execGatingSwitchOpen, h]
  simp [hu, hb, ha, hc]

/-- What the switches of a power-up do to a slice (R195, R505). -/
def Slice.switchOn (now : Nat) (v : Slice) : Slice := if v.st = .off then { v with st := .poweringUp, segTick := now } else v

theorem execGatingPowerUp_of_new {s : State} {g : Gating} (h : s.pol.gating = some g) (hu : g.up = true) (hb : g.begun = false) :
    exec (.gatingPowerUp g.pair) s =
      .next (State.each { s with pol := { s.pol with gating := some { g with begun := true } } } [2 * g.pair, 2 * g.pair + 1]
        (fun t k => t.modSlice k (Slice.switchOn s.now))) := by
  have hg := State.gatingOf_of_some h
  rw [hu] at hg
  change execGatingPowerUp g.pair s = _
  simp only [execGatingPowerUp, hg, hb]
  rfl

theorem execGatingPowerUp_of_begun {s : State} {g : Gating} (h : s.pol.gating = some g) (hu : g.up = true) (hb : g.begun = true) :
    exec (.gatingPowerUp g.pair) s = .next (gateOn s) := by
  have hg := State.gatingOf_of_some h
  rw [hu] at hg
  change execGatingPowerUp g.pair s = _
  simp only [execGatingPowerUp, hg, hb, if_true]

/-! ### The switches of a slice -/

/-- Everything but the hub, the mesh, the ports and the links. -/
def UnitsOnly (s t : State) : Prop :=
  ({ t with hub := s.hub, mesh := s.mesh, cas := s.cas, mps := s.mps, rdg := s.rdg, fresh := s.fresh, out := s.out } : State) = s

theorem UnitsOnly.slices {s t : State} (h : UnitsOnly s t) : t.slices = s.slices :=
  have e := congrArg State.slices h
  e

theorem UnitsOnly.time {s t : State} (h : UnitsOnly s t) : t.time = s.time :=
  have e := congrArg State.time h
  e

theorem UnitsOnly.pol {s t : State} (h : UnitsOnly s t) : t.pol = s.pol :=
  have e := congrArg State.pol h
  e

theorem noteLost_only (k src : Nat) (s : State) : UnitsOnly s (noteLost k src s) := by
  unfold noteLost
  refine List.foldlRecOn (motive := UnitsOnly s) _ _ rfl fun t h c _ => ?_
  exact (congrArg (fun u : State => ({ u with hub := s.hub, mesh := s.mesh, cas := s.cas, mps := s.mps, rdg := s.rdg, fresh := s.fresh
                                              out := s.out } : State)) (t.endCmd_frame c _ _ _)).trans h

theorem UnitsOnly.detachMem {s t : State} (h : UnitsOnly s t) (k : Nat) (all : Bool) : UnitsOnly s (detachMem k all t) := by
  unfold Machine.detachMem
  exact State.each_induction (UnitsOnly s) _ _ (by exact fun _ _ h => h) _ h

theorem UnitsOnly.voidCredits {s t : State} (h : UnitsOnly s t) (k : Nat) : UnitsOnly s (voidCredits k t) := by
  unfold Machine.voidCredits
  refine State.each_induction (UnitsOnly s) _ _ (by exact fun _ _ h => h) _ ?_
  exact State.each_induction (UnitsOnly s) _ _ (by exact fun _ _ h => h) _ h

/-- The end of a power-down outside a gating action: the slice keeps nothing, and is clamped (R24, R506). -/
theorem execSlicePowerOffDone_of_down {s : State} {j : Nat} (h : (s.slice j).st = .poweringDown) (hg : s.pol.gating = none) :
    ∃ t, exec (.slicePowerOffDone j) s = .next t ∧
      t.slice j = { (s.slice j).wiped j with st := .off, clamped := true, wrapper := false, since := s.now } := by
  have hu := ((noteLost_only j 0x0D s).detachMem j true).voidCredits j
  change ∃ t, execSlicePowerOffDone j s = .next t ∧ _
  unfold execSlicePowerOffDone
  rw [if_pos h]
  generalize voidCredits j (detachMem j true (noteLost j 0x0D s)) = u at hu
  have hgu : u.pol.gating = none := by rw [hu.pol]; exact hg
  refine ⟨u.modSlice j (fun v => { v.wiped j with st := .off, clamped := true, wrapper := false, since := u.now }), ?_, ?_⟩
  · dsimp only
    rw [State.modSlice_pol, hgu]
  · rw [State.slice_modSlice, if_pos rfl]
    simp only [State.slice, State.now, hu.slices, hu.time]

theorem execSliceDomainGood_bringup {s : State} {j : Nat} (h : (s.slice j).st = .poweringUp) (ht : (s.slice j).segTick + 7000 ≤ s.now)
    (hs : s.rst.step < 7) : exec (.sliceDomainGood j) s =
      .next (s.setSlice j { s.slice j with st := .on, lfsrRun := true, walkPos := 0, walkFrom := s.time.cycles }) := by
  change execSliceDomainGood j s = _
  simp [execSliceDomainGood, State.atBringup, h, ht, hs]

/-- The slice that a power-up after bring-up leaves (R195, R218, R505). -/
def State.poweredUp (s : State) (j : Nat) : Slice :=
  { (s.slice j).wiped j with
    st := .on, lfsrRun := true, clamped := false, wrapper := false, since := s.now, hcinit := true
    bank := if s.pol.hcEnable then .on else .ready
    wt226 := !((s.slice (buddy j)).st.losable), ucVer := s.rst.ucVer, walkFrom := s.time.cycles }

theorem execSliceDomainGood_later {s : State} {j : Nat} (h : (s.slice j).st = .poweringUp) (ht : (s.slice j).segTick + 7000 ≤ s.now)
    (hs : 7 ≤ s.rst.step) : exec (.sliceDomainGood j) s = .next (gateOn (initCredits j (s.setSlice j (s.poweredUp j)))) := by
  exact congrArg Host.Outcome.next ((if_pos ⟨h, ht⟩).trans (if_neg (by simp [State.atBringup, hs])))

theorem execSlicePowerTimeout_later {s : State} {j : Nat} (h : (s.slice j).st = .poweringUp)
    (ht : (s.slice j).segTick + 100000 ≤ s.now) (hs : 7 ≤ s.rst.step) :
    exec (.slicePowerTimeout j) s = .next (loseSlice j .power 0 0 none s) := by
  exact congrArg Host.Outcome.next ((if_pos ⟨h, ht⟩).trans (if_neg (by simp [State.atBringup, hs])))

/-- A slice that does not power up at bring-up is failed, and its buddy writes through (R226, R505). -/
theorem execSlicePowerTimeout_bringup {s : State} {j : Nat} (h : (s.slice j).st = .poweringUp)
    (ht : (s.slice j).segTick + 100000 ≤ s.now) (hs : s.rst.step < 7) :
    ∃ t, exec (.slicePowerTimeout j) s = .next t ∧ (t.slice j).st = .failed ∧ (t.slice (buddy j)).wt226 = true ∧ t.pol.recovery = true := by
  refine ⟨_, congrArg Host.Outcome.next ((if_pos ⟨h, ht⟩).trans (if_pos (by simp [State.atBringup, hs]))), ?_, ?_, setRepl_recovery _ _ _⟩
  · refine (congrArg Slice.st (setRepl_slice true 3 _ j)).trans ((congrArg Slice.st (slice_raise _ _ j)).trans ?_)
    rw [State.slice_modSlice]
    split
    next e => rw [← e, State.slice_setSlice, if_pos rfl]
    next => rw [State.slice_setSlice, if_pos rfl]
  · refine (congrArg Slice.wt226 (setRepl_slice true 3 _ (buddy j))).trans ((congrArg Slice.wt226 (slice_raise _ _ (buddy j))).trans ?_)
    rw [State.slice_modSlice, if_pos rfl]

/-! ### The obligation -/

/-- Settles O19: the command by its reason of R390, the gating action and the switches step by step. -/
theorem slicePower : Obligations.SlicePower := by
  unfold Obligations.SlicePower
  refine ⟨?command, fun s g hg => ⟨?down, ?opened, ?up, ?upOn⟩, fun s j => ⟨?off, ?bringup, ?later, ?lost, ?failed⟩⟩
  case command =>
    intro s c k up hk hb' pair a b want bad pairs left no atEnd
    have hno (r : Nat) (hr : s.gateReason pair up = r + 1) : no (r + 1) := by
      have h := (execSlicePower hk hb').trans (congrArg _ (powerCommand_conflict hr))
      exact ⟨by rintro rfl; exact h, by rintro rfl; exact h⟩
    have hreason := s.gateReason_eq pair up
    refine ⟨fun hp => hno 0 ?_, fun hp ha hb => hno 1 ?_, fun hp hw hb => hno 2 ?_, fun hp hw hb hl => hno 3 ?_,
      fun hp hw hb hl he => hno 4 ?_, fun hp hw hb hl he hg => hno 5 ?_, fun hp hw hb hl he hg hn => hno 6 ?_, fun hp hw hb hl he hg hn => ?_⟩
    · rw [hreason, if_neg (by simp [hp])]
    · rw [hreason, if_pos hp, if_pos ⟨ha, hb⟩]
    · rw [hreason, if_pos hp, if_neg hw, if_pos hb]
    · rw [hreason, if_pos hp, if_neg hw, if_neg hb, if_neg hl]
    · rw [hreason, if_pos hp, if_neg hw, if_neg hb, if_pos hl, if_pos he]
    · rw [hreason, if_pos hp, if_neg hw, if_neg hb, if_pos hl, if_neg he, if_pos hg]
    · rw [hreason, if_pos hp, if_neg hw, if_neg hb, if_pos hl, if_neg he, if_neg (by simp [hg]), if_neg hn]
    · rw [if_pos hp, if_neg hw, if_neg hb, if_pos hl, if_neg he, if_neg (by simp [hg]), if_pos hn] at hreason
      have h := (execSlicePower hk hb').trans (congrArg _ (powerCommand_start hreason))
      exact ⟨by rintro rfl; exact h, by rintro rfl; exact h⟩
  case down => exact execGatingPowerDown_of_some hg
  case opened =>
    intro hu hb ha hc
    exact ⟨_, execGatingSwitchOpen_of_idle hg hu hb ha hc, State.slice_each_pair (by omega) _ s, rfl⟩
  case up =>
    intro hu hb
    refine ⟨_, execGatingPowerUp_of_new hg hu hb, fun j => ?_, rfl⟩
    rw [State.slice_each_pair (by omega)]
    by_cases hj : j ∈ [2 * g.pair, 2 * g.pair + 1]
    · rw [if_pos hj]
      by_cases ho : (s.slice j).st = .off
      · exact (if_pos ho).trans (if_pos ⟨hj, ho⟩).symm
      · exact (if_neg ho).trans (if_neg fun h => ho h.2).symm
    · exact (if_neg hj).trans (if_neg fun h => hj h.1).symm
  case upOn => exact execGatingPowerUp_of_begun hg
  case off =>
    intro h hg
    obtain ⟨t, he, ht⟩ := execSlicePowerOffDone_of_down h hg
    exact ⟨t, he, by simp [ht, Slice.wiped]⟩
  case bringup => exact execSliceDomainGood_bringup
  case later =>
    intro h ht hs
    refine ⟨_, execSliceDomainGood_later h ht hs, rfl, fun i hi => by simp [hi], ?_⟩
    simp [State.poweredUp, Slice.wiped]
  case lost => exact execSlicePowerTimeout_later
  case failed => exact execSlicePowerTimeout_bringup

end Sys2Proof.Machine
end

section
/-! The visits of the patrol scrubbers, the ageing walk, the lines of an OPEN resolution, and the refresh of a mirror set (R165 to R169,
R219, R225, R234, R235). -/

namespace Sys2Proof.Machine

/-! ### A visit that takes the bank -/

theorem bankServes_of_idle {s : State} {k : Nat} (h : s.inputWaits k = false) : bankServes k s = s := by
  simp [bankServes, h]

theorem bankServes_frame (k : Nat) (s : State) : ({ bankServes k s with slices := s.slices } : State) = s := by
  unfold bankServes
  split <;> rfl

/-- A visit while messages wait wastes the slot of its lookup cycle, and is counted (R510, R518). -/
theorem slice_bankServes (k : Nat) (s : State) (j : Nat) : (bankServes k s).slice j =
    if j = k ∧ s.inputWaits k = true then Slice.count 0x51 1 (Slice.slot true (s.slice k)) else s.slice j := by
  unfold bankServes
  cases s.inputWaits k with
  | false => rw [if_neg Bool.false_ne_true, if_neg fun h => Bool.false_ne_true h.2]
  | true =>
    rw [if_pos rfl, State.slice_modSlice]
    by_cases hj : j = k
    · exact (if_pos hj).trans (if_pos ⟨hj, rfl⟩).symm
    · exact (if_neg hj).trans (if_neg fun h => hj h.1).symm

theorem slice_bankServes_of_ne {k j : Nat} (h : j ≠ k) (s : State) : (bankServes k s).slice j = s.slice j := by
  rw [slice_bankServes, if_neg (fun e => h e.1)]

/-- The bank has no cycle for a visit while messages wait, until 64 cycles have passed (R169, R235). -/
theorem bankFree_iff (s : State) (k since : Nat) : s.bankFree k since = true ↔ s.inputWaits k = false ∨ since + 64 ≤ s.time.cycles := by
  simp [State.bankFree]

/-- The slice that a visit of the snoop-filter scrubber to a set leaves: the next one is due one interval later (R169). -/
def Slice.sfVisited (set now : Nat) (v : Slice) : Slice := { v with sfPos := (set + 1) % 4096, sfDue := now + v.sfInt, sfWait := none }

/-- The slice that a visit of the home-cache scrubber to a set leaves (R235). -/
def Slice.hcVisited (set now : Nat) (v : Slice) : Slice := { v with hcPos := (set + 1) % 2048, hcDue := now + v.hcInt, hcWait := none }

/-- The state in which a visit reads its set. -/
def State.visited (s : State) (k : Nat) (f : Slice → Slice) : State := (bankServes k s).modSlice k f

theorem State.visited_frame (s : State) (k : Nat) (f : Slice → Slice) : ({ s.visited k f with slices := s.slices } : State) = s :=
  bankServes_frame k s

theorem State.slice_visited_of_ne {k j : Nat} (h : j ≠ k) (s : State) (f : Slice → Slice) : (s.visited k f).slice j = s.slice j := by
  rw [State.visited, State.slice_modSlice, if_neg h, slice_bankServes_of_ne h]

/-- What a visit takes from the bank is in the slots and the counters of the slice. -/
theorem bankServes_slots (k : Nat) (s : State) : ∃ p q, (bankServes k s).slice k = { s.slice k with perf := p, slots := q } := by
  rw [slice_bankServes]
  split
  · exact ⟨_, _, rfl⟩
  · exact ⟨(s.slice k).perf, (s.slice k).slots, rfl⟩

theorem State.slice_visited_self (s : State) (k : Nat) (f : Slice → Slice) : (s.visited k f).slice k = f ((bankServes k s).slice k) := by
  rw [State.visited, State.slice_modSlice, if_pos rfl]

theorem State.slice_sfVisited (s : State) (k set : Nat) :
    ((s.visited k (Slice.sfVisited set s.now)).slice k).sfPos = (set + 1) % 4096 ∧
    ((s.visited k (Slice.sfVisited set s.now)).slice k).sfDue = s.now + (s.slice k).sfInt ∧
    ((s.visited k (Slice.sfVisited set s.now)).slice k).sfWait = none ∧
    { (s.visited k (Slice.sfVisited set s.now)).slice k with
      sfPos := (s.slice k).sfPos, sfDue := (s.slice k).sfDue, sfWait := (s.slice k).sfWait } = (bankServes k s).slice k := by
  obtain ⟨p, q, h⟩ := bankServes_slots k s
  rw [State.slice_visited_self, h]
  exact ⟨rfl, rfl, rfl, rfl⟩

theorem State.slice_hcVisited (s : State) (k set : Nat) :
    ((s.visited k (Slice.hcVisited set s.now)).slice k).hcPos = (set + 1) % 2048 ∧
    ((s.visited k (Slice.hcVisited set s.now)).slice k).hcDue = s.now + (s.slice k).hcInt ∧
    ((s.visited k (Slice.hcVisited set s.now)).slice k).hcWait = none ∧
    { (s.visited k (Slice.hcVisited set s.now)).slice k with
      hcPos := (s.slice k).hcPos, hcDue := (s.slice k).hcDue, hcWait := (s.slice k).hcWait } = (bankServes k s).slice k := by
  obtain ⟨p, q, h⟩ := bankServes_slots k s
  rw [State.slice_visited_self, h]
  exact ⟨rfl, rfl, rfl, rfl⟩

/-! ### The snoop-filter scrubber -/

theorem execSfScrubVisit_of_due {s : State} {k : Nat} (hw : s.works k = true) (hi : (s.slice k).sfInt ≠ 0) (hd : (s.slice k).sfDue ≤ s.now)
    (hf : s.bankFree k ((s.slice k).sfWait.getD s.time.cycles) = true) (hr : s.scrubWaits k (s.slice k).sfPos = false) :
    exec (.sfScrubVisit k) s = .next (sfReadSet k (s.slice k).sfPos accScrub (sfParityCheck k (s.slice k).sfPos accScrub
      (s.visited k (Slice.sfVisited (s.slice k).sfPos s.now)))) :=
  congrArg Host.Outcome.next (if_pos (by simp [hw, hi, hd, hf, hr]))

theorem execSfScrubVisit_of_busy {s : State} {k : Nat} (hf : ¬s.bankFree k ((s.slice k).sfWait.getD s.time.cycles) = true) :
    exec (.sfScrubVisit k) s = .next s :=
  congrArg Host.Outcome.next (if_neg (by simp [hf]))

theorem execSfScrubVisit_of_early {s : State} {k : Nat} (h : (s.slice k).sfInt = 0 ∨ s.now < (s.slice k).sfDue) :
    exec (.sfScrubVisit k) s = .next s := by
  refine congrArg Host.Outcome.next (if_neg ?_)
  rcases h with h | h
  · simp [h]
  · simp [Nat.not_le.mpr h]

/-! ### The home-cache scrubber -/

/-- The tags and lines of the scrubber's set that can not be corrected (R234, R235). -/
def Slice.lostOnPatrol (v : Slice) : Nat := ((List.range 32).filter (fun t => v.tagBad v.hcPos t || v.dataLost v.hcPos t)).length

theorem execHcScrubVisit_of_due {s : State} {k : Nat} (hw : s.works k = true) (hi : (s.slice k).hcInt ≠ 0) (hd : (s.slice k).hcDue ≤ s.now)
    (hf : s.bankFree k ((s.slice k).hcWait.getD s.time.cycles) = true)
    (hr : (s.slice k).lostOnPatrol = 0 ∨ s.homeUse k + (s.slice k).lostOnPatrol ≤ 16) :
    let set := (s.slice k).hcPos
    let u := s.visited k (Slice.hcVisited set s.now)
    exec (.hcScrubVisit k) s = .next (readMirror k set accScrub (if (s.slice k).hcinit then scrubWords k set
      ((readCtl k set accScrub (u.each (List.range 32) (readTag k set accScrub))).each (List.range 32) (patrolData k set)) else u)) := by
  unfold Slice.lostOnPatrol at hr
  exact congrArg Host.Outcome.next (if_pos (by simpa [hw, hi, hd, hf] using hr))

theorem execHcScrubVisit_of_busy {s : State} {k : Nat} (hf : ¬s.bankFree k ((s.slice k).hcWait.getD s.time.cycles) = true) :
    exec (.hcScrubVisit k) s = .next s :=
  congrArg Host.Outcome.next (if_neg (by simp [hf]))

/-- A visit waits while the home-flow share has no room for what it would start (R110, R235). -/
theorem execHcScrubVisit_of_full {s : State} {k : Nat} (h : (s.slice k).lostOnPatrol ≠ 0) (hr : 16 < s.homeUse k + (s.slice k).lostOnPatrol) :
    exec (.hcScrubVisit k) s = .next s := by
  unfold Slice.lostOnPatrol at h hr
  refine congrArg Host.Outcome.next (if_neg ?_)
  simp only [Bool.and_eq_true, Bool.or_eq_true, beq_iff_eq, decide_eq_true_eq]
  exact fun e => e.2.elim h (Nat.not_le.mpr hr)

theorem execHcScrubVisit_of_early {s : State} {k : Nat} (h : (s.slice k).hcInt = 0 ∨ s.now < (s.slice k).hcDue) :
    exec (.hcScrubVisit k) s = .next s := by
  refine congrArg Host.Outcome.next (if_neg ?_)
  rcases h with h | h
  · simp [h]
  · simp [Nat.not_le.mpr h]

/-! ### The ageing walk -/

/-- Everything of a slice but what its array errors leave. -/
def ErrsOnly (v w : Slice) : Prop := { w with errs := v.errs, remaps := v.remaps, hist := v.hist, remapFull := v.remapFull } = v

theorem ErrsOnly.walkPos {v w : Slice} (h : ErrsOnly v w) : w.walkPos = v.walkPos :=
  have e := congrArg Slice.walkPos h
  e

theorem ErrsOnly.hcTag {v w : Slice} (h : ErrsOnly v w) : w.hcTag = v.hcTag :=
  have e := congrArg Slice.hcTag h
  e

theorem ErrsOnly.sf {v w : Slice} (h : ErrsOnly v w) : w.sf = v.sf :=
  have e := congrArg Slice.sf h
  e

theorem ErrsOnly.hcCtl {v w : Slice} (h : ErrsOnly v w) : w.hcCtl = v.hcCtl :=
  have e := congrArg Slice.hcCtl h
  e

theorem errsOnly_heal_remember (v : Slice) (array addr : Nat) : ErrsOnly v ((v.heal array addr).remember array addr) := by
  unfold ErrsOnly Slice.heal Slice.remember
  rfl

theorem ErrsOnly.addRemap {v w : Slice} (h : ErrsOnly v w) (r : Remap) : ErrsOnly v (w.addRemap r) := h

/-- A corrected word leaves the contents of every array (R234, R237). -/
theorem correctWord_slice (k array addr acc : Nat) (s : State) (j : Nat) :
    ErrsOnly (s.slice j) ((correctWord k array addr acc s).slice j) ∧ (j ≠ k → (correctWord k array addr acc s).slice j = s.slice j) := by
  unfold correctWord
  extract_lets v again mapped r full tell v₁ v₂ v₃ s₁ s₂ s₃
  have h₁ : ErrsOnly v v₁ := errsOnly_heal_remember v array addr
  have h₂ : ErrsOnly v v₂ := by
    unfold v₂
    split
    · exact h₁.addRemap r
    · exact h₁
  have h₃ : ErrsOnly v v₃ := by
    unfold v₃
    split
    · exact h₂
    · exact h₂
  have hs : (if tell = true then raise { src := 0x09, detail := .array array addr k 0, acc := acc } s₃ else s₃).slice j = s₁.slice j := by
    unfold s₃ s₂
    split <;> split <;> simp
  rw [hs, State.slice_setSlice]
  split
  next h => exact ⟨h ▸ h₃, fun hj => absurd h hj⟩
  next => exact ⟨rfl, fun _ => rfl⟩

/-- A read of a control word leaves the tags and the filter of its slice, and every other control word (R234). -/
structure CtlOnly (set : Nat) (v w : Slice) : Prop where
  walkPos : w.walkPos = v.walkPos
  hcTag : w.hcTag = v.hcTag
  sf : w.sf = v.sf
  ctlAt : ∀ i, i ≠ set → w.ctlAt i = v.ctlAt i

theorem ErrsOnly.ctlOnly {v w : Slice} (h : ErrsOnly v w) (set : Nat) : CtlOnly set v w :=
  ⟨h.walkPos, h.hcTag, h.sf, fun i _ => by simp [Slice.ctlAt, h.hcCtl]⟩

theorem Slice.setCtl_ctlOnly (v : Slice) (set : Nat) (c : HcCtl) : CtlOnly set v (v.setCtl set c) :=
  ⟨rfl, rfl, rfl, fun i hi => by rw [Slice.ctlAt_setCtl, if_neg hi]⟩

/-- A read of a control word rebuilds it from the tags, corrects it, or leaves it (R234). -/
theorem readCtl_cases (k set acc : Nat) (s : State) :
    (∃ ev c, readCtl k set acc s = raise ev (s.setSlice k ((s.slice k).setCtl set c))) ∨
      readCtl k set acc s = correctWord k 3 set acc s ∨ readCtl k set acc s = s := by
  unfold readCtl
  extract_lets v lost n
  split
  · exact .inl ⟨_, _, rfl⟩
  · split
    · exact .inr (.inl rfl)
    · exact .inr (.inr rfl)

theorem readCtl_slice (k set acc : Nat) (s : State) : CtlOnly set (s.slice k) ((readCtl k set acc s).slice k) := by
  obtain ⟨ev, c, h⟩ | h | h := readCtl_cases k set acc s <;> rw [h]
  · rw [slice_raise, State.slice_setSlice, if_pos rfl]
    exact Slice.setCtl_ctlOnly _ _ _
  · exact (correctWord_slice k 3 set acc s k).1.ctlOnly set
  · exact ⟨rfl, rfl, rfl, fun _ _ => rfl⟩

theorem readCtl_slice_of_ne {k j : Nat} (hj : j ≠ k) (set acc : Nat) (s : State) : (readCtl k set acc s).slice j = s.slice j := by
  obtain ⟨ev, c, h⟩ | h | h := readCtl_cases k set acc s <;> rw [h]
  · rw [slice_raise, State.slice_setSlice, if_neg hj]
  · exact (correctWord_slice k 3 set acc s j).2 hj

/-- A control word without an error, which counts no more Dirty lines than ways, is read as it is (R234). -/
theorem readCtl_of_clean {k set acc : Nat} {s : State} (he : (s.slice k).errAt 3 set = none) (hd : ((s.slice k).ctlAt set).dcnt.toNat ≤ 16) :
    readCtl k set acc s = s := by
  simp [readCtl, he, Nat.not_lt.mpr hd]

/-- The slice that a step of the ageing walk leaves, once the control word of its set is read (R219). -/
def Slice.aged (set : Nat) (v : Slice) : Slice := { (v.setCtl set { v.ctlAt set with nru := 0 }) with walkPos := v.walkPos + 1 }

theorem execNruAgeingWalk_of_due {s : State} {k : Nat} (hn : s.pol.nru = true) (hw : s.works k = true)
    (hd : (s.slice k).walkFrom + 64 * ((s.slice k).walkPos + 1) ≤ s.time.cycles) : exec (.nruAgeingWalk k) s =
      .next ((readCtl k ((s.slice k).walkPos % 2048) accInt s).modSlice k (Slice.aged ((s.slice k).walkPos % 2048))) :=
  congrArg Host.Outcome.next (if_pos (by simp [hn, hw, hd]))

theorem execNruAgeingWalk_of_random {s : State} {k : Nat} (hn : s.pol.nru = false) : exec (.nruAgeingWalk k) s = .next s :=
  congrArg Host.Outcome.next (if_neg (by simp [hn]))

theorem Slice.aged_walkPos (set : Nat) (v : Slice) : (v.aged set).walkPos = v.walkPos + 1 := rfl
theorem Slice.aged_hcTag (set : Nat) (v : Slice) : (v.aged set).hcTag = v.hcTag := rfl
theorem Slice.aged_sf (set : Nat) (v : Slice) : (v.aged set).sf = v.sf := rfl

theorem Slice.aged_ctlAt (set : Nat) (v : Slice) (i : Nat) :
    (v.aged set).ctlAt i = if i = set then { v.ctlAt set with nru := 0 } else v.ctlAt i :=
  Slice.ctlAt_setCtl v set _ i

/-! ### OPEN resolutions -/

theorem execOpenLineResolve_idle {s : State} {k e : Nat} {t : Txn} (ht : (s.slice k).txn e = some t) (hk : t.kind = .openRes)
    (hw : s.works k = true) (hp : t.phase ≠ .running) :
    (t.cands = [] → exec (.openLineResolve k e) s = .next (endOpen k t s)) ∧
    (∀ l ls, t.cands = l :: ls → exec (.openLineResolve k e) s = .next (takeUp k t l s)) := by
  change (_ → execOpenLineResolve k e s = _) ∧ (∀ l ls, _ → execOpenLineResolve k e s = _)
  constructor
  · intro hc
    simp [execOpenLineResolve, ht, hk, hw, hp, hc]
  · intro l ls hc
    simp [execOpenLineResolve, ht, hk, hw, hp, hc]

theorem execOpenLineResolve_of_busy {s : State} {k e : Nat} {t : Txn} (ht : (s.slice k).txn e = some t) (hp : t.phase = .running)
    (hd : t.lineDone = false) : exec (.openLineResolve k e) s = .next s := by
  change execOpenLineResolve k e s = _
  simp [execOpenLineResolve, ht, hp, hd]

theorem execOpenLineResolve_done {s : State} {k e : Nat} {t t' : Txn} (ht : (s.slice k).txn e = some t) (hk : t.kind = .openRes)
    (hw : s.works k = true) (hp : t.phase = .running) (hd : t.lineDone = true) (ht' : ((closeLine k t s).slice k).txn e = some t') :
    (t'.cands = [] → exec (.openLineResolve k e) s = .next (endOpen k t' (closeLine k t s))) ∧
    (∀ l ls, t'.cands = l :: ls → exec (.openLineResolve k e) s = .next (takeUp k t' l (closeLine k t s))) := by
  change (_ → execOpenLineResolve k e s = _) ∧ (∀ l ls, _ → execOpenLineResolve k e s = _)
  constructor
  · intro hc
    simp [execOpenLineResolve, ht, hk, hw, hp, hd, ht', hc]
  · intro l ls hc
    simp [execOpenLineResolve, ht, hk, hw, hp, hd, ht', hc]

/-- Another transaction is active on the line that a resolution would take up. -/
theorem takeUp_of_active {k : Nat} {t : Txn} {l : LAddr} {s : State} (h : ∃ x ∈ (s.slice k).activeOn l, x.e ≠ t.e) : takeUp k t l s = s :=
  if_pos (.inr (by simpa using h))

theorem takeUp_of_free {k : Nat} {t : Txn} {l : LAddr} {s : State} (hp : t.phase ≠ .admission)
    (h : ∀ x ∈ (s.slice k).activeOn l, x.e = t.e) :
    takeUp k t l s = if t.counted || !((s.slice k).setFull (sfSet l)) then openLine k t l s else listOpen k t l s :=
  if_neg (not_or.mpr ⟨hp, by simpa using h⟩)

/-! ### The refresh of a mirror set -/

/-- The slice that is asked to rewrite a mirror set: the set is empty and its errors are forgotten (R225). -/
def Slice.mirrorEmptied (set : Nat) (v : Slice) : Slice :=
  let m := (List.range 16).foldl (fun (m : Slice) i => { m with mirror := tdel (set * 16 + i) m.mirror }.heal 4 (set * 16 + i)) v
  { m with refresh := m.refresh.filter (fun x => x != set) }

theorem Slice.mirrorEmptied_refresh (set : Nat) (v : Slice) : (v.mirrorEmptied set).refresh = v.refresh.filter (fun x => x != set) :=
  congrArg (List.filter _) (List.foldlRecOn (motive := fun m : Slice => m.refresh = v.refresh) _ _ rfl fun _ h _ _ => h)

theorem execMirrorRefresh_of_asked {s : State} {k set : Nat} (hr : (s.slice (buddy k)).refresh.contains set = true) (hw : s.works k = true)
    (hb : s.works (buddy k) = true) : exec (.mirrorRefresh k set) s =
      .next (raise { src := 0x07, detail := .array 4 (set * 16) (buddy k) 1, acc := accScrub }
        (((s.slice k).victims.filter (fun x => x.set == set)).foldl (fun s x => mirrorSet k set x.slot (hcLtag x.laddr) 2048 s)
          (((List.range 32).filter (fun t => ((s.slice k).tagAt set t).hst == hsDirty)).foldl
            (fun w t => mirrorSet k set t ((s.slice k).tagAt set t).ltag 2048 w) (s.modSlice (buddy k) (Slice.mirrorEmptied set))))) :=
  congrArg Host.Outcome.next (if_pos ⟨hr, hw, hb⟩)

theorem execMirrorRefresh_of_not_asked {s : State} {k set : Nat} (hr : (s.slice (buddy k)).refresh.contains set = false) :
    exec (.mirrorRefresh k set) s = .next s :=
  congrArg Host.Outcome.next (if_neg (fun h => Bool.false_ne_true (hr.symm.trans h.1)))

/-! ### The obligation -/

/-- Settles O34: each visit by whether it is due and finds the bank, then the steps of an OPEN resolution and the refresh. -/
theorem scrubAndOpenResolutions : Obligations.ScrubAndOpenResolutions := by
  unfold Obligations.ScrubAndOpenResolutions
  refine ⟨fun s k => ⟨?sfBusy, ?hcBusy, ?sf, ?sfEarly, ?idle, ?served, ?hc, ?hcEarly, ?walk, ?random⟩,
    fun s k e set => ⟨?openIdle, ?openRunning, ?takeUp, ?refresh, ?notAsked⟩⟩
  case sfBusy => exact fun h => execSfScrubVisit_of_busy (mt (bankFree_iff s k _).mp h)
  case hcBusy => exact fun h => execHcScrubVisit_of_busy (mt (bankFree_iff s k _).mp h)
  case sf =>
    intro hw hi hd hf hr
    refine ⟨s.visited k (Slice.sfVisited (s.slice k).sfPos s.now), execSfScrubVisit_of_due hw hi hd ((bankFree_iff s k _).mpr hf) hr, ?_⟩
    obtain ⟨hpos, hdue, hwait, hrest⟩ := s.slice_sfVisited k (s.slice k).sfPos
    exact ⟨hpos, hdue, hwait, hrest, fun j hj => State.slice_visited_of_ne hj s _, State.visited_frame s k _⟩
  case sfEarly => exact execSfScrubVisit_of_early
  case idle => exact bankServes_of_idle
  case served => exact fun h => ⟨by rw [slice_bankServes, if_pos ⟨rfl, h⟩], bankServes_frame k s⟩
  case hc =>
    intro lost hw hi hd hf
    refine ⟨fun hl hr => execHcScrubVisit_of_full hl hr, fun hr => ?_⟩
    have hexec := execHcScrubVisit_of_due hw hi hd ((bankFree_iff s k _).mpr hf) hr
    obtain ⟨hpos, hdue, hwait, hrest⟩ := s.slice_hcVisited k (s.slice k).hcPos
    refine ⟨s.visited k (Slice.hcVisited (s.slice k).hcPos s.now), hpos, hdue, hwait, hrest, fun j hj => State.slice_visited_of_ne hj s _,
      State.visited_frame s k _, fun h => ?_, fun h => ?_⟩
    · rw [hexec, if_neg (by simp [h])]
    · rw [hexec, if_pos h]
  case hcEarly => exact execHcScrubVisit_of_early
  case walk =>
    intro hn hw hd
    have hread := readCtl_slice k ((s.slice k).walkPos % 2048) accInt s
    refine ⟨_, execNruAgeingWalk_of_due hn hw hd, ?_⟩
    simp only [State.slice_modSlice, if_true, Slice.aged_walkPos, Slice.aged_hcTag, Slice.aged_sf, Slice.aged_ctlAt]
    refine ⟨by rw [hread.walkPos], trivial, fun i hi => by rw [if_neg hi, hread.ctlAt i hi], hread.hcTag, hread.sf,
      fun j hj => by rw [if_neg hj, readCtl_slice_of_ne hj], fun he hc => by rw [readCtl_of_clean he hc]; rfl⟩
  case random => exact execNruAgeingWalk_of_random
  case openIdle => exact fun t ht hk hw hp => execOpenLineResolve_idle ht hk hw hp
  case openRunning =>
    exact fun t ht hk hw hp => ⟨execOpenLineResolve_of_busy ht hp, fun hd t' ht' => execOpenLineResolve_done ht hk hw hp hd ht'⟩
  case takeUp =>
    refine fun t l => ⟨fun hp => if_pos (.inl hp), takeUp_of_active, fun hp ha => ⟨fun h => ?_, fun hc hf => ?_⟩⟩
    · rw [takeUp_of_free hp ha, if_pos (by simpa using h)]
    · rw [takeUp_of_free hp ha, if_neg (by simp [hc, hf])]
  case refresh =>
    intro hr hw hb
    refine ⟨s.modSlice (buddy k) (Slice.mirrorEmptied set), ?_, fun h => ?_, State.setSlice_frame s _ _, execMirrorRefresh_of_asked hr hw hb⟩
    · rw [State.slice_modSlice, if_pos rfl, Slice.mirrorEmptied_refresh]
    · rw [State.slice_modSlice, if_neg h.symm]
  case notAsked => exact execMirrorRefresh_of_not_asked

end Sys2Proof.Machine
end

section
/-! A router forwards what its arbitration grants (R260 to R271, R282, R285). -/

namespace Sys2Proof.Machine

/-! ### ROUTER_PACKET -/

theorem execRouterPacket_of_idle {s : State} {n o : Nat} {d : Bool}
    (h : (probeSend n s).gh.hasPort n o = false ∨ (probeSend n s).laneFree n o d = false ∨ (probeSend n s).arbitrate n o d = none) (err : LinkErr) :
    exec (.routerPacket n o d err) s = .next (probeSend n s) := by
  change execRouterPacket n o d err s = _
  unfold execRouterPacket
  dsimp only
  rcases h with h | h | h <;> simp [h]

theorem execRouterPacket_of_grant {s : State} {n o ip : Nat} {d : Bool} {p : Pkt} (hp : (probeSend n s).gh.hasPort n o = true)
    (hl : (probeSend n s).laneFree n o d = true) (hg : (probeSend n s).arbitrate n o d = some (ip, p)) (err : LinkErr) :
    exec (.routerPacket n o d err) s = .next (takePkt n o ip d p err (probeSend n s)) := by
  change execRouterPacket n o d err s = _
  simp [execRouterPacket, hp, hl, hg]

/-- An uncorrectable payload word goes on poisoned; the packet waits poisoned in its buffer until it is taken (R263). -/
theorem takePkt_datWord {p : Pkt} (h : p.payload = true) (n o ip : Nat) (d : Bool) (s : State) : ∃ u : State,
    takePkt n o ip d p .datWord s = forwardPkt n o ip d { p with msg := p.msg.poisoned s.fresh } (raise (routerEv 0x16 n ip p) u) ∧
    u.inputBuf n ip p.vc = lmodify (fun x => x == p) (fun _ => { p with msg := p.msg.poisoned s.fresh }) (s.inputBuf n ip p.vc) :=
  ⟨_, if_pos h, tget_tput_self _ _ _ _⟩

theorem takePkt_datWord_of_control {p : Pkt} (h : p.payload = false) (n o ip : Nat) (d : Bool) (s : State) :
    takePkt n o ip d p .datWord s = s :=
  if_neg (by simp [h])

/-- An uncorrectable control word loses the packet and the instance (R263). -/
theorem takePkt_control (n o ip : Nat) (d : Bool) (p : Pkt) (s : State) : ∃ u : State,
    takePkt n o ip d p .control s = loseInstance (raise { src := 0x22, detail := .misc 1 (Config.miscValue 0x22 1), acc := accInt } u) ∧
    u.inputBuf n ip p.vc = lremove (fun x => x == p) (s.inputBuf n ip p.vc) ∧ ({ u with mesh := s.mesh } : State) = s :=
  ⟨_, rfl, tget_tput_self _ _ _ _, rfl⟩

/-- The oldest trace record of a router enters the mesh when no packet waits there (R285, R286). -/
theorem probeSend_of_record {s : State} {n : Nat} {w : W64 × W64 × W64} {rest : List (W64 × W64 × W64)} (hb : (s.probe n).buf = w :: rest)
    (he : s.inputBuf n portSlice .mgt = []) : probeSend n s = State.sendHub
      { s with mesh := { s.mesh with probes := tput n { s.probe n with buf := rest } s.mesh.probes } } .mgt (n, portSlice) hubAt
      (.trace w.1 w.2.1 w.2.2) := by
  simp [probeSend, hb, he]

/-! ### The arbitration of an output -/

/-- What an output takes for its reserved slot: a GT packet of the class of the slot (R271, R272). -/
def State.slotGrant (s : State) (n o : Nat) (d : Bool) : Option (Nat × Pkt) :=
  s.candidate n o d (some (fld (s.battenSlot (s.mesh.battenOf n o)) 0 4)) .gt

/-- What an output takes of the channels of the hub: ERR before MGT, on the control lane, at most once in four cycles (R270). -/
def State.hubGrant (s : State) (n o : Nat) (d : Bool) : Option (Nat × Pkt) :=
  if !d && s.hubDue n o then orElse (s.hubFlit n o .err) (s.hubFlit n o .mgt) else none

/-- What an output takes of the other channels: GT first at a local output, then in turn (R269, R271). -/
def State.turnGrant (s : State) (n o : Nat) (d : Bool) : Option (Nat × Pkt) :=
  orElse (if o < 4 then none else s.candidate n o d none .gt)
    ((lanesFrom d (tget (fun _ => 6) s.mesh.rrVc (laneKey n o d))).findSome? (s.candidate n o d none))

theorem arbitrate_eq (s : State) (n o : Nat) (d : Bool) : s.arbitrate n o d =
    orElse (if o < 4 ∧ (s.battenSlot (s.mesh.battenOf n o)).getLsbD 4 = true then s.slotGrant n o d else none)
      (orElse (s.hubGrant n o d) (s.turnGrant n o d)) :=
  rfl

theorem arbitrate_of_reserved {s : State} {n o : Nat} {d : Bool} {x : Nat × Pkt} (ho : o < 4)
    (hb : (s.battenSlot (s.mesh.battenOf n o)).getLsbD 4 = true) (hr : s.slotGrant n o d = some x) : s.arbitrate n o d = some x := by
  rw [arbitrate_eq, if_pos ⟨ho, hb⟩, hr]
  rfl

theorem arbitrate_of_unreserved {s : State} {n o : Nat} {d : Bool}
    (h : 4 ≤ o ∨ (s.battenSlot (s.mesh.battenOf n o)).getLsbD 4 = false ∨ s.slotGrant n o d = none) :
    s.arbitrate n o d = orElse (s.hubGrant n o d) (s.turnGrant n o d) := by
  have hnone : (if o < 4 ∧ (s.battenSlot (s.mesh.battenOf n o)).getLsbD 4 = true then s.slotGrant n o d else none) = none := by
    rcases h with h | h | h
    · exact if_neg fun e => absurd e.1 (Nat.not_lt.mpr h)
    · exact if_neg fun e => Bool.false_ne_true (h.symm.trans e.2)
    · rw [h, ite_self]
  rw [arbitrate_eq, hnone]
  rfl

theorem hubGrant_of_due {s : State} {n o : Nat} (h : s.hubDue n o = true) :
    s.hubGrant n o false = orElse (s.hubFlit n o .err) (s.hubFlit n o .mgt) :=
  if_pos (by simp [h])

theorem hubGrant_of_none {s : State} {n o : Nat} {d : Bool}
    (h : d = true ∨ s.hubDue n o = false ∨ (s.hubFlit n o .err = none ∧ s.hubFlit n o .mgt = none)) : s.hubGrant n o d = none := by
  unfold State.hubGrant
  rcases h with h | h | ⟨he, hm⟩
  · exact if_neg (by simp [h])
  · exact if_neg (by simp [h])
  · rw [he, hm]
    exact ite_self _

theorem turnGrant_of_gt {s : State} {n o : Nat} {d : Bool} {x : Nat × Pkt} (ho : 4 ≤ o) (h : s.candidate n o d none .gt = some x) :
    s.turnGrant n o d = some x := by
  rw [State.turnGrant, if_neg (Nat.not_lt.mpr ho), h]
  rfl

theorem turnGrant_of_no_gt {s : State} {n o : Nat} {d : Bool} (h : o < 4 ∨ s.candidate n o d none .gt = none) : s.turnGrant n o d =
    (lanesFrom d (tget (fun _ => 6) s.mesh.rrVc (laneKey n o d))).findSome? (s.candidate n o d none) := by
  have hnone : (if o < 4 then none else s.candidate n o d none .gt) = none := by
    rcases h with h | h
    · exact if_pos h
    · rw [h, ite_self]
  rw [State.turnGrant, hnone]
  rfl

/-! ### The way to the next router -/

theorem MeshSt.took_inBuf (m : MeshSt) (c n o ip : Nat) (d : Bool) (p : Pkt) : (m.took c n o ip d p).inBuf = m.inBuf := by
  unfold MeshSt.took
  dsimp only
  split <;> rfl

theorem MeshSt.took_eject (m : MeshSt) (c n o ip : Nat) (d : Bool) (p : Pkt) : (m.took c n o ip d p).eject = m.eject := by
  unfold MeshSt.took
  dsimp only
  split <;> rfl

/-- The probe of a router changes what it keeps itself, in the mesh, and uses a free value (R284, R285). -/
theorem observe_frame (n ip : Nat) (p : Pkt) (s : State) : ({ observe n ip p s with mesh := s.mesh, fresh := s.fresh } : State) = s := by
  unfold observe
  dsimp only
  split <;> rfl

theorem observe_inBuf (n ip : Nat) (p : Pkt) (s : State) : (observe n ip p s).mesh.inBuf = s.mesh.inBuf := by
  unfold observe
  dsimp only
  split <;> rfl

theorem observe_eject (n ip : Nat) (p : Pkt) (s : State) : (observe n ip p s).mesh.eject = s.mesh.eject := by
  unfold observe
  dsimp only
  split <;> rfl

/-- The mesh in which a packet has left its input buffer. -/
def State.unbuffered (s : State) (n ip : Nat) (p : Pkt) : MeshSt :=
  { s.mesh with inBuf := tput (bufKey n ip p.vc) (lremove (fun x => x == p) (s.inputBuf n ip p.vc)) s.mesh.inBuf }

/-- The state in which the packet that an output takes has left its input buffer, before it is put anywhere. -/
def State.taken (s : State) (n o ip : Nat) (d : Bool) (p : Pkt) : State :=
  observe n ip p { s with mesh := MeshSt.took (s.unbuffered n ip p) s.time.cycles n o ip d p }

theorem State.taken_inBuf (s : State) (n o ip : Nat) (d : Bool) (p : Pkt) : (s.taken n o ip d p).mesh.inBuf =
    tput (bufKey n ip p.vc) (lremove (fun x => x == p) (s.inputBuf n ip p.vc)) s.mesh.inBuf :=
  (observe_inBuf n ip p _).trans (MeshSt.took_inBuf _ _ _ _ _ _ _)

theorem State.taken_eject (s : State) (n o ip : Nat) (d : Bool) (p : Pkt) : (s.taken n o ip d p).mesh.eject = s.mesh.eject :=
  (observe_eject n ip p _).trans (MeshSt.took_eject _ _ _ _ _ _ _)

theorem State.taken_frame (s : State) (n o ip : Nat) (d : Bool) (p : Pkt) :
    ({ s.taken n o ip d p with mesh := s.mesh, fresh := s.fresh } : State) = s :=
  congrArg (fun t : State => ({ t with mesh := s.mesh } : State)) (observe_frame n ip p _)

/-- A buffer of the mesh once a packet has left its input buffer. -/
theorem State.inputBuf_taken (s : State) (n o ip : Nat) (d : Bool) (p : Pkt) (m i : Nat) (vc : VC) : (s.taken n o ip d p).inputBuf m i vc =
    if bufKey m i vc = bufKey n ip p.vc then lremove (fun x => x == p) (s.inputBuf n ip p.vc) else s.inputBuf m i vc := by
  rw [State.inputBuf, State.taken_inBuf, tget_tput]
  rfl

/-- Puts a packet into an input buffer. -/
def State.enqueued (s : State) (n ip : Nat) (p : Pkt) : State :=
  { s with mesh := { s.mesh with inBuf := tput (bufKey n ip p.vc) (s.inputBuf n ip p.vc ++ [p]) s.mesh.inBuf } }

theorem State.inputBuf_enqueued (s : State) (n ip : Nat) (p : Pkt) (m i : Nat) (vc : VC) : (s.enqueued n ip p).inputBuf m i vc =
    if bufKey m i vc = bufKey n ip p.vc then s.inputBuf n ip p.vc ++ [p] else s.inputBuf m i vc :=
  tget_tput _ _ _ _ _

theorem forwardPkt_to_router {o : Nat} (ho : o < 4) (n ip : Nat) (d : Bool) (p : Pkt) (s : State) :
    forwardPkt n o ip d p s = (s.taken n o ip d p).enqueued (s.gh.beyond n o).1 (s.gh.beyond n o).2 p := by
  have hframe := congrArg State.gh (s.taken_frame n o ip d p)
  have hgh : (s.taken n o ip d p).gh = s.gh := hframe
  rw [← hgh]
  exact if_pos ho

/-! ### Delivery at the port of a slice -/

theorem deliverPkt_to_slice {n : Nat} {p : Pkt} {s : State} (hv : vcOfHub p.vc = false) (hd : (s.slice n).poweredDown = false)
    (h : s.works n = false ∨ ((∀ a b, p.msg ≠ .sfCopy a b) ∧ ∀ a b, p.msg ≠ .creditBack a b)) :
    deliverPkt n portSlice p s = s.eject n portSlice p := by
  unfold deliverPkt
  rw [if_neg (by simp [hd]), if_neg (by simp [hv]), if_pos rfl]
  split
  next sh es hm => rw [if_neg (by simpa using h.resolve_right fun e => e.1 _ _ hm)]
  next src c hm => rw [if_neg (by simpa using h.resolve_right fun e => e.2 _ _ hm)]
  next => rfl

theorem deliverPkt_to_dark_slice {n : Nat} {p : Pkt} {s : State} (hd : (s.slice n).poweredDown = true) :
    deliverPkt n portSlice p s = if p.tail then sliceOff n p s else s :=
  if_pos ⟨rfl, hd⟩

theorem sliceOff_of_req {n : Nat} {p : Pkt} {q : Req} {a : Nat} {b c : CredKind} (hm : p.msg = .req q a b c) (s : State) :
    sliceOff n p s = raise (routerEv 0x0D n portSlice p) (s.inject
      { vc := if p.vc = .gt then .gt else .rsp, dnode := p.snode, dport := p.sport, snode := n, sport := portSlice
        gtc := p.gtc, msg := .cmpErr q.aid q.txid 0 rsSliceOff }) := by
  simp only [sliceOff, hm]

/-- A packet that no answer goes to is discarded and counted (R24, R282). -/
theorem sliceOff_of_other {p : Pkt} (hm : ∀ q a b c, p.msg ≠ .req q a b c) (n : Nat) (s : State) :
    sliceOff n p s = raise (routerEv 0x0D n portSlice p)
      { s with mesh := { s.mesh with discards := tput n (tget (fun _ => 0) s.mesh.discards n + 1) s.mesh.discards } } := by
  unfold sliceOff
  cases h : p.msg with
  | req q a b c => exact absurd h (hm q a b c)
  | _ => rfl

/-! ### The obligation -/

/-- Settles O35: the grant, the arbitration in its order, the way to the next router, and the port of a slice. -/
theorem routerForwardsPackets : Obligations.RouterForwardsPackets := by
  unfold Obligations.RouterForwardsPackets
  refine fun s n o d err => ⟨⟨execRouterPacket_of_idle (err := err), fun ip p hp hl hg => ?granted⟩, fun w rest => probeSend_of_record,
    ⟨fun x => arbitrate_of_reserved, ?hub, ?turn⟩, ?router, fun p => ⟨deliverPkt_to_slice, ?body, ?request, ?other⟩⟩
  case granted =>
    have hexec (err : LinkErr) := execRouterPacket_of_grant hp hl hg err
    refine ⟨hexec .none, hexec .corrected, fun h => ?_, fun h => ?_, ?_⟩
    · obtain ⟨u, hu, hbuf⟩ := takePkt_datWord h n o ip d (probeSend n s)
      exact ⟨u, (hexec .datWord).trans (congrArg _ hu), hbuf⟩
    · exact (hexec .datWord).trans (congrArg _ (takePkt_datWord_of_control h n o ip d _))
    · obtain ⟨u, hu, hrest⟩ := takePkt_control n o ip d p (probeSend n s)
      exact ⟨u, (hexec .control).trans (congrArg _ hu), hrest⟩
  case hub =>
    rintro h rfl hdue
    rw [arbitrate_of_unreserved h, hubGrant_of_due hdue]
    refine ⟨fun x he => ?_, fun x he hm => ?_⟩
    · rw [he]; rfl
    · rw [he, hm]; rfl
  case turn =>
    intro h hhub
    rw [arbitrate_of_unreserved h, hubGrant_of_none hhub]
    exact ⟨fun x ho hc => turnGrant_of_gt ho hc, fun hc => turnGrant_of_no_gt hc⟩
  case router =>
    intro ip p ho hne
    dsimp only
    rw [forwardPkt_to_router ho]
    refine ⟨?_, ?_, s.taken_eject n o ip d p, s.taken_frame n o ip d p⟩
    · rw [State.inputBuf_enqueued, if_neg hne.symm, State.inputBuf_taken, if_pos rfl]
    · rw [State.inputBuf_enqueued, if_pos rfl, State.inputBuf_taken, if_neg hne]
  case body => exact fun hd ht => (deliverPkt_to_dark_slice hd).trans (if_neg (by simp [ht]))
  case request =>
    intro q a b c hd ht hm
    exact ⟨_, (deliverPkt_to_dark_slice hd).trans ((if_pos ht).trans (sliceOff_of_req hm s)), rfl⟩
  case other =>
    intro hd ht hm
    exact ⟨_, (deliverPkt_to_dark_slice hd).trans ((if_pos ht).trans (sliceOff_of_other hm n s)), rfl, tget_tput_self _ _ _ _⟩

end Sys2Proof.Machine
end

section
/-! Package-wide changes: what a message to several hubs leaves, what issuing a change leaves, and the commit of the region table
(R31, R35 to R39, R315, R531). -/

namespace Sys2Proof.Machine

/-! ### Messages to several hubs, and the issue of a change -/

/-- Messages to several hubs change the mesh and what the block has sent, and use free values. -/
theorem State.sendMgts_frame (l : List Nat) (m : State → MgtMsg) (s : State) :
    ({ l.foldl (fun s i => s.sendMgt i (m s)) s with mesh := s.mesh, fresh := s.fresh, out := s.out } : State) = s :=
  List.foldlRecOn (motive := fun t : State => ({ t with mesh := s.mesh, fresh := s.fresh, out := s.out } : State) = s) l _ rfl
    fun t h i _ => (congrArg (fun u : State => ({ u with mesh := s.mesh, fresh := s.fresh, out := s.out } : State)) (t.sendMgt_frame i (m t))).trans h

/-- Issuing a change is a matter of the package state and of what is sent (R315). -/
theorem genIssue_frame (c : GenChange) (d : Nat) (s : State) :
    ({ genIssue c d s with pkg := s.pkg, mesh := s.mesh, fresh := s.fresh, out := s.out } : State) = s := by
  unfold genIssue
  dsimp only
  split
  · rfl
  · exact congrArg (fun u : State => ({ u with pkg := s.pkg } : State)) (State.sendMgts_frame _ _ _)

@[simp] theorem genIssue_map (c : GenChange) (d : Nat) (s : State) : (genIssue c d s).map = s.map :=
  have h := congrArg State.map (genIssue_frame c d s)
  h

/-! ### The checks of a commit -/

/-- A write of GO through MGMTP commits the staging table while no commit is in progress (R35, R531). -/
theorem execRegionCommit_of_go {s : State} {v : BitVec 32} (hr : s.rst.inReset = false) (hv : bit v 0 = true) (hc : s.map.commit = none)
    (pq priv : Bool) : exec (.regionCommit .mgmtp v pq priv) s = .next (regionGo pq (s.answer .mgmtp false 0)) := by
  refine congrArg Host.Outcome.next ((mgmtWrite_mgmtp _ hr).trans (if_pos ?_))
  change (bit v 0 && s.map.commit.isNone) = true
  simp [hv, hc]

theorem execRegionCommit_of_idle {s : State} {v : BitVec 32} (hr : s.rst.inReset = false) (h : bit v 0 = false ∨ s.map.commit ≠ none)
    (pq priv : Bool) : exec (.regionCommit .mgmtp v pq priv) s = .next (s.answer .mgmtp false 0) := by
  refine congrArg Host.Outcome.next ((mgmtWrite_mgmtp _ hr).trans (if_neg ?_))
  change ¬(bit v 0 && s.map.commit.isNone) = true
  rcases h with h | h <;> simp [h]

theorem regionGo_of_formatBad {s : State} (hf : regionFormatBad s s.map.stage = true) (pq : Bool) :
    regionGo pq s = { s with map := { s.map with result := resFormat } } :=
  if_pos hf

/-- A table that changes live granules is rejected while an agent is not quiesced (R37). -/
theorem regionGo_of_live {s : State} {pq : Bool} (hf : regionFormatBad s s.map.stage = false)
    (ha : regionOnlyAdds s.map.active s.map.stage = false) (hq : s.unquiesced ≠ 0 ∨ pq = false) :
    regionGo pq s = { s with map := { s.map with result := resLive } } := by
  refine (if_neg (by simp [hf])).trans (if_pos ?_)
  rcases hq with hq | hq <;> simp [ha, hq]

/-- The table may take effect as far as the agents are concerned: it only adds entries, or every agent is quiesced (R37). -/
abbrev State.commitQuiet (s : State) (pq : Bool) : Prop :=
  regionOnlyAdds s.map.active s.map.stage = true ∨ (s.unquiesced = 0 ∧ pq = true)

theorem State.commitQuiet.not_live {s : State} {pq : Bool} (h : s.commitQuiet pq) :
    ¬(!(regionOnlyAdds s.map.active s.map.stage) && !(s.unquiesced == 0 && pq)) = true := by
  rcases h with h | ⟨hu, hp⟩
  · simp [h]
  · simp [hu, hp]

theorem regionGo_of_lost {s : State} {pq : Bool} {h : GenHold} (hf : regionFormatBad s s.map.stage = false) (hq : s.commitQuiet pq)
    (hh : s.pendingHold .region = some h) (hi : h.chg.issuer.toNat < s.self) :
    regionGo pq s = { s with map := { s.map with result := resLost } } := by
  refine (if_neg (by simp [hf])).trans ((if_neg hq.not_live).trans (if_pos ?_))
  simp [hh, hi]

/-- An accepted commit is in progress until its tick; the active table and RGEN stand (R35, R38). -/
theorem regionGo_map_of_accepted {s : State} {pq : Bool} (hf : regionFormatBad s s.map.stage = false) (hq : s.commitQuiet pq)
    (hh : ∀ h, s.pendingHold .region = some h → s.self ≤ h.chg.issuer.toNat) :
    (regionGo pq s).map = { s.map with commit := some { tbl := s.map.stage, tick := s.ahead 10000 } } := by
  have hlost : ¬(s.pendingHold .region).any (fun h => decide (h.chg.issuer.toNat < s.self)) = true := by
    cases hp : s.pendingHold .region with
    | none => simp
    | some h => simpa using hh h hp
  refine (congrArg State.map ((if_neg (by simp [hf])).trans ((if_neg hq.not_live).trans (if_neg hlost)))).trans ((genIssue_map _ _ _).trans ?_)
  cases s.pendingHold .region <;> rfl

theorem State.le_ahead (s : State) (n : Nat) : s.ptcNow + n ≤ s.ahead n := Nat.le_add_right _ _

/-! ### The activation -/

/-- Listing values at rising places sets each place of the list, and no other. -/
theorem tget_foldl_tset_zipIdx {α : Type} [DecidableEq α] (d : Nat → α) (l : List α) (k n : Nat) (t : Tbl α) :
    tget d ((l.zipIdx k).foldl (fun t p => tset d p.2 p.1 t) t) n =
      if k ≤ n then (l[n - k]?).getD (tget d t n) else tget d t n := by
  induction l generalizing k t with
  | nil => simp
  | cons a l ih =>
    rw [List.zipIdx_cons, List.foldl_cons, ih, tget_tset]
    rcases Nat.lt_trichotomy k n with h | h | h
    · obtain ⟨j, rfl⟩ := Nat.exists_eq_add_of_lt h
      have e : k + j + 1 - k = j + 1 := by omega
      have e' : k + j + 1 - (k + 1) = j := by omega
      rw [if_pos (by omega), if_neg (by omega), if_pos (by omega), e, e', List.getElem?_cons_succ]
    · subst h
      rw [if_neg (by omega), if_pos rfl, if_pos (Nat.le_refl k), Nat.sub_self, List.getElem?_cons_zero, Option.getD_some]
    · rw [if_neg (by omega), if_neg (by omega), if_neg (by omega)]

theorem regionAt_regionOfList (l : List (W64 × W64)) (n : Nat) : regionAt (regionOfList l) n = l.getD n (0, 0) := by
  unfold regionAt regionOfList
  rw [tget_foldl_tset_zipIdx, if_pos (Nat.zero_le n), List.getD_eq_getElem?_getD]
  rfl

theorem execRegionTableActivate_of_due {s : State} {h : GenHold} {l : List (W64 × W64)} (hh : s.dueHold .region = some h)
    (hl : h.chg.payload = .region l) : exec .regionTableActivate s = .next (applyRegion l h.chg.issuer s) := by
  change execRegionTableActivate s = _
  simp only [execRegionTableActivate, hh, hl]

/-! ### The obligation -/

/-- Settles O14: the checks of a commit in their order, and what the activation leaves of the map. -/
theorem regionTableCommits : Obligations.RegionTableCommits := by
  unfold Obligations.RegionTableCommits
  intro s v pq priv hr a
  refine ⟨fun hv hc hf => ?format, fun hv hc hf ha hq => ?live, fun hv hc hf hq hh => ?accepted, fun h => execRegionCommit_of_idle hr h pq priv,
    fun hv hc hf hq ⟨h, hh, hi⟩ => ?lost, fun h l hh hl _ => ?active⟩
  case format => exact (execRegionCommit_of_go hr hv hc pq priv).trans (congrArg _ (regionGo_of_formatBad (s := a) hf pq))
  case live => exact (execRegionCommit_of_go hr hv hc pq priv).trans (congrArg _ (regionGo_of_live hf ha hq))
  case accepted =>
    have hm := regionGo_map_of_accepted (s := a) hf hq hh
    refine ⟨_, a.ahead 10000, execRegionCommit_of_go hr hv hc pq priv, ?_, a.le_ahead 10000, ?_, ?_⟩ <;> (rw [hm]; rfl)
  case lost => exact (execRegionCommit_of_go hr hv hc pq priv).trans (congrArg _ (regionGo_of_lost hf hq hh hi))
  case active =>
    exact ⟨_, execRegionTableActivate_of_due hh hl, rfl, regionAt_regionOfList l, fun hi => by simp [applyRegion, hi],
      fun hi => by simp [applyRegion, hi], rfl, rfl⟩

end Sys2Proof.Machine
end

section
/-! The generation protocol at issuer and members: PREP, ACK, ARM, ABORT and T of a package-wide change, and the change of the time
source (R39, R315, R316, R319, R434). -/

namespace Sys2Proof.Machine

/-! ### Lists -/

/-- The element that replaces the first one a search finds is found in its place. -/
theorem find?_lmodify_const {α : Type} {p : α → Bool} {y : α} (hy : p y = true) {l : List α} {x : α} (hx : l.find? p = some x) :
    (lmodify p (fun _ => y) l).find? p = some y := by
  induction l with
  | nil => exact absurd hx nofun
  | cons a l ih =>
    unfold lmodify
    by_cases ha : p a = true
    · rw [if_pos ha, List.find?_cons_of_pos hy]
    · rw [if_neg ha, List.find?_cons_of_neg ha]
      exact ih (by rwa [List.find?_cons_of_neg ha] at hx)

/-! ### Messages -/

/-- What is sent to a peer that has a route leaves the block last (R288, R289). -/
theorem State.sendMgt_out {s : State} {i : Nat} (hi : i ≠ s.inst.toNat) (hp : s.peerPort i ≠ none) (m : MgtMsg) :
    (s.sendMgt i m).out = s.out ++ [.mgt (BitVec.ofNat 3 i) m] := by
  obtain ⟨r, hr⟩ := Option.ne_none_iff_exists'.mp hp
  unfold State.sendMgt State.sendMgtFrom
  rw [if_neg hi, hr]
  exact State.sendHub_out _ _ _ _ _

@[simp] theorem answerPrep_pkg (c : GenChange) (ok : Bool) (s : State) : (answerPrep c ok s).pkg = s.pkg := State.sendMgt_pkg _ _ _

/-! ### PREP -/

/-- The map of a regroup is a matter of the policies (R184). -/
theorem writePrep_frame (c : GenChange) (s : State) : ({ writePrep c s with pol := s.pol } : State) = s := by
  unfold writePrep
  split <;> rfl

/-- A change with room is stored and acknowledged, unless it cannot be taken (R315). -/
theorem execGenPrep_of_room {s : State} {c : GenChange} (hi : c.issuer ≠ s.inst)
    (hroom : ∀ h, s.pendingHold c.kind = some h → c.issuer.toNat ≤ h.chg.issuer.toNat) (hok : s.prepOk c = true) :
    exec (.genPrep c) s = .next (takePrep c s) := by
  refine congrArg Host.Outcome.next ((if_neg hi).trans (if_pos ?_))
  cases hp : s.pendingHold c.kind with
  | none => simp [hok]
  | some h => simp [hok, givesWay, hroom h hp]

theorem execGenPrep_of_not_ok {s : State} {c : GenChange} (hi : c.issuer ≠ s.inst) (hok : s.prepOk c = false) :
    exec (.genPrep c) s = .next (answerPrep c false s) :=
  congrArg Host.Outcome.next ((if_neg hi).trans (if_neg (by simp [hok])))

/-- A change that overlaps one of a lower instance ID is refused (R39, R315). -/
theorem execGenPrep_of_lower {s : State} {c : GenChange} {h : GenHold} (hi : c.issuer ≠ s.inst) (hp : s.pendingHold c.kind = some h)
    (hl : h.chg.issuer.toNat < c.issuer.toNat) : exec (.genPrep c) s = .next (answerPrep c false s) :=
  congrArg Host.Outcome.next ((if_neg hi).trans (if_neg (by simp [hp, givesWay, Nat.not_le.mpr hl])))

/-- What is stored with the change, before the acknowledgement leaves. -/
abbrev State.stored (s : State) (c : GenChange) : State :=
  writePrep c { s with pkg := { s.pkg with hold := s.pkg.hold ++ [{ chg := c }] } }

theorem State.stored_pkg (s : State) (c : GenChange) : (s.stored c).pkg = { s.pkg with hold := s.pkg.hold ++ [{ chg := c }] } :=
  have h := congrArg State.pkg (writePrep_frame c { s with pkg := { s.pkg with hold := s.pkg.hold ++ [{ chg := c }] } })
  h

theorem State.stored_frame (s : State) (c : GenChange) : ({ s.stored c with pol := s.pol, pkg := s.pkg } : State) = s :=
  congrArg (fun u : State => ({ u with pkg := s.pkg } : State))
    (writePrep_frame c { s with pkg := { s.pkg with hold := s.pkg.hold ++ [{ chg := c }] } })

theorem takePrep_of_none {s : State} {c : GenChange} (hp : s.pendingHold c.kind = none) :
    takePrep c s = answerPrep c true (s.stored c) := by
  simp only [takePrep, hp]

theorem takePrep_of_peer {s : State} {c : GenChange} {h : GenHold} (hp : s.pendingHold c.kind = some h) (hi : h.chg.issuer ≠ s.inst) :
    takePrep c s = answerPrep c true ((s.dropHold h.chg).stored c) := by
  simp only [takePrep, hp, displace, if_neg hi]

/-- The acknowledgement of a stored change (R315). -/
theorem answerPrep_stored (s : State) (c : GenChange) (hi : c.issuer ≠ s.inst) :
    (answerPrep c true (s.stored c)).pkg.hold = s.pkg.hold ++ [{ chg := c }] ∧
    (s.peerPort c.issuer.toNat ≠ none →
      (answerPrep c true (s.stored c)).out.getLast? = some (.mgt (BitVec.ofNat 3 c.issuer.toNat) (.answer c.kind true))) ∧
    (answerPrep c true (s.stored c)).slices = s.slices ∧ (answerPrep c true (s.stored c)).map = s.map ∧
    (answerPrep c true (s.stored c)).prot = s.prot := by
  have hf := s.stored_frame c
  have hinst := congrArg State.inst hf
  have hport := congrArg (fun t : State => t.peerPort c.issuer.toNat) hf
  have hslices := congrArg State.slices hf
  have hmap := congrArg State.map hf
  have hprot := congrArg State.prot hf
  refine ⟨by rw [answerPrep_pkg, State.stored_pkg], fun hp => ?_, (State.sendMgt_slices _ _ _).trans hslices,
    (State.sendMgt_map _ _ _).trans hmap, (State.sendMgt_prot _ _ _).trans hprot⟩
  have hself : c.issuer.toNat ≠ (s.stored c).inst.toNat := fun e => hi ((BitVec.eq_of_toNat_eq e).trans hinst)
  have hroute : (s.stored c).peerPort c.issuer.toNat ≠ none := fun e => hp (hport.symm.trans e)
  unfold answerPrep
  rw [State.sendMgt_out hself hroute, List.getLast?_concat]

/-! ### An abort -/

/-- What an abort leaves at its issuer beyond the change itself is not about other changes (R39, R199, R276, R402, R434). -/
theorem onAbort_changes (k : GenKind) (why : AbortWhy) (s : State) :
    (onAbort k why s).pkg.hold = s.pkg.hold ∧ (onAbort k why s).pkg.issue = s.pkg.issue := by
  have ended (t : State) (c : Option Nat) (st d : Nat) : (t.endCmd c st d []).pkg = t.pkg :=
    have h := congrArg State.pkg (t.endCmd_frame c st d [])
    h
  have skipped (n : Nat) (t : State) : (skipRegroup n t).pkg = t.pkg :=
    have h := congrArg State.pkg (policyEvent_frame 2 0x02 0xFF n 0 (t.epoch % 65536) t)
    h
  cases k with
  | batten => cases why <;> simp [onAbort, ended]
  | epoch => simp [onAbort, ended]
  | bundle => cases h : s.pol.rgForced <;> simp [onAbort, h, skipped]
  | _ => exact ⟨rfl, rfl⟩

theorem keepGrowth_changes (c : GenChange) (s : State) :
    (keepGrowth c s).pkg.hold = s.pkg.hold ∧ (keepGrowth c s).pkg.issue = s.pkg.issue := by
  unfold keepGrowth
  split <;> exact ⟨rfl, rfl⟩

@[simp] theorem State.sendMgts_pkg (l : List Nat) (m : State → MgtMsg) (s : State) :
    (l.foldl (fun s i => s.sendMgt i (m s)) s).pkg = s.pkg :=
  have h := congrArg State.pkg (State.sendMgts_frame l m s)
  h

/-- An aborted change is neither held nor issued any more; every other one stays (R315). -/
theorem genAbort_changes (c : GenChange) (why : AbortWhy) (s : State) :
    (genAbort c why s).pkg.hold = s.pkg.hold.filter (fun h => decide (h.chg ≠ c)) ∧
    (genAbort c why s).pkg.issue = s.pkg.issue.filter (fun x => decide (x.chg.kind ≠ c.kind)) := by
  unfold genAbort
  constructor
  · rw [(keepGrowth_changes c _).1, (onAbort_changes c.kind why _).1, State.sendMgts_pkg]
    rfl
  · rw [(keepGrowth_changes c _).2, (onAbort_changes c.kind why _).2, State.sendMgts_pkg]
    rfl

theorem genAbort_discards (c : GenChange) (why : AbortWhy) (s : State) :
    (∀ h ∈ (genAbort c why s).pkg.hold, h.chg ≠ c) ∧ (genAbort c why s).issueOf c.kind = none := by
  obtain ⟨hhold, hissue⟩ := genAbort_changes c why s
  refine ⟨fun h hm => ?_, ?_⟩
  · rw [hhold] at hm
    simpa using (List.mem_filter.mp hm).2
  · unfold State.issueOf
    rw [hissue]
    refine List.find?_eq_none.mpr fun x hm => ?_
    simpa using (List.mem_filter.mp hm).2

/-! ### ACK -/

/-- The record of an acknowledgement of member `src` (R315). -/
abbrev GenIss.acked (x : GenIss) (src : BitVec 3) : GenIss := { x with acks := x.acks ||| (1#8 <<< src.toNat) }

theorem execGenAck_of_none {s : State} {g : GenKind} (hx : s.issueOf g = none) (src : BitVec 3) (ok : Bool) :
    exec (.genAck g src ok) s = .next s := by
  change execGenAck g src ok s = _
  simp only [execGenAck, hx]

theorem execGenAck_refused {s : State} {g : GenKind} {x : GenIss} (hx : s.issueOf g = some x) (src : BitVec 3) :
    exec (.genAck g src false) s = .next (genAbort x.chg .overlapped s) := by
  change execGenAck g src false s = _
  simp only [execGenAck, hx]
  rfl

/-- The last acknowledgement in time arms the change (R315). -/
theorem execGenAck_last {s : State} {g : GenKind} {x : GenIss} {src : BitVec 3} (hx : s.issueOf g = some x)
    (hall : (s.changePeers x.chg).all (fun i => bit (x.acked src).acks i) = true) (ht : s.ptcNow ≤ x.deadline) :
    exec (.genAck g src true) s = .next (armIssue (x.acked src) s) := by
  change execGenAck g src true s = _
  simp only [execGenAck, hx]
  exact congrArg Host.Outcome.next (if_pos (Bool.and_eq_true_iff.mpr ⟨hall, decide_eq_true ht⟩))

theorem execGenAck_not_last {s : State} {g : GenKind} {x : GenIss} {src : BitVec 3} (hx : s.issueOf g = some x)
    (hall : (s.changePeers x.chg).all (fun i => bit (x.acked src).acks i) = false) :
    exec (.genAck g src true) s = .next { s with pkg := { s.pkg with
      issue := lmodify (fun y => decide (y.chg.kind = g)) (fun _ => x.acked src) s.pkg.issue } } := by
  change execGenAck g src true s = _
  simp only [execGenAck, hx]
  refine congrArg Host.Outcome.next ((if_neg Bool.false_ne_true).trans (if_neg ?_))
  rw [hall, Bool.false_and]
  exact Bool.false_ne_true

theorem execGenAckDeadline_of_some {s : State} {g : GenKind} {x : GenIss} (hx : s.issueOf g = some x) :
    exec (.genAckDeadline g) s = .next (if x.deadline ≤ s.ptcNow then
      genAbort x.chg (.missing (((s.changePeers x.chg).find? (fun i => !(bit x.acks i))).getD 0)) s else s) := by
  change execGenAckDeadline g s = _
  simp only [execGenAckDeadline, hx]

theorem execGenAckDeadline_of_none {s : State} {g : GenKind} (hx : s.issueOf g = none) : exec (.genAckDeadline g) s = .next s := by
  change execGenAckDeadline g s = _
  simp only [execGenAckDeadline, hx]

/-! ### ARM and ABORT -/

/-- The state with one held change armed. -/
abbrev State.armHold (s : State) (h : GenHold) : State :=
  { s with pkg := { s.pkg with hold := lmodify (fun x => decide (x = h)) (fun x => { x with armed := true }) s.pkg.hold } }

/-- The first ARM of a held change arms it, and is relayed to the other members (R315). -/
theorem execGenArm_first {s : State} {g : GenKind} {src : BitVec 3} {h : GenHold} (hh : s.holdFrom g src = some h) (hi : src ≠ s.inst)
    (ha : h.armed = false) : exec (.genArm g src) s =
      .next ((s.changePeers h.chg).foldl (fun s i => s.sendMgt i (.arm g src)) (s.armHold h)) := by
  change execGenArm g src s = _
  simp only [execGenArm, hh]
  exact congrArg Host.Outcome.next ((if_pos (And.intro hi (by simp [ha]))).trans rfl)

theorem execGenArm_of_armed {s : State} {g : GenKind} {src : BitVec 3} {h : GenHold} (hh : s.holdFrom g src = some h)
    (ha : h.armed = true) : exec (.genArm g src) s = .next s := by
  change execGenArm g src s = _
  simp [execGenArm, hh, ha]

theorem execGenAbort_of_held {s : State} {g : GenKind} {src : BitVec 3} {h : GenHold} (hh : s.holdFrom g src = some h) (hi : src ≠ s.inst) :
    exec (.genAbort g src) s = .next (s.dropHold h.chg) := by
  change execGenAbort g src s = _
  simp [execGenAbort, hh, hi]

/-- ARM and ABORT of a change that is not held, or of this instance's own, change nothing (R315). -/
theorem execGenArm_execGenAbort_of_not_held {s : State} {g : GenKind} {src : BitVec 3} (h : s.holdFrom g src = none ∨ src = s.inst) :
    exec (.genArm g src) s = .next s ∧ exec (.genAbort g src) s = .next s := by
  change execGenArm g src s = _ ∧ execGenAbort g src s = _
  unfold execGenArm execGenAbort
  rcases h with h | rfl
  · simp [h]
  · cases s.holdFrom g s.inst <;> simp

/-! ### T -/

theorem execGenApply_of_due {s : State} {g : GenKind} {h : GenHold} (hh : s.dueHold g = some h) :
    exec (.genApply g) s = .next (applyChange h.chg s) := by
  change execGenApply g s = _
  simp only [execGenApply, hh]

theorem State.dueHold_eq_none {s : State} {g : GenKind} (h : ∀ x ∈ s.pkg.hold, x.chg.kind = g → x.armed = false ∨ s.ptcNow < x.chg.tick) :
    s.dueHold g = none := by
  refine List.find?_eq_none.mpr fun x hx => ?_
  by_cases hk : x.chg.kind = g
  · rcases h x hx hk with ha | ht
    · simp [State.isDue, ha]
    · simp [State.isDue, Nat.not_le.mpr ht]
  · simp [hk]

theorem execGenApply_of_none {s : State} {g : GenKind} (hh : s.dueHold g = none) : exec (.genApply g) s = .next s := by
  change execGenApply g s = _
  simp only [execGenApply, hh]

/-- A held change of another instance that is neither armed nor aborted by T - 1,000 is discarded (R315). -/
theorem execGenLost_of_late {s : State} {g : GenKind} {h : GenHold} (hh : s.pendingHold g = some h) (ha : h.armed = false)
    (hi : h.chg.issuer ≠ s.inst) (ht : h.chg.tick ≤ s.ptcNow + 1000) : exec (.genLost g) s = .next
      (raise { src := 0x21, detail := .misc (Config.miscValue 0x21 0 % 256) (Config.miscValue 0x21 1), acc := accInt } (s.dropHold h.chg)) := by
  change execGenLost g s = _
  simp only [execGenLost, hh]
  exact congrArg Host.Outcome.next (if_pos (by simp [ha, hi, ht]))

theorem execGenLost_of_kept {s : State} {g : GenKind} {h : GenHold} (hh : s.pendingHold g = some h)
    (hk : h.armed = true ∨ h.chg.issuer = s.inst ∨ s.ptcNow + 1000 < h.chg.tick) : exec (.genLost g) s = .next s := by
  change execGenLost g s = _
  simp only [execGenLost, hh]
  refine congrArg Host.Outcome.next (if_neg ?_)
  rcases hk with ha | hi | ht
  · simp [ha]
  · simp [hi]
  · simp [Nat.not_le.mpr ht]

theorem execGenLost_of_none {s : State} {g : GenKind} (hh : s.pendingHold g = none) : exec (.genLost g) s = .next s := by
  change execGenLost g s = _
  simp only [execGenLost, hh]

/-! ### The time source -/

theorem execTimeSourceChange_of_left {s : State} {src : BitVec 3} (h1 : s.pkg.timeSrc ≠ s.inst) (h2 : s.keepsLink s.pkg.timeSrc = false)
    (h3 : s.remaining.head? = some s.self) (h4 : src.toNat = s.nextSource) (h5 : s.holdOf .member = none) :
    exec (.timeSourceChange src) s = .next (genIssue
      { kind := .member, issuer := s.inst, tick := s.ahead 10000, payload := .timeSource src } (s.ahead 10000 - 5000) s.used) :=
  congrArg Host.Outcome.next (if_pos ⟨h1, by simp [h2], h3, h4, by simp [h5]⟩)

theorem execTimeSourceChange_of_linked {s : State} (h : s.keepsLink s.pkg.timeSrc = true) (src : BitVec 3) :
    exec (.timeSourceChange src) s = .next s :=
  congrArg Host.Outcome.next (if_neg (by simp [h]))

/-- The time source that has left is no member any more (R319). -/
theorem applySource_members (src : BitVec 3) (s : State) : bit (applySource src s).pkg.members s.pkg.timeSrc.toNat = false := by
  change (s.pkg.members &&& ~~~(1#8 <<< s.pkg.timeSrc.toNat)).getLsbD s.pkg.timeSrc.toNat = false
  simp

/-! ### The obligation -/

/-- Settles O43: each step of the protocol by the cases of what is held or issued. -/
theorem generationProtocol : Obligations.GenerationProtocol := by
  unfold Obligations.GenerationProtocol
  intro s g c src
  refine ⟨fun hi hp hok => ?stored, execGenPrep_of_not_ok, fun h hi hp => execGenPrep_of_lower hi hp, fun h hi hp hh hle hok => ?displaced,
    fun hx => ⟨execGenAck_of_none hx src true, execGenAckDeadline_of_none hx⟩,
    fun x hx => ⟨execGenAck_refused hx src, ⟨execGenAck_last hx, fun hall => ?recorded⟩, fun ht => ?late, fun ht => ?waits, genAbort_discards x.chg _ s⟩,
    fun h hh hi => ⟨fun ha => ?armed, execGenArm_of_armed hh, execGenAbort_of_held hh hi⟩, execGenArm_execGenAbort_of_not_held,
    fun h => execGenApply_of_due, fun h => execGenApply_of_none (State.dueHold_eq_none h),
    fun h hh => ⟨execGenLost_of_late hh, execGenLost_of_kept hh⟩, execGenLost_of_none,
    fun h1 h2 h3 h4 h5 => ⟨_, s.le_ahead 10000, execTimeSourceChange_of_left h1 h2 h3 h4 h5⟩, fun h => execTimeSourceChange_of_linked h src,
    rfl, applySource_members src s, rfl⟩
  case stored =>
    refine ⟨_, (execGenPrep_of_room hi (by simp [hp]) hok).trans (congrArg _ (takePrep_of_none hp)), answerPrep_stored s c hi⟩
  case displaced =>
    refine ⟨_, (execGenPrep_of_room hi (fun h' hp' => ?_) hok).trans (congrArg _ (takePrep_of_peer hp hh)),
      (answerPrep_stored (s.dropHold h.chg) c hi).1⟩
    rw [hp] at hp'
    exact Option.some.inj hp' ▸ hle
  case recorded =>
    have hk : decide ((x.acked src).chg.kind = g) = true := by simpa using List.find?_some hx
    exact ⟨_, execGenAck_not_last hx hall, find?_lmodify_const (p := fun y : GenIss => decide (y.chg.kind = g)) hk hx, rfl, rfl⟩
  case armed =>
    have hsent := congrArg State.slices (State.sendMgts_frame (s.changePeers h.chg) (fun _ => .arm g src) (s.armHold h))
    exact ⟨_, execGenArm_first hh hi ha, hsent, by rw [State.sendMgts_pkg]⟩
  case late => rw [execGenAckDeadline_of_some hx, if_pos ht]
  case waits => rw [execGenAckDeadline_of_some hx, if_neg (Nat.not_le.mpr ht)]

end Sys2Proof.Machine
end

section
/-! The steps of bring-up, and the boot push (R42, R441, R442, R496 to R499). -/

namespace Sys2Proof.Machine

/-! ### Doing something for each of several units -/

/-- What the turn of one unit establishes and every turn keeps holds after all turns. -/
theorem State.each_establishes {I P : State → Prop} {f : State → Nat → State} {k : Nat} (hI : ∀ s j, I s → I (f s j))
    (hf : ∀ s, I s → P (f s k)) (hP : ∀ s j, I s → P s → P (f s j)) {l : List Nat} (hk : k ∈ l) {s : State} (h : I s) : P (s.each l f) := by
  unfold State.each
  induction l generalizing s with
  | nil => exact absurd hk List.not_mem_nil
  | cons a l ih =>
    rcases List.mem_cons.mp hk with rfl | hk
    · exact (State.each_induction (fun t => I t ∧ P t) l f (fun t j ht => ⟨hI t j ht.1, hP t j ht.1 ht.2⟩) _ ⟨hI s _ h, hf s h⟩).2
    · exact ih hk (hI s a h)

/-- Changes of slices in turn leave everything but the slices. -/
theorem State.each_modSlice_frame (l : List Nat) (f : State → Slice → Slice) (s : State) :
    ({ s.each l (fun t k => t.modSlice k (f t)) with slices := s.slices } : State) = s :=
  State.each_induction (fun t => ({ t with slices := s.slices } : State) = s) l (fun t k => t.modSlice k (f t)) (fun _ _ h => h) s rfl

/-- Changes of links in turn leave everything but the links. -/
theorem State.each_modLink_frame (l : List Nat) (f : State → Ridge → Ridge) (s : State) :
    ({ s.each l (fun t k => t.modLink k (f t)) with rdg := s.rdg } : State) = s :=
  State.each_induction (fun t => ({ t with rdg := s.rdg } : State) = s) l (fun t k => t.modLink k (f t)) (fun _ _ h => h) s rfl

/-! ### The steps -/

/-- A measurement is a matter of the protection state (R441 to R443). -/
theorem measure_frame (comp : Nat) (ver : BitVec 32) (d : BitVec 384) (s : State) : ({ measure comp ver d s with prot := s.prot } : State) = s := by
  unfold measure
  split <;> rfl

/-- Bring-up is under way: out of reset, and not stopped by a failure (R495, R499). -/
def State.comingUp (s : State) : Prop := s.rst.inReset = false ∧ (s.rst.fail = 0 ∨ s.rst.bootSrc = 1)

theorem State.comingUp.goes {s : State} (h : s.comingUp) : ¬(s.rst.inReset || (s.rst.fail != 0 && s.rst.bootSrc != 1)) = true := by
  obtain ⟨hr, hf | hb⟩ := h
  · simp [hr, hf]
  · simp [hr, hb]

/-- The end of each step (R496). -/
theorem execBringupStepDone_at {s : State} (h : s.comingUp) :
    (s.rst.step = 1 → 64 ≤ s.time.cycles → exec .bringupStepDone s = .next (s.setStep 2)) ∧
    (s.rst.step = 2 → exec .bringupStepDone s = .next (endStep2 s)) ∧
    (s.rst.step = 3 → exec .bringupStepDone s = .next (endStep3 s)) ∧
    (s.rst.step = 4 → exec .bringupStepDone s = .next (endStep4 s)) ∧
    (s.rst.step = 5 → exec .bringupStepDone s = .next (endStep5 s)) ∧
    (s.rst.step = 6 → exec .bringupStepDone s = .next (endStep6 s)) ∧
    (s.rst.step = 7 → exec .bringupStepDone s = .next (s.setStep 8)) ∧
    (s.rst.step = 8 → exec .bringupStepDone s = .next { s with rst := { s.rst with step := 9, ready := true } }) := by
  refine ⟨fun hs ht => congrArg Host.Outcome.next ((if_neg h.goes).trans ?_), ?_, ?_, ?_, ?_, ?_, ?_, ?_⟩
  · rw [hs]
    exact if_neg (Nat.not_lt.mpr ht)
  all_goals
    intro hs
    refine congrArg Host.Outcome.next ((if_neg h.goes).trans ?_)
    simp only [hs]

/-! ### Step 2 -/

/-- The slices left enabled have powered up: residency counts, and step 3 begins (R496, R498, R507). -/
def State.slicesUp3 (s : State) : State :=
  let u := s.each s.trimEnabled (fun s k => s.modSlice k (fun v => { v with since := s.now }))
  { u with rst := { u.rst with sliceMask := BitVec.ofNat 64 (lsum (s.trimEnabled.map (fun k => 2 ^ k))), step := 3
                               wait := decide (u.rst.bootSrc = 1) } }

/-- The training of the links from step 2 on (R306). -/
def State.trainAll (s : State) : State :=
  s.each (List.range s.gh.ridgePorts) (fun s r => s.modLink r (fun v => { v with st := .training, since := s.now }))

theorem endStep2_of_up {s : State} (hl : s.rst.loading = false) (he : s.trimEnabled ≠ [])
    (hp : ∀ j ∈ s.trimEnabled, (s.slice j).st ≠ .poweringUp) :
    endStep2 s = if s.slicesUp3.rst.role = roleFree then s.slicesUp3 else s.slicesUp3.trainAll := by
  unfold endStep2
  refine (if_neg (by simp [hl, he])).trans ((if_neg ?_).trans rfl)
  simpa using hp

theorem State.slicesUp3_frame (s : State) : ({ s.slicesUp3 with slices := s.slices, rst := s.rst } : State) = s :=
  congrArg (fun t : State => ({ t with rst := s.rst } : State))
    (s.each_modSlice_frame s.trimEnabled (fun t v => { v with since := t.now }))

theorem State.slicesUp3_rst (s : State) : s.slicesUp3.rst.step = 3 ∧ s.slicesUp3.rst.wait = decide (s.rst.bootSrc = 1) ∧
    s.slicesUp3.rst.role = s.rst.role := by
  have hr := congrArg State.rst (s.each_modSlice_frame s.trimEnabled (fun t v => { v with since := t.now }))
  have hb := congrArg RstSt.bootSrc hr
  have hrole := congrArg RstSt.role hr
  exact ⟨rfl, congrArg (fun b => decide (b = 1)) hb, hrole⟩

theorem State.slicesUp3_since (s : State) {j : Nat} (hj : j ∈ s.trimEnabled) : (s.slicesUp3.slice j).since = s.now := by
  change ((s.each s.trimEnabled (fun s k => s.modSlice k (fun v => { v with since := s.now }))).slice j).since = s.now
  refine State.each_establishes (I := fun t => t.time = s.time) (P := fun t => (t.slice j).since = s.now)
    (f := fun t k => t.modSlice k (fun v => { v with since := t.now })) (fun t k h => h)
    (fun t h => ?_) (fun t k h hP => ?_) hj rfl
  · rw [State.slice_modSlice, if_pos rfl]
    simp only [State.now, h]
  · rw [State.slice_modSlice]
    split
    · simp only [State.now, h]
    · exact hP

theorem State.trainAll_frame (s : State) : ({ s.trainAll with rdg := s.rdg } : State) = s :=
  s.each_modLink_frame _ (fun t v => { v with st := .training, since := t.now })

theorem State.trainAll_training (s : State) {r : Nat} (hr : r < s.gh.ridgePorts) : (s.trainAll.link r).st = .training := by
  refine State.each_establishes (I := fun _ => True) (P := fun t => (t.link r).st = .training) (fun t k h => h)
    (fun t _ => ?_) (fun t k _ hP => ?_) (List.mem_range.mpr hr) trivial
  · rw [State.link_modLink, if_pos rfl]
  · rw [State.link_modLink]
    split
    · rfl
    · exact hP

/-! ### Step 4 -/

/-- A rejected image sets a failure; under BOOT 01 the push starts again (R498, R499). -/
theorem rejectImage_fails (f : BitVec 3) (s : State) : (rejectImage f s).rst.fail = f ∧
    (s.rst.bootSrc = 1 → (rejectImage f s).rst.wait = true ∧ (rejectImage f s).rst.rej = true ∧ (rejectImage f s).rst.step = 3) := by
  unfold rejectImage
  split
  · exact ⟨rfl, fun _ => ⟨rfl, rfl, rfl⟩⟩
  · rename_i hb
    exact ⟨rfl, fun h => absurd h hb⟩

/-- The state with the firmware measured (R441). -/
abbrev State.fwMeasured (s : State) : State :=
  measure 1 (Config.fwVersion s.rst.image) (digestWords (Config.fwPart s.rst.image)) s

theorem endStep4_of_good {s : State} (hl : s.rst.image.length ≤ 57856) (hg : Config.imageCheck s.rst.image = .good) :
    endStep4 s = { s.fwMeasured with rst := { s.fwMeasured.rst with
      fwVer := Config.fwVersion s.rst.image, fwRun := true, step := 5, stepFrom := s.fwMeasured.time.cycles } } := by
  refine (if_neg (Nat.not_lt.mpr hl)).trans ?_
  rw [hg]

/-- A firmware image that is too long, or whose header fails, is rejected (R497, R499). -/
theorem endStep4_of_bad {s : State} (hb : 57856 < s.rst.image.length ∨ Config.imageCheck s.rst.image ≠ .good) :
    ∃ f, f ≠ 0 ∧ endStep4 s = rejectImage f s.fwMeasured := by
  by_cases hl : 57856 < s.rst.image.length
  · exact ⟨2, by decide, if_pos hl⟩
  · have hne := hb.resolve_left hl
    cases hc : Config.imageCheck s.rst.image with
    | badImage => exact ⟨2, by decide, (if_neg hl).trans (by rw [hc])⟩
    | badConfig => exact ⟨3, by decide, (if_neg hl).trans (by rw [hc])⟩
    | good => exact absurd hc hne

/-! ### Step 5 -/

/-- The state with the microcode measured (R442). -/
abbrev State.ucMeasured (s : State) : State :=
  measure 2 (Config.ucVersion s.rst.image) (digestWords (Config.ucPart s.rst.image)) s

/-- The state in which the sequencer has taken up checked microcode, before the slices load it (R496). -/
abbrev State.ucTaken (s : State) : State :=
  { s.ucMeasured with rst := { s.ucMeasured.rst with
    ucVer := Config.ucVersion s.rst.image, rej := false, fail := 0, step := 6, stepFrom := s.ucMeasured.time.cycles } }

/-- The load of a control store, in a powered slice (R496). -/
def Slice.loadUcode (ver : BitVec 32) (v : Slice) : Slice := if v.st = .on then { v with ucVer := ver } else v

theorem endStep5_of_good {s : State} (hu : Config.ucodeCheck (Config.ucPart s.rst.image) = true) (ht : s.rst.stepFrom + 16384 ≤ s.time.cycles) :
    endStep5 s = s.ucTaken.each (List.range s.ucTaken.gh.slices) (fun t k => t.modSlice k (Slice.loadUcode (Config.ucVersion s.rst.image))) :=
  (if_neg (by simp [Nat.not_lt.mpr ht])).trans (if_pos hu)

theorem State.each_loadUcode {s : State} {l : List Nat} {j : Nat} (hj : j ∈ l) (hon : (s.slice j).st = .on) (ver : BitVec 32) :
    ((s.each l (fun t k => t.modSlice k (Slice.loadUcode ver))).slice j).ucVer = ver := by
  have load_st (v : Slice) : (v.loadUcode ver).st = v.st := by
    unfold Slice.loadUcode
    split <;> rfl
  have load_ucVer (v : Slice) (h : v.st = .on) : (v.loadUcode ver).ucVer = ver := by
    rw [Slice.loadUcode, if_pos h]
  refine State.each_establishes (I := fun t => (t.slice j).st = .on) (P := fun t => (t.slice j).ucVer = ver)
    (fun t k h => ?_) (fun t h => ?_) (fun t k h hP => ?_) hj hon
  · rw [State.slice_modSlice]
    split
    next e => rw [load_st, ← e, h]
    next => exact h
  · rw [State.slice_modSlice, if_pos rfl, load_ucVer _ h]
  · rw [State.slice_modSlice]
    split
    next e => rw [load_ucVer _ (e ▸ h)]
    next => exact hP

/-! ### Step 6 -/

/-- The powered slices that the home map is placed over (R42). -/
def State.placed (s : State) : List Nat := s.enabledSlices.filter (fun k => decide ((s.slice k).st = .on))

/-- A slice as bring-up leaves it: its filter empty, its cache off, its clamp open (R496, R505). -/
def Slice.opened (v : Slice) : Slice :=
  { v with sf := [], sfNru := [], sfRot := [], bank := .off, hcinit := false, clamped := false, wrapper := false }

theorem endStep6_of_due {s : State} (ht : s.rst.stepFrom + 4096 ≤ s.time.cycles) : endStep6 s =
    State.each { s with map := { s.map with base := s.placed, g0 := [], g1 := [] }, rst := { s.rst with step := 7 } } s.placed
      (fun t k => t.modSlice k Slice.opened) :=
  if_neg (Nat.not_lt.mpr ht)

theorem State.each_opened {s : State} {l : List Nat} {j : Nat} (hj : j ∈ l) :
    ((s.each l (fun t k => t.modSlice k Slice.opened)).slice j).sf = [] ∧
    ((s.each l (fun t k => t.modSlice k Slice.opened)).slice j).clamped = false := by
  refine State.each_establishes (I := fun _ => True) (P := fun t => (t.slice j).sf = [] ∧ (t.slice j).clamped = false)
    (fun t k h => h) (fun t _ => ?_) (fun t k _ hP => ?_) hj trivial
  · rw [State.slice_modSlice, if_pos rfl]
    exact ⟨rfl, rfl⟩
  · rw [State.slice_modSlice]
    split
    · exact ⟨rfl, rfl⟩
    · exact hP

/-! ### The boot push -/

theorem mgmtOnly_mgmtp {s : State} (hr : s.rst.inReset = false) (f : State → State) : mgmtOnly .mgmtp f s = f (s.answer .mgmtp false 0) :=
  if_pos (by simp [hr])

/-- HOSTP maps none of the registers of the push (R351, R527). -/
theorem mgmtOnly_hostp (f : State → State) (s : State) : mgmtOnly .hostp f s = s.answer .hostp true 0 := rfl

theorem execBootPushHi_of_room {s : State} (hr : s.rst.inReset = false) (hw : s.rst.wait = true) (hn : s.rst.pushN < 57856) (v : BitVec 32) :
    exec (.bootPushHi .mgmtp v) s = .next { s.answer .mgmtp false 0 with rst := { s.rst with
      pushed := s.rst.pushed ++ [v ++ s.rst.bootLo], pushN := s.rst.pushN + 1 } } := by
  refine congrArg Host.Outcome.next ((mgmtOnly_mgmtp hr _).trans (if_pos ?_))
  change (s.rst.wait && decide (s.rst.pushN < 57856)) = true
  simp [hw, hn]

theorem execBootctlDone_of_wait {s : State} (hr : s.rst.inReset = false) (hw : s.rst.wait = true) :
    exec (.bootctlDone .mgmtp) s = .next { s.answer .mgmtp false 0 with rst := { s.rst with
      image := s.rst.pushed, imageV := true, wait := false, step := 4 } } :=
  congrArg Host.Outcome.next ((mgmtOnly_mgmtp hr _).trans (if_pos hw))

theorem execBootctlRestart_of_wait {s : State} (hr : s.rst.inReset = false) (hw : s.rst.wait = true) :
    exec (.bootctlRestart .mgmtp) s = .next { s.answer .mgmtp false 0 with rst := { s.rst with pushed := [], pushN := 0 } } :=
  congrArg Host.Outcome.next ((mgmtOnly_mgmtp hr _).trans (if_pos hw))

/-- While the boot ROM does not wait, the three registers have no effect (R498). -/
theorem exec_bootPush_of_not_wait {s : State} (hr : s.rst.inReset = false) (hw : s.rst.wait = false) (v : BitVec 32) :
    exec (.bootPushHi .mgmtp v) s = .next (s.answer .mgmtp false 0) ∧ exec (.bootctlDone .mgmtp) s = .next (s.answer .mgmtp false 0) ∧
    exec (.bootctlRestart .mgmtp) s = .next (s.answer .mgmtp false 0) := by
  have hw' : ¬s.rst.wait = true := by simp [hw]
  refine ⟨congrArg Host.Outcome.next ((mgmtOnly_mgmtp hr _).trans (if_neg ?_)),
    congrArg Host.Outcome.next ((mgmtOnly_mgmtp hr _).trans (if_neg hw')),
    congrArg Host.Outcome.next ((mgmtOnly_mgmtp hr _).trans (if_neg hw'))⟩
  change ¬(s.rst.wait && decide (s.rst.pushN < 57856)) = true
  simp [hw]

/-! ### The obligation -/

/-- Settles O23: bring-up step by step, and the registers of the push. -/
theorem bringUp : Obligations.BringUp := by
  unfold Obligations.BringUp
  refine ⟨fun s hr hf => ?steps, fun s v r ws hr => ⟨⟨rfl, rfl, rfl⟩, fun hw hn => execBootPushHi_of_room hr hw hn v, execBootctlDone_of_wait hr,
    execBootctlRestart_of_wait hr, fun hw => exec_bootPush_of_not_wait hr hw v, fun h3 hb hl => congrArg _ (if_pos ⟨h3, hb, hl⟩)⟩⟩
  obtain ⟨h1, h2, h3, h4, h5, h6, h7, h8⟩ := execBringupStepDone_at (s := s) ⟨hr, hf⟩
  refine ⟨h1, fun hs hl he hp => ?step2, fun hs hb => ?rom, fun hs hb hv => ?image, fun hs hl hg => ?good,
    fun hs hb => ?bad, fun hs hu ht => ?step5, fun hs ht => ?step6, h7, h8⟩
  case step2 =>
    have hexec := (h2 hs).trans (congrArg _ (endStep2_of_up hl he hp))
    obtain ⟨hstep, hwait, hrole⟩ := s.slicesUp3_rst
    have hrdg := congrArg State.rdg s.slicesUp3_frame
    have hgh := congrArg State.gh s.slicesUp3_frame
    by_cases hfree : s.rst.role = 3
    · rw [if_pos (hrole.trans hfree)] at hexec
      exact ⟨_, hexec, hstep, hwait, fun j hj => s.slicesUp3_since hj, fun hn => absurd hfree hn, fun _ => hrdg⟩
    · rw [if_neg (hrole ▸ hfree)] at hexec
      have hrst := congrArg State.rst s.slicesUp3.trainAll_frame
      have hslice (j : Nat) := congrArg (fun t : State => t.slice j) s.slicesUp3.trainAll_frame
      refine ⟨_, hexec, (congrArg RstSt.step hrst).trans hstep, (congrArg RstSt.wait hrst).trans hwait,
        fun j hj => (congrArg Slice.since (hslice j)).trans (s.slicesUp3_since hj),
        fun _ r hr => State.trainAll_training _ ?_, fun hn => absurd hn hfree⟩
      exact (congrArg Gh.ridgePorts hgh).symm ▸ hr
  case rom => exact (h3 hs).trans (congrArg _ (if_pos hb))
  case image => exact (h3 hs).trans (congrArg _ ((if_neg hb).trans (if_pos hv)))
  case good =>
    have ht := congrArg State.time (measure_frame 1 (Config.fwVersion s.rst.image) (digestWords (Config.fwPart s.rst.image)) s)
    exact ⟨_, (h4 hs).trans (congrArg _ (endStep4_of_good hl hg)), rfl, congrArg TimeSt.cycles ht, rfl, rfl, rfl⟩
  case bad =>
    obtain ⟨f, hne, he⟩ := endStep4_of_bad hb
    have hm := congrArg State.rst (measure_frame 1 (Config.fwVersion s.rst.image) (digestWords (Config.fwPart s.rst.image)) s)
    obtain ⟨hfail, hagain⟩ := rejectImage_fails f s.fwMeasured
    exact ⟨f, _, (h4 hs).trans (congrArg _ he), hfail, hne, fun hsrc => hagain ((congrArg RstSt.bootSrc hm).trans hsrc)⟩
  case step5 =>
    have hm := measure_frame 2 (Config.ucVersion s.rst.image) (digestWords (Config.ucPart s.rst.image)) s
    have hslice (j : Nat) := congrArg (fun t : State => t.slice j) hm
    have hcycles := congrArg (fun t : State => t.time.cycles) hm
    have hslices := congrArg (fun t : State => t.gh.slices) hm
    have hrst := congrArg State.rst (s.ucTaken.each_modSlice_frame (List.range s.ucTaken.gh.slices)
      (fun _ => Slice.loadUcode (Config.ucVersion s.rst.image)))
    refine ⟨_, (h5 hs).trans (congrArg _ (endStep5_of_good hu ht)), congrArg RstSt.step hrst,
      (congrArg RstSt.stepFrom hrst).trans hcycles, congrArg RstSt.ucVer hrst, fun j hj hon => ?_⟩
    have hon' : (s.ucTaken.slice j).st = .on := (congrArg Slice.st (hslice j)).trans hon
    exact State.each_loadUcode (List.mem_range.mpr (Nat.lt_of_lt_of_eq hj hslices.symm)) hon' _
  case step6 =>
    let u : State := { s with map := { s.map with base := s.placed, g0 := [], g1 := [] }, rst := { s.rst with step := 7 } }
    have hf := u.each_modSlice_frame s.placed (fun _ => Slice.opened)
    have hmap := congrArg State.map hf
    refine ⟨_, (h6 hs).trans (congrArg _ (endStep6_of_due ht)), congrArg (fun t : State => t.rst.step) hf,
      congrArg MapSt.g0 hmap, congrArg MapSt.g1 hmap, fun j hj hon => ?_⟩
    have hj' : j ∈ s.placed := List.mem_filter.mpr ⟨hj, decide_eq_true hon⟩
    exact ⟨(congrArg MapSt.base hmap).symm ▸ hj', State.each_opened hj'⟩

end Sys2Proof.Machine
end

section
/-! Credits at the ingress points: what INGRESS_SEND, CREDIT_ARRIVE and CREDIT_IDLE_RETURN do (R34, R241 to R252, R424). -/

namespace Sys2Proof.Machine

/-! ### What waits at the ingress points -/

/-- The slices stand, and what waits at each ingress point. -/
def KeepsWaiting (s t : State) : Prop := t.slices = s.slices ∧ ∀ i, t.ingressOf i = s.ingressOf i

theorem KeepsWaiting.refl (s : State) : KeepsWaiting s s := ⟨rfl, fun _ => rfl⟩

theorem KeepsWaiting.trans {s t u : State} (h : KeepsWaiting s t) (g : KeepsWaiting t u) : KeepsWaiting s u :=
  ⟨g.1.trans h.1, fun i => (g.2 i).trans (h.2 i)⟩

theorem KeepsWaiting.modCa (s : State) (p : Nat) {f : CaPort → CaPort} (hf : ∀ c, (f c).ingress = c.ingress) : KeepsWaiting s (s.modCa p f) := by
  refine ⟨rfl, fun i => ?_⟩
  unfold State.ingressOf
  rw [State.ca_modCa, State.link_modCa]
  split
  · split
    next e => rw [hf, e]
    next => rfl
  · rfl

theorem KeepsWaiting.modLink (s : State) (r : Nat) {f : Ridge → Ridge} (hf : ∀ l, (f l).ingress = l.ingress) :
    KeepsWaiting s (s.modLink r f) := by
  refine ⟨rfl, fun i => ?_⟩
  unfold State.ingressOf
  rw [State.ca_modLink, State.link_modLink]
  split
  · rfl
  · split
    next e => rw [hf, e]
    next => rfl

theorem KeepsWaiting.setCredAt (s : State) (i k : Nat) (c : SlCred) : KeepsWaiting s (s.setCredAt i k c) := by
  unfold State.setCredAt
  split
  · exact KeepsWaiting.modCa s i fun _ => rfl
  · exact KeepsWaiting.modLink s (i - 128) fun _ => rfl

theorem KeepsWaiting.endWait (i k : Nat) (s : State) : KeepsWaiting s (endWait i k s) := by
  unfold Machine.endWait
  split
  · exact KeepsWaiting.setCredAt s i k _
  · exact KeepsWaiting.refl s

theorem KeepsWaiting.countGt (i : Nat) (x : IngEntry) (s : State) : KeepsWaiting s (countGt i x s) := by
  unfold Machine.countGt
  split
  · exact KeepsWaiting.modCa s i fun _ => rfl
  · exact KeepsWaiting.refl s

@[simp] theorem State.setIngress_slices (s : State) (i : Nat) (l : List IngEntry) : (s.setIngress i l).slices = s.slices := by
  unfold State.setIngress
  split <;> rfl

@[simp] theorem State.ingressOf_setIngress (s : State) (i : Nat) (l : List IngEntry) : (s.setIngress i l).ingressOf i = l := by
  unfold State.setIngress State.ingressOf
  split
  · rw [State.ca_modCa, if_pos rfl]
  · rw [State.link_modLink, if_pos rfl]

/-- An entry that leaves its ingress point is taken out of it; no slice changes (R250, R327, R301). -/
theorem leaveIngress_waiting (i : Nat) (x : IngEntry) (s : State) :
    KeepsWaiting (s.setIngress i (lremove (fun y => y == x) (s.ingressOf i))) (leaveIngress i x s) := by
  have hwait (u : State) : KeepsWaiting u (if x.local then Machine.endWait i (u.homeSlice x.sh) u else u) := by
    split
    · exact KeepsWaiting.endWait i _ u
    · exact KeepsWaiting.refl u
  have hcred (u : State) : KeepsWaiting u (if i < 128 then u.modCa i (fun c => { c with reqCrd := if c.st = .active then c.reqCrd + 1 else c.reqCrd })
      else u.modLink (i - 128) (fun r => { r with cret := tput (reqCode x.isGt) (tget (fun _ => 0) r.cret (reqCode x.isGt) + 1) r.cret })) := by
    split
    · exact KeepsWaiting.modCa u i fun _ => rfl
    · exact KeepsWaiting.modLink u (i - 128) fun _ => rfl
  exact (hwait _).trans (hcred _)

/-- At a CA port this is a matter of the ports alone. -/
theorem leaveIngress_frame {i : Nat} (hi : i < 128) (x : IngEntry) (s : State) : ({ leaveIngress i x s with cas := s.cas } : State) = s := by
  simp only [leaveIngress, if_pos hi, State.setIngress, endWait, restartSpan, State.setCredAt]
  split
  · split <;> rfl
  · rfl

theorem countGt_frame (i : Nat) (x : IngEntry) (s : State) : ({ countGt i x s with cas := s.cas } : State) = s := by
  unfold countGt
  split <;> rfl

/-- Messages that each change what waits in the mesh alone do so together. -/
theorem State.sends_frame {α : Type} {send : State → α → State} (h : ∀ s m, ({ send s m with mesh := s.mesh } : State) = s) (l : List α) (s : State) :
    ({ l.foldl send s with mesh := s.mesh } : State) = s :=
  List.foldlRecOn (motive := fun t : State => ({ t with mesh := s.mesh } : State) = s) l send rfl
    fun t ht m _ => (congrArg (fun u : State => ({ u with mesh := s.mesh } : State)) (h t m)).trans ht

/-- A request that goes to its slice leaves its ingress point; no slice changes until it arrives (R241, R243, R247). -/
theorem sendEntry_sent (i k : Nat) (x : IngEntry) (s : State) :
    (sendEntry i k x s).slices = s.slices ∧ (sendEntry i k x s).ingressOf i = lremove (fun y => y == x) (s.ingressOf i) := by
  let c := s.credAt i k
  let u := s.setCredAt i k ((c.spend (c.pick x)).spend (c.pickWb x))
  have hu : KeepsWaiting s u := KeepsWaiting.setCredAt _ _ _ _
  have hw := (leaveIngress_waiting i x u).trans (KeepsWaiting.countGt i x _)
  have hf := State.sends_frame (send := fun s m => s.toSlice i k (if x.isGt then .gt else .dat) (if x.isGt then x.part.toNat else 0) m)
    (fun s m => s.toSlice_frame i k _ _ m) x.dataMsgs
    ((countGt i x (leaveIngress i x u)).toSlice i k (if x.isGt then .gt else .req) (if x.isGt then x.part.toNat else 0)
      (.req x.q i (c.pick x) (c.pickWb x)))
  have hslices := congrArg State.slices hf
  have hingress := congrArg (fun t : State => t.ingressOf i) hf
  refine ⟨hslices.trans (hw.1.trans ((State.setIngress_slices _ _ _).trans hu.1)), hingress.trans ((hw.2 i).trans ?_)⟩
  rw [State.ingressOf_setIngress, hu.2 i]

/-! ### INGRESS_SEND -/

theorem execIngressSend_of_none {s : State} {i k : Nat} (hl : s.err.lost = false) (hx : (grantRun k s).nextFor i k = none) :
    exec (.ingressSend i (.slice k)) s = .next (noteDemand k (grantRun k s)) := by
  change execIngressSend i (.slice k) s = _
  simp only [execIngressSend, hl, Bool.false_eq_true, if_false, hx]

theorem execIngressSend_of_denied {s : State} {i k : Nat} {x : IngEntry} (hl : s.err.lost = false)
    (hx : (grantRun k s).nextFor i k = some (x, true)) :
    exec (.ingressSend i (.slice k)) s = .next (noteDemand k (deny i x (grantRun k s))) := by
  change execIngressSend i (.slice k) s = _
  simp only [execIngressSend, hl, Bool.false_eq_true, if_false, hx]

theorem execIngressSend_of_sent {s : State} {i k : Nat} {x : IngEntry} (hl : s.err.lost = false)
    (hx : (grantRun k s).nextFor i k = some (x, false)) :
    exec (.ingressSend i (.slice k)) s = .next (noteDemand k (sendEntry i k x (grantRun k s))) := by
  change execIngressSend i (.slice k) s = _
  simp only [execIngressSend, hl, Bool.false_eq_true, if_false, hx]

/-- A whole request for a peer home that has a proxy credit of its ridge unit enters it under that credit (R34, R252). -/
theorem sendProxy_of_credit {s : State} {p r : Nat} {x : IngEntry} {g : Bool} (hp : p < 128)
    (hx : ((proxyRun r s).ca p).ingress.find? (fun x => x.peer == some ((proxyRun r s).link r).peer) = some x) (hw : x.whole = true)
    (hj : ((proxyRun r s).link r).st = .joined) (hg : (proxyRun r s).proxyFor p r = some g) :
    ((sendProxy p r s).link r).proxies = ((proxyRun r s).link r).proxies ++ [{ q := x.q, port := p, guar := g }] ∧
    ((sendProxy p r s).ca p).ingress = lremove (fun y => y == x) ((proxyRun r s).ca p).ingress := by
  let v := proxyRun r s
  let w := countGt p x (leaveIngress p x v)
  let u := w.modLink r (fun l => { l with proxies := l.proxies ++ [{ q := x.q, port := p, guar := g }] })
  let send (vc : VC) (s : State) (m : Msg) : State :=
    fromCa p (s.gh.ridgeNode r) portEave (if x.isGt then .gt else vc) (if x.isGt then x.part.toNat else 0) none m s
  have hsend : sendProxy p r s = x.dataMsgs.foldl (send .dat) (send .req u (.req x.q p .none .none)) := by
    unfold sendProxy
    simp only [hx, hj, hw, hg, and_self, if_true]
    rfl
  have hf := State.sends_frame (send := send .dat) (fun _ _ => rfl) x.dataMsgs (send .req u (.req x.q p .none .none))
  have hlink := congrArg (fun t : State => t.link r) hf
  have hca := congrArg (fun t : State => t.ca p) hf
  have hwlink := congrArg (fun t : State => t.link r) ((congrArg (fun t : State => ({ t with cas := v.cas } : State))
    (countGt_frame p x (leaveIngress p x v))).trans (leaveIngress_frame hp x v))
  have hleft := ((leaveIngress_waiting p x v).trans (KeepsWaiting.countGt p x _)).2 p
  rw [State.ingressOf_setIngress] at hleft
  rw [hsend]
  constructor
  · refine (congrArg Ridge.proxies hlink).trans ?_
    change (u.link r).proxies = _
    rw [State.link_modLink, if_pos rfl]
    exact congrArg (fun l : Ridge => l.proxies ++ [{ q := x.q, port := p, guar := g }]) hwlink
  · refine (congrArg CaPort.ingress hca).trans ?_
    change (w.ca p).ingress = _
    simpa only [State.ingressOf, if_pos hp] using hleft

/-! ### CREDIT_ARRIVE and CREDIT_IDLE_RETURN -/

theorem execCreditArrive_of_credit {s : State} {i k n : Nat} {c : CredKind} {x : Pkt}
    (hx : (s.arrived (s.ingressAt i).1 (s.ingressAt i).2 .rsp).head? = some x) (hm : x.msg = .credit k c n) :
    exec (.creditArrive i) s = .next (
      let t := s.dropArrived (s.ingressAt i).1 (s.ingressAt i).2 .rsp
      if t.holdsCredits i = true ∧ t.works k = true then noteDemand k (t.setCredAt i k ((t.credAt i k).gain c n t.now)) else t) := by
  change execCreditArrive i s = _
  simp only [execCreditArrive, hx, hm, Bool.and_eq_true]

/-- A shared or grant credit that is held for 1,000 ticks with nothing waiting for the slice goes back (R250). -/
theorem execCreditIdleReturn_of_idle {s : State} {i k : Nat} {grant : Bool}
    (h0 : 0 < if grant then (s.credAt i k).grant else (s.credAt i k).shared) (hw : s.waitingFor k i = [])
    (ht : (if grant then (s.credAt i k).grantFrom else (s.credAt i k).sharedFrom).headD 0 + 1000 ≤ s.now) (hk : s.works k = true) :
    exec (.creditIdleReturn i k grant) s = .next ((s.setCredAt i k ((s.credAt i k).spend (if grant then .grant else .shared))).toSlice
      i k .rsp 0 (.creditBack i (if grant then .grant else .shared))) :=
  congrArg Host.Outcome.next (if_pos (by simpa only [h0, hw, hk, decide_true, List.isEmpty_nil, Bool.and_true, Bool.true_and, decide_eq_true_eq] using ht))

/-! ### The obligation -/

/-- Settles O26: what an ingress point sends by what `nextFor` names, and the credits that come and go. -/
theorem creditsAreSpentAndReturned : Obligations.CreditsAreSpentAndReturned := by
  unfold Obligations.CreditsAreSpentAndReturned
  intro s i k u
  refine ⟨execIngressSend_of_none, fun hl x hx => execIngressSend_of_denied hl hx, fun hl x hx => ?sent, ?proxy,
    fun x c n hx hm => execCreditArrive_of_credit hx hm, execCreditIdleReturn_of_idle (grant := false),
    execCreditIdleReturn_of_idle (grant := true)⟩
  case sent => exact ⟨_, execIngressSend_of_sent hl hx, sendEntry_sent i k x u⟩
  case proxy =>
    intro hl hi v x g hx hw hj hg
    exact ⟨_, congrArg Host.Outcome.next (if_pos ⟨hi, by simp [hl]⟩), sendProxy_of_credit hi hx hw hj hg⟩

end Sys2Proof.Machine
end

section
/-! Shingles: their commands, the course of a move, and the flips of the home map (R43, R44, R49, R52 to R54, R139, R400, R538, R539). -/

namespace Sys2Proof.Machine

/-! ### Lists and tables -/

/-- A change that no element before the last one takes reaches the last one. -/
theorem lmodify_concat {α : Type} {p : α → Bool} {a : α} (f : α → α) {l : List α} (hl : l.find? p = none) (ha : p a = true) :
    lmodify p f (l ++ [a]) = l ++ [f a] := by
  induction l with
  | nil => exact if_pos ha
  | cons b l ih =>
    obtain ⟨hb, hl⟩ : p b = false ∧ l.find? p = none := by
      simpa only [List.find?_eq_none, List.mem_cons, forall_eq_or_imp, Bool.not_eq_true] using hl
    rw [List.cons_append, lmodify, if_neg (by simp [hb]), ih hl, List.cons_append]

/-- A change matters for the first element that satisfies `p` alone. -/
theorem lmodify_congr {α : Type} {p : α → Bool} {f g : α → α} {l : List α} {a : α} (ha : l.find? p = some a) (h : f a = g a) :
    lmodify p f l = lmodify p g l := by
  induction l with
  | nil => rfl
  | cons b l ih =>
    unfold lmodify
    by_cases hb : p b = true
    · obtain rfl : b = a := by simpa [hb] using ha
      rw [if_pos hb, if_pos hb, h]
    · rw [if_neg hb, if_neg hb, ih (by rwa [List.find?_cons_of_neg hb] at ha)]

/-- Turns that each leave a state as it is leave it so together. -/
theorem foldl_of_fixed {α β : Type} {f : β → α → β} {b : β} (h : ∀ a, f b a = b) (l : List α) : l.foldl f b = b :=
  List.foldlRecOn (motive := fun x => x = b) l f rfl fun _ hx a _ => hx ▸ h a

/-- The groups of a list hold its elements in order, each group at most `n` of them and none empty. -/
theorem groups_spec {α : Type} {n : Nat} (hn : 0 < n) (fuel : Nat) (l : List α) (hl : l.length ≤ fuel) :
    (groups n fuel l).flatten = l ∧ (∀ g ∈ groups n fuel l, g ≠ [] ∧ g.length ≤ n) ∧ (groups n fuel l).length = (l.length + (n - 1)) / n := by
  have hempty : 0 = (([] : List α).length + (n - 1)) / n := by
    rw [List.length_nil, Nat.zero_add]
    exact (Nat.div_eq_of_lt (by omega)).symm
  induction fuel generalizing l with
  | zero =>
    obtain rfl := List.length_eq_zero_iff.mp (Nat.le_zero.mp hl)
    exact ⟨rfl, fun g hg => absurd hg List.not_mem_nil, hempty⟩
  | succ fuel ih =>
    cases l with
    | nil => exact ⟨rfl, fun g hg => absurd hg List.not_mem_nil, hempty⟩
    | cons a l =>
      have hdrop : ((a :: l).drop n).length = (a :: l).length - n := List.length_drop
      have hlen : (a :: l).length = l.length + 1 := rfl
      obtain ⟨hflat, hall, hcount⟩ := ih ((a :: l).drop n) (by omega)
      have hcons : groups n (fuel + 1) (a :: l) = (a :: l).take n :: groups n fuel ((a :: l).drop n) := rfl
      rw [hcons]
      refine ⟨by rw [List.flatten_cons, hflat, List.take_append_drop], ?_, ?_⟩
      · intro g hg
        rcases List.mem_cons.mp hg with rfl | hg
        · exact ⟨fun e => (List.take_eq_nil_iff.mp e).elim (Nat.ne_of_gt hn) (List.cons_ne_nil a l), List.length_take_le _ _⟩
        · exact hall g hg
      · rw [List.length_cons, hcount, hdrop]
        rcases Nat.le_total (a :: l).length n with h | h
        · rw [Nat.sub_eq_zero_of_le h, Nat.div_eq_of_lt (by omega), Nat.zero_add]
          exact (Nat.div_eq_of_lt_le (by omega) (by omega)).symm
        · rw [← Nat.add_div_right _ hn]
          congr 1
          omega

theorem tget_foldl_tset_of_ne {α : Type} [DecidableEq α] (d : Nat → α) {l : List (Nat × α)} {x : Nat} (h : ∀ c ∈ l, c.1 ≠ x) (t : Tbl α) :
    tget d (l.foldl (fun t e => tset d e.1 e.2 t) t) x = tget d t x := by
  induction l generalizing t with
  | nil => rfl
  | cons c l ih =>
    rw [List.forall_mem_cons] at h
    rw [List.foldl_cons, ih h.2, tget_tset, if_neg h.1.symm]

/-! ### SHINGLE_MOVE -/

/-- The shingle that SHINGLE_MOVE names (R400). -/
abbrev Kcp.shingle (k : Kcp) : Nat := fld (k.par 0) 0 12

/-- The new slice that SHINGLE_MOVE names (R400). -/
abbrev Kcp.newSlice (k : Kcp) : Nat := fld (k.par 0) 16 6

section
variable {s : State} {c : Nat} {k : Kcp} (hk : s.newCmd c 0x31 = some k)
include hk

theorem execShingleMove_conflict (h : s.homeSlice k.shingle = k.newSlice ∨ (s.slice k.newSlice).st ≠ .on ∨
      s.shState k.shingle ≠ hmNormal) :
    exec (.shingleMove c) s = .next (finish k stConflict
      ((s.map.entry k.shingle).toNat + 256 * slStateCode (s.slice k.newSlice).st) [] s) :=
  congrArg Host.Outcome.next ((runCmd_of_some hk rfl).trans (if_pos h))

variable (hne : s.homeSlice k.shingle ≠ k.newSlice) (hon : (s.slice k.newSlice).st = .on)
  (hnormal : s.shState k.shingle = hmNormal)
include hne hon hnormal

theorem execShingleMove_full (h : 8 ≤ s.map.moves.length) : exec (.shingleMove c) s = .next (finish k stBusy 1 [] s) :=
  congrArg Host.Outcome.next ((runCmd_of_some hk rfl).trans ((if_neg (by simp [hne, hon, hnormal])).trans (if_pos h)))

theorem execShingleMove_busy (h : s.map.moves.length < 8) (ho : s.map.moves.any (fun m => m.old == s.homeSlice k.shingle) = true) :
    exec (.shingleMove c) s = .next (finish k stBusy 2 [] s) :=
  congrArg Host.Outcome.next ((runCmd_of_some hk rfl).trans ((if_neg (by simp [hne, hon, hnormal])).trans
    ((if_neg (Nat.not_le.mpr h)).trans (if_pos ho))))

theorem execShingleMove_start (h : s.map.moves.length < 8) (ho : s.map.moves.any (fun m => m.old == s.homeSlice k.shingle) = false) :
    exec (.shingleMove c) s = .next (startMove k.shingle k.newSlice (some k.id) false false (s.startCmd k id)) :=
  congrArg Host.Outcome.next ((runCmd_of_some hk rfl).trans ((if_neg (by simp [hne, hon, hnormal])).trans
    ((if_neg (Nat.not_le.mpr h)).trans (if_neg (by simp [ho])))))

end

/-- A scan of a bank that is off, or that has no faulty set, changes nothing (R234). -/
theorem hcScan_of_clean {s : State} {k : Nat} (h : (s.slice k).bank = .off ∨ (s.slice k).faultySets = []) (acc : Nat) : hcScan k acc s = s := by
  unfold hcScan
  split
  · rfl
  · rename_i hb
    rw [h.resolve_left hb]
    rfl

theorem beginMove_of_full {s : State} {m : Move} (h : 16 ≤ s.homeUse m.old) : beginMove m s = s := if_neg (Nat.not_lt.mpr h)

/-- The old slice with room and nothing to write back has nothing to do but to note that the move has begun (R49, R110). -/
theorem beginMove_of_clean {s : State} {m : Move} (hu : s.homeUse m.old < 16) (hd : (s.slice m.old).dirtyOf m.sh = [])
    (hb : (s.slice m.old).bank = .off ∨ (s.slice m.old).faultySets = []) :
    beginMove m s = s.modMove m.sh (fun m => { m with begun := true }) := by
  have hscan : hcScan m.old accInt (s.modMove m.sh (fun m => { m with begun := true })) = s.modMove m.sh (fun m => { m with begun := true }) :=
    hcScan_of_clean (s := s.modMove m.sh (fun m => { m with begun := true })) hb accInt
  have hdirty : ((s.modMove m.sh (fun m => { m with begun := true })).slice m.old).dirtyOf m.sh = [] := hd
  simp only [beginMove, if_pos hu, hscan, hdirty, List.foldl_nil]

/-- A move away from a slice that moves no other, with nothing to write back, is in PREPARE, and has begun when the home-flow share has
room (R49, R110). -/
theorem startMove_of_clean {s : State} {sh new : Nat} {cmd : Option Nat} (ho : s.map.moves.any (fun m => m.old == s.homeSlice sh) = false)
    (hm : s.moveOf sh = none) (hd : (s.slice (s.homeSlice sh)).dirtyOf sh = [])
    (hb : (s.slice (s.homeSlice sh)).bank = .off ∨ (s.slice (s.homeSlice sh)).faultySets = []) :
    startMove sh new cmd false false s = { s with map := { s.map with
      moves := s.map.moves ++ [{ sh := sh, old := s.homeSlice sh, new := new, cmd := cmd
                                 begun := decide ((s.slice (s.homeSlice sh)).homeFlows < 16) }] } } := by
  let m : Move := { sh := sh, old := s.homeSlice sh, new := new, cmd := cmd }
  let u : State := { s with map := { s.map with moves := s.map.moves ++ [m] } }
  have hstart : startMove sh new cmd false false s = beginMove m u := rfl
  have huse : u.homeUse m.old = (s.slice (s.homeSlice sh)).homeFlows := by
    have hnone : s.map.moves.filter (fun x => x.old == s.homeSlice sh && x.begun) = [] := by
      refine List.filter_eq_nil_iff.mpr fun x hx => ?_
      simp [List.any_eq_false.mp ho x hx]
    change (s.slice (s.homeSlice sh)).homeFlows + ((s.map.moves ++ [m]).filter (fun x => x.old == s.homeSlice sh && x.begun)).length = _
    rw [List.filter_append, hnone]
    simp [m]
  rw [hstart]
  by_cases hf : (s.slice (s.homeSlice sh)).homeFlows < 16
  · rw [beginMove_of_clean (huse ▸ hf) hd hb, decide_eq_true hf]
    have hlast : lmodify (fun x => x.sh == sh) (fun x => { x with begun := true }) (s.map.moves ++ [m]) =
        s.map.moves ++ [{ m with begun := true }] := lmodify_concat _ hm (beq_self_eq_true sh)
    exact congrArg (fun l => ({ s with map := { s.map with moves := l } } : State)) hlast
  · rw [beginMove_of_full (huse ▸ Nat.not_lt.mp hf), decide_eq_false hf]

/-! ### PREPARE and the markers -/

section
variable {s : State} {n : Nat} {m : Move} (hm : s.moveOf n = some m)
include hm

theorem execMovePrepareDone_new (hs : m.step = .prepare) (hb : m.begun = false) : exec (.movePrepareDone n) s = .next (beginMove m s) := by
  change execMovePrepareDone n s = _
  simp [execMovePrepareDone, hm, hs, hb]

theorem execMovePrepareDone_waits (hs : m.step = .prepare) (hb : m.begun = true) (hw : s.writesOf m.old n = true) :
    exec (.movePrepareDone n) s = .next s := by
  change execMovePrepareDone n s = _
  simp [execMovePrepareDone, hm, hs, hb, hw]

theorem execMovePrepareDone_fails (hs : m.step = .prepare) (hb : m.begun = true) (hw : s.writesOf m.old n = false) (hf : m.failed = true) :
    exec (.movePrepareDone n) s = .next (endMove m (.fault 0x18) s) := by
  change execMovePrepareDone n s = _
  simp [execMovePrepareDone, hm, hs, hb, hw, hf]

theorem execMovePrepareDone_fences (hs : m.step = .prepare) (hb : m.begun = true) (hw : s.writesOf m.old n = false) (hf : m.failed = false) :
    exec (.movePrepareDone n) s = .next (changeMap [(n, hmEntry m.old hmFenced)] (s.modMove n (fun m => { m with step := .fenceWait }))) := by
  change execMovePrepareDone n s = _
  simp [execMovePrepareDone, hm, hs, hb, hw, hf]

theorem execMovePrepareDone_withdraws (hs : m.step = .fenceWait) (hf : m.failed = true) :
    exec (.movePrepareDone n) s = .next (withdrawMove m s) := by
  change execMovePrepareDone n s = _
  simp [execMovePrepareDone, hm, hs, hf]

end

/-- The count of a marker: for the move in drain of its slice (R49). -/
def countMarker (n src : Nat) (vc : VC) (l : List Move) : List Move :=
  lmodify (fun m => m.old == n && decide (m.step = .drain)) (fun m => { m with marks := m.marks ++ [(src, vc)] }) l

/-- A message taken at the input of a slice takes one slot of that slice (R511). -/
theorem slice_takeSlot (k : Nat) (wasted : Bool) (s : State) (j : Nat) :
    (takeSlot k wasted [] s).slice j = if j = k then (s.slice k).slot wasted else s.slice j := State.slice_modSlice _ _ _ _

theorem execFenceMarker_of_marker {s : State} {n src : Nat} {vc : VC} {p : Pkt} (hp : (s.arrived n portSlice vc).head? = some p)
    (hm : p.msg = .marker src) (hw : s.works n = true) :
    exec (.fenceMarker n vc) s = .next { takeSlot n true [] (s.dropArrived n portSlice vc) with
      map := { s.map with moves := countMarker n src vc s.map.moves } } := by
  change execFenceMarker n vc s = _
  simp only [execFenceMarker, hp, hm, hw, if_true]
  rfl

theorem execFenceMarker_of_none {s : State} {n : Nat} {vc : VC} (h : s.arrived n portSlice vc = []) : exec (.fenceMarker n vc) s = .next s := by
  change execFenceMarker n vc s = _
  simp only [execFenceMarker, h, List.head?_nil]

/-! ### DRAIN and COPY -/

@[simp] theorem raise_map (ev : Ev) (s : State) : (raise ev s).map = s.map :=
  have h := congrArg State.map (raise_frame ev s)
  h

@[simp] theorem correctWord_map (k array addr acc : Nat) (s : State) : (correctWord k array addr acc s).map = s.map := by
  have raised (b : Bool) (ev : Ev) (t : State) : (if b then raise ev t else t).map = t.map := by
    split
    · exact raise_map ev t
    · rfl
  exact (raised _ _ _).trans ((raised _ _ _).trans (raise_map _ _))

@[simp] theorem sfReadWay_map (k set acc : Nat) (s : State) (way : Nat) : (sfReadWay k set acc s way).map = s.map := by
  unfold sfReadWay
  extract_lets
  split
  · split <;> rfl
  · split
    · split
      · exact correctWord_map k 0 _ acc s
      · rfl
    · rfl

/-- The read of the ways of a shingle leaves the map and its moves (R163, R164). -/
theorem readShingle_map (k sh : Nat) (s : State) : (readShingle k sh s).map = s.map :=
  List.foldlRecOn (motive := fun t : State => t.map = s.map) _ _ rfl
    fun t h _ _ => (sfReadWay_map k _ accInt t _).trans h

theorem State.moveOf_congr {s t : State} (h : t.map = s.map) (sh : Nat) : t.moveOf sh = s.moveOf sh := by
  rw [State.moveOf, State.moveOf, h]

theorem State.modMove_congr {s : State} {sh : Nat} {m : Move} {f g : Move → Move} (hm : s.moveOf sh = some m) (h : f m = g m) :
    s.modMove sh f = s.modMove sh g :=
  congrArg (fun l => ({ s with map := { s.map with moves := l } } : State)) (lmodify_congr hm h)

section
variable {s : State} {sh : Nat} {m : Move} (hm : s.moveOf sh = some m)
include hm

/-- The old slice sends the entries of a drained shingle, four in a packet (R49). -/
theorem execMoveDrainDone_of_drained (hs : m.step = .drain) (ha : s.allMarks m = true) (ho : (s.slice m.old).openOnShingle sh = false)
    (hw : s.works m.old = true) {u : State} (hu : u = readShingle m.old sh s) :
    exec (.moveDrainDone sh) s = .next (((entryGroups ((u.slice m.old).entriesOf sh)).foldl
      (fun w l => w.sliceToSlice m.old m.new .dat (.sfCopy sh l)) u).modMove sh
        (fun x => { x with step := .copy, toCopy := ((u.slice x.old).entriesOf sh).length })) := by
  have hexec : exec (.moveDrainDone sh) s = .next (((entryGroups ((u.slice m.old).entriesOf sh)).foldl
      (fun w l => w.sliceToSlice m.old m.new .dat (.sfCopy sh l)) u).modMove sh
        (fun x => { x with step := .copy, toCopy := ((u.slice m.old).entriesOf sh).length })) := by
    change execMoveDrainDone sh s = _
    simp [execMoveDrainDone, hm, hs, ha, ho, hw, hu]
  have hsent := congrArg State.map (State.sends_frame (fun w l => w.sliceToSlice_frame m.old m.new .dat (.sfCopy sh l))
    (entryGroups ((u.slice m.old).entriesOf sh)) u)
  have hmap : u.map = s.map := hu ▸ readShingle_map m.old sh s
  exact hexec.trans (congrArg _ (State.modMove_congr ((State.moveOf_congr (hsent.trans hmap) sh).trans hm) rfl))

theorem execMoveDrainDone_of_undrained (h : m.step ≠ .drain ∨ s.allMarks m = false ∨ (s.slice m.old).openOnShingle sh = true) :
    exec (.moveDrainDone sh) s = .next s := by
  change execMoveDrainDone sh s = _
  simp only [execMoveDrainDone, hm]
  refine congrArg Host.Outcome.next (if_neg ?_)
  rintro ⟨hs, ha, ho, -⟩
  rcases h with h | h | h
  · exact h hs
  · simp [h] at ha
  · simp [h] at ho

theorem execMoveCopyDone_of_failed (hs : m.step = .copy) (hf : m.failed = true) : exec (.moveCopyDone sh) s = .next (revertMove m s) := by
  change execMoveCopyDone sh s = _
  simp [execMoveCopyDone, hm, hs, hf]

theorem execMoveCopyDone_of_installed (hs : m.step = .copy) (hf : m.failed = false) (hc : m.copied.length = m.toCopy)
    (hw : s.writesOf m.old sh = false) (ho : (s.slice m.old).openOnShingle sh = false) :
    exec (.moveCopyDone sh) s = .next (changeMap [(sh, hmEntry m.new hmNormal)] (s.modMove sh (fun m => { m with step := .unfenceWait }))) := by
  change execMoveCopyDone sh s = _
  simp [execMoveCopyDone, hm, hs, hf, hc, hw, ho]

theorem execMoveDecisionDeadline_of_due (hs : m.step = .drain ∨ m.step = .copy) (h : m.failed = true ∨ m.tf + 18600 ≤ s.now) :
    exec (.moveDecisionDeadline sh) s = .next (revertMove m s) := by
  have hu : m.undecided = true := by rcases hs with hs | hs <;> simp [Move.undecided, hs]
  change execMoveDecisionDeadline sh s = _
  simp only [execMoveDecisionDeadline, hm, hu, Bool.true_and]
  exact congrArg Host.Outcome.next (if_pos (by rcases h with h | h <;> simp [h]))

theorem execMoveDecisionDeadline_of_early (hf : m.failed = false) (ht : s.now < m.tf + 18600) : exec (.moveDecisionDeadline sh) s = .next s := by
  change execMoveDecisionDeadline sh s = _
  simp only [execMoveDecisionDeadline, hm, hf, Bool.false_or, decide_eq_false (Nat.not_le.mpr ht), Bool.and_false, Bool.false_eq_true, if_false]

end

/-! ### What arrives at the new slice -/

/-- A word that is no combination of the table goes into an OPEN resolution, when the home-flow share has room (R139, R165). -/
theorem installEnt_of_invalid {e : SfEnt} (h : e.valid = false) (k set : Nat) (s : State) :
    installEnt k set e s = if s.homeUse k < 16 then
      some (beginOpen k set 0 accInt e (if (s.slice k).lineBusy (sfLine set e.tag) then [] else [sfLine set e.tag]) s) else none :=
  if_pos (by simp [h])

/-- An entry whose line has a way is installed there (R52, R151). -/
theorem installEnt_of_way {e : SfEnt} {k set w : Nat} {s : State} (hv : e.valid = true) (hs : e.st ≠ stFree)
    (hw : (s.slice k).sfWay (sfLine set e.tag) = some w) :
    installEnt k set e s = some (s.modSlice k (fun v => v.setSf set w (regen s.pol e))) := by
  refine (if_neg (by simp [hv])).trans ((if_neg hs).trans ?_)
  rw [hw]

theorem installSalvaged_of_none {s : State} (h : ∀ j, (s.slice j).salv = none) (k sh set : Nat) (e : SfEnt) :
    installSalvaged k sh set e s = some s := by
  unfold installSalvaged
  extract_lets
  split
  · rfl
  · next j hj =>
    have hsends := List.find?_some hj
    simp [h j] at hsends

section
variable {s : State} {k sh key : Nat} {content : BitVec 115} {rest : List (Nat × Nat × BitVec 115)}
  (hc : (s.slice k).copyIn = (sh, key, content) :: rest) (hw : s.works k = true)
include hc hw

theorem execSfEntryInstall_of_installed {m : Move} {u : State}
    (hm : s.map.moves.find? (fun m => m.sh == sh && m.new == k && decide (m.step = .copy)) = some m)
    (hu : installEnt k (key / 16) (entOf content) (s.modSlice k (fun v => { v with copyIn := rest })) = some u) :
    exec (.sfEntryInstall k) s =
      .next (u.modMove sh (fun m => { m with copied := m.copied ++ [(sfLine (key / 16) (entOf content).tag).toNat] })) := by
  change execSfEntryInstall k s = _
  simp only [execSfEntryInstall, hc, hw, hm, hu, Bool.not_true, Bool.false_eq_true, if_false]

theorem execSfEntryInstall_of_waiting {m : Move}
    (hm : s.map.moves.find? (fun m => m.sh == sh && m.new == k && decide (m.step = .copy)) = some m)
    (hu : installEnt k (key / 16) (entOf content) (s.modSlice k (fun v => { v with copyIn := rest })) = none) :
    exec (.sfEntryInstall k) s = .next s := by
  change execSfEntryInstall k s = _
  simp only [execSfEntryInstall, hc, hw, hm, hu, Bool.not_true, Bool.false_eq_true, if_false]

/-- An entry that neither a move nor a salvage waits for is dropped (R53, R460). -/
theorem execSfEntryInstall_of_dropped (hm : s.map.moves.find? (fun m => m.sh == sh && m.new == k && decide (m.step = .copy)) = none)
    (hs : ∀ j, (s.slice j).salv = none) : exec (.sfEntryInstall k) s = .next (s.modSlice k (fun v => { v with copyIn := rest })) := by
  have hs' : ∀ j, ((s.modSlice k (fun v => { v with copyIn := rest })).slice j).salv = none := by
    intro j
    rw [State.slice_modSlice]
    split
    · exact hs k
    · exact hs j
  change execSfEntryInstall k s = _
  simp only [execSfEntryInstall, hc, hw, hm, installSalvaged_of_none hs', Option.getD_some, Bool.not_true, Bool.false_eq_true, if_false]

end

/-! ### The flips -/

theorem withdrawFailed_of_no_move {s : State} (h : s.map.moves = []) : withdrawFailed s = s := by
  rw [withdrawFailed, h]
  rfl

section
variable {s : State} {chg : List (Nat × BitVec 8)}

theorem flipExit_of_none {k : Nat} (hs : s.salv k = none) (he : (s.slice k).exitSets = []) : flipExit chg s k = s := by
  simp only [flipExit, he, List.any_nil, Bool.false_eq_true, if_false, hs]

theorem flipMove_of_no_move (h : s.map.moves = []) (x : Nat × BitVec 8) : flipMove s x = s := by
  simp only [flipMove, State.moveOf, h, List.find?_nil]

theorem flipFence_of_none {k : Nat} (hs : s.salv k = none) : flipFence chg s k = s := by
  simp only [flipFence, hs]

theorem flipUnfence_of_none {k : Nat} (hs : s.salv k = none) : flipUnfence chg s k = s := by
  simp only [flipUnfence, hs]

end

theorem endWait_frame (i k : Nat) (s : State) : ({ endWait i k s with cas := s.cas, rdg := s.rdg } : State) = s := by
  unfold endWait
  split
  · simp only [restartSpan, State.setCredAt]
    split <;> rfl
  · rfl

/-- The waits that end are a matter of the ports and the links (R46, R250). -/
theorem endWaits_frame (old s : State) : ({ endWaits old s with cas := s.cas, rdg := s.rdg } : State) = s := by
  have step (t u : State) (h : ({ t with cas := s.cas, rdg := s.rdg } : State) = s) (hu : ({ u with cas := t.cas, rdg := t.rdg } : State) = t) :
      ({ u with cas := s.cas, rdg := s.rdg } : State) = s :=
    (congrArg (fun x : State => ({ x with cas := s.cas, rdg := s.rdg } : State)) hu).trans h
  unfold endWaits
  refine State.each_induction (fun t => ({ t with cas := s.cas, rdg := s.rdg } : State) = s) _ _ (fun t i ht => ?_) s rfl
  refine List.foldlRecOn (motive := fun u : State => ({ u with cas := s.cas, rdg := s.rdg } : State) = s) _ _ ht fun u hu x _ => ?_
  split
  · exact step _ _ hu (endWait_frame i _ u)
  · exact hu

/-- With no move and no salvage a flip is the change of the map and the end of waits (R44). -/
theorem turnMap_of_quiet {s : State} {f : Flip} (hf : s.map.flip = some f) (hm : s.map.moves = [])
    (hq : ∀ j, s.salv j = none ∧ (s.slice j).exitSets = []) : turnMap s = endWaits s { s with map := s.map.turn f } := by
  have hmoves : (s.map.turn f).moves = [] := by
    unfold MapSt.turn MapSt.write
    split <;> exact hm
  let u : State := { s with map := s.map.turn f }
  have hexit : (List.range s.gh.slices).foldl (flipExit f.chg) u = u :=
    foldl_of_fixed (fun k => flipExit_of_none (s := u) (hq k).1 (hq k).2) _
  have hmove : f.chg.foldl flipMove u = u := foldl_of_fixed (fun x => flipMove_of_no_move (s := u) hmoves x) _
  have hfence : (List.range s.gh.slices).foldl (flipFence f.chg) u = u :=
    foldl_of_fixed (fun k => flipFence_of_none (s := u) (hq k).1) _
  have hunfence : (List.range s.gh.slices).foldl (flipUnfence f.chg) u = u :=
    foldl_of_fixed (fun k => flipUnfence_of_none (s := u) (hq k).1) _
  simp only [turnMap, hf]
  rw [hexit, hmove, hfence, hunfence]

theorem State.flipDue_of_some {s : State} {f : Flip} (hf : s.map.flip = some f) : s.flipDue = (!f.flipped && decide (f.tick ≤ s.now)) := by
  simp only [State.flipDue, hf]

theorem execHomeMapFlip_of_due {s : State} {f : Flip} (hf : s.map.flip = some f) (hn : f.flipped = false) (ht : f.tick ≤ s.now) :
    exec .homeMapFlip s = .next (turnMap (withdrawFailed s)) :=
  congrArg Host.Outcome.next (if_pos (by simp [State.flipDue_of_some hf, hn, ht]))

theorem execHomeMapFlip_of_not_due {s : State} {f : Flip} (hf : s.map.flip = some f) (h : f.flipped = true ∨ s.now < f.tick) :
    exec .homeMapFlip s = .next s := by
  refine congrArg Host.Outcome.next (if_neg ?_)
  rw [State.flipDue_of_some hf]
  rcases h with h | h
  · simp [h]
  · simp [Nat.not_le.mpr h]

/-- The named generation becomes the active one, as it stands (R44). -/
theorem MapSt.entry_turn (m : MapSt) (f : Flip) (x : Nat) : (m.turn f).entry x = m.entryIn (!m.cur) x := by
  unfold MapSt.entry MapSt.turn MapSt.write
  cases m.cur <;> rfl

/-- The generation that was active takes the changes (R44). -/
theorem MapSt.entryIn_turn (m : MapSt) (f : Flip) (x : Nat) : (m.turn f).entryIn m.cur x =
    tget (basePlace m.base) (f.chg.foldl (fun t e => tset (basePlace m.base) e.1 e.2 t) (if m.cur then m.g1 else m.g0)) x := by
  unfold MapSt.turn MapSt.write MapSt.entryIn
  cases m.cur <;> rfl

@[simp] theorem MapSt.turn_gen (m : MapSt) (f : Flip) : (m.turn f).gen = m.gen + 1 := by
  unfold MapSt.turn MapSt.write
  split <;> rfl

theorem execFlipCopyAck_of_flipped {s : State} {f : Flip} (hf : s.map.flip = some f) (hd : f.flipped = true) :
    exec .flipCopyAck s = .next (
      let v := withdrawFailed s
      let u : State := { v with map := { v.map with flip := none, waiting := [] } }
      if v.map.waiting = [] then u else nameFlip v.map.waiting u) := by
  change execFlipCopyAck s = _
  simp only [execFlipCopyAck, hf, hd, if_true, List.isEmpty_iff]

/-! ### The obligation -/

/-- Settles O39: the commands, the steps of a move, and the flips. -/
theorem shingleMoves : Obligations.ShingleMoves := by
  unfold Obligations.ShingleMoves
  refine ⟨fun s c k n vc => ?_, fun s sh k => ?_⟩
  · refine ⟨fun hk hm => ?query, fun m hk hm => ?queryMove, fun hk => ⟨execShingleMove_conflict hk, execShingleMove_full hk,
        execShingleMove_busy hk, execShingleMove_start hk, fun hne hon hn hl ho hm hd hb => ?clean⟩,
      fun m hm hs => ⟨execMovePrepareDone_new hm hs, execMovePrepareDone_waits hm hs, execMovePrepareDone_fails hm hs,
        execMovePrepareDone_fences hm hs⟩,
      fun m hm => execMovePrepareDone_withdraws hm, fun m => beginMove_of_full, fun p src hp hm hw => ?marker, execFenceMarker_of_none⟩
    case query =>
      refine congrArg Host.Outcome.next ((runCmd_of_some hk rfl).trans ?_)
      simp only [hm]
    case queryMove =>
      refine congrArg Host.Outcome.next ((runCmd_of_some hk rfl).trans ?_)
      simp only [hm]
    case clean =>
      have hstart := startMove_of_clean (s := s.startCmd k id) (new := k.newSlice) (cmd := some k.id) ho hm hd hb
      exact ⟨_, (execShingleMove_start hk hne hon hn hl ho).trans (congrArg _ hstart), rfl, rfl⟩
    case marker =>
      refine ⟨_, execFenceMarker_of_marker hp hm hw, tget_tput_self _ _ _ _, fun j hj => ?_, ?_, fun hn => ?_, fun m ms he ho hs => ?_⟩
      · exact (slice_takeSlot n true _ j).trans (if_neg hj)
      · exact (slice_takeSlot n true _ n).trans (if_pos rfl)
      · exact congrArg (fun l => ({ s.map with moves := l } : MapSt)) (lmodify_of_none _ _ _ hn)
      · change countMarker n src vc s.map.moves = _
        rw [he]
        exact if_pos (by simp [ho, hs])
  · refine ⟨fun m hm hs ha ho hw => ⟨_, rfl, execMoveDrainDone_of_drained hm hs ha ho hw rfl⟩, fun es => ?groups,
      fun m hm => execMoveDrainDone_of_undrained hm,
      fun key content rest hc hw => ⟨fun m hm => ⟨fun u => execSfEntryInstall_of_installed hc hw hm, execSfEntryInstall_of_waiting hc hw hm⟩,
        execSfEntryInstall_of_dropped hc hw⟩,
      fun set e he => installEnt_of_invalid he k set s, fun set e w => installEnt_of_way, fun m hm => execMoveCopyDone_of_failed hm,
      fun m hm => execMoveCopyDone_of_installed hm, fun m hm => execMoveDecisionDeadline_of_due hm,
      fun m hm => execMoveDecisionDeadline_of_early hm, fun f hf hn ht hm hq => ?flip, fun f => execHomeMapFlip_of_not_due,
      fun f => execFlipCopyAck_of_flipped⟩
    case groups =>
      have h := groups_spec (n := 4) (by decide) es.length (es.map (fun x => (x.1, x.2.content))) (Nat.le_of_eq (List.length_map _))
      rwa [List.length_map] at h
    case flip =>
      have hexec := (execHomeMapFlip_of_due hf hn ht).trans (congrArg (fun t => Host.Outcome.next (turnMap t)) (withdrawFailed_of_no_move hm))
      rw [turnMap_of_quiet hf hm hq] at hexec
      have hframe := endWaits_frame s { s with map := s.map.turn f }
      have hmap := congrArg State.map hframe
      refine ⟨_, hexec, congrArg (fun t : State => ({ t with map := s.map } : State)) hframe, (congrArg MapSt.gen hmap).trans (s.map.turn_gen f),
        fun x => (congrArg (MapSt.entry · x) hmap).trans (s.map.entry_turn f x), fun x hx => ?_, fun x e hx => ?_⟩
      · exact (congrArg (MapSt.entryIn · s.map.cur x) hmap).trans ((s.map.entryIn_turn f x).trans (tget_foldl_tset_of_ne _ hx _))
      · refine (congrArg (MapSt.entryIn · s.map.cur x) hmap).trans ((s.map.entryIn_turn f x).trans ?_)
        rw [hx]
        exact tget_tset_self _ _ _ _

end Sys2Proof.Machine
end

section
/-! Memory ports present their commands and take the credits that return (R116, R118, R119, R339, R340, R344, R347). -/

namespace Sys2Proof.Machine

/-! ### Which command, and under which tag -/

/-- A command that is taken is of the wanted kind (R118). -/
theorem pickCmd_write {m : MemPort} {write : Bool} {ahead todo rest : List MemCmd} {c : MemCmd}
    (h : pickCmd m write ahead todo = some (c, rest)) : c.write = write := by
  induction todo generalizing ahead with
  | nil => exact absurd h nofun
  | cons a todo ih =>
    unfold pickCmd at h
    split at h
    next ha =>
      obtain ⟨rfl, -⟩ := Prod.mk.inj (Option.some.inj h)
      exact ha.1
    next => exact ih h

/-- No outstanding command of the channel has the tag that is free (R340). -/
theorem MemPort.freeTag_unused {m : MemPort} {write : Bool} {n : Nat} (h : m.freeTag write = some n) :
    m.outst.all (fun x => x.write != write || x.tag.toNat != n) = true := by
  have hn := List.find?_some h
  simp only [List.not_any_eq_all_not, Bool.not_and] at hn
  exact hn

/-! ### Victim writes -/

/-- Only a victim's write reads a buffer as it is presented (R116). -/
theorem readVictim_of_not_victim {c : MemCmd} (h : ∀ e, c.owner ≠ .victim e) (s : State) : readVictim c s = (c, s) := by
  unfold readVictim
  split
  next e he => exact absurd he (h e)
  all_goals rfl

/-- Only a victim's write marks a victim as sent (R116). -/
theorem markSent_of_not_victim {c : MemCmd} (h : ∀ e, c.owner ≠ .victim e) (s : State) : markSent c s = s := by
  unfold markSent
  split
  next e he => exact absurd he (h e)
  all_goals rfl

/-! ### MEM_CMD_PRESENT -/

/-- A command as it is presented: its tag, the moment and the port's timeout of that moment (R340, R342). -/
def MemCmd.present (c : MemCmd) (n now limit : Nat) : MemCmd := { c with tag := BitVec.ofNat 8 n, presented := some now, limit := limit }

/-- A port that has presented command `c`: the command is outstanding and its credit is used (R340). -/
def MemPort.presents (m : MemPort) (write : Bool) (rest : List MemCmd) (c : MemCmd) : MemPort :=
  { m with
    held := rest, outst := m.outst ++ [c], readUtil := if write then m.readUtil else m.readUtil + 1
    wrCred := if write then m.wrCred - 1 else m.wrCred, rdCred := if write then m.rdCred else m.rdCred - 1 }

section
variable {s : State} {p : Nat} {write : Bool} {c : MemCmd} {rest : List MemCmd}

theorem execMemCmdPresent_of_ready {n : Nat} (hc : pickCmd (s.mp p) write [] (s.mp p).held = some (c, rest)) (hf : (s.mp p).failed = false)
    (hr : (s.mp p).inReset = false) (hn : (s.mp p).freeTag write = some n) (hs : (s.mp p).sr = false) (ha : (s.mp p).abort = false)
    (hcr : (if write then (s.mp p).wrCred else (s.mp p).rdCred) ≠ 0) :
    exec (.memCmdPresent p write) s = .next (
      let c' := (readVictim c s).1.present n s.now (s.mp p).timeout
      markSent c' (((readVictim c s).2.setMp p ((s.mp p).presents write rest c')).emit (c'.out p))) := by
  change execMemCmdPresent p write s = _
  simp only [execMemCmdPresent, hc, hn]
  rw [if_neg (by simp [hf, hr]), if_neg (by simp [hs, ha, hcr])]
  cases write <;> rfl

/-- At a port that is FAILED or in reset a command fails as it is presented (R344, R394). -/
theorem execMemCmdPresent_of_failed (hc : pickCmd (s.mp p) write [] (s.mp p).held = some (c, rest))
    (hf : (s.mp p).failed = true ∨ (s.mp p).inReset = true) :
    exec (.memCmdPresent p write) s = .next (failCmd (s.setMp p { s.mp p with held := rest }) c) := by
  change execMemCmdPresent p write s = _
  simp only [execMemCmdPresent, hc, hf, if_true]

/-- A port in self-refresh, in an abort or without a credit presents nothing (R340, R346, R347). -/
theorem execMemCmdPresent_of_stopped (hf : (s.mp p).failed = false) (hr : (s.mp p).inReset = false)
    (h : (s.mp p).sr = true ∨ (s.mp p).abort = true ∨ (if write then (s.mp p).wrCred else (s.mp p).rdCred) = 0) :
    exec (.memCmdPresent p write) s = .next s := by
  refine congrArg Host.Outcome.next ?_
  split
  next => rfl
  next c rest hc =>
    rw [if_neg (by simp [hf, hr])]
    split
    next => rfl
    next => exact if_pos h

/-- A command that is not a victim's leaves as it was held: the port and what leaves the block change, nothing else. -/
theorem execMemCmdPresent_of_not_victim {n : Nat} (hc : pickCmd (s.mp p) write [] (s.mp p).held = some (c, rest))
    (hf : (s.mp p).failed = false) (hr : (s.mp p).inReset = false) (hn : (s.mp p).freeTag write = some n) (hs : (s.mp p).sr = false)
    (ha : (s.mp p).abort = false) (hcr : (if write then (s.mp p).wrCred else (s.mp p).rdCred) ≠ 0) (hv : ∀ e, c.owner ≠ .victim e) :
    exec (.memCmdPresent p write) s = .next (
      let c' := c.present n s.now (s.mp p).timeout
      (s.setMp p ((s.mp p).presents write rest c')).emit (c'.out p)) := by
  refine (execMemCmdPresent_of_ready hc hf hr hn hs ha hcr).trans ?_
  rw [readVictim_of_not_victim hv]
  exact congrArg Host.Outcome.next (markSent_of_not_victim hv _)

end

/-! ### The obligation -/

/-- Settles O31: a command that is ready, at a failed port, at a port that is stopped, and the credits. -/
theorem memoryCommandsArePresented : Obligations.MemoryCommandsArePresented := by
  unfold Obligations.MemoryCommandsArePresented
  intro s p write
  refine ⟨fun c rest n hc hf hr hn hs ha hcr => ⟨execMemCmdPresent_of_ready hc hf hr hn hs ha hcr, fun hv => ?plain, pickCmd_write hc,
      MemPort.freeTag_unused hn⟩, fun c rest => execMemCmdPresent_of_failed, execMemCmdPresent_of_stopped,
    fun ha => congrArg Host.Outcome.next (if_neg (by simp [ha])), fun ha => congrArg Host.Outcome.next (if_pos ha)⟩
  case plain =>
    rw [readVictim_of_not_victim hv]
    refine ⟨_, execMemCmdPresent_of_not_victim hc hf hr hn hs ha hcr hv, rfl, ?_, rfl⟩
    rw [State.mp_emit, State.mp_setMp, if_pos rfl]
    rfl

end Sys2Proof.Machine
end

section
/-! Agents that cannot be reached: the timeouts, the notice to the instance of the port, and the cleared agent table (R127, R128, R130,
R291, R503). -/

namespace Sys2Proof.Machine

/-! ### Timeouts -/

/-- A home that has marked an agent already does nothing at its next timeout (R128). -/
theorem findUnreachable_of_marked {s : State} {x : Nat × Aid × Bool} (h : s.pkg.unreach.contains x.2.1 = true) : findUnreachable s x = s :=
  if_pos h

/-- The slices that answer are those of the configuration that work. -/
theorem State.mem_slicesUp {s : State} {k : Nat} : k ∈ s.slicesUp ↔ k < s.gh.slices ∧ s.works k = true := by
  simp [State.slicesUp]

/-- The timeout of a snoop that left through no link runs at all times (R127, R307). -/
theorem State.snoopLate_of_local {s : State} {o : SnpOut} (hl : o.start + o.limit ≤ s.now) (hv : o.via < 128) : s.snoopLate o = true := by
  simp [State.snoopLate, hl, Nat.not_le.mpr hv]

/-- A snoop of a slice that answers is among the timeouts that fire once its time has elapsed (R127). -/
theorem State.mem_timedOut {s : State} {k : Nat} {t : Txn} {o : SnpOut} (hk : k ∈ s.slicesUp) (ht : t ∈ (s.slice k).txns) (ho : o ∈ t.outs)
    (hl : s.snoopLate o = true) : (k, o.snp.aid, false) ∈ s.timedOut :=
  List.mem_flatMap.mpr ⟨k, hk, List.mem_flatMap.mpr ⟨t, ht, List.mem_append_left _ (List.mem_map.mpr
    ⟨o, List.mem_filter.mpr ⟨ho, hl⟩, rfl⟩)⟩⟩

/-! ### The notice -/

section
variable {s : State} {aid : BitVec 11} {i p : Nat} (cmpAck : Bool)

/-- The instance of the agent's port isolates it, with the reason (R128). -/
theorem execUnreachableNotice_of_open (ha : s.agentAt aid = some (s.self, p)) (hs : (s.ca p).st ≠ .isolated) :
    exec (.unreachableNotice aid cmpAck) s =
      .next (raise { src := 0x13, detail := .port p (if cmpAck then 2 else 1) aid 0 false, acc := if cmpAck then accInt else accSnoop }
        (isolatePort p s)) := by
  change execUnreachableNotice aid cmpAck s = _
  simp only [execUnreachableNotice, ha, hs, true_and, ne_eq, not_false_eq_true, if_true]

/-- A notice at another instance, or for a port that is ISOLATED, changes nothing (R128). -/
theorem execUnreachableNotice_of_settled (ha : s.agentAt aid = some (i, p)) (h : i = s.self → (s.ca p).st = .isolated) :
    exec (.unreachableNotice aid cmpAck) s = .next s := by
  change execUnreachableNotice aid cmpAck s = _
  simp only [execUnreachableNotice, ha]
  rw [if_neg fun hn => hn.2 (h hn.1)]

end

/-! ### The agent table -/

/-- Messages to the joined peers leave everything but the mesh, the free values and what leaves the block. -/
theorem State.toJoined_frame (s : State) (m : MgtMsg) :
    ({ s.toJoined m with mesh := s.mesh, fresh := s.fresh, out := s.out } : State) = s := by
  unfold State.toJoined
  refine List.foldlRecOn (motive := fun t : State => ({ t with mesh := s.mesh, fresh := s.fresh, out := s.out } : State) = s) _ _ rfl
    fun t h i _ => ?_
  exact (congrArg (fun u : State => ({ u with mesh := s.mesh, fresh := s.fresh, out := s.out } : State)) (t.sendMgt_frame i m)).trans h

/-- The agent table without some of its entries. -/
def State.withoutAgents (s : State) (as : List Aid) : State :=
  { s with pkg := { s.pkg with agents := s.pkg.agents.filter (fun x => !(as.contains (BitVec.ofNat 11 x.1))) } }

/-- Clearing entries of the agent table changes the table, and what is sent about it (R291). -/
theorem clearAgents_frame (p : Nat) (as : List Aid) (s : State) :
    ({ clearAgents p as s with mesh := s.mesh, fresh := s.fresh, out := s.out } : State) = s.withoutAgents as := by
  unfold clearAgents
  refine List.foldlRecOn (motive := fun t : State => ({ t with mesh := s.mesh, fresh := s.fresh, out := s.out } : State) = s.withoutAgents as)
    _ _ rfl fun t h a _ => ?_
  exact (congrArg (fun u : State => ({ u with mesh := s.mesh, fresh := s.fresh, out := s.out } : State)) (t.toJoined_frame _)).trans h

theorem clearAgents_slices (p : Nat) (as : List Aid) (s : State) : (clearAgents p as s).slices = s.slices :=
  have e := congrArg State.slices (clearAgents_frame p as s)
  e

/-- Once its AIDs are cleared a port has none (R291). -/
theorem State.aidsOf_withoutAgents (s : State) (p : Nat) : (s.withoutAgents (s.aidsOf p)).aidsOf p = [] := by
  refine List.map_eq_nil_iff.mpr (List.map_eq_nil_iff.mpr (List.filter_eq_nil_iff.mpr fun x hx hp => ?_))
  obtain ⟨hx, hgone⟩ := List.mem_filter.mp hx
  have hmem : BitVec.ofNat 11 x.1 ∈ s.aidsOf p :=
    List.mem_map_of_mem (List.mem_map.mpr ⟨x, List.mem_filter.mpr ⟨hx, hp⟩, rfl⟩)
  simp [hmem] at hgone

/-! ### The obligation -/

/-- Settles O33: the timeouts that fire, the notice by its port, and the agent table. -/
theorem unreachableAgentsAreIsolated : Obligations.UnreachableAgentsAreIsolated := by
  unfold Obligations.UnreachableAgentsAreIsolated
  intro s aid cmpAck
  refine ⟨fun h => congrArg Host.Outcome.next (if_pos h), fun h => congrArg Host.Outcome.next (if_neg h), fun x => findUnreachable_of_marked,
    fun k e t o hw ht ho hl hv _ hk => ?_, fun p => execUnreachableNotice_of_open cmpAck,
    fun p ha hs => execUnreachableNotice_of_settled cmpAck ha fun _ => hs,
    fun i p ha hi => execUnreachableNotice_of_settled cmpAck ha fun h => absurd h hi, fun p => ⟨?_, ?_⟩⟩
  · exact State.mem_timedOut (State.mem_slicesUp.mpr ⟨hk, hw⟩) (List.contains_iff_mem.mp ht) (List.contains_iff_mem.mp ho)
      (State.snoopLate_of_local hl hv)
  · exact (congrArg (State.aidsOf · p) (clearAgents_frame p (s.aidsOf p) s)).trans (s.aidsOf_withoutAgents p)
  · exact clearAgents_slices p (s.aidsOf p) s

end Sys2Proof.Machine
end

section
/-! Range commands, way locks, and the commands over one line (R109, R110, R226, R231 to R234, R386, R396 to R399). -/

namespace Sys2Proof.Machine

/-! ### Lists -/

/-- The change that leaves every element as it is leaves the list. -/
theorem lmodify_id {α : Type} (p : α → Bool) (l : List α) : lmodify p id l = l := by
  induction l with
  | nil => rfl
  | cons b l ih => rw [lmodify, ih, id, ite_self]

/-- A change that leaves the first element that satisfies `p` as it is leaves the list. -/
theorem lmodify_of_fixed {α : Type} {p : α → Bool} {f : α → α} {l : List α} {a : α} (ha : l.find? p = some a) (h : f a = a) :
    lmodify p f l = l :=
  (lmodify_congr ha h).trans (lmodify_id p l)

/-- A command that a change leaves as it is leaves the commands in progress as they are. -/
theorem State.modCmd_of_fixed {s : State} {c : Nat} {k : Kcp} {f : Kcp → Kcp} (hk : s.cmd c = some k) (h : f k = k) : s.modCmd c f = s :=
  congrArg (fun l => ({ s with hub := { s.hub with inProg := l } } : State)) (lmodify_of_fixed hk h)

/-! ### A range command starts -/

theorem State.powered_startCmd (s : State) (k : Kcp) (f : Kcp → Kcp) : (s.startCmd k f).powered = s.powered := rfl

section
variable {k : Kcp} {s : State}

theorem startRange_of_draining {j : Nat} (h : s.powered.find? (fun j => decide ((s.slice j).bank = .draining)) = some j) :
    startRange k s = finish k stConflict (s.bankDetail j) [] s := by
  simp only [startRange, h]

/-- A range of no lines is answered at once (R396). -/
theorem startRange_of_empty (h : s.powered.find? (fun j => decide ((s.slice j).bank = .draining)) = none) (hn : fld (k.par 1) 0 40 = 0) :
    startRange k s = finish k stOk 0 [0, 0, 0, 0] s := by
  have hr : (rangeOf k).2 ≤ (rangeOf k).1 := by simp [rangeOf, hn]
  simp only [startRange, h, hr, if_true]

/-- With no powered slice a range command has nothing to visit. -/
theorem startRange_of_unpowered (hp : s.powered = []) (hr : (rangeOf k).1 < (rangeOf k).2) : startRange k s =
    s.startCmd k (fun x => { x with units := [], aux := (rangeOf k).2 - (rangeOf k).1 - s.homedIn (rangeOf k).1 (rangeOf k).2 }) := by
  simp only [startRange, State.powered_startCmd, hp, List.find?_nil]
  exact if_neg (Nat.not_le.mpr hr)

end

/-! ### A range command visits a line -/

section
variable {k : Kcp} {s : State} {j t : Nat} {l : LAddr}

theorem rangeLine_of_absent (h : (s.slice j).slotOf l = none) : rangeLine k j s l = (false, s) := by
  simp only [rangeLine, h]

/-- An invalidation skips a locked way unless its flag says otherwise (R232). -/
theorem rangeLine_of_locked (h : (s.slice j).slotOf l = some t) (ho : k.opc = 0x23) (hl : (s.slice j).locked (hcSet l) (t / 2) = true)
    (hf : k.flag 0 = false) : rangeLine k j s l = (true, s) := by
  simp [rangeLine, h, ho, hl, hf]

theorem rangeLine_of_evicted (h : (s.slice j).slotOf l = some t) (ho : k.opc = 0x23)
    (hl : (s.slice j).locked (hcSet l) (t / 2) = false ∨ k.flag 0 = true) :
    rangeLine k j s l = (false, evictFor j (hcSet l) t (some k.id) s) := by
  have hkept : ((s.slice j).locked (hcSet l) (t / 2) && !(k.flag 0)) = false := by
    rcases hl with hl | hl <;> simp [hl]
  simp [rangeLine, h, ho, hkept]

theorem rangeLine_of_flushed (h : (s.slice j).slotOf l = some t) (ho : k.opc = 0x24) : rangeLine k j s l =
    (false, if ((s.slice j).tagAt (hcSet l) t).hst = hsDirty then writeBackSlot j (.range k.id) s (hcSet l, t) else s) := by
  simp [rangeLine, h, ho]

end

/-! ### A range command ends -/

/-- The words of the reply of a range command: lines acted on, skipped, homed elsewhere, and in all (R233). -/
def rangeReply (k : Kcp) : List W64 :=
  let n := (rangeOf k).2 - (rangeOf k).1
  let kept := (k.skipped.filter (fun j => !(k.lost.contains j))).length
  [BitVec.ofNat 64 (n - k.aux - k.away - kept), BitVec.ofNat 64 kept, BitVec.ofNat 64 k.aux, BitVec.ofNat 64 n]

/-- When no line is left and every write-back is acknowledged, the reply is written (R232, R233). -/
theorem execRangeScanDone_of_done {s : State} {c : Nat} {k : Kcp} (hk : s.cmd c = some k) (hr : k.running = true)
    (ho : k.opc = 0x23 ∨ k.opc = 0x24) (hv : k.revisit = []) (hw : s.rangeWrites c = false) : exec (.rangeScanDone c) s =
      .next (finishUnits k (b2n (fld (k.par 1) 0 40 == 2 ^ 40 - 1) + 2 * b2n k.wfail) (rangeReply k) s) := by
  have hruns : (!k.running || !(k.opc == 0x23 || k.opc == 0x24)) = false := by
    rcases ho with ho | ho <;> simp [hr, ho]
  have hfixed : s.modCmd c (fun x => { x with revisit := [] }) = s :=
    State.modCmd_of_fixed hk (by rw [← hv])
  change execRangeScanDone c s = _
  simp only [execRangeScanDone, hk, hruns, hv, hfixed, hw, List.filter_nil, List.foldl_nil, List.isEmpty_nil, Bool.not_true, Bool.or_self,
    Bool.false_eq_true, if_false, rangeReply]

section
variable {k : Kcp} {j d : Nat} {ws : List W64} {s : State}

theorem finishUnits_of_kept (h : k.lost = []) : finishUnits k d ws s = finish k stOk d ws s := by
  simp only [finishUnits, h]
  rfl

/-- The loss of the one slice a command acts on is a failure with its source (R386). -/
theorem finishUnits_of_failed (h : k.lost = [j]) (ht : k.tgt ≠ 0xFF) (hu : k.units = [k.tgt]) :
    finishUnits k d ws s = finish k stFailed k.lostBy [] s := by
  simp only [finishUnits, h]
  exact if_neg (by simp [ht, hu])

/-- A command over every slice that loses one of them is PARTIAL (R386). -/
theorem finishUnits_of_partial (h : k.lost = [j]) (ht : k.tgt = 0xFF) : finishUnits k d ws s = finish k stPartial (j + 256) ws s := by
  simp only [finishUnits, h]
  exact if_pos (.inl ht)

end

/-- A command in progress after the loss of slice `j`, whose lines are left out of the counts of a range command (R386). -/
def Kcp.losing (s : State) (j src : Nat) (x : Kcp) : Kcp :=
  { x with lost := x.lost ++ [j], lostBy := src, away := x.away +
    (if x.opc = 0x23 ∨ x.opc = 0x24 then s.linesAt j (rangeOf x).1 (rangeOf x).2 else 0) }

/-- The loss of a slice without transactions is noted in every running command that acts on it (R386). -/
theorem losing_mem_noteLost {s : State} {j src : Nat} {x : Kcp} (hx : x ∈ s.hub.inProg) (hr : x.running = true) (hu : j ∈ x.units)
    (hl : j ∉ x.lost) (ht : (s.slice j).txns = []) : x.losing s j src ∈ (noteLost j src s).hub.inProg := by
  unfold noteLost
  simp only [ht, List.filter_nil, List.map_nil, List.foldl_nil]
  exact List.mem_map.mpr ⟨x, hx, if_pos (by simp [hr, hu, hl])⟩

/-! ### Locks -/

section
variable {s : State} {k : Kcp}

theorem startLock_of_no_way (h : fld (k.par 0) 0 16 = 0) : startLock k s = finish k stOk 0 [] s := if_pos h

/-- A lock command over powered slices whose banks serve or are READY starts (R231, R397). -/
theorem startLock_of_ready (h : fld (k.par 0) 0 16 ≠ 0)
    (hj : ∀ j ∈ s.bankTargets k, (s.slice j).st = .on ∧ ((s.slice j).bank = .on ∨ (s.slice j).bank = .ready)) :
    startLock k s = s.startCmd k (fun x => { x with units := s.bankTargets k }) := by
  have hnone : s.refusing (s.bankTargets k) (fun v => !(decide (v.bank = .on) || decide (v.bank = .ready))) = none :=
    List.find?_eq_none.mpr fun j hmem => by rcases hj j hmem with ⟨hon, hb | hb⟩ <;> simp [hon, hb]
  simp only [startLock, if_neg h, hnone]

end

/-- The sets that a lock command names (R397). -/
def Kcp.lockSets (k : Kcp) : List Nat :=
  (List.range (fld (k.par 0) 32 11 + 1 - fld (k.par 0) 16 11)).map (fun i => fld (k.par 0) 16 11 + i)

theorem Kcp.mem_lockSets {k : Kcp} {set : Nat} : set ∈ k.lockSets ↔ fld (k.par 0) 16 11 ≤ set ∧ set ≤ fld (k.par 0) 32 11 := by
  simp only [Kcp.lockSets, List.mem_map, List.mem_range]
  constructor
  · rintro ⟨i, hi, rfl⟩
    omega
  · rintro ⟨h₁, h₂⟩
    exact ⟨set - fld (k.par 0) 16 11, by omega, by omega⟩

theorem Kcp.lockSets_nodup (k : Kcp) : k.lockSets.Nodup :=
  List.Pairwise.map _ (fun _ _ hne e => hne (Nat.add_left_cancel e)) List.nodup_range

/-- The pass of a lock command over one set of slice `j`: the control word is read, and its LOCK bits are written (R234, R397). -/
def lockStep (j : Nat) (lock : Bool) (ways : BitVec 16) (s : State) (i : Nat) : State :=
  (readCtl j i accCmd s).modSlice j (fun v => v.lockSet lock ways i)

/-- A lock command over one slice that is not lost passes over its sets and replies OK (R397). -/
theorem execWayLockDone_of_one {s : State} {c : Nat} {k : Kcp} (hk : s.cmd c = some k) (hr : k.running = true)
    (ho : k.opc = 0x25 ∨ k.opc = 0x26) (hu : k.units = [k.tgt]) (hl : k.lost = []) : exec (.wayLockDone c) s =
      .next (finish k stOk 0 [] (k.lockSets.foldl (lockStep k.tgt (decide (k.opc = 0x25)) ((k.par 0).extractLsb' 0 16)) s)) := by
  have hruns : (!k.running || !(k.opc == 0x25 || k.opc == 0x26)) = false := by
    rcases ho with ho | ho <;> simp [hr, ho]
  change execWayLockDone c s = _
  simp only [execWayLockDone, hk, hruns, hu, hl, finishUnits_of_kept hl]
  rfl

/-- The LOCK bits of a control word with some of them set or cleared (R231). -/
def HcCtl.locking (lock : Bool) (ways : BitVec 16) (c : HcCtl) : HcCtl :=
  { c with lock := if lock then c.lock ||| ways else c.lock &&& ~~~ways }

theorem Slice.lockSet_ctlAt (v : Slice) (lock : Bool) (ways : BitVec 16) (i set : Nat) :
    (v.lockSet lock ways i).ctlAt set = if set = i then (v.ctlAt i).locking lock ways else v.ctlAt set := v.ctlAt_setCtl i _ set

theorem Slice.lockSet_hcTag (v : Slice) (lock : Bool) (ways : BitVec 16) (i : Nat) : (v.lockSet lock ways i).hcTag = v.hcTag := rfl

/-- A control word that is written makes no word faulty (R237). -/
theorem Slice.errAt_setCtl {v : Slice} {set : Nat} (h : v.errAt 3 set = none) (i : Nat) (c : HcCtl) : (v.setCtl i c).errAt 3 set = none :=
  List.find?_eq_none.mpr fun e he => List.find?_eq_none.mp h e (List.mem_filter.mp he).1

/-- Every control word of a slice is read as it is (R234). -/
def Slice.CtlClean (v : Slice) : Prop := ∀ set, v.errAt 3 set = none ∧ (v.ctlAt set).dcnt.toNat ≤ 16

theorem Slice.CtlClean.lockSet {v : Slice} (h : v.CtlClean) (lock : Bool) (ways : BitVec 16) (i : Nat) : (v.lockSet lock ways i).CtlClean := by
  refine fun set => ⟨Slice.errAt_setCtl (h set).1 i _, ?_⟩
  rw [Slice.lockSet_ctlAt]
  split
  · exact (h i).2
  · exact (h set).2

/-- Where every control word is clean a step of the pass only writes the LOCK bits. -/
theorem lockStep_of_clean {s : State} {j : Nat} (h : (s.slice j).CtlClean) (lock : Bool) (ways : BitVec 16) (i : Nat) :
    lockStep j lock ways s i = s.modSlice j (fun v => v.lockSet lock ways i) :=
  congrArg (fun u : State => u.modSlice j (fun v => v.lockSet lock ways i)) (readCtl_of_clean (h i).1 (h i).2)

/-- What a pass over distinct sets leaves: the LOCK bits of those sets of slice `j` are written, and nothing else changes. -/
structure LocksOnly (j : Nat) (lock : Bool) (ways : BitVec 16) (sets : List Nat) (s t : State) : Prop where
  frame : ({ t with slices := s.slices } : State) = s
  others : ∀ i, i ≠ j → t.slice i = s.slice i
  hcTag : (t.slice j).hcTag = (s.slice j).hcTag
  ctlAt : ∀ set, (t.slice j).ctlAt set = if set ∈ sets then ((s.slice j).ctlAt set).locking lock ways else (s.slice j).ctlAt set

theorem locksOnly_foldl {j : Nat} (lock : Bool) (ways : BitVec 16) {sets : List Nat} (hn : sets.Nodup) {s : State} (h : (s.slice j).CtlClean) :
    LocksOnly j lock ways sets s (sets.foldl (lockStep j lock ways) s) := by
  induction sets generalizing s with
  | nil => exact ⟨rfl, fun _ _ => rfl, rfl, fun _ => rfl⟩
  | cons i sets ih =>
    obtain ⟨hi, hn⟩ := List.nodup_cons.mp hn
    rw [List.foldl_cons, lockStep_of_clean h]
    have hj : (s.modSlice j (fun v => v.lockSet lock ways i)).slice j = (s.slice j).lockSet lock ways i := by
      rw [State.slice_modSlice, if_pos rfl]
    have hrest := ih hn (s := s.modSlice j (fun v => v.lockSet lock ways i)) (hj ▸ h.lockSet lock ways i)
    refine ⟨(congrArg (fun t : State => ({ t with slices := s.slices } : State)) hrest.frame).trans rfl, fun n hne => ?_, ?_, fun set => ?_⟩
    · rw [hrest.others n hne, State.slice_modSlice, if_neg hne]
    · rw [hrest.hcTag, hj, Slice.lockSet_hcTag]
    · rw [hrest.ctlAt, hj, Slice.lockSet_ctlAt]
      by_cases hset : set = i
      · subst hset
        simp [hi]
      · simp [hset]

/-! ### Lines -/

/-- The line that a line command names (R398, R399). -/
abbrev Kcp.lineNamed (k : Kcp) : LAddr := (k.par 0).extractLsb' 0 46

section
variable {s : State} {k : Kcp} {f : Kcp → State → State}

theorem atHome_of_none (h : homeOf s.map.active k.lineNamed = none) : atHome f k s = finish k stFailed 1 [] s := by
  simp only [atHome, h]

/-- A command about a line homed here runs here (R385). -/
theorem atHome_of_here {m : Nat} (h : homeOf s.map.active k.lineNamed = some (s.self, m)) : atHome f k s = f k s := by
  simp only [atHome, h]
  exact if_pos (by simp)

/-- A command about a line homed elsewhere goes to its home instance (R385). -/
theorem atHome_of_elsewhere {i m : Nat} (h : homeOf s.map.active k.lineNamed = some (i, m)) (hi : i ≠ s.self) (hr : k.remote = none) :
    atHome f k s = forward k i (stFailed, 2) s := by
  simp only [atHome, h]
  exact if_neg (by simp [hi, hr])

end

/-- FLUSH_LINE at the home instance: the home flow enters the chain of the line, or waits at the hub (R109, R110, R399). -/
theorem execFlushLine_of_here {s : State} {c : Nat} {k : Kcp} {m : Nat} (hk : s.newCmd c 0x28 = some k)
    (hm : homeOf s.map.active k.lineNamed = some (s.self, m)) : exec (.flushLine c) s = .next (
      let j := s.homeSlice (shingleOf k.lineNamed)
      if s.fencedAt (shingleOf k.lineNamed) || !(s.works j) || decide (16 ≤ s.homeUse j) then s
      else (s.startCmd k id).setSlice j ((s.slice j).enter
        { e := (s.slice j).freeEntry, kind := .flushLine, q := { laddr := k.lineNamed }, cmd := some k.id })) :=
  congrArg Host.Outcome.next ((runCmd_of_some hk rfl).trans (atHome_of_here hm))

/-! ### The obligation -/

/-- Settles O38: the range commands from start to reply, the locks, and the commands over one line. -/
theorem rangeLockAndLineCommands : Obligations.RangeLockAndLineCommands := by
  unfold Obligations.RangeLockAndLineCommands
  refine ⟨fun s c k => ?ranges, fun s c k => ⟨fun hk => ⟨fun h => ?_, fun h hj => ?_⟩, fun hk => ⟨fun h => ?_, fun h hj => ?_⟩,
    fun hk hr ho hu hl => ⟨execWayLockDone_of_one hk hr ho hu hl, fun hclean => ?locks⟩, fun i m hk hm hi => ?query, fun i hi hm => ?nowhere,
    fun i m hk hm hi hr => ?elsewhere, fun i m hk hm hi => ?flush, fun sl hs hw => ?scan⟩⟩
  case ranges =>
    exact ⟨fun hk => congrArg Host.Outcome.next (runCmd_of_some hk rfl), fun hk => congrArg Host.Outcome.next (runCmd_of_some hk rfl),
      fun j => startRange_of_draining, startRange_of_empty, fun _ => startRange_of_unpowered, fun j l => rangeLine_of_absent,
      fun j l t => rangeLine_of_locked, fun j l t => rangeLine_of_evicted, fun j l t => rangeLine_of_flushed, execRangeScanDone_of_done,
      fun j src x hx _ => losing_mem_noteLost hx, fun d ws => finishUnits_of_kept, fun j d ws => finishUnits_of_failed,
      fun j d ws => finishUnits_of_partial⟩
  · exact congrArg Host.Outcome.next ((runCmd_of_some hk rfl).trans (startLock_of_no_way h))
  · exact congrArg Host.Outcome.next ((runCmd_of_some hk rfl).trans (startLock_of_ready h hj))
  · exact congrArg Host.Outcome.next ((runCmd_of_some hk rfl).trans (startLock_of_no_way h))
  · exact congrArg Host.Outcome.next ((runCmd_of_some hk rfl).trans (startLock_of_ready h hj))
  case locks =>
    have hpass := locksOnly_foldl (decide (k.opc = 0x25)) ((k.par 0).extractLsb' 0 16) k.lockSets_nodup hclean
    refine ⟨_, execWayLockDone_of_one hk hr ho hu hl, hpass.frame, hpass.others, hpass.hcTag, fun set => (hpass.ctlAt set).trans ?_⟩
    simp only [Kcp.mem_lockSets, HcCtl.locking, decide_eq_true_eq]
  case query =>
    subst hi
    exact congrArg Host.Outcome.next ((runCmd_of_some hk rfl).trans (atHome_of_here hm))
  case nowhere =>
    rcases hi with ⟨hk, rfl⟩ | ⟨hk, rfl⟩
    · exact congrArg Host.Outcome.next ((runCmd_of_some hk rfl).trans (atHome_of_none hm))
    · exact congrArg Host.Outcome.next ((runCmd_of_some hk rfl).trans (atHome_of_none hm))
  case elsewhere => exact congrArg Host.Outcome.next ((runCmd_of_some hk rfl).trans (atHome_of_elsewhere hm hi hr))
  case flush =>
    subst hi
    have hexec := execFlushLine_of_here hk hm
    refine ⟨fun hwait => hexec.trans (congrArg Host.Outcome.next (if_pos ?_)), fun hf hw hu =>
      ⟨_, hexec.trans (congrArg Host.Outcome.next (if_neg ?_)), ?_, fun i hne => ?_, rfl⟩⟩
    · rcases hwait with h | h <;> simp [h]
    · simp [hf, hw, hu]
    · exact (State.slice_setSlice _ _ _ _).trans (if_pos rfl)
    · exact (State.slice_setSlice _ _ _ _).trans (if_neg hne)
  case scan => exact congrArg Host.Outcome.next (if_pos (by simp [hs, hw]))

end Sys2Proof.Machine
end

section
/-! The bound on the time of a regroup computation (R182, R199). -/

namespace Sys2Proof.Machine

/-- A policy event records a decision, and changes nothing else of the policies (R199, R402). -/
theorem policyEvent_pol (pid code tgt reason old new : Nat) (s : State) : (policyEvent pid code tgt reason old new s).pol =
    { s.pol with decisions := (policyEvent pid code tgt reason old new s).pol.decisions } := by
  unfold policyEvent
  simp only [raise_pol]

/-- A regroup that is dropped leaves no computation behind, and both generations of the map as they were (R182). -/
theorem dropRegroup_pol (reason : Nat) (s : State) : (dropRegroup reason s).pol = { s.pol with
    rg := .idle, rgSamples := [], calRuns := [], decisions := (dropRegroup reason s).pol.decisions } := by
  simp only [dropRegroup, endCalibrate_pol, skipRegroup]
  rw [policyEvent_pol]

theorem execRegroupTimeout_of_due {s : State} (hc : s.pol.rg = .computing) (ht : s.pol.rgFrom + 40000000 ≤ s.ptcNow) :
    exec .regroupTimeout s = .next (dropRegroup 5 s) :=
  congrArg Host.Outcome.next (if_pos ⟨hc, ht⟩)

theorem execRegroupTimeout_of_early {s : State} (ht : s.ptcNow < s.pol.rgFrom + 40000000) : exec .regroupTimeout s = .next s :=
  congrArg Host.Outcome.next (if_neg fun h => Nat.not_le.mpr ht h.2)

/-- Settles O59: from the tick of R182 on the computation is dropped with reason 5, before it nothing happens. -/
theorem regroupTimeIsBounded : Obligations.RegroupTimeIsBounded := by
  unfold Obligations.RegroupTimeIsBounded
  refine fun s hc => ⟨fun ht => ?_, execRegroupTimeout_of_early⟩
  refine ⟨{ s with pol := { s.pol with rg := .idle, rgSamples := [] } }, dropRegroup 5 s, rfl, execRegroupTimeout_of_due hc ht, rfl, ?_⟩
  rw [dropRegroup_pol]
  exact ⟨rfl, rfl, rfl, rfl⟩

end Sys2Proof.Machine
end

section
/-! The end of a calibration period, the grid of the epochs, and the decisions of the adaptive policies (R170, R171, R173, R189 to R191). -/

namespace Sys2Proof.Machine

/-! ### The counting period ends -/

theorem State.slice_with_pol (s : State) (p : PolSt) (k : Nat) : ({ s with pol := p } : State).slice k = s.slice k := rfl

theorem State.powered_nodup (s : State) : s.powered.Nodup := List.Pairwise.filter _ List.nodup_range

/-- One change made once to each slice of a list. -/
theorem State.slice_each_modSlice (f : Slice → Slice) {l : List Nat} (hl : l.Nodup) (s : State) (j : Nat) :
    (s.each l (fun t k => t.modSlice k f)).slice j = if j ∈ l then f (s.slice j) else s.slice j := by
  unfold State.each
  induction l generalizing s with
  | nil => simp
  | cons k l ih =>
    obtain ⟨hk, hl⟩ := List.nodup_cons.mp hl
    rw [List.foldl_cons, ih hl, State.slice_modSlice]
    by_cases h : j = k
    · subst h; simp [hk]
    · simp [h]

/-- The state when every powered slice has taken its snapshot. -/
def State.snapshots (s : State) : State := s.each s.powered (fun t k => t.modSlice k Slice.takeSnapshot)

/-- The state when the read count of every memory port starts again. -/
def State.readsCleared (s : State) : State := s.each (List.range s.gh.memPorts) (fun t m =>
  if (t.mp m).readUtil = 0 then t else t.modMp m (fun x => { x with readUtil := 0 }))

theorem State.snapshots_slice (s : State) (j : Nat) :
    s.snapshots.slice j = if j ∈ s.powered then (s.slice j).takeSnapshot else s.slice j :=
  State.slice_each_modSlice Slice.takeSnapshot s.powered_nodup s j

theorem State.snapshots_frame (s : State) : ({ s.snapshots with slices := s.slices } : State) = s :=
  State.each_modSlice_frame s.powered (fun _ => Slice.takeSnapshot) s

theorem State.readsCleared_frame (s : State) : ({ s.readsCleared with mps := s.mps } : State) = s := by
  refine State.each_induction (fun t => ({ t with mps := s.mps } : State) = s) _ _ (fun t m h => ?_) s rfl
  split
  · exact h
  · exact h

/-- The snapshots and the cleared read counts change the slices and the memory ports alone. -/
theorem State.snapshots_readsCleared_frame (s : State) :
    ({ s.snapshots.readsCleared with slices := s.slices, mps := s.mps } : State) = s :=
  have hreads := congrArg (fun t : State => ({ t with slices := s.slices, mps := s.mps } : State)) s.snapshots.readsCleared_frame
  hreads.trans (congrArg (fun t : State => ({ t with mps := s.mps } : State)) s.snapshots_frame)

theorem endPeriod_frame (s : State) : ({ endPeriod s with slices := s.slices, mps := s.mps, pol := s.pol } : State) = s :=
  congrArg (fun t : State => ({ t with pol := s.pol } : State)) s.snapshots_readsCleared_frame

theorem endPeriod_slice (s : State) (j : Nat) :
    (endPeriod s).slice j = if j ∈ s.powered then { s.slice j with snap := (s.slice j).calib, calib := {} } else s.slice j := by
  have hreads := congrArg (fun t : State => t.slice j) s.snapshots.readsCleared_frame
  exact hreads.trans (s.snapshots_slice j)

/-- What is due and recorded of the policies at the end of a period; the grid of the epochs is not part of it (R171, R173). -/
theorem endPeriod_pol (s : State) : (endPeriod s).pol = { s.pol with
    snapDue := true
    lastB := s.ptcNow
    linkBad := (endPeriod s).pol.linkBad
    readSnap := (endPeriod s).pol.readSnap
    readFrom := s.time.cycles } := by
  have hframe := s.snapshots_readsCleared_frame
  have hpol : s.snapshots.readsCleared.pol = s.pol := (congrArg State.pol hframe :)
  have hptc : s.snapshots.readsCleared.ptcNow = s.ptcNow := (congrArg State.ptcNow hframe :)
  have htime : s.snapshots.readsCleared.time = s.time := (congrArg State.time hframe :)
  calc (endPeriod s).pol = { s.snapshots.readsCleared.pol with
          snapDue := true
          lastB := s.snapshots.readsCleared.ptcNow
          linkBad := (endPeriod s).pol.linkBad
          readSnap := (endPeriod s).pol.readSnap
          readFrom := s.snapshots.readsCleared.time.cycles } := rfl
    _ = _ := by rw [hpol, hptc, htime]

/-! ### The replacement mode and a new epoch length at a boundary -/

/-- A switch of the replacement mode that is in force already changes nothing. -/
theorem setRepl_of_eq {nru : Bool} {reason : Nat} {s : State} (h : s.pol.nru = nru) : setRepl nru reason s = s := if_pos h

/-- A switch of the replacement mode touches the mode and the record of decisions, nothing else of the policies (R219, R221). -/
theorem setRepl_pol_frame (nru : Bool) (reason : Nat) (s : State) :
    ({ (setRepl nru reason s).pol with nru := s.pol.nru, decisions := s.pol.decisions } : PolSt) = s.pol := by
  unfold setRepl
  split
  · rfl
  · dsimp only
    rw [policyEvent_pol]
    have hwalks := State.each_modSlice_frame (List.range s.gh.slices) (fun t v => { v with walkPos := 0, walkFrom := t.time.cycles })
      { s with pol := { s.pol with nru := nru } }
    cases nru
    · rfl
    · exact (congrArg (fun t : State => ({ t.pol with nru := s.pol.nru, decisions := s.pol.decisions } : PolSt)) hwalks :)

/-- With no period of NRU mode to end, the end of such periods changes nothing (R221). -/
theorem endRepl_of_random {s : State} (b : Nat) (hf : s.pol.startFrom = none) (hr : s.pol.recovery = false) (ht : s.rst.test = false)
    (hn : s.pol.nru = false) : endRepl b s = s := by
  have hsame : ({ s with pol := { s.pol with startFrom := none, recovery := false } } : State) = s := by
    rw [← hf, ← hr]
  unfold endRepl
  simp only [hf, hr, ht, Bool.false_and, hsame]
  exact setRepl_of_eq hn

/-- The end of periods of NRU mode records which of them go on, and then keeps the mode or returns to RANDOM mode (R221). -/
theorem endRepl_cases (b : Nat) (s : State) : ∃ u : State,
    ({ u.pol with startFrom := s.pol.startFrom, recovery := s.pol.recovery } : PolSt) = s.pol ∧
    (endRepl b s = u ∨ endRepl b s = setRepl false 4 u) := by
  unfold endRepl
  refine ⟨_, ?_, (Decidable.em _).imp (fun h => if_pos h) (fun h => if_neg h)⟩
  rfl

/-- Of the policies the end of such periods touches nothing but the periods, the mode and the record of decisions. -/
theorem endRepl_pol_frame (b : Nat) (s : State) : ({ (endRepl b s).pol with
    nru := s.pol.nru
    decisions := s.pol.decisions
    startFrom := s.pol.startFrom
    recovery := s.pol.recovery } : PolSt) = s.pol := by
  obtain ⟨u, hu, h⟩ := endRepl_cases b s
  have hrest : ({ (endRepl b s).pol with nru := u.pol.nru, decisions := u.pol.decisions } : PolSt) = u.pol := by
    rcases h with h | h
    · rw [h]
    · rw [h, setRepl_pol_frame]
  exact (congrArg (fun p : PolSt => ({ p with
    nru := s.pol.nru, decisions := s.pol.decisions, startFrom := s.pol.startFrom, recovery := s.pol.recovery } : PolSt)) hrest).trans
    (congrArg (fun p : PolSt => ({ p with nru := s.pol.nru, decisions := s.pol.decisions } : PolSt)) hu)

theorem useEpoch_of_none {s : State} (b : Nat) (h : s.pol.epochNew = none) : useEpoch b s = s := by
  simp only [useEpoch, h]

/-- A new length is taken at a boundary of its own grid, and waits at any other (R170). -/
theorem useEpoch_pol {s : State} {m : Nat} (b : Nat) (h : s.pol.epochNew = some m) :
    (useEpoch b s).pol.epochMs = (if b % (m * 1000000) = 0 then m else s.pol.epochMs) ∧
    (useEpoch b s).pol.epochNew = (if b % (m * 1000000) = 0 then none else some m) := by
  unfold useEpoch
  rw [h]
  dsimp only
  split
  · rw [State.endCmd_pol]
    split
    · exact ⟨rfl, rfl⟩
    · rw [policyEvent_pol]
      exact ⟨rfl, rfl⟩
  · exact ⟨rfl, h⟩

/-! ### EPOCH_BOUNDARY -/

theorem execEpochBoundary_of_early (s : State) : exec (.epochBoundary true) s = .next (endPeriod s) := rfl

theorem execEpochBoundary_of_before {s : State} (h : s.ptcNow < s.pol.epochNext) : exec (.epochBoundary false) s = .next s :=
  congrArg Host.Outcome.next (if_neg (Nat.not_le.mpr h))

/-- The state when the boundary at tick `b` of the grid has been met. -/
def State.atBoundary (b : Nat) (s : State) : State := useEpoch b (endPeriod (endRepl b s))

theorem execEpochBoundary_of_due {s : State} (h : s.pol.epochNext ≤ s.ptcNow) : exec (.epochBoundary false) s =
    .next (let u := s.atBoundary s.pol.epochNext
      { u with pol := { u.pol with epochs := u.pol.epochs + 1, epochNext := u.boundaryAfter u.ptcNow } }) :=
  congrArg Host.Outcome.next (if_pos h)

theorem endPeriod_ptcNow (s : State) : (endPeriod s).ptcNow = s.ptcNow :=
  (congrArg State.ptcNow (endPeriod_frame s) :)

theorem endPeriod_boundaryAfter (s : State) (t : Nat) : (endPeriod s).boundaryAfter t = s.boundaryAfter t := by
  unfold State.boundaryAfter
  rw [endPeriod_pol]

theorem State.boundaryAfter_of_none {s : State} (h : s.pol.epochNew = none) (t : Nat) :
    s.boundaryAfter t = (t / s.epochLen + 1) * s.epochLen := by
  unfold State.boundaryAfter
  rw [h]
  rfl

/-- With no period of NRU mode to end and no new length, a boundary ends the period and moves on the grid. -/
theorem execEpochBoundary_of_plain {s : State} (h : s.pol.epochNext ≤ s.ptcNow) (hf : s.pol.startFrom = none) (hr : s.pol.recovery = false)
    (ht : s.rst.test = false) (hn : s.pol.nru = false) (hnew : s.pol.epochNew = none) : exec (.epochBoundary false) s =
    .next { endPeriod s with pol := { (endPeriod s).pol with
      epochs := s.pol.epochs + 1
      epochNext := (s.ptcNow / s.epochLen + 1) * s.epochLen } } := by
  have hu : s.atBoundary s.pol.epochNext = endPeriod s := by
    unfold State.atBoundary
    rw [endRepl_of_random _ hf hr ht hn, useEpoch_of_none]
    rw [endPeriod_pol]
    exact hnew
  have hepochs : (endPeriod s).pol.epochs = s.pol.epochs := by rw [endPeriod_pol]
  rw [execEpochBoundary_of_due h, hu]
  dsimp only
  rw [endPeriod_ptcNow, endPeriod_boundaryAfter, State.boundaryAfter_of_none hnew, hepochs]

/-- A new length is taken at a boundary of its own grid, and waits at any other (R170, R402). -/
theorem State.atBoundary_pol {s : State} {m : Nat} (b : Nat) (h : s.pol.epochNew = some m) :
    (s.atBoundary b).pol.epochMs = (if b % (m * 1000000) = 0 then m else s.pol.epochMs) ∧
    (s.atBoundary b).pol.epochNew = (if b % (m * 1000000) = 0 then none else some m) := by
  have hnew : (endPeriod (endRepl b s)).pol.epochNew = some m := by
    rw [endPeriod_pol]
    exact (congrArg PolSt.epochNew (endRepl_pol_frame b s) :).trans h
  have hms : (endPeriod (endRepl b s)).pol.epochMs = s.pol.epochMs := by
    rw [endPeriod_pol]
    exact (congrArg PolSt.epochMs (endRepl_pol_frame b s) :)
  rw [← hms]
  exact useEpoch_pol b hnew

/-! ### The decisions -/

theorem execCalibrationDecisions_of_none {s : State} (h : s.pol.snapDue = false) : exec .calibrationDecisions s = .next s :=
  congrArg Host.Outcome.next (if_neg (by simp [h]))

/-- The state when every local decision of a snapshot has been taken. -/
def State.decided (s : State) : State :=
  driveGate (decideGating (decideStream ((List.range 128).foldl decideSpec ((List.range s.gh.slices).foldl decideThreshold
    { s with pol := { s.pol with snapDue := false, linkBad := s.pol.linkBad || s.peersBad } }))))

theorem execCalibrationDecisions_of_due {s : State} (h : s.pol.snapDue = true) : exec .calibrationDecisions s =
    .next (if s.decided.calMaster = s.decided.self then beginRegroup s.decided
      else calDecided false (s.decided.sendMgt s.decided.calMaster (.summary (s.decided.bundleSums (fun c => c.sent))
        (s.decided.bundleSums (fun c => c.spur)) s.decided.ownSamples s.decided.pol.linkBad))) :=
  congrArg Host.Outcome.next (if_pos h)

theorem State.peersBad_of_alone {s : State} (h : s.calMaster ≠ s.self ∨ s.peers = []) : s.peersBad = false := by
  rcases h with h | h <;> simp [State.peersBad, h]

/-! ### The rules of the local decisions -/

/-- A pinned threshold stays (R189, R197). -/
theorem decideThreshold_of_pinned {s : State} {k : Nat} (h : (s.slice k).thrPin = true) :
    ((decideThreshold s k).slice k).thr = (s.slice k).thr := by
  unfold decideThreshold
  dsimp only
  split
  · rfl
  · rw [if_pos (.inl h), State.slice_setSlice, if_pos rfl]

/-- The four outcomes of the rule for an adaptive threshold (R189). -/
theorem thresholdStep_cases (v : Slice) (num den : Nat) : thresholdStep v num den = v.thr ∨
    (v.thrMin < v.thr ∧ thresholdStep v num den = v.thr - 1) ∨ (v.thr < v.thrMax ∧ thresholdStep v num den = v.thr + 1) := by
  unfold thresholdStep
  dsimp only
  split
  · exact .inl rfl
  · split
    next h => exact .inr (.inl ⟨h.2.2, rfl⟩)
    next =>
      split
      next h => exact .inr (.inr ⟨h.2, rfl⟩)
      next => exact .inl rfl

/-- An adaptive threshold moves by at most one. -/
theorem thresholdStep_near (v : Slice) (num den : Nat) :
    v.thr ≤ thresholdStep v num den + 1 ∧ thresholdStep v num den ≤ v.thr + 1 := by
  rcases thresholdStep_cases v num den with h | ⟨_, h⟩ | ⟨_, h⟩ <;> omega

/-- An adaptive threshold stays within its bounds. -/
theorem thresholdStep_within {v : Slice} (num den : Nat) (hmin : v.thrMin ≤ v.thr) (hmax : v.thr ≤ v.thrMax) :
    v.thrMin ≤ thresholdStep v num den ∧ thresholdStep v num den ≤ v.thrMax := by
  rcases thresholdStep_cases v num den with h | ⟨_, h⟩ | ⟨_, h⟩ <;> omega

section
variable {old : Bool} {snp rspi reads cycles : Nat}

theorem specStep_of_few (h : snp < 64) : specStep old snp rspi reads cycles = old := if_pos h

theorem specStep_of_set (hn : 64 ≤ snp) (hi : snp ≤ 8 * rspi) (hr : 100 * reads < 70 * cycles) :
    specStep old snp rspi reads cycles = true :=
  (if_neg (Nat.not_lt.mpr hn)).trans (if_pos ⟨hi, hr⟩)

/-- A range that does not meet the condition of a set bit, and meets one of the two of a cleared bit. -/
theorem specStep_of_clear (hn : 64 ≤ snp) (hs : ¬(snp ≤ 8 * rspi ∧ 100 * reads < 70 * cycles))
    (h : 16 * rspi < snp ∨ 85 * cycles ≤ 100 * reads) : specStep old snp rspi reads cycles = false :=
  (if_neg (Nat.not_lt.mpr hn)).trans ((if_neg hs).trans (if_pos h))

end

section
variable {old fills hits : Nat}

theorem streamStep_within {lo hi : Nat} (h : lo ≤ hi) :
    lo ≤ streamStep old fills hits lo hi ∧ streamStep old fills hits lo hi ≤ hi :=
  ⟨Nat.le_max_left _ _, Nat.max_le.mpr ⟨h, Nat.min_le_left _ _⟩⟩

/-- Fills of which few are hit go to mode 2 (R191). -/
theorem streamStep_of_few_hits (hf : 1024 ≤ fills) (hh : 32 * hits < fills) : streamStep old fills hits 0 2 = 2 := by
  simp [streamStep, Nat.not_lt.mpr hf, hh]

/-- Fills of which a quarter is hit go to mode 0 (R191). -/
theorem streamStep_of_many_hits (hf : 1024 ≤ fills) (hh : fills ≤ 4 * hits) : streamStep old fills hits 0 2 = 0 := by
  have h32 : ¬32 * hits < fills := by omega
  simp [streamStep, Nat.not_lt.mpr hf, h32, Nat.not_lt.mpr hh]

end

/-! ### The obligation -/

/-- Settles O40: the boundaries early and on the grid, the decisions of a snapshot, and the rule of each of them. -/
theorem epochsAndDecisions : Obligations.EpochsAndDecisions := by
  unfold Obligations.EpochsAndDecisions
  refine fun s => ⟨?early, fun h hf hr ht hn hnew => ?grid, execEpochBoundary_of_before, fun m t h hnew he => ?newLength,
    execCalibrationDecisions_of_none, fun h => ⟨fun hm => ?master, fun hm => ?other⟩, State.peersBad_of_alone,
    fun k => decideThreshold_of_pinned, fun v num den => ⟨thresholdStep_near v num den, thresholdStep_within num den⟩,
    fun old snp rspi reads cycles => ⟨specStep_of_few, specStep_of_set, fun hn h => ?fewClean, fun hn hc h => ?busyReads⟩,
    fun old fills hits lo hi h => ⟨(streamStep_within h).1, (streamStep_within h).2, streamStep_of_few_hits, streamStep_of_many_hits⟩⟩
  case early =>
    refine ⟨endPeriod s, execEpochBoundary_of_early s, endPeriod_pol s, ?_, endPeriod_slice s, endPeriod_frame s⟩
    rw [endPeriod_pol]
  case grid =>
    refine ⟨_, execEpochBoundary_of_plain h hf hr ht hn hnew, rfl, rfl, ?_,
      fun k => (State.slice_with_pol _ _ k).trans (endPeriod_slice s k)⟩
    rw [endPeriod_pol]
  case newLength =>
    rw [← Host.Outcome.next.inj ((execEpochBoundary_of_due h).symm.trans he)]
    exact State.atBoundary_pol _ hnew
  case master => exact (execCalibrationDecisions_of_due h).trans (congrArg _ (if_pos hm))
  case other => exact (execCalibrationDecisions_of_due h).trans (congrArg _ (if_neg hm))
  case fewClean => exact specStep_of_clear hn (by omega) (.inl h)
  case busyReads => exact specStep_of_clear hn (by omega) (.inr h)

end Sys2Proof.Machine
end

section
/-! Field repair and the intervals of the scrubbers (R237, R238, R416, R419). -/

namespace Sys2Proof.Machine

/-! ### REMAP_LOAD -/

/-- The entries in use that the words of a REMAP_LOAD spell, in order (R238). -/
def Kcp.remapEntries (k : Kcp) : List Remap :=
  k.ps.flatMap (fun w => (remapOf (w.extractLsb' 0 32)).toList ++ (remapOf (w.extractLsb' 32 32)).toList)

/-- The load when nothing refuses it: OK when every entry fits, PARTIAL with the counts of loaded and refused when not (R416). -/
def loadAndReply (k : Kcp) (s : State) : State :=
  let r := loadRemaps k.remapEntries 0 s
  if r.1 = k.remapEntries.length then finish k stOk 0 [] r.2
  else finish k stPartial (r.1 % 256 + (k.remapEntries.length - r.1) * 256) [] r.2

/-- DETAIL of a STATE_CONFLICT of REMAP_LOAD: the slice that refuses, its BANK code, and the count of ports that are not quiesced (R416). -/
def State.remapDetail (s : State) (j : Nat) : Nat := j + bankCode (s.slice j).bank * 64 + (s.unquiesced % 256) * 256

/-- Whether a slice refuses a load: its bank is not OFF or READY, or a port is not quiesced (R238). -/
def State.remapBusy (s : State) (j : Nat) : Bool := decide (bankCode (s.slice j).bank > 1) || s.unquiesced != 0

/-- The slices that a load would change: the one named, or each that an entry in use names (R416; log 76). -/
def State.remapTargets (s : State) (k : Kcp) : List Nat :=
  if k.tgt = 0xFF then (List.range s.gh.slices).filter (fun j => k.remapEntries.any (fun r => r.slice.toNat == j)) else [k.tgt]

/-- The slice for which a load is refused: the lowest one, or slice 0 where only the ports refuse (R416; log 76). -/
def State.remapRefusing (s : State) (k : Kcp) : Option Nat :=
  if (s.remapTargets k).isEmpty && s.unquiesced != 0 then some 0 else (s.remapTargets k).find? s.remapBusy

section
variable {s : State} {c : Nat} {k : Kcp}

theorem execRemapLoad_of_refused {j : Nat} (hk : s.newCmd c 0x63 = some k) (h : s.remapRefusing k = some j) :
    exec (.remapLoad c) s = .next (finish k stConflict (s.remapDetail j) [] s) := by
  refine congrArg Host.Outcome.next ((runCmd_of_some hk rfl).trans ?_)
  unfold State.remapRefusing State.remapTargets State.remapBusy Kcp.remapEntries at h
  simp only [h, State.remapDetail]

theorem execRemapLoad_of_taken (hk : s.newCmd c 0x63 = some k) (h : s.remapRefusing k = none) :
    exec (.remapLoad c) s = .next (loadAndReply k s) := by
  refine congrArg Host.Outcome.next ((runCmd_of_some hk rfl).trans ?_)
  unfold State.remapRefusing State.remapTargets State.remapBusy Kcp.remapEntries at h
  simp only [h]
  rfl

/-- A load for one slice waits for its bank and for the ports (R238, R416). -/
theorem execRemapLoad_of_one (hk : s.newCmd c 0x63 = some k) (ht : k.tgt ≠ 0xFF) : exec (.remapLoad c) s = .next (
    if 1 < bankCode (s.slice k.tgt).bank ∨ s.unquiesced ≠ 0 then finish k stConflict (s.remapDetail k.tgt) [] s else loadAndReply k s) := by
  split
  · rename_i hbusy
    have hb : s.remapBusy k.tgt = true := by simpa only [State.remapBusy, Bool.or_eq_true, decide_eq_true_eq, bne_iff_ne] using hbusy
    exact execRemapLoad_of_refused hk (by simp [State.remapRefusing, State.remapTargets, ht, hb])
  · rename_i hfree
    have hb : ¬s.remapBusy k.tgt = true := by simpa only [State.remapBusy, Bool.or_eq_true, decide_eq_true_eq, bne_iff_ne] using hfree
    exact execRemapLoad_of_taken hk (by simp [State.remapRefusing, State.remapTargets, ht, hb])

/-- While a port is not quiesced every load is refused (R238, R416). -/
theorem State.remapRefusing_of_unquiesced (hu : s.unquiesced ≠ 0) (k : Kcp) : ∃ j, s.remapRefusing k = some j := by
  unfold State.remapRefusing
  cases s.remapTargets k with
  | nil => exact ⟨0, by simp [hu]⟩
  | cons j l => exact ⟨j, by simp [State.remapBusy, hu]⟩

theorem execRemapLoad_of_unquiesced (hk : s.newCmd c 0x63 = some k) (hu : s.unquiesced ≠ 0) :
    ∃ d, exec (.remapLoad c) s = .next (finish k stConflict d [] s) :=
  have ⟨j, hj⟩ := State.remapRefusing_of_unquiesced hu k
  ⟨s.remapDetail j, execRemapLoad_of_refused hk hj⟩

end

/-- Entries are loaded at most once each. -/
theorem loadRemaps_count_le (rs : List Remap) (n : Nat) (s : State) : (loadRemaps rs n s).1 ≤ n + rs.length := by
  induction rs generalizing n s with
  | nil => exact Nat.le_refl n
  | cons r rs ih =>
    rw [loadRemaps, List.length_cons]
    split
    · exact Nat.le_trans (ih _ _) (by omega)
    · exact Nat.le_trans (ih _ _) (by omega)

/-- A load changes no slice but those that its entries name (R238). -/
theorem slice_loadRemaps_of_unnamed {rs : List Remap} {j : Nat} (hj : ∀ r ∈ rs, r.slice.toNat ≠ j) (n : Nat) (s : State) :
    (loadRemaps rs n s).2.slice j = s.slice j := by
  induction rs generalizing n s with
  | nil => rfl
  | cons r rs ih =>
    obtain ⟨hr, hrs⟩ := List.forall_mem_cons.mp hj
    rw [loadRemaps]
    split
    · rw [ih hrs, State.slice_modSlice, if_neg hr.symm]
    · exact ih hrs _ _

/-! ### SCRUB_CONFIG -/

theorem targetSlices_nodup (k : Kcp) (s : State) : (targetSlices k s).Nodup := by
  unfold targetSlices
  split
  · exact List.nodup_range
  · exact List.pairwise_singleton _ _

/-- Changes of slices in turn that depend on the count of ticks all see the count from before them. -/
theorem State.each_modSlice_now (g : Nat → Slice → Slice) (l : List Nat) (s : State) :
    s.each l (fun t k => t.modSlice k (g t.now)) = s.each l (fun t k => t.modSlice k (g s.now)) := by
  induction l generalizing s with
  | nil => rfl
  | cons k l ih => exact ih (s.modSlice k (g s.now))

/-- The state when SCRUB_CONFIG has set the intervals of the slices it names (R419). -/
def State.scrubsSet (s : State) (k : Kcp) : State :=
  s.each (targetSlices k s) (fun t j => t.modSlice j (setScrub (fld (k.par 0) 0 32) (fld (k.par 0) 32 32) t.now))

theorem State.scrubsSet_slice (s : State) (k : Kcp) (j : Nat) : (s.scrubsSet k).slice j =
    if j ∈ targetSlices k s then setScrub (fld (k.par 0) 0 32) (fld (k.par 0) 32 32) s.now (s.slice j) else s.slice j := by
  unfold State.scrubsSet
  rw [State.each_modSlice_now (setScrub (fld (k.par 0) 0 32) (fld (k.par 0) 32 32)), State.slice_each_modSlice _ (targetSlices_nodup k s)]

theorem State.scrubsSet_frame (s : State) (k : Kcp) : ({ s.scrubsSet k with slices := s.slices } : State) = s :=
  s.each_modSlice_frame _ (fun t => setScrub (fld (k.par 0) 0 32) (fld (k.par 0) 32 32) t.now)

/-! ### The obligation -/

/-- Settles O16: when REMAP_LOAD conflicts and what it loads, the reply of REMAP_READ, and the intervals of SCRUB_CONFIG. -/
theorem repairAndScrubCommands : Obligations.RepairAndScrubCommands := by
  unfold Obligations.RepairAndScrubCommands
  exact fun s c k => ⟨execRemapLoad_of_one, fun hk _ => execRemapLoad_of_unquiesced hk,
    fun rs => ⟨Nat.le_trans (loadRemaps_count_le rs 0 s) (Nat.le_of_eq (Nat.zero_add _)), fun j hj => slice_loadRemaps_of_unnamed hj 0 s⟩,
    fun hk => congrArg Host.Outcome.next (runCmd_of_some hk rfl),
    fun hk => ⟨s.scrubsSet k, congrArg Host.Outcome.next (runCmd_of_some hk rfl), s.scrubsSet_slice k, s.scrubsSet_frame k⟩⟩

end Sys2Proof.Machine
end

section
/-! HC_DISABLE over a bank with a control word that cannot be read (R229, R234). -/

namespace Sys2Proof.Machine

/-! ### What ending a command leaves -/

theorem slice_finish (k : Kcp) (st d : Nat) (ws : List W64) (s : State) (j : Nat) : (finish k st d ws s).slice j = s.slice j :=
  have h := congrArg (fun t : State => t.slice j) (finish_frame k st d ws s)
  h

theorem slice_finishUnits (k : Kcp) (d : Nat) (ws : List W64) (s : State) (j : Nat) : (finishUnits k d ws s).slice j = s.slice j := by
  unfold finishUnits
  split
  · exact slice_finish ..
  · split
    · exact slice_finish ..
    · exact slice_finish ..

/-! ### A scan that meets a lost control word -/

/-- The control word that takes the place of a lost one: LOCK all ones, NRU and ROT zero, DCNT counted from the tags (R234). -/
def Slice.ctlRebuilt (v : Slice) (set : Nat) : HcCtl :=
  { lock := 0xFFFF, nru := 0, rot := 0
    dcnt := BitVec.ofNat 5 ((List.range 32).filter (fun t => (v.tagAt set t).hst == hsDirty)).length }

/-- A control word with an error that its check bits do not correct is rebuilt when it is read (R234). -/
theorem slice_readCtl_of_lost {s : State} {k set : Nat} {x : ArrErr} (he : (s.slice k).errAt 3 set = some x) (hx : x.single = false) (acc : Nat) :
    (readCtl k set acc s).slice k = (s.slice k).setCtl set ((s.slice k).ctlRebuilt set) := by
  simp [readCtl, he, hx, Slice.ctlRebuilt]

/-- A tag that is read as it was written (R204, R234). -/
theorem readTag_of_clean {s : State} {k set slot : Nat} (he : (s.slice k).errAt 1 (tagAddr set slot) = none)
    (hv : ((s.slice k).tagAt set slot).valid = true) (acc : Nat) : readTag k set acc s slot = s := by
  simp [readTag, he, hv]

/-- A scan of a bank whose one faulty set has clean tags reads the control word of that set alone (R234). -/
theorem hcScan_of_one_set {s : State} {k set : Nat} (hb : (s.slice k).bank ≠ .off) (hf : (s.slice k).faultySets = [set]) (hu : s.homeUse k ≤ 16)
    (ht : ∀ slot, (s.slice k).errAt 1 (tagAddr set slot) = none ∧ ((s.slice k).tagAt set slot).valid = true) (acc : Nat) :
    hcScan k acc s = readCtl k set acc s := by
  have hgood : (List.range 32).filter ((s.slice k).tagBad set) = [] :=
    List.filter_eq_nil_iff.mpr fun slot _ => by simp [Slice.tagBad, ht slot]
  have htags : s.each (List.range 32) (readTag k set acc) = s :=
    State.each_induction (fun t => t = s) _ _ (fun t slot h => h ▸ readTag_of_clean (h ▸ (ht slot).1) (h ▸ (ht slot).2) acc) s rfl
  rw [hcScan, if_neg hb, hf]
  refine (if_neg ?_).trans (congrArg (readCtl k set acc) htags)
  rw [hgood]
  exact Nat.not_lt.mpr hu

/-- A bank in which the scan finds no line has nothing to write back (R229). -/
theorem drainBank_of_empty {s : State} {j : Nat} (h : ((hcScan j accCmd s).slice j).hcTag = []) (c : Nat) : drainBank c s j = hcScan j accCmd s := by
  simp [drainBank, h]

/-- The end of an HC_DISABLE over one slice that has drained: the second pass is done, and the reply is written (R229). -/
theorem execBankPassDone_of_drained {s : State} {c j : Nat} {k : Kcp} (hk : s.cmd c = some k) (hr : k.running = true) (ho : k.opc = 0x22)
    (hu : k.units = [j]) (hl : k.lost = []) (hd : ((drainBank c s j).slice j).drains c = false) : exec (.bankPassDone c) s =
      .next (finishUnits k (2 * b2n k.wfail) [] ((drainBank c s j).modSlice j (fun v => { v.clearTags with bank := .ready }))) := by
  change execBankPassDone c s = _
  have hall : k.units.filter (fun j => !(k.lost.contains j)) = [j] := by simp [hu, hl]
  have hdone : ([j].any fun i => ((s.each [j] (drainBank c)).slice i).drains c) = false := by
    simpa [State.each] using hd
  simp only [execBankPassDone, hk, hr, ho, hall, hdone]
  rfl

/-! ### The counterexample -/

/-- HC_DISABLE of slice 0, which drains its bank. -/
def disableOfSlice0 : Kcp := { id := 0, op := 0x22, target := 0, running := true, units := [0] }

/-- A draining bank without lines, in set 0 of which way 0 is marked as used; the control word of that set has a double-bit error. -/
def drainingLostCtl : Slice :=
  { st := .on, clamped := false, bank := .draining, hcCtl := [(0, { nru := 1 })], errs := [{ array := 3, addr := 0, flip := 3 }] }

/-- Slice 0 drains for its HC_DISABLE, and cannot read a control word. -/
def State.disablesLostCtl : State :=
  { State.reset with slices := [(0, drainingLostCtl)], hub := { inProg := [disableOfSlice0] } }

/-- The scan rebuilds the control word, and finds nothing to write back (R229, R234). -/
theorem State.disablesLostCtl_drained : (drainBank 0 State.disablesLostCtl 0).slice 0 =
    drainingLostCtl.setCtl 0 (drainingLostCtl.ctlRebuilt 0) := by
  have hscan : hcScan 0 accCmd State.disablesLostCtl = readCtl 0 0 accCmd State.disablesLostCtl :=
    hcScan_of_one_set (by decide) (by decide) (by decide) (fun _ => ⟨rfl, rfl⟩) accCmd
  have hread : (hcScan 0 accCmd State.disablesLostCtl).slice 0 = drainingLostCtl.setCtl 0 (drainingLostCtl.ctlRebuilt 0) := by
    rw [hscan]
    exact slice_readCtl_of_lost (x := { array := 3, addr := 0, flip := 3 }) rfl rfl accCmd
  rw [drainBank_of_empty (congrArg Slice.hcTag hread), hread]

/-- Refutes O37: the scan of HC_DISABLE reads every control word, and one that is uncorrectable is rebuilt with NRU zero (R229, R234), so at the end
of the pass over `State.disablesLostCtl` NRU of set 0 is 0 where it was 1, while the statement has every NRU and ROT field as it was. -/
theorem not_bankCommands : ¬ Obligations.BankCommands := by
  unfold Obligations.BankCommands
  intro h
  obtain ⟨-, -, -, -, -, -, -, hpass⟩ := h State.disablesLostCtl 0 disableOfSlice0
  obtain ⟨u, hexec, hslices⟩ := hpass rfl rfl rfl (by decide)
  obtain ⟨-, -, -, hctl, -⟩ := (hslices 0).2 (by decide) (by decide)
  have hkept : ((u.slice 0).ctlAt 0).nru = 1 := congrArg HcCtl.nru (hctl rfl 0)
  have hdone := execBankPassDone_of_drained (s := State.disablesLostCtl) (c := 0) (j := 0) (k := disableOfSlice0) rfl rfl rfl rfl rfl
    (by rw [State.disablesLostCtl_drained]; decide)
  have hslice := congrArg (fun t : State => t.slice 0) (Host.Outcome.next.inj (hexec.symm.trans hdone))
  rw [slice_finishUnits, slice_finishUnits, State.slice_modSlice, if_pos rfl, State.disablesLostCtl_drained] at hslice
  rw [hslice] at hkept
  exact absurd hkept (by decide)

end Sys2Proof.Machine
end

section
/-! Bring-up, quiescing and release of a CA port, and the changes of the agent table that peers send (R291, R331 to R338, R394). -/

namespace Sys2Proof.Machine

/-! ### Tables and lists -/

/-- Of two writes at one key the later one stands. -/
theorem tput_tput_self {α : Type} (k : Nat) (v w : α) (t : Tbl α) : tput k v (tput k w t) = tput k v t := by
  induction t with
  | nil => simp [tput]
  | cons x t ih =>
    obtain ⟨j, y⟩ := x
    by_cases he : k = j
    · simp [tput, he]
    · by_cases hl : k < j
      · simp [tput, he, hl]
      · simp [tput, he, hl, ih]

/-- After one value has been written at several keys, each of them reads it, and so does a key that read it before. -/
theorem tget_foldl_tput_const {α β : Type} (d : Nat → α) (key : β → Nat) (v : α) {l : List β} {k : Nat} {t : Tbl α}
    (h : (∃ x ∈ l, key x = k) ∨ tget d t k = v) : tget d (l.foldl (fun t y => tput (key y) v t) t) k = v := by
  induction l generalizing t with
  | nil =>
    rcases h with ⟨x, hx, -⟩ | h
    · exact absurd hx List.not_mem_nil
    · exact h
  | cons y l ih =>
    refine ih ?_
    rw [tget_tput]
    split
    next => exact .inr rfl
    next hne =>
      refine h.imp_left fun ⟨x, hx, hk⟩ => ?_
      rcases List.mem_cons.mp hx with rfl | hx
      · exact absurd hk.symm hne
      · exact ⟨x, hx, hk⟩

/-- A replacement that keeps what is read off an element keeps what is read off each. -/
theorem map_lmodify_of_kept {α β : Type} {g : α → β} {f : α → α} (h : ∀ x, g (f x) = g x) (p : α → Bool) (l : List α) :
    (lmodify p f l).map g = l.map g := by
  induction l with
  | nil => rfl
  | cons a l ih =>
    unfold lmodify
    split <;> simp [h, ih]

theorem State.setCa_setCa (s : State) (p : Nat) (v w : CaPort) : (s.setCa p w).setCa p v = s.setCa p v :=
  congrArg (fun t => ({ s with cas := t } : State)) (tput_tput_self p v w s.cas)

/-! ### Where an operand finds its port -/

theorem peerOfPort_own {p : Nat} (hp : p < 128) : peerOfPort p = none := if_pos hp

theorem peerOfPort_peer {p : Nat} (hp : p < 128) (i : BitVec 3) : peerOfPort (128 * (i.toNat + 1) + p) = some i := by
  have hi : (128 * (i.toNat + 1) + p) / 128 - 1 = i.toNat := by omega
  unfold peerOfPort
  rw [if_neg (by omega), hi, BitVec.ofNat_toNat, BitVec.setWidth_eq]

theorem portOfPeer_mod {p : Nat} (hp : p < 128) (i : BitVec 3) : (128 * (i.toNat + 1) + p) % 128 = p := by omega

/-! ### What sending leaves -/

/-- A message on RSPO is driven at the port, and may be counted there (R330, R519). -/
theorem sendRspo_frame (p : Nat) (m : BitVec 128) (s : State) : ({ sendRspo p m s with cas := s.cas, out := s.out } : State) = s := by
  unfold sendRspo
  dsimp only
  split <;> rfl

theorem sendRspo_ca (p : Nat) (m : BitVec 128) (s : State) (q : Nat) : { (sendRspo p m s).ca q with perf := (s.ca q).perf } = s.ca q := by
  unfold sendRspo
  dsimp only
  split
  · rw [State.ca_modCa]
    split
    next h => rw [h]; rfl
    next => rfl
  · rfl

/-- Several messages on RSPO leave what each of them leaves. -/
theorem sendRspos_frame {α : Type} (p : Nat) (m : α → BitVec 128) (l : List α) (s : State) :
    ({ l.foldl (fun s x => sendRspo p (m x) s) s with cas := s.cas, out := s.out } : State) = s :=
  List.foldlRecOn (motive := fun t : State => ({ t with cas := s.cas, out := s.out } : State) = s) l _ rfl
    fun t ht x _ => (congrArg (fun u : State => ({ u with cas := s.cas, out := s.out } : State)) (sendRspo_frame p (m x) t)).trans ht

theorem sendRspos_ca {α : Type} (p : Nat) (m : α → BitVec 128) (l : List α) (s : State) (q : Nat) :
    { (l.foldl (fun s x => sendRspo p (m x) s) s).ca q with perf := (s.ca q).perf } = s.ca q :=
  List.foldlRecOn (motive := fun t : State => { t.ca q with perf := (s.ca q).perf } = s.ca q) l _ rfl
    fun t ht x _ => (congrArg (fun c : CaPort => { c with perf := (s.ca q).perf }) (sendRspo_ca p (m x) t q)).trans ht

/-- Several messages to the joined peers leave what one of them leaves. -/
theorem State.toJoineds_frame {α : Type} (m : α → MgtMsg) (l : List α) (s : State) :
    ({ l.foldl (fun s x => s.toJoined (m x)) s with mesh := s.mesh, fresh := s.fresh, out := s.out } : State) = s :=
  List.foldlRecOn (motive := fun t : State => ({ t with mesh := s.mesh, fresh := s.fresh, out := s.out } : State) = s) l _ rfl
    fun t ht x _ => (congrArg (fun u : State => ({ u with mesh := s.mesh, fresh := s.fresh, out := s.out } : State))
      (t.toJoined_frame (m x))).trans ht

@[simp] theorem portProtocol_cas (p reason : Nat) (a : Aid) (s : State) : (portProtocol p reason a s).cas = s.cas :=
  have h := congrArg State.cas (raise_frame _ s)
  h

@[simp] theorem portProtocol_pkg (p reason : Nat) (a : Aid) (s : State) : (portProtocol p reason a s).pkg = s.pkg :=
  have h := congrArg State.pkg (raise_frame _ s)
  h

/-! ### QUIESCED to BRINGUP -/

section
variable {s : State} {p : Nat}

/-- A QUIESCED port whose ACTIVE is high leaves for BRINGUP when it may (R332). -/
theorem tryBringup_setCa_of_ready {c : CaPort} (hst : c.st = .quiesced) (ha : c.active = true) (he : c.enable = true)
    (hr : s.rst.ready = true) (hj : s.joining = false) : tryBringup p (s.setCa p c) = s.setCa p { c with
      st := .bringup, rspiCrd := 16, advs := [], refused := false, written := false, abandoned := false, nag := 0 } := by
  have hc : (s.setCa p c).ca p = c := tget_tput_self _ _ _ _
  have hgo : c.st = .quiesced ∧ c.active ∧ c.enable ∧ s.rst.ready ∧ !s.joining := ⟨hst, ha, he, hr, by rw [hj]; rfl⟩
  unfold tryBringup
  rw [hc]
  exact (if_pos hgo).trans (State.setCa_setCa ..)

theorem tryBringup_setCa_of_not {c : CaPort}
    (h : c.st ≠ .quiesced ∨ c.enable = false ∨ s.rst.ready = false ∨ s.joining = true) : tryBringup p (s.setCa p c) = s.setCa p c := by
  have hc : (s.setCa p c).ca p = c := tget_tput_self _ _ _ _
  have hstay : ¬ (c.st = .quiesced ∧ c.active ∧ c.enable ∧ s.rst.ready ∧ !s.joining) := by
    rintro ⟨hst, _, he, hr, hj⟩
    rcases h with h | h | h | h
    · exact h hst
    · simp [h] at he
    · simp [h] at hr
    · simp [h] at hj
  unfold tryBringup
  rw [hc]
  exact if_neg hstay

theorem tryBringup_pkg (p : Nat) (s : State) : (tryBringup p s).pkg = s.pkg := by
  unfold tryBringup
  dsimp only
  split <;> rfl

theorem execCapActiveRise_of_ready (hst : (s.ca p).st = .quiesced) (he : (s.ca p).enable = true) (hr : s.rst.ready = true)
    (hj : s.joining = false) : exec (.capActiveRise p) s = .next (s.setCa p { s.ca p with
      active := true, st := .bringup, rspiCrd := 16, advs := [], refused := false, written := false, abandoned := false, nag := 0 }) :=
  congrArg Host.Outcome.next (tryBringup_setCa_of_ready (c := { s.ca p with active := true }) hst rfl he hr hj)

theorem execCapActiveRise_of_not (h : (s.ca p).st ≠ .quiesced ∨ (s.ca p).enable = false ∨ s.rst.ready = false ∨ s.joining = true) :
    exec (.capActiveRise p) s = .next (s.setCa p { s.ca p with active := true }) :=
  congrArg Host.Outcome.next (tryBringup_setCa_of_not (c := { s.ca p with active := true }) h)

/-! ### The ADVs -/

section
variable {m : BitVec 128}

/-- What an ADV that the port takes up meets: BRINGUP, a response credit, its opcode, and no abandonment (R333). -/
def State.takesAdv (s : State) (p : Nat) (m : BitVec 128) : Prop :=
  (s.ca p).st = .bringup ∧ (s.ca p).rspiCrd ≠ 0 ∧ fld m 0 6 = 0x39 ∧ (s.ca p).abandoned = false

theorem execAdv_of_refused (ht : s.takesAdv p m) (hr : (s.ca p).refused = true) :
    exec (.adv p m) s = .next (sendRspo p (encodeAdvAck (decodeAdv m).aid advSequence) s) := by
  obtain ⟨hst, hcrd, hop, hab⟩ := ht
  change execAdv p m s = _
  simp [execAdv, hst, hcrd, hop, hab, hr]

theorem execAdv_of_first (ht : s.takesAdv p m) (hr : (s.ca p).refused = false) (hl : (s.ca p).advs = []) (hb : (decodeAdv m).badNag = false) :
    exec (.adv p m) s = .next (s.setCa p { s.ca p with advs := [decodeAdv m], nag := (decodeAdv m).nag }) := by
  obtain ⟨hst, hcrd, hop, hab⟩ := ht
  change execAdv p m s = _
  simp [execAdv, hst, hcrd, hop, hab, hr, hl, hb]

theorem execAdv_of_badNag (ht : s.takesAdv p m) (hr : (s.ca p).refused = false) (hl : (s.ca p).advs = []) (hb : (decodeAdv m).badNag = true) :
    exec (.adv p m) s = .next (portProtocol p 1 (decodeAdv m).aid (sendRspo p (encodeAdvAck (decodeAdv m).aid advBadField)
      (s.setCa p { s.ca p with refused := true }))) := by
  obtain ⟨hst, hcrd, hop, hab⟩ := ht
  change execAdv p m s = _
  simp [execAdv, hst, hcrd, hop, hab, hr, hl, hb]

theorem execAdv_of_next (ht : s.takesAdv p m) (hr : (s.ca p).refused = false) (hl : (s.ca p).advs ≠ [])
    (hn : (s.ca p).advs.length < (s.ca p).nag.toNat) :
    exec (.adv p m) s = .next (s.setCa p { s.ca p with advs := (s.ca p).advs ++ [decodeAdv m] }) := by
  obtain ⟨hst, hcrd, hop, hab⟩ := ht
  obtain ⟨a, l, hal⟩ := List.exists_cons_of_ne_nil hl
  have hroom : l.length + 1 < (s.ca p).nag.toNat := by rwa [hal] at hn
  change execAdv p m s = _
  simp [execAdv, hst, hcrd, hop, hab, hr, hal, hroom]

end

/-! ### ADV_CHECK -/

/-- The ADVs of a bring-up are complete, and none has been refused (R333, R334). -/
def CaPort.advsComplete (c : CaPort) : Prop :=
  c.st = .bringup ∧ (c.refused = false ∧ c.written = false ∧ c.abandoned = false) ∧ c.advs ≠ [] ∧ c.advs.length = c.nag.toNat

/-- The state when every ADV of a refused bring-up has been answered with its result (R334). -/
def State.advsAnswered (s : State) (p : Nat) (rs : List (Adv × Nat)) : State :=
  rs.foldl (fun s x => sendRspo p (encodeAdvAck x.1.aid (if x.2 = advAccepted then advSequence else x.2)) s) s

theorem State.advsAnswered_ca (s : State) (p : Nat) (rs : List (Adv × Nat)) :
    { (s.advsAnswered p rs).ca p with perf := (s.ca p).perf } = s.ca p :=
  sendRspos_ca p (fun x : Adv × Nat => encodeAdvAck x.1.aid (if x.2 = advAccepted then advSequence else x.2)) rs s p

theorem State.advsAnswered_pkg (s : State) (p : Nat) (rs : List (Adv × Nat)) : (s.advsAnswered p rs).pkg = s.pkg :=
  have h := congrArg State.pkg
    (sendRspos_frame p (fun x : Adv × Nat => encodeAdvAck x.1.aid (if x.2 = advAccepted then advSequence else x.2)) rs s)
  h

theorem execAdvCheck_of_complete (hc : (s.ca p).advsComplete) : exec (.advCheck p) s =
    .next (match (s.advResults (s.ca p).advs).find? (fun x => x.2 != advAccepted) with
      | none => writeAgents p (s.ca p).advs s
      | some bad => portProtocol p 1 bad.1.aid
          ((s.advsAnswered p (s.advResults (s.ca p).advs)).modCa p (fun c => { c with refused := true }))) := by
  obtain ⟨hst, ⟨href, hw, hab⟩, hne, hlen⟩ := hc
  exact congrArg Host.Outcome.next (if_pos ⟨hst, by simp [href], by simp [hw], by simp [hab], hne, hlen⟩)

/-- When all are accepted the agent table holds them, the peers are told, and their acknowledgements are due (R335). -/
theorem writeAgents_written (p : Nat) (l : List Adv) (s : State) :
    (writeAgents p l s).ca p = { s.ca p with
      written := true
      tableAcks := s.peerMask
      agents := l.map (fun x => { aid := x.aid, scred := x.scred.toNat, free := x.scred.toNat }) } ∧
    (writeAgents p l s).slices = s.slices ∧
    ∀ x ∈ l, tget (fun _ => ((0 : BitVec 3), (0 : BitVec 7))) (writeAgents p l s).pkg.agents x.aid.toNat = (s.inst, BitVec.ofNat 7 p) := by
  let u : State := { s with pkg := { s.pkg with
      agents := l.foldl (fun t (a : Adv) => tput a.aid.toNat (s.inst, BitVec.ofNat 7 p) t) s.pkg.agents } }
  let v := l.foldl (fun s (a : Adv) => s.toJoined (.agent a.aid true (BitVec.ofNat 7 p))) u
  have hv : ({ v with mesh := u.mesh, fresh := u.fresh, out := u.out } : State) = u :=
    State.toJoineds_frame (fun a : Adv => .agent a.aid true (BitVec.ofNat 7 p)) l u
  have hca : v.ca p = s.ca p := have h := congrArg (fun t : State => t.ca p) hv; h
  have hmask : v.peerMask = s.peerMask := have h := congrArg State.peerMask hv; h
  have hpkg : v.pkg = u.pkg := have h := congrArg State.pkg hv; h
  have hslices : v.slices = s.slices := have h := congrArg State.slices hv; h
  refine ⟨?_, hslices, fun x hx => ?_⟩
  · change (v.modCa p _).ca p = _
    rw [State.ca_modCa, if_pos rfl, hca, hmask]
  · change tget _ v.pkg.agents _ = _
    rw [hpkg]
    exact tget_foldl_tput_const _ (fun a : Adv => a.aid.toNat) _ (.inl ⟨x, hx, rfl⟩)

theorem execAdvCheck_of_accepted (hc : (s.ca p).advsComplete) (ha : ∀ x ∈ s.advResults (s.ca p).advs, x.2 = 0) :
    exec (.advCheck p) s = .next (writeAgents p (s.ca p).advs s) := by
  have hnone : (s.advResults (s.ca p).advs).find? (fun x => x.2 != advAccepted) = none :=
    List.find?_eq_none.mpr fun x hx => by simp [ha x hx]
  rw [execAdvCheck_of_complete hc, hnone]

/-- When one is refused all are answered, and the bring-up is refused; the agent table stands (R334). -/
theorem execAdvCheck_of_bad (hc : (s.ca p).advsComplete) (hb : ∃ x ∈ s.advResults (s.ca p).advs, x.2 ≠ 0) :
    ∃ t, exec (.advCheck p) s = .next t ∧ (t.ca p).refused = true ∧ (t.ca p).st = .bringup ∧ t.pkg.agents = s.pkg.agents := by
  obtain ⟨x, hx, hne⟩ := hb
  obtain ⟨bad, hbad⟩ := Option.isSome_iff_exists.mp
    (List.find?_isSome (p := fun x : Adv × Nat => x.2 != advAccepted).mpr ⟨x, hx, by simp [hne]⟩)
  have hexec := execAdvCheck_of_complete hc
  rw [hbad] at hexec
  have hca (u : State) : (portProtocol p 1 bad.1.aid (u.modCa p fun c => { c with refused := true })).ca p = { u.ca p with refused := true } := by
    unfold State.ca
    rw [portProtocol_cas]
    exact tget_tput_self _ _ _ _
  have hst := congrArg CaPort.st (s.advsAnswered_ca p (s.advResults (s.ca p).advs))
  refine ⟨_, hexec, congrArg CaPort.refused (hca _), (congrArg CaPort.st (hca _)).trans (hst.trans hc.1), ?_⟩
  exact congrArg PkgSt.agents ((portProtocol_pkg ..).trans (s.advsAnswered_pkg p _))

end

/-! ### QUIESCING -/

/-- The fence markers that a port which leaves ACTIVE waits for: one from each slice that works, here and at each joined instance (R337). -/
def State.markersOwed (s : State) : List (Nat × Nat) :=
  s.slicesUp.map (fun k => (s.self, k)) ++ s.joinedPeers.flatMap (fun i => (Config.peerSlices i).map (fun k => (i, k)))

/-- Beside what it sends, a port that leaves ACTIVE changes in its own state alone (R336, R337). -/
theorem startQuiesce_frame (p : Nat) (s : State) :
    ({ startQuiesce p s with mesh := s.mesh, fresh := s.fresh, out := s.out } : State) =
      s.modCa p (fun c => { c with st := .quiescing, reqCrd := 0, markers := [], markersDue := s.markersOwed }) := by
  let u := s.modCa p (fun c => { c with st := .quiescing, reqCrd := 0, markers := [], markersDue := s.markersOwed })
  let v := u.each s.slicesUp (fun t k => t.fromSlice k p .snp 0 (.snpMarker t.inst k p))
  have hv : ({ v with mesh := s.mesh } : State) = u :=
    State.each_induction (fun t => ({ t with mesh := s.mesh } : State) = u) s.slicesUp
      (fun t k => t.fromSlice k p .snp 0 (.snpMarker t.inst k p)) (fun _ _ h => h) u rfl
  have hw := congrArg (fun t : State => ({ t with mesh := s.mesh, fresh := s.fresh, out := s.out } : State))
    (v.toJoined_frame (.quiescing p))
  exact hw.trans (congrArg (fun t : State => ({ t with fresh := s.fresh, out := s.out } : State)) hv)

theorem startQuiesce_ca (p : Nat) (s : State) :
    (startQuiesce p s).ca p = { s.ca p with st := .quiescing, reqCrd := 0, markers := [], markersDue := s.markersOwed } :=
  have h := congrArg (fun t : State => t.ca p) (startQuiesce_frame p s)
  h.trans (tget_tput_self _ _ _ _)

theorem State.mem_markersOwed {s : State} {k : Nat} (hk : k ∈ s.slicesUp) : (s.self, k) ∈ s.markersOwed :=
  List.mem_append_left _ (List.mem_map_of_mem hk)

/-! ### ACTIVE -/

/-- All but what waits in the injection buffers. -/
def OnlyInBufs (s t : State) : Prop := ({ t with mesh := { t.mesh with inBuf := s.mesh.inBuf } } : State) = s

theorem OnlyInBufs.trans {s t u : State} (h : OnlyInBufs s t) (g : OnlyInBufs t u) : OnlyInBufs s u :=
  (congrArg (fun x : State => ({ x with mesh := { x.mesh with inBuf := s.mesh.inBuf } } : State)) g).trans h

theorem sendCredits_onlyInBufs (k i : Nat) (c : CredKind) (n : Nat) (s : State) : OnlyInBufs s (sendCredits k i c n s) := by
  unfold sendCredits
  split <;> rfl

/-- The first credits of a slice travel in the mesh (R245, R246). -/
theorem sendFirst_onlyInBufs (i k : Nat) (s : State) : OnlyInBufs s (sendFirst i k s) :=
  ((sendCredits_onlyInBufs ..).trans (sendCredits_onlyInBufs ..)).trans (sendCredits_onlyInBufs ..)

/-- Agents that are back change what is kept about them, in the package, at the links and in the slices (R128, R311, R472). -/
theorem agentsBack_frame (as : List Aid) (s : State) : ({ agentsBack as s with rdg := s.rdg, slices := s.slices } : State) =
    { s with pkg := { s.pkg with unreach := s.pkg.unreach.filter (fun a => !(as.contains a)) } } := by
  unfold agentsBack
  dsimp only
  generalize hu : ({ s with pkg := { s.pkg with unreach := s.pkg.unreach.filter (fun a => !(as.contains a)) } } : State) = u
  refine State.each_induction (fun t => ({ t with rdg := s.rdg, slices := s.slices } : State) = u) _ _ (fun t k h => ?_) _
    (State.each_induction (fun t => ({ t with rdg := s.rdg, slices := s.slices } : State) = u) _ _ (fun t r h => ?_) _ (by rw [← hu]))
  · split <;> exact h
  · split <;> exact h

/-- A port that enters ACTIVE: its credits start, and nothing stands from before (R335). -/
def CaPort.opened (c : CaPort) : CaPort :=
  { c with st := .active, ready := true, reqCrd := 64, datiCrd := 16, advs := [], ingress := [], dataDrop := [],
           snpBuf := [], snpOut := [], markers := [], cred := [] }

/-- The state when a port has entered ACTIVE and the slices have sent it their first credits (R246, R283, R335). -/
def State.entered (s : State) (p : Nat) : State :=
  let c := s.ca p
  let s := c.advs.foldl (fun s a => sendRspo p (encodeAdvAck a.aid advAccepted) s) s
  let s := purgeCredits p { s with mesh := { s.mesh with drained := false } }
  let s := agentsBack (c.agents.map (fun a => a.aid)) (s.modCa p CaPort.opened)
  s.each s.slicesUp (fun s k => sendFirst p k s)

theorem enterActive_eq (p : Nat) (s : State) :
    enterActive p s = if (s.ca p).active then s.entered p else startQuiesce p (s.entered p) := rfl

/-- The port is open but for what it has counted, and the routers are not drained (R283, R335). -/
theorem State.entered_opened (s : State) (p : Nat) :
    { (s.entered p).ca p with perf := (s.ca p).perf } = (s.ca p).opened ∧ (s.entered p).mesh.drained = false := by
  let t := (s.ca p).advs.foldl (fun s a => sendRspo p (encodeAdvAck a.aid advAccepted) s) s
  let u := (purgeCredits p { t with mesh := { t.mesh with drained := false } }).modCa p CaPort.opened
  let v := agentsBack ((s.ca p).agents.map (fun a => a.aid)) u
  have ht : { t.ca p with perf := (s.ca p).perf } = s.ca p :=
    sendRspos_ca p (fun a : Adv => encodeAdvAck a.aid advAccepted) (s.ca p).advs s p
  have hu : u.ca p = (t.ca p).opened := tget_tput_self _ _ _ _
  have hv := agentsBack_frame ((s.ca p).agents.map (fun a => a.aid)) u
  have hw : OnlyInBufs v (s.entered p) :=
    State.each_induction (OnlyInBufs v) v.slicesUp (fun s k => sendFirst p k s) (fun t k h => h.trans (sendFirst_onlyInBufs p k t)) v rfl
  have hvca : v.ca p = u.ca p := have h := congrArg (fun x : State => x.ca p) hv; h
  have hwca : (s.entered p).ca p = v.ca p := have h := congrArg (fun x : State => x.ca p) hw; h
  have hvd : v.mesh.drained = false := have h := congrArg (fun x : State => x.mesh.drained) hv; h
  have hwd : (s.entered p).mesh.drained = v.mesh.drained := have h := congrArg (fun x : State => x.mesh.drained) hw; h
  refine ⟨?_, hwd.trans hvd⟩
  rw [hwca, hvca, hu]
  exact congrArg CaPort.opened ht

/-! ### ADVACK -/

section
variable {s : State} {p : Nat}

theorem execAdvack_of_written (hst : (s.ca p).st = .bringup) (hw : (s.ca p).written = true) :
    exec (.advack p) s = .next
      (let left := dropLowest ((s.ca p).tableAcks &&& s.peerMask)
       let t := s.setCa p { s.ca p with tableAcks := left }
       if left ≠ 0 then t else if (s.ca p).abandoned then clearAbandoned p t else enterActive p t) :=
  congrArg Host.Outcome.next (if_pos ⟨hst, hw⟩)

theorem execAdvack_of_left (hst : (s.ca p).st = .bringup) (hw : (s.ca p).written = true)
    (hl : dropLowest ((s.ca p).tableAcks &&& s.peerMask) ≠ 0) :
    exec (.advack p) s = .next (s.setCa p { s.ca p with tableAcks := dropLowest ((s.ca p).tableAcks &&& s.peerMask) }) :=
  (execAdvack_of_written hst hw).trans (congrArg Host.Outcome.next (if_pos hl))

theorem execAdvack_of_last (hst : (s.ca p).st = .bringup) (hw : (s.ca p).written = true)
    (hl : dropLowest ((s.ca p).tableAcks &&& s.peerMask) = 0) :
    exec (.advack p) s = .next
      (if (s.ca p).abandoned then clearAbandoned p (s.setCa p { s.ca p with tableAcks := 0 })
       else enterActive p (s.setCa p { s.ca p with tableAcks := 0 })) := by
  rw [execAdvack_of_written hst hw]
  simp only [hl, ne_eq, not_true_eq_false, if_false]

end

/-- The state when the entries of an abandoned bring-up have been cleared (R336). -/
def State.entriesCleared (s : State) (p : Nat) : State :=
  clearAgents p ((s.ca p).advs.map (fun a => a.aid)) (s.modCa p (fun c => { c with written := false, awaitPeers := s.peerMask }))

/-- It waits for the peers, or has none to wait for (R336). -/
theorem clearAbandoned_eq (p : Nat) (s : State) : clearAbandoned p s =
    if (s.entriesCleared p).joinedPeers.isEmpty then tryBringup p ((s.entriesCleared p).modCa p CaPort.quiesce) else s.entriesCleared p := rfl

theorem clearAgents_agents {p : Nat} {as : List Aid} {s : State} {a : Aid} (ha : a ∈ as) {e : Nat × BitVec 3 × BitVec 7}
    (he : e ∈ (clearAgents p as s).pkg.agents) : BitVec.ofNat 11 e.1 ≠ a := by
  have h : (clearAgents p as s).pkg.agents = (s.withoutAgents as).pkg.agents :=
    have h := congrArg (fun t : State => t.pkg.agents) (clearAgents_frame p as s)
    h
  rw [h] at he
  rintro rfl
  simpa [ha] using (List.mem_filter.mp he).2

theorem clearAbandoned_agents {p : Nat} {s : State} {x : Adv} (hx : x ∈ (s.ca p).advs) {e : Nat × BitVec 3 × BitVec 7}
    (he : e ∈ (clearAbandoned p s).pkg.agents) : BitVec.ofNat 11 e.1 ≠ x.aid := by
  have hpkg : (clearAbandoned p s).pkg = (s.entriesCleared p).pkg := by
    rw [clearAbandoned_eq]
    split
    · exact tryBringup_pkg _ _
    · rfl
  rw [hpkg] at he
  exact clearAgents_agents (List.mem_map_of_mem hx) he

/-- With a peer joined the port waits for the acknowledgements of the clearing (R336). -/
theorem clearAbandoned_ca {p : Nat} {s : State} (hj : s.joinedPeers ≠ []) :
    (clearAbandoned p s).ca p = { s.ca p with written := false, awaitPeers := s.peerMask } := by
  have ht := clearAgents_frame p ((s.ca p).advs.map (fun a => a.aid))
    (s.modCa p (fun c => { c with written := false, awaitPeers := s.peerMask }))
  have hpeers : (s.entriesCleared p).joinedPeers = s.joinedPeers := have h := congrArg State.joinedPeers ht; h
  have hca : (s.entriesCleared p).ca p = { s.ca p with written := false, awaitPeers := s.peerMask } :=
    have h := congrArg (fun x : State => x.ca p) ht
    h.trans (tget_tput_self _ _ _ _)
  rw [clearAbandoned_eq, if_neg (by simp [hpeers, hj]), hca]

section
variable {s : State} {p : Nat} (hst : (s.ca p).st = .bringup) (hw : (s.ca p).written = true)
  (hl : dropLowest ((s.ca p).tableAcks &&& s.peerMask) = 0)
include hst hw hl

/-- With the last acknowledgement the entries of an abandoned bring-up are cleared, and the port waits for the peers (R336). -/
theorem execAdvack_last_abandoned (hab : (s.ca p).abandoned = true) : ∃ t, exec (.advack p) s = .next t ∧
    (∀ x ∈ (s.ca p).advs, ∀ e ∈ t.pkg.agents, BitVec.ofNat 11 e.1 ≠ x.aid) ∧
    (s.joinedPeers ≠ [] → (t.ca p).st = .bringup ∧ (t.ca p).written = false ∧ (t.ca p).awaitPeers = s.peerMask) := by
  have hu : (s.setCa p { s.ca p with tableAcks := 0 }).ca p = { s.ca p with tableAcks := 0 } := tget_tput_self _ _ _ _
  refine ⟨_, (execAdvack_of_last hst hw hl).trans (congrArg Host.Outcome.next (if_pos hab)),
    fun x hx e he => clearAbandoned_agents (by rwa [hu]) he, fun hj => ?_⟩
  rw [clearAbandoned_ca (s := s.setCa p { s.ca p with tableAcks := 0 }) hj, hu]
  exact ⟨hst, rfl, rfl⟩

/-- A port whose ACTIVE has fallen meanwhile begins to leave at once (R336). -/
theorem execAdvack_last_low (hab : (s.ca p).abandoned = false) (ha : (s.ca p).active = false) :
    ∃ t, exec (.advack p) s = .next t ∧ (t.ca p).st = .quiescing ∧ (t.ca p).agents = (s.ca p).agents := by
  let u := s.setCa p { s.ca p with tableAcks := 0 }
  have hu : u.ca p = { s.ca p with tableAcks := 0 } := tget_tput_self _ _ _ _
  have hexec : exec (.advack p) s = .next (startQuiesce p (u.entered p)) := by
    rw [execAdvack_of_last hst hw hl, enterActive_eq, hu]
    simp [hab, ha, u]
  have hq := startQuiesce_ca p (u.entered p)
  have hagents := congrArg CaPort.agents (u.entered_opened p).1
  rw [hu] at hagents
  exact ⟨_, hexec, congrArg CaPort.st hq, (congrArg CaPort.agents hq).trans hagents⟩

/-- Any other is ACTIVE, with its credits and nothing from before (R246, R335). -/
theorem execAdvack_last_high (hab : (s.ca p).abandoned = false) (ha : (s.ca p).active = true) :
    ∃ t, exec (.advack p) s = .next t ∧ (t.ca p).st = .active ∧ (t.ca p).ready = true ∧ (t.ca p).reqCrd = 64 ∧ (t.ca p).datiCrd = 16 ∧
      (t.ca p).ingress = [] ∧ (t.ca p).snpOut = [] ∧ (t.ca p).cred = [] ∧ (t.ca p).agents = (s.ca p).agents ∧ t.mesh.drained = false := by
  let u := s.setCa p { s.ca p with tableAcks := 0 }
  have hu : u.ca p = { s.ca p with tableAcks := 0 } := tget_tput_self _ _ _ _
  have hexec : exec (.advack p) s = .next (u.entered p) := by
    rw [execAdvack_of_last hst hw hl, enterActive_eq, hu]
    simp [hab, ha, u]
  obtain ⟨hca, hd⟩ := u.entered_opened p
  rw [hu] at hca
  have hagents := congrArg CaPort.agents hca
  exact ⟨_, hexec, congrArg CaPort.st hca, congrArg CaPort.ready hca, congrArg CaPort.reqCrd hca, congrArg CaPort.datiCrd hca,
    congrArg CaPort.ingress hca, congrArg CaPort.snpOut hca, congrArg CaPort.cred hca, hagents, hd⟩

end

/-! ### CAP_ACTIVE_FALL -/

section
variable {s : State} {p : Nat} (hp : p < 128)
include hp

theorem execCapActiveFall_of_settled (hst : (s.ca p).st = .isolated ∨ (s.ca p).st = .quiesced ∨ (s.ca p).st = .quiescing) :
    exec (.capActiveFall p) s = .next (s.setCa p { s.ca p with active := false }) := by
  change execCapActiveFall p s = _
  rcases hst with h | h | h <;> simp only [execCapActiveFall, peerOfPort_own hp, h]

theorem execCapActiveFall_of_active (hst : (s.ca p).st = .active) :
    exec (.capActiveFall p) s = .next (startQuiesce p (s.setCa p { s.ca p with active := false })) := by
  change execCapActiveFall p s = _
  simp only [execCapActiveFall, peerOfPort_own hp, hst]

/-- In BRINGUP the fall ends, abandons or only notes, by how far the bring-up is (R334, R336). -/
theorem execCapActiveFall_of_bringup (hst : (s.ca p).st = .bringup) : exec (.capActiveFall p) s = .next
    (let c := { s.ca p with active := false }
     if c.abandoned then s.setCa p c
     else if !c.written then s.setCa p c.quiesce
     else if c.tableAcks &&& s.peerMask = 0 then s.setCa p c
     else (s.setCa p { c with abandoned := true }).toJoined (.quiescing p)) := by
  change execCapActiveFall p s = _
  simp only [execCapActiveFall, peerOfPort_own hp, hst]

theorem execCapActiveFall_of_abandoned (hst : (s.ca p).st = .bringup) (hab : (s.ca p).abandoned = true) :
    exec (.capActiveFall p) s = .next (s.setCa p { s.ca p with active := false }) := by
  rw [execCapActiveFall_of_bringup hp hst]
  exact congrArg Host.Outcome.next (if_pos hab)

/-- Before its entries are written a bring-up is over at once (R334). -/
theorem execCapActiveFall_of_unwritten (hst : (s.ca p).st = .bringup) (hab : (s.ca p).abandoned = false) (hw : (s.ca p).written = false) :
    exec (.capActiveFall p) s = .next (s.setCa p (CaPort.quiesce { s.ca p with active := false })) := by
  rw [execCapActiveFall_of_bringup hp hst]
  exact congrArg Host.Outcome.next ((if_neg (by simp [hab])).trans (if_pos (by simp [hw])))

theorem execCapActiveFall_of_acknowledged (hst : (s.ca p).st = .bringup) (hw : (s.ca p).written = true) (hab : (s.ca p).abandoned = false)
    (hm : (s.ca p).tableAcks &&& s.peerMask = 0) :
    exec (.capActiveFall p) s = .next (s.setCa p { s.ca p with active := false }) := by
  rw [execCapActiveFall_of_bringup hp hst]
  exact congrArg Host.Outcome.next ((if_neg (by simp [hab])).trans ((if_neg (by simp [hw])).trans (if_pos hm)))

/-- A port that leaves ACTIVE takes no more requests, and every slice that works owes it a marker (R336, R337). -/
theorem execCapActiveFall_leaves (hst : (s.ca p).st = .active) : ∃ t, exec (.capActiveFall p) s = .next t ∧
    (t.ca p).st = .quiescing ∧ (t.ca p).reqCrd = 0 ∧ (t.ca p).active = false ∧ (t.ca p).markers = [] ∧
    (∀ k ∈ s.slicesUp, (s.self, k) ∈ (t.ca p).markersDue) ∧ t.slices = s.slices ∧ t.pkg = s.pkg := by
  let u := s.setCa p { s.ca p with active := false }
  have hca := startQuiesce_ca p u
  have hact : (u.ca p).active = false := congrArg CaPort.active (tget_tput_self _ _ _ _)
  have hf := startQuiesce_frame p u
  have hslices := congrArg State.slices hf
  have hpkg := congrArg State.pkg hf
  refine ⟨_, execCapActiveFall_of_active hp hst, congrArg CaPort.st hca, congrArg CaPort.reqCrd hca, (congrArg CaPort.active hca).trans hact,
    congrArg CaPort.markers hca, fun k hk => ?_, hslices, hpkg⟩
  rw [hca]
  exact State.mem_markersOwed (s := u) hk

/-- A bring-up whose entries a peer has yet to acknowledge is abandoned, and the peers are told (R336). -/
theorem execCapActiveFall_abandons (hst : (s.ca p).st = .bringup) (hw : (s.ca p).written = true) (hab : (s.ca p).abandoned = false)
    (hm : (s.ca p).tableAcks &&& s.peerMask ≠ 0) : ∃ t, exec (.capActiveFall p) s = .next t ∧
      t.ca p = { s.ca p with active := false, abandoned := true } ∧ t.pkg = s.pkg ∧ t.slices = s.slices := by
  let u := s.setCa p { s.ca p with active := false, abandoned := true }
  have hexec : exec (.capActiveFall p) s = .next (u.toJoined (.quiescing p)) := by
    rw [execCapActiveFall_of_bringup hp hst]
    exact congrArg Host.Outcome.next ((if_neg (by simp [hab])).trans ((if_neg (by simp [hw])).trans (if_neg hm)))
  have hf := u.toJoined_frame (.quiescing p)
  have hca := congrArg (fun t : State => t.ca p) hf
  have hpkg := congrArg State.pkg hf
  have hslices := congrArg State.slices hf
  exact ⟨_, hexec, hca.trans (tget_tput_self _ _ _ _), hpkg, hslices⟩

theorem execCapActiveFall_own_peer : exec (.capActiveFall (128 * (s.inst.toNat + 1) + p)) s = .next s := by
  change execCapActiveFall _ s = _
  simp only [execCapActiveFall, peerOfPort_peer hp, if_true]

theorem execCapActiveFall_peer {i : BitVec 3} (hi : i ≠ s.inst) :
    exec (.capActiveFall (128 * (i.toNat + 1) + p)) s = .next (peerQuiescing i p s) := by
  change execCapActiveFall _ s = _
  simp only [execCapActiveFall, peerOfPort_peer hp, if_neg hi, portOfPeer_mod hp]

end

/-! ### Fence markers for the ports of peers -/

/-- The ports that the fence markers of a slice are for, sent or not. -/
def Slice.marked (v : Slice) : List (BitVec 3 × Nat) := v.marks.map (fun m => (m.1, m.2.1))

/-- Everything but slice `k` and the mesh; and slice `k` has fence markers for the ports that it had them for. -/
def MarksKept (k : Nat) (s t : State) : Prop :=
  ({ t with slices := s.slices, mesh := s.mesh } : State) = s ∧ (∀ j, j ≠ k → t.slice j = s.slice j) ∧
  (t.slice k).marked = (s.slice k).marked

theorem MarksKept.refl (k : Nat) (s : State) : MarksKept k s s := ⟨rfl, fun _ _ => rfl, rfl⟩

theorem MarksKept.trans {k : Nat} {s t u : State} (h : MarksKept k s t) (g : MarksKept k t u) : MarksKept k s u := by
  obtain ⟨hf, hj, hm⟩ := h
  obtain ⟨gf, gj, gm⟩ := g
  exact ⟨(congrArg (fun x : State => ({ x with slices := s.slices, mesh := s.mesh } : State)) gf).trans hf,
    fun j hk => (gj j hk).trans (hj j hk), gm.trans hm⟩

/-- A fence marker that leaves is noted as sent, and stays until the port is QUIESCED (R290). -/
theorem sendMarks_kept (k : Nat) (s : State) : MarksKept k s (sendMarks k s) := by
  unfold sendMarks
  refine List.foldlRecOn (motive := MarksKept k s) _ _ (.refl k s) fun t ht m _ => ht.trans ?_
  split
  · split
    · refine ⟨rfl, fun j hj => ?_, ?_⟩
      · rw [State.slice_fromSlice, State.slice_modSlice, if_neg hj]
      · rw [State.slice_fromSlice, State.slice_modSlice, if_pos rfl]
        exact map_lmodify_of_kept (g := fun m : BitVec 3 × Nat × Bool => (m.1, m.2.1)) (f := fun m => (m.1, m.2.1, true)) (fun _ => rfl) _ _
    · exact .refl k t
  · exact .refl k t

/-- A slice with a fence marker for port `cap` of instance `i`, to be sent unless it has one (R290, R337). -/
def Slice.withMark (v : Slice) (i : BitVec 3) (cap : Nat) : Slice :=
  if v.marks.any (fun m => m.1 == i && m.2.1 == cap) then v else { v with marks := v.marks ++ [(i, cap, false)] }

theorem Slice.mem_marked {v : Slice} {i : BitVec 3} {cap : Nat} (h : (i, cap) ∈ v.marked) : ∃ sent, (i, cap, sent) ∈ v.marks := by
  obtain ⟨⟨j, q, sent⟩, hm, heq⟩ := List.mem_map.mp h
  obtain ⟨rfl, rfl⟩ := Prod.mk.inj heq
  exact ⟨sent, hm⟩

theorem Slice.withMark_marked (v : Slice) (i : BitVec 3) (cap : Nat) :
    (i, cap) ∈ (v.withMark i cap).marked ∧ v.marked ⊆ (v.withMark i cap).marked := by
  unfold Slice.withMark
  split
  next hany =>
    obtain ⟨m, hm, heq⟩ := List.any_eq_true.mp hany
    obtain ⟨h1, h2⟩ : m.1 = i ∧ m.2.1 = cap := by simpa using heq
    exact ⟨List.mem_map.mpr ⟨m, hm, by rw [h1, h2]⟩, fun _ hx => hx⟩
  next =>
    have happ : Slice.marked { v with marks := v.marks ++ [(i, cap, false)] } = v.marked ++ [(i, cap)] := List.map_append
    rw [happ]
    exact ⟨by simp, List.subset_append_left _ _⟩

/-- The state when slice `k` has such a fence marker, sent as far as its credits go. -/
def State.markedFor (s : State) (i : BitVec 3) (cap k : Nat) : State := sendMarks k (s.modSlice k (fun v => v.withMark i cap))

theorem peerQuiescing_eq (i : BitVec 3) (cap : Nat) (s : State) :
    peerQuiescing i cap s = s.each s.slicesUp (fun t k => t.markedFor i cap k) := rfl

theorem State.markedFor_frame (s : State) (i : BitVec 3) (cap k : Nat) :
    ({ s.markedFor i cap k with slices := s.slices, mesh := s.mesh } : State) = s :=
  have h := congrArg (fun t : State => ({ t with slices := s.slices } : State)) (sendMarks_kept k (s.modSlice k _)).1
  h

theorem State.markedFor_other (s : State) (i : BitVec 3) (cap : Nat) {k j : Nat} (hj : j ≠ k) : (s.markedFor i cap k).slice j = s.slice j := by
  refine ((sendMarks_kept k _).2.1 j hj).trans ?_
  rw [State.slice_modSlice, if_neg hj]

theorem State.markedFor_marked (s : State) (i : BitVec 3) (cap k : Nat) :
    ((s.markedFor i cap k).slice k).marked = ((s.slice k).withMark i cap).marked := by
  refine (sendMarks_kept k _).2.2.trans ?_
  rw [State.slice_modSlice, if_pos rfl]

theorem peerQuiescing_frame (i : BitVec 3) (cap : Nat) (s : State) :
    ({ peerQuiescing i cap s with slices := s.slices, mesh := s.mesh } : State) = s :=
  State.each_induction (fun t => ({ t with slices := s.slices, mesh := s.mesh } : State) = s) s.slicesUp
    (fun t k => t.markedFor i cap k) (fun t k h =>
      (congrArg (fun x : State => ({ x with slices := s.slices, mesh := s.mesh } : State)) (t.markedFor_frame i cap k)).trans h) s rfl

/-- Every slice that works holds a fence marker for the port (R337). -/
theorem peerQuiescing_marked (i : BitVec 3) (cap : Nat) (s : State) {k : Nat} (hk : k ∈ s.slicesUp) :
    (i, cap) ∈ ((peerQuiescing i cap s).slice k).marked := by
  rw [peerQuiescing_eq]
  refine State.each_establishes (I := fun _ => True) (P := fun t => (i, cap) ∈ (t.slice k).marked) (k := k) (fun _ _ _ => trivial)
    (fun t _ => ?_) (fun t j _ ht => ?_) hk trivial
  · rw [t.markedFor_marked]
    exact ((t.slice k).withMark_marked i cap).1
  by_cases h : k = j
  · subst h
    rw [t.markedFor_marked]
    exact ((t.slice k).withMark_marked i cap).2 ht
  · rwa [t.markedFor_other i cap h]

theorem peerQuiescing_other (i : BitVec 3) (cap : Nat) (s : State) {k : Nat} (hk : k ∉ s.slicesUp) :
    (peerQuiescing i cap s).slice k = s.slice k := by
  rw [peerQuiescing_eq]
  exact List.foldlRecOn (motive := fun t : State => t.slice k = s.slice k) s.slicesUp _ rfl fun t ht j hj =>
    (t.markedFor_other i cap (ne_of_mem_of_not_mem hj hk).symm).trans ht

theorem execCapActiveFall_marks {s : State} {p : Nat} {src : BitVec 3} (hp : p < 128) (hs : src ≠ s.inst) :
    ∃ t, exec (.capActiveFall (128 * (src.toNat + 1) + p)) s = .next t ∧ t.cas = s.cas ∧ t.pkg = s.pkg ∧
      (∀ k ∈ s.slicesUp, ∃ sent, (src, p, sent) ∈ (t.slice k).marks) ∧ (∀ k, k ∉ s.slicesUp → t.slice k = s.slice k) := by
  have hf := peerQuiescing_frame src p s
  have hcas := congrArg State.cas hf
  have hpkg := congrArg State.pkg hf
  exact ⟨_, execCapActiveFall_peer hp hs, hcas, hpkg, fun k hk => Slice.mem_marked (peerQuiescing_marked src p s hk),
    fun k hk => peerQuiescing_other src p s hk⟩

/-! ### The end of QUIESCING, and of an abandoned bring-up -/

section
variable {s : State} {p : Nat} {src : BitVec 3}

theorem execAgentTableClearAck_of_abandoned (hst : (s.ca p).st = .bringup) (hab : (s.ca p).abandoned = true) (hw : (s.ca p).written = false) :
    exec (.agentTableClearAck p src) s = .next
      (let left := (s.ca p).awaitPeers &&& ~~~(1#8 <<< src.toNat)
       tryBringup p (s.setCa p (if left = 0 then (s.ca p).quiesce else { s.ca p with awaitPeers := left }))) :=
  congrArg Host.Outcome.next (if_pos ⟨hst, hab, by simp [hw]⟩)

theorem execAgentTableClearAck_of_last (hst : (s.ca p).st = .bringup) (hab : (s.ca p).abandoned = true) (hw : (s.ca p).written = false)
    (hl : (s.ca p).awaitPeers &&& ~~~(1#8 <<< src.toNat) = 0) :
    exec (.agentTableClearAck p src) s = .next (tryBringup p (s.setCa p (s.ca p).quiesce)) := by
  rw [execAgentTableClearAck_of_abandoned hst hab hw]
  simp only [hl, if_true]

theorem execAgentTableClearAck_of_left (hst : (s.ca p).st = .bringup) (hab : (s.ca p).abandoned = true) (hw : (s.ca p).written = false)
    (hl : (s.ca p).awaitPeers &&& ~~~(1#8 <<< src.toNat) ≠ 0) :
    exec (.agentTableClearAck p src) s = .next (s.setCa p { s.ca p with awaitPeers := (s.ca p).awaitPeers &&& ~~~(1#8 <<< src.toNat) }) := by
  rw [execAgentTableClearAck_of_abandoned hst hab hw]
  simp only [hl, if_false]
  exact congrArg Host.Outcome.next (tryBringup_setCa_of_not (.inl (by simp [hst])))

theorem execPortQuiesceComplete_of_done (hst : (s.ca p).st = .quiescing) (hm : s.markersIn (s.ca p) = true) (hb : (s.ca p).snpBuf = [])
    (ho : ∀ x ∈ (s.ca p).snpOut, x.due ≠ none) : exec (.portQuiesceComplete p) s =
      .next (tryBringup p (dropCredits p (clearAgents p (s.aidsOf p) (s.setCa p (s.ca p).quiesce)))) :=
  congrArg Host.Outcome.next (if_pos ⟨hst, hm, by simp [hb],
    List.all_eq_true.mpr fun x hx => Option.isSome_iff_ne_none.mpr (ho x hx)⟩)

/-! ### Release -/

/-- Whether an AID is one of the agents of a port. -/
theorem contains_aids_eq (l : List Agent) (x : Aid) : (l.map (fun a => a.aid)).contains x = l.any (fun a => a.aid == x) := by
  induction l with
  | nil => rfl
  | cons a l ih => rw [List.map_cons, List.contains_cons, ih, List.any_cons, BEq.comm]

/-- The state after one pass of every slice that works over its snoop filter (R309, R338). -/
def State.scannedFor (s : State) (gone : Aid → Bool) : State := s.slicesUp.foldl (fun s k => cleanPass gone k s) s

theorem execPortReleaseScanDone_of_releasing (hp : p < 128) (hst : (s.ca p).st = .isolated) (hr : (s.ca p).relCmds ≠ []) {gone : Aid → Bool}
    (hg : ∀ x, gone x = (s.ca p).agents.any (fun a => a.aid == x)) : exec (.portReleaseScanDone p) s = .next
      (let left := dropLowest ((s.ca p).scansDue &&& s.peerMask)
       let t := s.scannedFor gone
       let u := t.setCa p { t.ca p with scansDue := left }
       if left = 0 ∧ t.slicesUp.all (fun k => (t.slice k).cleanOf gone) then
         tryBringup p ((s.ca p).relCmds.foldl (fun s i => s.endCmd (some i) stOk 0 []) (u.modCa p (fun c => { c.quiesce with relCmds := [] })))
       else u) := by
  obtain rfl : gone = ((s.ca p).agents.map (fun a => a.aid)).contains :=
    funext fun x => (hg x).trans (contains_aids_eq _ x).symm
  change execPortReleaseScanDone p s = _
  unfold execPortReleaseScanDone
  rw [peerOfPort_own hp]
  exact congrArg Host.Outcome.next (if_pos ⟨hst, hr⟩)

theorem execPortReleaseScanDone_of_left (hp : p < 128) (hst : (s.ca p).st = .isolated) (hr : (s.ca p).relCmds ≠ []) {gone : Aid → Bool}
    (hg : ∀ x, gone x = (s.ca p).agents.any (fun a => a.aid == x))
    (hl : dropLowest ((s.ca p).scansDue &&& s.peerMask) ≠ 0 ∨
      ∃ k ∈ (s.scannedFor gone).slicesUp, ((s.scannedFor gone).slice k).cleanOf gone = false) :
    exec (.portReleaseScanDone p) s = .next ((s.scannedFor gone).setCa p
      { (s.scannedFor gone).ca p with scansDue := dropLowest ((s.ca p).scansDue &&& s.peerMask) }) := by
  rw [execPortReleaseScanDone_of_releasing hp hst hr hg]
  refine congrArg Host.Outcome.next (if_neg fun ⟨hz, hall⟩ => ?_)
  rcases hl with hl | ⟨k, hk, hc⟩
  · exact hl hz
  · exact absurd (List.all_eq_true.mp hall k hk) (by simp [hc])

theorem execPortReleaseScanDone_of_done (hp : p < 128) (hst : (s.ca p).st = .isolated) (hr : (s.ca p).relCmds ≠ []) {gone : Aid → Bool}
    (hg : ∀ x, gone x = (s.ca p).agents.any (fun a => a.aid == x)) (hl : dropLowest ((s.ca p).scansDue &&& s.peerMask) = 0)
    (hc : ∀ k ∈ (s.scannedFor gone).slicesUp, ((s.scannedFor gone).slice k).cleanOf gone = true) :
    exec (.portReleaseScanDone p) s = .next (tryBringup p ((s.ca p).relCmds.foldl (fun s i => s.endCmd (some i) stOk 0 [])
      ((s.scannedFor gone).setCa p { ((s.scannedFor gone).ca p).quiesce with relCmds := [], scansDue := 0 }))) := by
  rw [execPortReleaseScanDone_of_releasing hp hst hr hg]
  have hports (t : State) : (t.setCa p { t.ca p with scansDue := 0 }).modCa p (fun c => { c.quiesce with relCmds := [] }) =
      t.setCa p { (t.ca p).quiesce with relCmds := [], scansDue := 0 } := by
    unfold State.modCa
    rw [State.ca_setCa, if_pos rfl, State.setCa_setCa]
    rfl
  refine congrArg Host.Outcome.next ((if_pos ⟨hl, List.all_eq_true.mpr hc⟩).trans ?_)
  rw [hl, hports]

theorem execPortReleaseScanDone_peer (hp : p < 128) (hs : src ≠ s.inst) :
    exec (.portReleaseScanDone (128 * (src.toNat + 1) + p)) s = .next (scanForPeer src p s) := by
  change execPortReleaseScanDone _ s = _
  simp only [execPortReleaseScanDone, peerOfPort_peer hp, if_neg hs, portOfPeer_mod hp]

end

/-! ### AGENT_TABLE_UPDATE -/

/-- An agent that a peer enters is in the table, and reachable (R128, R291). -/
theorem execAgentTableUpdate_entered (s : State) (src : BitVec 3) (aid : BitVec 11) (cap : BitVec 7) :
    ∃ t : State, exec (.agentTableUpdate src aid true cap) s = .next (t.sendMgt src.toNat (.agentAck true)) ∧
      tget (fun _ => ((0 : BitVec 3), (0 : BitVec 7))) t.pkg.agents aid.toNat = (src, cap) ∧ aid ∉ t.pkg.unreach := by
  let u := resolveAgents (fun a => a == aid) { s with pkg := { s.pkg with unreach := s.pkg.unreach.filter (fun a => a != aid) } }
  let v : State := { u with pkg := { u.pkg with agents := tput aid.toNat (src, cap) u.pkg.agents } }
  have hpkg : (agentsBack [aid] v).pkg = { v.pkg with unreach := v.pkg.unreach.filter (fun a => !([aid].contains a)) } :=
    have h := congrArg State.pkg (agentsBack_frame [aid] v)
    h
  refine ⟨agentsBack [aid] v, rfl, ?_, ?_⟩
  · rw [hpkg]
    exact tget_tput_self _ _ _ _
  · rw [hpkg]
    simp

/-! ### The obligation -/

/-- Settles O24: the bring-up of a port, its acknowledgements, the ways out of ACTIVE, ISOLATED and BRINGUP, and what peers tell. -/
theorem portsComeAndGo : Obligations.PortsComeAndGo := by
  unfold Obligations.PortsComeAndGo
  refine ⟨fun s p m => ?bringup, fun s p src aid cap => ?leaving⟩
  case bringup =>
    refine ⟨execCapActiveRise_of_ready, execCapActiveRise_of_not, fun hst hcrd hop hab hr => ⟨execAdv_of_first ⟨hst, hcrd, hop, hab⟩ hr,
        execAdv_of_badNag ⟨hst, hcrd, hop, hab⟩ hr, execAdv_of_next ⟨hst, hcrd, hop, hab⟩ hr⟩,
      fun hst hcrd hop hab hr => execAdv_of_refused ⟨hst, hcrd, hop, hab⟩ hr, fun hst hf hne hlen hall => ?_,
      fun hst hf hne hlen hbad => execAdvCheck_of_bad ⟨hst, hf, hne, hlen⟩ hbad, execAdvack_of_left,
      execAdvack_last_abandoned, execAdvack_last_low, execAdvack_last_high⟩
    obtain ⟨hca, hslices, htable⟩ := writeAgents_written p (s.ca p).advs s
    exact ⟨_, execAdvCheck_of_accepted ⟨hst, hf, hne, hlen⟩ hall, congrArg CaPort.written hca, (congrArg CaPort.st hca).trans hst,
      congrArg CaPort.tableAcks hca, congrArg CaPort.agents hca, htable, hslices⟩
  case leaving =>
    exact ⟨execCapActiveFall_of_settled, execCapActiveFall_leaves, execCapActiveFall_of_abandoned, execCapActiveFall_of_unwritten,
      execCapActiveFall_of_acknowledged, execCapActiveFall_abandons, execAgentTableClearAck_of_last, execAgentTableClearAck_of_left,
      execPortQuiesceComplete_of_done, ⟨rfl, rfl, rfl, rfl, rfl, rfl, rfl, rfl⟩,
      fun hp hst hr => ⟨_, rfl, execPortReleaseScanDone_of_left hp hst hr fun _ => rfl, execPortReleaseScanDone_of_done hp hst hr fun _ => rfl⟩,
      fun hp hs => ⟨_, rfl, execPortReleaseScanDone_peer hp hs⟩, execAgentTableUpdate_entered s src aid cap, rfl,
      execCapActiveFall_own_peer, execCapActiveFall_marks⟩

end Sys2Proof.Machine
end

section
/-! Batten schedules, the drain of the mesh, and its trace probes (R272 to R278, R283 to R286, R368, R404). -/

namespace Sys2Proof.Machine

/-! ### Doing the same to each of several parts -/

/-- Turns that each do `f` to the one part they name do it to every part that a list names, once or more often where `f` is idempotent. -/
theorem get_foldl_of_idempotent {σ ι κ β : Type} [DecidableEq κ] {get : σ → κ → β} {turn : σ → ι → σ} {key : ι → κ}
    {f : β → β} (hf : ∀ x, f (f x) = f x) (hturn : ∀ s i j, get (turn s i) j = if j = key i then f (get s j) else get s j)
    (l : List ι) (s : σ) (j : κ) : get (l.foldl turn s) j = if j ∈ l.map key then f (get s j) else get s j := by
  induction l generalizing s with
  | nil => simp
  | cons i l ih =>
    rw [List.foldl_cons, ih, hturn]
    by_cases h : j = key i
    · simp [h, hf]
    · simp [h]

/-- One idempotent change made to each link of a list. -/
theorem State.link_each_modLink {f : Ridge → Ridge} (hf : ∀ x, f (f x) = f x) (l : List Nat) (s : State) (r : Nat) :
    (s.each l (fun t r => t.modLink r f)).link r = if r ∈ l then f (s.link r) else s.link r := by
  have hturn (t : State) (i j : Nat) : (t.modLink i f).link j = if j = i then f (t.link j) else t.link j := by
    rw [State.link_modLink]
    split
    next e => rw [e]
    next => rfl
  exact (get_foldl_of_idempotent (key := id) hf hturn l s r).trans (by rw [List.map_id])

/-! ### BATTEN_LOAD -/

/-- The shadow schedule of the output with key `i`: output `o` of router `n` has the key `9 * n + o` (R272, R275). -/
def State.shadowOf (s : State) (i : Nat) : Tbl (BitVec 8) := tget (fun _ => []) s.mesh.batSh i

theorem foldl_setShadow_frame (t : Tbl (BitVec 8)) (l : List (Nat × Nat)) (s : State) :
    ({ l.foldl (setShadow t) s with mesh := { (l.foldl (setShadow t) s).mesh with batSh := s.mesh.batSh } } : State) = s := by
  induction l generalizing s with
  | nil => rfl
  | cons x l ih =>
    have h := congrArg (fun u : State => ({ u with mesh := { u.mesh with batSh := s.mesh.batSh } } : State)) (ih (setShadow t s x))
    exact h

theorem shadowOf_setShadow (t : Tbl (BitVec 8)) (s : State) (x : Nat × Nat) (i : Nat) :
    (setShadow t s x).shadowOf i = if i = x.1 * 9 + x.2 then t else s.shadowOf i :=
  tget_tset _ _ _ _ _

theorem shadowOf_foldl_setShadow (t : Tbl (BitVec 8)) (l : List (Nat × Nat)) (s : State) (i : Nat) :
    (l.foldl (setShadow t) s).shadowOf i = if i ∈ l.map (fun x => x.1 * 9 + x.2) then t else s.shadowOf i :=
  get_foldl_of_idempotent (f := fun _ => t) (fun _ => rfl) (shadowOf_setShadow t) l s i

/-- A link with a new shadow schedule. -/
def Ridge.shadowed (t : Tbl (BitVec 8)) (l : Ridge) : Ridge := { l with batSh := t }

/-- The state when a schedule has been written into the shadow of every scheduled output and every link (R275). -/
def State.shadowed (s : State) (t : Tbl (BitVec 8)) : State :=
  (s.gh.scheduled.foldl (setShadow t) s).each (List.range s.gh.ridgePorts) (fun u r => u.modLink r (Ridge.shadowed t))

theorem State.shadowed_frame (s : State) (t : Tbl (BitVec 8)) :
    ({ s.shadowed t with mesh := { (s.shadowed t).mesh with batSh := s.mesh.batSh }, rdg := s.rdg } : State) = s :=
  have hlinks := State.each_modLink_frame (List.range s.gh.ridgePorts) (fun _ => Ridge.shadowed t) (s.gh.scheduled.foldl (setShadow t) s)
  (congrArg (fun u : State => ({ u with mesh := { u.mesh with batSh := s.mesh.batSh }, rdg := s.rdg } : State)) hlinks).trans
    (congrArg (fun u : State => ({ u with rdg := s.rdg } : State)) (foldl_setShadow_frame t s.gh.scheduled s))

theorem State.shadowed_output {s : State} {x : Nat × Nat} (hx : x ∈ s.gh.scheduled) (t : Tbl (BitVec 8)) :
    (s.shadowed t).shadowOf (x.1 * 9 + x.2) = t := by
  have hmesh : (s.shadowed t).mesh = (s.gh.scheduled.foldl (setShadow t) s).mesh :=
    have h := congrArg State.mesh (State.each_modLink_frame (List.range s.gh.ridgePorts) (fun _ => Ridge.shadowed t)
      (s.gh.scheduled.foldl (setShadow t) s))
    h
  rw [State.shadowOf, hmesh]
  exact (shadowOf_foldl_setShadow t _ s _).trans (if_pos (List.mem_map_of_mem hx))

theorem State.shadowed_link {s : State} {r : Nat} (hr : r < s.gh.ridgePorts) (t : Tbl (BitVec 8)) :
    (s.shadowed t).link r = (s.link r).shadowed t := by
  have hlink : (s.gh.scheduled.foldl (setShadow t) s).link r = s.link r :=
    have h := congrArg (fun u : State => u.link r) (foldl_setShadow_frame t s.gh.scheduled s)
    h
  rw [State.shadowed, State.link_each_modLink (f := Ridge.shadowed t) (fun _ => rfl), if_pos (List.mem_range.mpr hr), hlink]

section
variable {s : State} {c : Nat} {k : Kcp}

/-- A load for every output names no output of its own, so that nothing but the schedule can be wrong (R404). -/
theorem battenLoad_checks (ht : k.tgt = 0xFF) (o : Nat) (b : Option (Nat × Nat)) :
    orElse (failIf (decide (k.tgt < s.gh.slices) && !(s.gh.hasPort k.tgt o)) (1, 0)) b = b := by
  have hall : ¬k.tgt < s.gh.slices := by
    rw [ht]
    cases s.gh <;> decide
  simp [failIf, orElse, hall]

theorem execBattenLoad_of_bad {w b : Nat} (hk : s.newCmd c 0x40 = some k) (ht : k.tgt = 0xFF) (hb : battenBad (k.ps.drop 1) = some (w, b)) :
    exec (.battenLoad c) s = .next (finish k stBadParam (badDetail w b) [] s) := by
  refine congrArg Host.Outcome.next ((runCmd_of_some hk rfl).trans ?_)
  simp only [battenLoad_checks ht, hb]

theorem execBattenLoad_of_held {h : GenHold} (hk : s.newCmd c 0x40 = some k) (ht : k.tgt = 0xFF) (hb : battenBad (k.ps.drop 1) = none)
    (hh : s.holdOf .batten = some h) : exec (.battenLoad c) s = .next (finish k stConflict (h.chg.tick / 1024 % 2 ^ 24) [] s) := by
  refine congrArg Host.Outcome.next ((runCmd_of_some hk rfl).trans ?_)
  simp only [battenLoad_checks ht, hb, hh]

theorem execBattenLoad_of_free (hk : s.newCmd c 0x40 = some k) (ht : k.tgt = 0xFF) (hb : battenBad (k.ps.drop 1) = none)
    (hh : s.holdOf .batten = none) : exec (.battenLoad c) s = .next (finish k stOk 0 [] (s.shadowed (battenTable (k.ps.drop 1)))) := by
  refine congrArg Host.Outcome.next ((runCmd_of_some hk rfl).trans ?_)
  simp only [battenLoad_checks ht, hb, hh, if_pos ht]
  rfl

/-! ### BATTEN_COMMIT -/

theorem execBattenCommit_of_off_grid (hk : s.newCmd c 0x41 = some k) (ht : (k.par 0).toNat % 1024 ≠ 0) :
    exec (.battenCommit c) s = .next (finish k stBadParam 0 [] s) :=
  congrArg Host.Outcome.next ((runCmd_of_some hk rfl).trans (if_pos ht))

theorem execBattenCommit_of_on_grid (hk : s.newCmd c 0x41 = some k) (ht : (k.par 0).toNat % 1024 = 0) : exec (.battenCommit c) s = .next (
    if (k.par 0).toNat < s.ptcNow + 20000 then finish k stConflict (s.ptcNow / 1024 % 2 ^ 24) [] s
    else if (s.holdOf .batten).isSome then finish k stBusy 1 [] s
    else genIssue { kind := .batten, issuer := s.inst, tick := (k.par 0).toNat, payload := .batten } ((k.par 0).toNat - 5000)
      { s.startCmd k id with pkg := { s.pkg with battenCmd := some k.id } }) :=
  congrArg Host.Outcome.next ((runCmd_of_some hk rfl).trans (if_neg fun hne => hne ht))

end

/-! ### The tick of a commit -/

theorem State.dueHold_isSome {s : State} {g : GenKind} {h : GenHold} (hm : h ∈ s.pkg.hold) (hk : h.chg.kind = g) (ha : h.armed = true)
    (ht : h.chg.tick ≤ s.ptcNow) : (s.dueHold g).isSome = true :=
  List.find?_isSome.mpr ⟨h, hm, by simp [State.isDue, hk, ha, ht]⟩

theorem execBattenSwitch_of_due {s : State} (h : (s.dueHold .batten).isSome = true) : exec .battenSwitch s = .next (applyBatten s) :=
  congrArg Host.Outcome.next (if_pos h)

theorem execBattenSwitch_of_none {s : State} (h : s.dueHold .batten = none) : exec .battenSwitch s = .next s :=
  congrArg Host.Outcome.next (if_neg (by simp [h]))

/-- A link whose shadow schedule has become active (R276). -/
def Ridge.switched (l : Ridge) : Ridge := { l with bat := l.batSh }

theorem switchBatten_frame (s : State) : ({ switchBatten s with rdg := s.rdg } : State) = { s with mesh := { s.mesh with bat := s.mesh.batSh } } :=
  State.each_modLink_frame (List.range s.gh.ridgePorts) (fun _ => Ridge.switched) { s with mesh := { s.mesh with bat := s.mesh.batSh } }

theorem switchBatten_link {s : State} {r : Nat} (hr : r < s.gh.ridgePorts) :
    (switchBatten s).link r = (s.link r).switched :=
  (State.link_each_modLink (f := Ridge.switched) (fun _ => rfl) (List.range s.gh.ridgePorts)
    { s with mesh := { s.mesh with bat := s.mesh.batSh } } r).trans (if_pos (List.mem_range.mpr hr))

/-- The state in which the commit that is due has been applied, before its command ends (R276). -/
def State.committed (s : State) : State :=
  let u := switchBatten ((s.dropDue .batten).bumpGen .batten)
  { u with pkg := { u.pkg with battenCmd := none, issue := u.pkg.issue.filter (fun (x : GenIss) => decide (x.chg.kind ≠ GenKind.batten)) } }

theorem applyBatten_eq (s : State) : applyBatten s = s.committed.endCmd s.pkg.battenCmd stOk 0 [] := by
  have hcmd : (switchBatten ((s.dropDue .batten).bumpGen .batten)).pkg.battenCmd = s.pkg.battenCmd :=
    have h := congrArg (fun u : State => u.pkg.battenCmd) (switchBatten_frame ((s.dropDue .batten).bumpGen .batten))
    h
  rw [← hcmd]
  rfl

theorem State.committed_bat (s : State) : s.committed.mesh.bat = s.mesh.batSh :=
  have h := congrArg (fun u : State => u.mesh.bat) (switchBatten_frame ((s.dropDue .batten).bumpGen .batten))
  h

theorem State.committed_link {s : State} {r : Nat} (hr : r < s.gh.ridgePorts) : (s.committed.link r).bat = (s.link r).batSh :=
  have h := congrArg Ridge.bat (switchBatten_link (s := (s.dropDue .batten).bumpGen .batten) hr)
  h

theorem State.committed_hold (s : State) : s.committed.pkg.hold =
    lremove (fun h => decide (h.chg.kind = .batten) && h.armed && decide (h.chg.tick ≤ s.ptcNow)) s.pkg.hold := by
  have hhold : s.committed.pkg.hold = (s.dropDue .batten).pkg.hold :=
    have h := congrArg (fun u : State => u.pkg.hold) (switchBatten_frame ((s.dropDue .batten).bumpGen .batten))
    h
  simp only [hhold, State.dropDue, State.isDue, Bool.and_assoc]

/-! ### The drain of the mesh -/

theorem execRouterDrain_of_busy {s : State} {c : Nat} {k : Kcp} (hk : s.newCmd c 0x42 = some k) (h : s.unquiesced ≠ 0 ∨ s.busyInside = true) :
    exec (.routerDrain c) s = .next (finish k stConflict (s.unquiesced % 256 + 256 * b2n s.busyInside) [] s) :=
  congrArg Host.Outcome.next ((runCmd_of_some hk rfl).trans (if_pos h))

theorem execRouterDrain_of_quiet {s : State} {c : Nat} {k : Kcp} (hk : s.newCmd c 0x42 = some k) (hu : s.unquiesced = 0)
    (hb : s.busyInside = false) : exec (.routerDrain c) s = .next { s.startCmd k id with mesh := { s.mesh with
      drained := true
      drainLeft := if s.mesh.drained then s.mesh.drainLeft else s.mesh.accepted
      drainCmds := s.mesh.drainCmds ++ [(k.id, s.now)] } } :=
  congrArg Host.Outcome.next ((runCmd_of_some hk rfl).trans (if_neg (by simp [hu, hb])))

/-- The buffers of the mesh are empty of all but MGT and ERR packets, and of what waits outside a drained router (R265, R283). -/
theorem MeshSt.emptied_iff (m : MeshSt) : m.emptied = true ↔
    (∀ x ∈ m.inBuf, x.2 = [] ∨ 5 ≤ x.1 % 7 ∨ (m.drained = true ∧ 4 ≤ x.1 / 7 % 9)) ∧
      (∀ x ∈ m.drainLeft, x.2 = 0) ∧ ∀ x ∈ m.eject, x.2 = [] ∨ 5 ≤ x.1 % 7 := by
  simp only [MeshSt.emptied, Bool.and_eq_true, Bool.or_eq_true, List.all_eq_true, List.isEmpty_iff, decide_eq_true_eq, beq_iff_eq, or_assoc,
    and_assoc]

/-! ### Probes -/

/-- What PROBE_SET makes of a probe: its words are new, what it has recorded stays (R284). -/
def Kcp.probeOf (k : Kcp) (p : Probe) : Probe := { w0 := k.par 0, w1 := k.par 1, w2 := k.par 2, buf := p.buf, ovf := p.ovf }

/-- The state when the probe of router `n` has been set. -/
def setProbe (k : Kcp) (s : State) (n : Nat) : State :=
  { s with mesh := { s.mesh with probes := tput n (k.probeOf (s.probe n)) s.mesh.probes } }

theorem setProbe_probe (k : Kcp) (s : State) (n j : Nat) :
    (setProbe k s n).probe j = if j = n then k.probeOf (s.probe j) else s.probe j := by
  refine (tget_tput _ _ _ _ _).trans ?_
  split
  next e => rw [e]
  next => rfl

theorem State.probe_each_setProbe (k : Kcp) (l : List Nat) (s : State) (n : Nat) :
    (s.each l (setProbe k)).probe n = if n ∈ l then k.probeOf (s.probe n) else s.probe n :=
  (get_foldl_of_idempotent (key := id) (f := k.probeOf) (fun _ => rfl) (setProbe_probe k) l s n).trans (by rw [List.map_id])

theorem State.each_setProbe_frame (k : Kcp) (l : List Nat) (s : State) :
    ({ s.each l (setProbe k) with mesh := { (s.each l (setProbe k)).mesh with probes := s.mesh.probes } } : State) = s :=
  State.each_induction (fun t => ({ t with mesh := { t.mesh with probes := s.mesh.probes } } : State) = s) l (setProbe k) (fun _ _ h => h) s rfl

theorem execProbeSet_of_reserved {s : State} {c : Nat} {k : Kcp} (hk : s.newCmd c 0x43 = some k) (h : fld (k.par 0) 0 2 = 3) :
    exec (.probeSet c) s = .next (finish k stBadParam (badDetail 1 0) [] s) :=
  congrArg Host.Outcome.next ((runCmd_of_some hk rfl).trans (if_pos h))

theorem execProbeSet_of_mode {s : State} {c : Nat} {k : Kcp} (hk : s.newCmd c 0x43 = some k) (h : fld (k.par 0) 0 2 ≠ 3) :
    exec (.probeSet c) s = .next (finish k stOk 0 [] (s.each (targetSlices k s) (setProbe k))) :=
  congrArg Host.Outcome.next ((runCmd_of_some hk rfl).trans (if_neg h))

/-! ### Trace records at the hub -/

/-- The state in which the oldest MGT packet of router `n` has been taken off the port of the hub. -/
def State.recordTaken (s : State) (n : Nat) : State :=
  { s with mesh := { s.mesh with
      eject := tput (bufKey 0 portHub .mgt) (lremove (fun p => p.snode == n) (s.arrived 0 portHub .mgt)) s.mesh.eject } }

theorem State.recordTaken_arrived (s : State) (n : Nat) :
    (s.recordTaken n).arrived 0 portHub .mgt = lremove (fun p => p.snode == n) (s.arrived 0 portHub .mgt) :=
  tget_tput_self _ _ _ _

theorem execLoftRecord_of_trace {s : State} {n : Nat} {p : Pkt} {w0 w1 w2 : W64}
    (hp : (s.arrived 0 portHub .mgt).find? (fun p => p.snode == n) = some p) (hm : p.msg = .hub (.trace w0 w1 w2)) : exec (.loftRecord n) s = .next (
      if s.hub.fits .loft 3 then { s.recordTaken n with hub := s.hub.writePacket .loft 0 false [w0, w1, w2] }
      else { s.recordTaken n with err := { s.err with loftDrop := satAdd s.err.loftDrop 1 } }) := by
  change execLoftRecord n s = _
  cases p
  subst hm
  simp only [execLoftRecord, hp]
  rfl

/-! ### The obligation -/

/-- Settles O36: the load and the commit of a schedule, its tick, the drain from command to reply, and the probes and their records. -/
theorem battenSchedulesAndProbes : Obligations.BattenSchedulesAndProbes := by
  unfold Obligations.BattenSchedulesAndProbes
  refine fun s c k => ⟨fun hk ht hb hh => ?load, fun h hk ht hb => execBattenLoad_of_held hk ht hb, fun w b hk ht => execBattenLoad_of_bad hk ht,
    fun hk => ?commit, fun h hm hkind harm htick => ?switch, fun h => ?noSwitch, execRouterDrain_of_busy,
    fun hk hu hb => ⟨_, execRouterDrain_of_quiet hk hu hb, rfl, rfl⟩, ?empty, execProbeSet_of_reserved, fun hk hmode => ?probes,
    fun n p w0 w1 w2 hp hm => ?record⟩
  case load =>
    have hframe := s.shadowed_frame (battenTable (k.ps.drop 1))
    have hbat := congrArg (fun u : State => u.mesh.bat) hframe
    have hslices := congrArg State.slices hframe
    have hhub := congrArg State.hub hframe
    exact ⟨_, execBattenLoad_of_free hk ht hb hh, hbat, hslices, hhub, fun x hx => State.shadowed_output hx _,
      fun r hr => State.shadowed_link hr _⟩
  case commit =>
    refine ⟨execBattenCommit_of_off_grid hk, fun ht he => ?_, fun ht hl hh => ?_, fun ht hl hh => ?_⟩
    · rw [execBattenCommit_of_on_grid hk ht, if_pos he]
    · rw [execBattenCommit_of_on_grid hk ht, if_neg (Nat.not_lt.mpr hl), if_pos (Option.isSome_iff_ne_none.mpr hh)]
    · rw [execBattenCommit_of_on_grid hk ht, if_neg (Nat.not_lt.mpr hl), if_neg (by simp [hh])]
      exact ⟨_, rfl, rfl⟩
  case switch =>
    exact ⟨s.committed, (execBattenSwitch_of_due (State.dueHold_isSome hm hkind harm htick)).trans (congrArg _ (applyBatten_eq s)),
      s.committed_bat, fun r hr => State.committed_link hr, s.committed_hold⟩
  case noSwitch =>
    refine execBattenSwitch_of_none (State.dueHold_eq_none fun x hx hkind => ?_)
    cases harm : x.armed with
    | false => exact .inl rfl
    | true => exact .inr (h x hx hkind harm)
  case empty =>
    intro empty
    exact ⟨fun h => congrArg Host.Outcome.next (if_neg (mt s.mesh.emptied_iff.mp h)),
      fun h => congrArg Host.Outcome.next (if_pos (s.mesh.emptied_iff.mpr h))⟩
  case probes =>
    exact ⟨_, execProbeSet_of_mode hk hmode, s.each_setProbe_frame k _, s.probe_each_setProbe k _⟩
  case record =>
    refine ⟨s.recordTaken n, s.recordTaken_arrived n, rfl, fun hf => ?_, fun hf => ?_⟩
    · rw [execLoftRecord_of_trace hp hm, if_pos hf]
      rfl
    · rw [execLoftRecord_of_trace hp hm, if_neg (by simp [hf])]
      rfl

end Sys2Proof.Machine
end


section
/-! Words laid out in fields: a field of `pack` reads back; flits and line packets (R297 to R299). -/

namespace Sys2Proof.Machine

/-! ### Fields of a word -/

/-- A field of a layout: its lowest bit, its width, its value. -/
structure WordField where
  lo : Nat
  width : Nat
  val : Nat

/-- The word of a layout is the `pack` of its places and values. -/
def packFields (w : Nat) (l : List WordField) : BitVec w := pack w (l.map (fun x => (x.lo, x.val)))

/-- The fields of a layout rise without overlap, and each value fits its width. -/
structure LaidOut (l : List WordField) : Prop where
  apart : l.Pairwise (fun x y => x.lo + x.width ≤ y.lo)
  fits : ∀ x ∈ l, x.val < 2 ^ x.width

/-- The number that the fields of a layout spell. -/
def fieldSum (l : List WordField) : Nat := (l.map (fun x => x.val <<< x.lo)).sum

theorem packFields_eq (w : Nat) (l : List WordField) : packFields w l = BitVec.ofNat w (fieldSum l) := by
  simp only [packFields, pack, fieldSum, lsum, List.map_map, List.sum_eq_foldl]
  rfl

theorem pow_dvd_fieldSum {b : Nat} : ∀ {l : List WordField}, (∀ x ∈ l, b ≤ x.lo) → 2 ^ b ∣ fieldSum l
  | [], _ => dvd_zero _
  | x :: l, h => by
    have hl := pow_dvd_fieldSum (l := l) fun y hy => h y (List.mem_cons_of_mem _ hy)
    have hx : 2 ^ b ∣ x.val <<< x.lo := by
      rw [Nat.shiftLeft_eq]
      exact (pow_dvd_pow 2 (h x List.mem_cons_self)).mul_left _
    simpa [fieldSum] using dvd_add hx hl

theorem fieldSum_cons_div (x : WordField) {l : List WordField} {m : Nat} (hx : x.val < 2 ^ x.width) (hl : 2 ^ (x.lo + x.width) ∣ fieldSum l)
    (hm : x.lo + x.width ≤ m) : fieldSum (x :: l) / 2 ^ m = fieldSum l / 2 ^ m := by
  obtain ⟨k, hk⟩ := hl
  have hlow : x.val <<< x.lo < 2 ^ (x.lo + x.width) := by
    rw [Nat.shiftLeft_eq, pow_add, mul_comm]
    exact Nat.mul_lt_mul_of_pos_left hx (by positivity)
  have hsum : fieldSum (x :: l) = x.val <<< x.lo + 2 ^ (x.lo + x.width) * k := by rw [← hk]; rfl
  obtain ⟨d, rfl⟩ := Nat.exists_eq_add_of_le hm
  rw [pow_add, ← Nat.div_div_eq_div_mul, ← Nat.div_div_eq_div_mul, hsum, hk, Nat.add_mul_div_left _ _ (by positivity),
    Nat.div_eq_of_lt hlow, Nat.mul_div_cancel_left _ (by positivity), zero_add]

theorem fieldSum_field : ∀ {l : List WordField} {x : WordField}, LaidOut l → x ∈ l → fieldSum l / 2 ^ x.lo % 2 ^ x.width = x.val
  | y :: l, x, h, hx => by
    obtain ⟨hy, hl⟩ := List.pairwise_cons.mp h.apart
    have hdvd := pow_dvd_fieldSum hy
    rcases List.mem_cons.mp hx with rfl | hx
    · obtain ⟨k, hk⟩ := hdvd
      have hsum : fieldSum (x :: l) = 2 ^ x.lo * (x.val + 2 ^ x.width * k) := by
        change x.val <<< x.lo + fieldSum l = _
        rw [hk, Nat.shiftLeft_eq, pow_add]
        ring
      rw [hsum, Nat.mul_div_cancel_left _ (by positivity), Nat.add_mul_mod_self_left, Nat.mod_eq_of_lt (h.fits x hx)]
    · rw [fieldSum_cons_div y (h.fits y List.mem_cons_self) hdvd (hy x hx)]
      exact fieldSum_field ⟨hl, fun z hz => h.fits z (List.mem_cons_of_mem _ hz)⟩ hx

/-- A field of a layout reads back. -/
theorem fld_packFields {w : Nat} {l : List WordField} {x : WordField} (h : LaidOut l) (hx : x ∈ l) (hw : x.lo + x.width ≤ w) :
    fld (packFields w l) x.lo x.width = x.val := by
  obtain ⟨d, rfl⟩ := Nat.exists_eq_add_of_le hw
  rw [packFields_eq, fld, BitVec.toNat_ofNat, Nat.shiftRight_eq_div_pow, add_assoc, pow_add, Nat.mod_mul_right_div_self, pow_add,
    Nat.mod_mul_right_mod, fieldSum_field h hx]

theorem extract_eq_iff_fld {w n : Nat} (v : BitVec w) (lo : Nat) (x : BitVec n) : v.extractLsb' lo n = x ↔ fld v lo n = x.toNat := by
  rw [← BitVec.toNat_inj, BitVec.extractLsb'_toNat]
  rfl

theorem getLsbD_of_fld {w : Nat} {v : BitVec w} {i : Nat} {b : Bool} (h : fld v i 1 = b2n b) : v.getLsbD i = b := by
  rw [BitVec.getLsbD, Nat.testBit, Nat.and_comm, Nat.and_one_is_mod, show (v.toNat >>> i) % 2 = b2n b from h]
  cases b <;> rfl

/-- The places of a list that is laid out at equal steps rise. -/
theorem pairwise_zipIdx_snd {α : Type} (l : List α) : l.zipIdx.Pairwise (fun x y => x.2 < y.2) :=
  List.pairwise_iff_getElem.mpr fun i j hi hj hij => by simpa using hij

/-- The fields of a layout that repeats one field, from `lo` on at steps of `step`. -/
def repeated {α : Type} (lo step width : Nat) (val : α → Nat) (l : List α) : List WordField :=
  l.zipIdx.map (fun x => ⟨lo + step * x.2, width, val x.1⟩)

theorem mem_repeated {α : Type} {lo step width : Nat} {val : α → Nat} {l : List α} {x : WordField} :
    x ∈ repeated lo step width val l ↔ ∃ i, ∃ h : i < l.length, x = ⟨lo + step * i, width, val l[i]⟩ := by
  simp only [repeated, List.mem_map, Prod.exists, List.mem_zipIdx_iff_getElem?, List.getElem?_eq_some_iff]
  exact ⟨fun ⟨a, i, ⟨h, ha⟩, e⟩ => ⟨i, h, by rw [← e, ha]⟩, fun ⟨i, h, e⟩ => ⟨_, i, ⟨h, rfl⟩, e.symm⟩⟩

theorem repeated_laidOut {α : Type} {lo step width : Nat} {val : α → Nat} (l : List α) (h : width ≤ step) (hv : ∀ a, val a < 2 ^ width) :
    LaidOut (repeated lo step width val l) where
  apart := List.pairwise_map.mpr ((pairwise_zipIdx_snd l).imp fun {x y} hxy => by
    have hstep := Nat.mul_le_mul_left step (Nat.succ_le_of_lt hxy)
    rw [Nat.mul_succ] at hstep
    simp only
    omega)
  fits x hx := by
    obtain ⟨i, _, rfl⟩ := mem_repeated.mp hx
    exact hv _

theorem le_of_mem_repeated {α : Type} {lo step width : Nat} {val : α → Nat} {l : List α} {x : WordField} (h : x ∈ repeated lo step width val l) :
    lo ≤ x.lo := by
  obtain ⟨i, _, rfl⟩ := mem_repeated.mp h
  exact Nat.le_add_right _ _

theorem end_le_of_mem_repeated {α : Type} {lo step width : Nat} {val : α → Nat} {l : List α} {x : WordField} (hs : width ≤ step)
    (h : x ∈ repeated lo step width val l) : x.lo + x.width ≤ lo + step * l.length := by
  obtain ⟨i, hi, rfl⟩ := mem_repeated.mp h
  have hstep := Nat.mul_le_mul_left step (Nat.succ_le_of_lt hi)
  rw [Nat.mul_succ] at hstep
  simp only
  omega

/-- Two layouts, the first below a place and the second from there on. -/
theorem LaidOut.append {l m : List WordField} (hl : LaidOut l) (hm : LaidOut m) {b : Nat} (hb : ∀ x ∈ l, x.lo + x.width ≤ b) (hb' : ∀ y ∈ m, b ≤ y.lo) :
    LaidOut (l ++ m) where
  apart := List.pairwise_append.mpr ⟨hl.apart, hm.apart, fun x hx y hy => (hb x hx).trans (hb' y hy)⟩
  fits x hx := (List.mem_append.mp hx).elim (hl.fits x) (hm.fits x)

/-- A head of single fields below `lo`, one repeated field, and another. -/
theorem LaidOut.append_repeated {α β : Type} {head : List WordField} {lo step lo' step' : Nat} {val : α → Nat} {val' : β → Nat} {l : List α} {m : List β}
    (hh : LaidOut head) (hlo : ∀ x ∈ head, x.lo + x.width ≤ lo) (hlo' : lo + step * l.length ≤ lo')
    (hv : ∀ a, val a < 2 ^ step) (hv' : ∀ a, val' a < 2 ^ step') :
    LaidOut (head ++ repeated lo step step val l ++ repeated lo' step' step' val' m) := by
  refine (hh.append (repeated_laidOut l le_rfl hv) hlo fun y => le_of_mem_repeated).append (repeated_laidOut m le_rfl hv') (fun x hx => ?_)
    fun y => le_of_mem_repeated
  rcases List.mem_append.mp hx with hx | hx
  · have := hlo x hx
    omega
  · exact (end_le_of_mem_repeated le_rfl hx).trans hlo'

/-! ### Flits -/

/-- The single fields of a flit, below its descriptors (R297). -/
def Flit.head (f : Flit) : List WordField :=
  [⟨0, 2, f.ftype.toNat⟩, ⟨2, 1, b2n f.gstart⟩, ⟨3, 1, b2n f.ackv⟩, ⟨4, 10, f.seq.toNat⟩, ⟨14, 10, f.ackseq.toNat⟩, ⟨24, 16, f.half.toNat⟩]

/-- The layout of a flit below its CRC (R297). -/
def Flit.fields (f : Flit) : List WordField :=
  f.head ++ repeated 40 8 8 BitVec.toNat f.desc ++ repeated 96 128 128 BitVec.toNat f.slots

theorem b2n_lt (b : Bool) : b2n b < 2 ^ 1 := by cases b <;> decide

theorem Flit.body_eq (f : Flit) : f.body = packFields 992 f.fields := by
  simp [Flit.body, packFields, Flit.fields, Flit.head, repeated, Function.comp_def]

theorem Flit.laidOut {f : Flit} (hd : f.desc.length = 7) : LaidOut f.fields :=
  have fits : ∀ x ∈ f.head, x.val < 2 ^ x.width := fun x hx => by
    fin_cases hx
    exacts [f.ftype.isLt, b2n_lt _, b2n_lt _, f.seq.isLt, f.ackseq.isLt, f.half.isLt]
  LaidOut.append_repeated ⟨by simp [head], fits⟩ (by simp [head]) (by omega) BitVec.isLt BitVec.isLt

theorem Flit.extract_bits (f : Flit) {lo n : Nat} (h : lo + n ≤ 992) : f.bits.extractLsb' lo n = f.body.extractLsb' lo n := by
  rw [Flit.bits]
  exact BitVec.extractLsb'_append_eq_of_add_le h

/-- A field of a flit reads back from its 1,024 bits. -/
theorem Flit.extract_field {f : Flit} (hd : f.desc.length = 7) {lo n : Nat} {x : BitVec n} (hx : ⟨lo, n, x.toNat⟩ ∈ f.fields)
    (h : lo + n ≤ 992) : f.bits.extractLsb' lo n = x := by
  rw [f.extract_bits h, f.body_eq, extract_eq_iff_fld]
  exact fld_packFields (Flit.laidOut hd) hx h

theorem Flit.getLsbD_field {f : Flit} (hd : f.desc.length = 7) {i : Nat} {b : Bool} (hx : ⟨i, 1, b2n b⟩ ∈ f.fields)
    (h : i < 992) : f.bits.getLsbD i = b := by
  have hbit : f.bits.getLsbD i = f.body.getLsbD i := by
    rw [Flit.bits, BitVec.getLsbD_append, if_pos h]
  rw [hbit, f.body_eq]
  exact getLsbD_of_fld (fld_packFields (Flit.laidOut hd) hx h)

/-- A repeated field of a list whose length is `n`, read at each of its places, is the list. -/
theorem map_range_eq {α : Type} {n : Nat} {l : List α} (hl : l.length = n) {g : Nat → α} (h : ∀ i, ∀ hi : i < l.length, g i = l[i]) :
    (List.range n).map g = l :=
  List.ext_getElem (by simp [hl]) fun i h1 h2 => by simp [h i h2]

theorem Flit.mem_fields_of_head {f : Flit} {x : WordField} (h : x ∈ f.head) : x ∈ f.fields := List.mem_append_left _ (List.mem_append_left _ h)

theorem decodeFlit_bits {f : Flit} (hd : f.desc.length = 7) (hs : f.slots.length = 7) : decodeFlit f.bits = f := by
  have desc : (List.range 7).map (fun i => f.bits.extractLsb' (40 + 8 * i) 8) = f.desc :=
    map_range_eq hd fun i hi => Flit.extract_field hd
      (List.mem_append_left _ (List.mem_append_right _ (mem_repeated.mpr ⟨i, hi, rfl⟩))) (by omega)
  have slots : (List.range 7).map (fun i => f.bits.extractLsb' (96 + 128 * i) 128) = f.slots :=
    map_range_eq hs fun i hi => Flit.extract_field hd (List.mem_append_right _ (mem_repeated.mpr ⟨i, hi, rfl⟩)) (by omega)
  have mem_head {x : WordField} := Flit.mem_fields_of_head (f := f) (x := x)
  rw [decodeFlit, desc, slots, Flit.extract_field hd (x := f.ftype) (mem_head (by simp [Flit.head])) (by decide),
    Flit.extract_field hd (x := f.seq) (mem_head (by simp [Flit.head])) (by decide),
    Flit.extract_field hd (x := f.ackseq) (mem_head (by simp [Flit.head])) (by decide),
    Flit.extract_field hd (x := f.half) (mem_head (by simp [Flit.head])) (by decide),
    Flit.getLsbD_field hd (b := f.gstart) (mem_head (by simp [Flit.head])) (by decide),
    Flit.getLsbD_field hd (b := f.ackv) (mem_head (by simp [Flit.head])) (by decide)]

theorem Flit.extract_body (f : Flit) : f.bits.extractLsb' 0 992 = f.body := by
  rw [f.extract_bits le_rfl, BitVec.extractLsb'_eq_self]

theorem Flit.extract_crc (f : Flit) : f.bits.extractLsb' 992 32 = flitCrc f.body := by
  rw [Flit.bits, BitVec.extractLsb'_append_eq_of_le le_rfl]
  exact BitVec.extractLsb'_eq_self

/-! ### Line packets -/

/-- What the head of a line packet says of one chunk: its index, LAST and POISON (R299). -/
def LineChunk.mark (c : LineChunk) : Nat := c.cidx.toNat + 4 * b2n c.last + 8 * b2n c.poison

theorem LineChunk.mark_fields (c : LineChunk) :
    c.mark < 16 ∧ c.mark % 4 = c.cidx.toNat ∧ c.mark / 4 % 2 = b2n c.last ∧ c.mark / 8 % 2 = b2n c.poison := by
  have hi := c.cidx.isLt
  have hl := b2n_lt c.last
  have hp := b2n_lt c.poison
  unfold mark
  omega

/-- The single fields of the head of a line packet with `n` chunks (R299). -/
def lineHeadIds (kind : BitVec 2) (aid : Aid) (txid : BitVec 12) (htid : BitVec 20) (n : Nat) : List WordField :=
  [⟨0, 2, kind.toNat⟩, ⟨2, 11, aid.toNat⟩, ⟨13, 12, txid.toNat⟩, ⟨25, 20, htid.toNat⟩, ⟨45, 3, n⟩]

/-- The layout of the head of a line packet (R299). -/
def lineHeadFields (kind : BitVec 2) (aid : Aid) (txid : BitVec 12) (htid : BitVec 20) (cs : List LineChunk) : List WordField :=
  lineHeadIds kind aid txid htid cs.length ++ repeated 48 4 4 LineChunk.mark cs ++ repeated 64 16 16 (fun c => c.be.toNat) cs

section
variable (kind : BitVec 2) (aid : Aid) (txid : BitVec 12) (htid : BitVec 20) {cs : List LineChunk}

theorem encodeLineHead_eq : encodeLineHead kind aid txid htid cs = packFields 128 (lineHeadFields kind aid txid htid cs) := by
  simp [encodeLineHead, packFields, lineHeadFields, lineHeadIds, repeated, Function.comp_def, LineChunk.mark]

theorem lineHead_laidOut (h : cs.length ≤ 4) : LaidOut (lineHeadFields kind aid txid htid cs) :=
  have fits : ∀ x ∈ lineHeadIds kind aid txid htid cs.length, x.val < 2 ^ x.width := fun x hx => by
    fin_cases hx
    exacts [kind.isLt, aid.isLt, txid.isLt, htid.isLt, by simp only; omega]
  LaidOut.append_repeated ⟨by simp [lineHeadIds], fits⟩ (by simp [lineHeadIds]) (by omega) (fun c => c.mark_fields.1) fun c => c.be.isLt

theorem fld_lineHead (h : cs.length ≤ 4) {lo n v : Nat} (hx : ⟨lo, n, v⟩ ∈ lineHeadFields kind aid txid htid cs) (hw : lo + n ≤ 128) :
    fld (encodeLineHead kind aid txid htid cs) lo n = v := by
  rw [encodeLineHead_eq]
  exact fld_packFields (lineHead_laidOut kind aid txid htid h) hx hw

/-- A field within a field. -/
theorem fld_of_fld {w : Nat} {v : BitVec w} {lo n x : Nat} (h : fld v lo n = x) {i k : Nat} (hk : i + k ≤ n) :
    fld v (lo + i) k = x / 2 ^ i % 2 ^ k := by
  obtain ⟨d, rfl⟩ := Nat.exists_eq_add_of_le hk
  rw [← h, fld, fld, Nat.shiftRight_add, Nat.shiftRight_eq_div_pow _ i, add_assoc, pow_add, Nat.mod_mul_right_div_self, pow_add,
    Nat.mod_mul_right_mod]

theorem extract_lineHead (h : cs.length ≤ 4) {lo n : Nat} {x : BitVec n} (hx : ⟨lo, n, x.toNat⟩ ∈ lineHeadFields kind aid txid htid cs)
    (hw : lo + n ≤ 128) : (encodeLineHead kind aid txid htid cs).extractLsb' lo n = x :=
  (extract_eq_iff_fld _ _ _).mpr (fld_lineHead kind aid txid htid h hx hw)

theorem lineHead_ids (h : cs.length ≤ 4) :
    let v := encodeLineHead kind aid txid htid cs
    v.extractLsb' 0 2 = kind ∧ v.extractLsb' 2 11 = aid ∧ v.extractLsb' 13 12 = txid ∧ v.extractLsb' 25 20 = htid ∧ lineChunks v = cs.length := by
  have mem {x : WordField} (hx : x ∈ lineHeadIds kind aid txid htid cs.length) : x ∈ lineHeadFields kind aid txid htid cs :=
    List.mem_append_left _ (List.mem_append_left _ hx)
  have field {lo n : Nat} {x : BitVec n} := extract_lineHead kind aid txid htid h (lo := lo) (x := x)
  exact ⟨field (mem (by simp [lineHeadIds])) (by decide), field (mem (by simp [lineHeadIds])) (by decide),
    field (mem (by simp [lineHeadIds])) (by decide), field (mem (by simp [lineHeadIds])) (by decide),
    fld_lineHead kind aid txid htid h (mem (by simp [lineHeadIds])) (by decide)⟩

/-- The part of the head for chunk `i` reads back. -/
theorem lineHead_chunk (h : cs.length ≤ 4) {i : Nat} (hi : i < cs.length) :
    let v := encodeLineHead kind aid txid htid cs
    v.extractLsb' (48 + 4 * i) 2 = cs[i].cidx ∧ v.getLsbD (50 + 4 * i) = cs[i].last ∧ v.getLsbD (51 + 4 * i) = cs[i].poison ∧
      v.extractLsb' (64 + 16 * i) 16 = cs[i].be := by
  intro v
  obtain ⟨_, hidx, hlast, hpoison⟩ := cs[i].mark_fields
  have mark : fld v (48 + 4 * i) 4 = cs[i].mark :=
    fld_lineHead kind aid txid htid h (List.mem_append_left _ (List.mem_append_right _ (mem_repeated.mpr ⟨i, hi, rfl⟩))) (by omega)
  refine ⟨(extract_eq_iff_fld _ _ _).mpr ?_, getLsbD_of_fld ?_, getLsbD_of_fld ?_, ?_⟩
  · rw [show 48 + 4 * i = 48 + 4 * i + 0 from rfl, fld_of_fld mark (by decide), pow_zero, Nat.div_one]
    exact hidx
  · rw [show 50 + 4 * i = 48 + 4 * i + 2 by omega, fld_of_fld mark (by decide)]
    exact hlast
  · rw [show 51 + 4 * i = 48 + 4 * i + 3 by omega, fld_of_fld mark (by decide)]
    exact hpoison
  · exact extract_lineHead kind aid txid htid h (List.mem_append_right _ (mem_repeated.mpr ⟨i, hi, rfl⟩)) (by omega)

theorem decodeLine_lineSlots (h : cs.length ≤ 4) :
    decodeLine (lineSlots kind aid txid htid cs) = cs.map (fun c => .dat kind aid txid htid c.cidx c.last c.poison c.be c.d) := by
  obtain ⟨hkind, haid, htxid, hhtid, hchunks⟩ := lineHead_ids kind aid txid htid h
  refine List.ext_getElem (by simp [decodeLine, lineSlots, hchunks]) fun i h1 h2 => ?_
  obtain ⟨hidx, hlast, hpoison, hbe⟩ := lineHead_chunk kind aid txid htid h (i := i) (by simpa using h2)
  simp only [decodeLine, lineSlots, List.getElem_map, List.getElem_zipIdx, List.getElem_take, Nat.zero_add, hkind, haid, htxid, hhtid, hidx, hlast,
    hpoison, hbe]

end

/-! ### The obligation -/

/-- Settles O58: every field of a flit and of a line packet is a field of one layout, and a field of a layout reads back. -/
theorem flitsRoundTrip : Obligations.FlitsRoundTrip := by
  unfold Obligations.FlitsRoundTrip
  refine ⟨fun f hd hs => ⟨decodeFlit_bits hd hs, ?_, f.extract_body⟩,
    fun kind aid txid htid cs h => ⟨?_, decodeLine_lineSlots kind aid txid htid h⟩⟩
  · rw [f.extract_body, f.extract_crc]
  · obtain ⟨_, _, _, _, hchunks⟩ := lineHead_ids kind aid txid htid h
    exact hchunks

end Sys2Proof.Machine
end


section
/-! A tick of package time: what a step on an empty queue counts, and what it leaves (R20, R317, R321, R412, R483). -/

namespace Sys2Proof.Machine

/-! ### What units count -/

/-- What every turn leaves, all turns leave. -/
theorem State.each_leaves {α : Type} {part : State → α} {f : State → Nat → State} (h : ∀ t k, part (f t k) = part t) (l : List Nat) (s : State) :
    part (s.each l f) = part s :=
  State.each_induction (fun t => part t = part s) l f (fun t k e => (h t k).trans e) s rfl

theorem tickSlice_only (n : Nat) (s : State) (k : Nat) : ∃ x, tickSlice n s k = { s with slices := x } := by
  unfold tickSlice
  dsimp only
  split_ifs <;> exact ⟨_, rfl⟩

theorem tickPort_only (n : Nat) (s : State) (p : Nat) : ∃ x, tickPort n s p = { s with cas := x } := by
  by_cases h : ((s.ca p).perf.isEmpty || decide ((s.ca p).st = .isolated)) = true
  · exact ⟨_, if_pos h⟩
  · exact ⟨_, if_neg h⟩

theorem tickRidge_only (n : Nat) (s : State) (r : Nat) : ∃ x, tickRidge n s r = { s with rdg := x } := by
  by_cases h : (s.link r).perf.isEmpty = true
  · exact ⟨_, if_pos h⟩
  · exact ⟨_, if_neg h⟩

/-- A state with the slices, the CA ports and the links of another. -/
def State.withUnitsOf (s t : State) : State := { t with slices := s.slices, cas := s.cas, rdg := s.rdg }

/-- What slices, CA ports and ridge units count over `n` cycles. -/
def State.unitsCounted (s : State) (n : Nat) : State :=
  let a := s.each (List.range s.gh.slices) (tickSlice n)
  let b := a.each (List.range a.gh.caPorts) (tickPort n)
  b.each (List.range b.gh.ridgePorts) (tickRidge n)

theorem State.unitsCounted_frame (s : State) (n : Nat) : s.withUnitsOf (s.unitsCounted n) = s := by
  have slices (t : State) (k : Nat) : s.withUnitsOf (tickSlice n t k) = s.withUnitsOf t := by
    obtain ⟨x, h⟩ := tickSlice_only n t k
    rw [h]
    rfl
  have cas (t : State) (p : Nat) : s.withUnitsOf (tickPort n t p) = s.withUnitsOf t := by
    obtain ⟨x, h⟩ := tickPort_only n t p
    rw [h]
    rfl
  have rdg (t : State) (r : Nat) : s.withUnitsOf (tickRidge n t r) = s.withUnitsOf t := by
    obtain ⟨x, h⟩ := tickRidge_only n t r
    rw [h]
    rfl
  exact ((State.each_leaves rdg _ _).trans (State.each_leaves cas _ _)).trans (State.each_leaves slices _ _)

/-! ### The tick -/

/-- The state when the clocks have gone on by one tick (R317, R321, R412, R483). -/
def State.clocked (s : State) : State :=
  let t : State := { s with time := s.time.advance s.cyclesNext.1 s.cyclesNext.2 }
  { t with prot := { t.prot with ucAct := t.loadsFrom } }

theorem step_of_reset {s : State} (hp : s.pending = []) (h : s.rst.inReset = true) : step s = .next s := by
  simp [step, hp, tick, h]

theorem step_of_tick {s : State} (hp : s.pending = []) (h : s.rst.inReset = false) :
    step s = .next (drainBacklog (startJoins (driveGate (returnMarks (s.clocked.unitsCounted s.cyclesNext.1))))) := by
  have hstep : step s = .next (tick s) := by rw [step, hp]
  rw [hstep, tick, if_neg (by simp [h])]
  rfl

theorem State.mhz_bounds (s : State) : 800 ≤ s.mhz ∧ s.mhz ≤ 2400 := by
  unfold State.mhz
  omega

theorem State.cyclesNext_eq (s : State) : s.cyclesNext =
    (if s.rst.clkmode = 2 then 2 else (s.time.frac + s.mhz) / 1000, if s.rst.clkmode = 2 then 0 else (s.time.frac + s.mhz) % 1000) := by
  unfold State.cyclesNext
  split_ifs <;> rfl

theorem State.clocked_ucAct_none {s : State} (h : s.prot.ucAct = none) : s.clocked.prot.ucAct = none :=
  congrArg (Option.map _) h

theorem State.clocked_ucAct_some {s : State} {c j t : Nat} (h : s.prot.ucAct = some (c, j, t)) :
    s.clocked.prot.ucAct = some (c, j, if (s.slice j).threadsIdle then t else s.clocked.time.cycles) :=
  congrArg (Option.map _) h

/-! ### The obligation -/

/-- Settles O4: the clocks go on, the units count, and the hub starts what is due. -/
theorem emptyQueueTicks : Obligations.EmptyQueueTicks := by
  unfold Obligations.EmptyQueueTicks
  refine fun s hp => ⟨step_of_reset hp, fun hr => ?_⟩
  have hframe := s.clocked.unitsCounted_frame s.cyclesNext.1
  have hstep := step_of_tick hp hr
  generalize s.clocked.unitsCounted s.cyclesNext.1 = u at hframe hstep
  have htime := congrArg State.time hframe
  have hprot := congrArg State.prot hframe
  refine ⟨u, s.mhz, s.mhz_bounds.1, s.mhz_bounds.2, hstep, htime.trans ?_, fun h => ?_, fun c j t h => ?_, ?_⟩
  · rw [State.clocked, State.cyclesNext_eq]
    rfl
  · exact (congrArg ProtSt.ucAct hprot).trans (State.clocked_ucAct_none h)
  · exact ((congrArg ProtSt.ucAct hprot).trans (State.clocked_ucAct_some h)).trans (by rw [show u.time = s.clocked.time from htime])
  · have h := congrArg (fun u : State => ({ u with
      time := s.time, prot := { u.prot with ucAct := s.prot.ucAct }, slices := s.slices, cas := s.cas, rdg := s.rdg } : State)) hframe
    exact h

end Sys2Proof.Machine
end


section
/-! The end of a command: its reply packet, the wait for room, and the reply that goes back to another instance (R289, R359, R366, R367,
R370, R371, R377, R385). -/

namespace Sys2Proof.Machine

/-! ### A packet written into a queue -/

/-- The packet that writing words makes of the cells it takes (R365, R366). -/
def HubSt.packetOf (h : HubSt) (prio : Nat) (grey : Bool) (ws : List W64) : QPkt :=
  { prio := prio, arr := h.arr, cells := (h.writeWords ws).1, grey := grey }

theorem HubSt.writePacket_waiting {h : HubSt} {q : QCode} {ws : List W64} (hr : h.rebuild = none)
    (hq : (isReplyQueue q && (!(h.fits q ws.length) || h.awaits q)) = false) (prio : Nat) (grey : Bool) :
    ((h.writePacket q prio grey ws).queue q).waiting = (h.queue q).waiting ++ [h.packetOf prio grey ws] := by
  have harr : (h.writeWords ws).2.arr = h.arr := by rw [HubSt.writeWords_frame]
  have hqueue : (h.writeWords ws).2.queue q = h.queue q := by rw [HubSt.writeWords_frame, HubSt.queue_cells]
  simp only [HubSt.writePacket, hr, hq, HubSt.enqueue, Option.isSome_none, Bool.or_false, Bool.false_eq_true, if_false, HubSt.queue_arr,
    HubSt.queue_setQueue, if_true, hqueue, harr]
  rfl

/-- With room, a packet is the youngest of its queue; the rest of that queue, the other queues and the windows stay (R374). -/
theorem HubSt.writePacket_changes {h : HubSt} {q : QCode} {ws : List W64} (hr : h.rebuild = none)
    (hq : (isReplyQueue q && (!(h.fits q ws.length) || h.awaits q)) = false) (prio : Nat) (grey : Bool) :
    (h.writePacket q prio grey ws).inProg = h.inProg ∧ ((h.writePacket q prio grey ws).queue q).begun = (h.queue q).begun ∧
      (∀ p, p ≠ q → (h.writePacket q prio grey ws).queue p = h.queue p) ∧ (h.writePacket q prio grey ws).host = h.host ∧
      (h.writePacket q prio grey ws).mgm = h.mgm := by
  obtain ⟨p, l, n, heq, _⟩ := h.writePacket_spec q prio grey ws hr hq
  rw [heq]
  refine ⟨HubSt.setQueue_inProg _ _ _, ?_, fun p hp => ?_, HubSt.setQueue_host _ _ _, HubSt.setQueue_mgm _ _ _⟩
  · rw [HubSt.queue_arr, HubSt.queue_setQueue, if_pos rfl]
  · rw [HubSt.queue_arr, HubSt.queue_setQueue, if_neg hp, HubSt.queue_cells]

theorem HubSt.writePacket_waits {h : HubSt} {q : QCode} {ws : List W64} (hq : isReplyQueue q = true)
    (hw : h.rebuild ≠ none ∨ h.fits q ws.length = false ∨ h.awaits q = true) (prio : Nat) (grey : Bool) :
    h.writePacket q prio grey ws = { h with waiting := h.waiting ++ [.packet q prio grey ws] } := by
  refine if_pos ?_
  rcases hw with hw | hw | hw
  · simp [Option.isSome_iff_ne_none.mpr hw]
  · simp [hq, hw]
  · simp [hq, hw]

theorem isReplyQueue_rplqOf (w : Window) : isReplyQueue (rplqOf w) = true := by cases w <;> rfl

/-! ### The end of a command -/

/-- The words of the reply of a command (R359). -/
def Kcp.reply (k : Kcp) (st d : Nat) (ws : List W64) : List W64 := replyHeader k.op.toNat ws.length k.tag.toNat st d :: ws

/-- The hub without a command in progress. -/
def HubSt.ended (h : HubSt) (k : Kcp) : HubSt := { h with inProg := lremove (fun x => x.id == k.id) h.inProg }

theorem HubSt.queue_ended (h : HubSt) (k : Kcp) (q : QCode) : (h.ended k).queue q = h.queue q := HubSt.queue_inProg _ _ _

theorem HubSt.fits_ended (h : HubSt) (k : Kcp) (q : QCode) (n : Nat) : (h.ended k).fits q n = h.fits q n := by cases q <;> rfl

theorem Kcp.reply_length (k : Kcp) (st d : Nat) (ws : List W64) : (k.reply st d ws).length = ws.length + 1 := rfl

theorem finish_of_local {k : Kcp} (hk : k.remote = none) (st d : Nat) (ws : List W64) (s : State) : finish k st d ws s =
    { s with hub := (s.hub.ended k).writePacket (rplqOf k.win) k.prio.toNat false (k.reply st d ws) } := by
  simp only [finish, hk]
  rfl

theorem finish_of_remote {k : Kcp} {i : BitVec 3} {ref : Nat} (hk : k.remote = some (i, ref)) (st d : Nat) (ws : List W64) (s : State) :
    finish k st d ws s =
      ({ s with hub := s.hub.ended k } : State).sendMgt i.toNat (.fwdReply ref (BitVec.ofNat 8 st) (BitVec.ofNat 24 d) ws) := by
  simp only [finish, hk]
  rfl

theorem State.sendMgt_of_no_route {s : State} {i : Nat} (hi : i ≠ s.inst.toNat) (hp : s.peerPort i = none) (m : MgtMsg) : s.sendMgt i m = s := by
  simp [State.sendMgt, State.sendMgtFrom, hi, hp]

/-! ### The obligation -/

/-- Settles O7: the reply packet with room, its wait without, and the reply that goes back to the sender. -/
theorem finishWritesReply : Obligations.FinishWritesReply := by
  unfold Obligations.FinishWritesReply
  refine fun s k st d ws => ⟨fun hk hr hf ha => ?room, fun hk hw => ?waits, fun i ref hk => ?remote⟩
  case room =>
    have hq : (isReplyQueue (rplqOf k.win) && (!((s.hub.ended k).fits (rplqOf k.win) (k.reply st d ws).length) ||
        (s.hub.ended k).awaits (rplqOf k.win))) = false := by
      have ha' : (s.hub.ended k).awaits (rplqOf k.win) = false := ha
      rw [HubSt.fits_ended, Kcp.reply_length, hf, ha']
      simp
    obtain ⟨hprog, hbegun, hother, hhost, hmgm⟩ := HubSt.writePacket_changes (h := s.hub.ended k) hr hq k.prio.toNat false
    have hwaiting := HubSt.writePacket_waiting (h := s.hub.ended k) hr hq k.prio.toNat false
    obtain ⟨hdata, hcells⟩ := (s.hub.ended k).writeWords_cells (k.reply st d ws)
    rw [HubSt.queue_ended] at hbegun hwaiting
    exact ⟨_, finish_of_local hk st d ws s, hprog, ⟨(s.hub.ended k).packetOf k.prio.toNat false (k.reply st d ws), hwaiting, rfl, rfl, hdata,
      HubSt.writeWords_fin _ _ _, hcells⟩, hbegun, fun q hq => (hother q hq).trans (HubSt.queue_ended _ _ _), hhost, hmgm⟩
  case waits =>
    have hwaits : (s.hub.ended k).rebuild ≠ none ∨ (s.hub.ended k).fits (rplqOf k.win) (k.reply st d ws).length = false ∨
        (s.hub.ended k).awaits (rplqOf k.win) = true := by
      rw [HubSt.fits_ended, Kcp.reply_length]
      exact hw
    rw [finish_of_local hk, HubSt.writePacket_waits (isReplyQueue_rplqOf k.win) hwaits]
    rfl
  case remote =>
    intro gone u
    have hu : u = gone.sendMgt i.toNat (.fwdReply ref (BitVec.ofNat 8 st) (BitVec.ofNat 24 d) ws) := finish_of_remote hk st d ws s
    have ne (hi : s.inst ≠ i) : i.toNat ≠ gone.inst.toNat := fun e => hi (BitVec.eq_of_toNat_eq e.symm)
    rw [hu]
    refine ⟨fun hi hp => State.sendMgt_of_no_route (ne hi) hp _, fun hi hp => ⟨?_, gone.sendMgt_frame _ _⟩⟩
    rw [State.sendMgt_out (ne hi) hp, BitVec.ofNat_toNat, BitVec.setWidth_eq]

end Sys2Proof.Machine
end


section
/-! Release, straps, and the segments of trim and repair (R318, R319, R347, R480 to R495). -/

namespace Sys2Proof.Machine

/-! ### Release -/

/-- The block after a release: the straps are taken, and the STRAP events and the test mode are reported (R221, R319, R480 to R486). -/
def State.released (s : State) (x : StrapSample) (r : Option Nat) (fuse : Bool) : State :=
  let t := raiseAll (releaseEvents x (releaseState x r fuse s)) (releaseState x r fuse s)
  if t.rst.test then policyEvent 0 0x13 0xFF 2 0 1 t else t

/-- What a release reports changes the hub, the error reporting, the mesh and the record of the policies. -/
theorem State.released_frame (s : State) (x : StrapSample) (r : Option Nat) (fuse : Bool) :
    ({ s.released x r fuse with hub := s.hub, err := s.err, mesh := s.mesh, fresh := s.fresh, pol := s.pol } : State) =
      { releaseState x r fuse s with pol := s.pol } := by
  have events := congrArg (fun u : State => ({ u with pol := s.pol } : State))
    (raiseAll_frame (releaseEvents x (releaseState x r fuse s)) (releaseState x r fuse s))
  unfold State.released
  generalize raiseAll (releaseEvents x (releaseState x r fuse s)) (releaseState x r fuse s) = t at events ⊢
  dsimp only
  split
  · have policy := congrArg (fun u : State => ({ u with hub := s.hub, err := s.err, mesh := s.mesh, fresh := s.fresh, pol := s.pol } : State))
      (policyEvent_frame 0 0x13 0xFF 2 0 1 t)
    generalize policyEvent 0 0x13 0xFF 2 0 1 t = u at policy ⊢
    exact policy.trans events
  · exact events

theorem execResetRelease_of_agreed {s : State} {x : StrapSample} {l : List StrapSample} {a b : Nat} (hr : s.rst.inReset = true) (hl : l.length = 15)
    (hx : ∀ y ∈ l, y = x) (hab : rsenseCode a = rsenseCode b) (fuse : Bool) :
    exec (.resetRelease (x :: l) a b fuse) s = .next (s.released x (rsenseCode a) fuse) := by
  have hall : l.all (fun y => decide (y = x)) = true := List.all_eq_true.mpr fun y hy => decide_eq_true (hx y hy)
  exact congrArg Host.Outcome.next (if_pos (by rw [hr, hall, decide_eq_true hab, List.length_cons, hl]; rfl))

theorem execResetRelease_of_disagreed {s : State} {x : StrapSample} {l : List StrapSample} {a b : Nat}
    (h : s.rst.inReset = false ∨ l.length ≠ 15 ∨ (∃ y ∈ l, y ≠ x) ∨ rsenseCode a ≠ rsenseCode b) (fuse : Bool) :
    exec (.resetRelease (x :: l) a b fuse) s = .next s := by
  refine congrArg Host.Outcome.next (if_neg fun hall => ?_)
  simp only [Bool.and_eq_true, decide_eq_true_eq, List.all_eq_true, List.length_cons] at hall
  obtain ⟨⟨⟨hr, hl⟩, hx⟩, hab⟩ := hall
  rcases h with h | h | ⟨y, hy, hyx⟩ | h
  · simp [h] at hr
  · omega
  · exact hyx (hx y hy)
  · exact h hab

theorem roleOf_eq (clk : BitVec 2) (cap : Bool) : roleOf clk cap =
    if clk = 1 then (if cap then 2 else 0) else if clk = 2 then 3 else if cap then 1 else 0 := by
  revert clk cap
  decide

/-! ### MPn_ABORT -/

/-- A memory port 16 cycles after release (R347). -/
def MemPort.abortFallen (v : MemPort) : MemPort := if v.inReset then v else { v with abort := false }

theorem MemPort.abortFallen_abortFallen (v : MemPort) : v.abortFallen.abortFallen = v.abortFallen := by
  unfold MemPort.abortFallen
  split_ifs <;> rfl

theorem State.mp_each_modMp {f : MemPort → MemPort} (hf : ∀ x, f (f x) = f x) (l : List Nat) (s : State) (m : Nat) :
    (s.each l (fun t m => t.modMp m f)).mp m = if m ∈ l then f (s.mp m) else s.mp m := by
  have hturn (t : State) (i j : Nat) : (t.modMp i f).mp j = if j = i then f (t.mp j) else t.mp j := by
    rw [State.mp_modMp]
    split
    next e => rw [e]
    next => rfl
  exact (get_foldl_of_idempotent (key := id) hf hturn l s m).trans (by rw [List.map_id])

theorem execMpAbortFall_of_due {s : State} (hr : s.rst.inReset = false) (hc : 16 ≤ s.time.cycles) :
    exec .mpAbortFall s = .next (s.each (List.range s.gh.memPorts) (fun t m => t.modMp m MemPort.abortFallen)) :=
  congrArg Host.Outcome.next (if_pos (by simp [hr, hc]))

theorem State.each_modMp_frame (l : List Nat) (f : MemPort → MemPort) (s : State) :
    ({ s.each l (fun t m => t.modMp m f) with mps := s.mps } : State) = s :=
  State.each_induction (fun t => ({ t with mps := s.mps } : State) = s) l (fun t m => t.modMp m f) (fun _ _ h => h) s rfl

/-! ### Segments -/

section
variable {s : State} {seg : BitVec 8} {pl : List (BitVec 32)} {crc : BitVec 32}

theorem execFuseSegment_of_loading (h : s.rst.loading = true) : exec (.fuseSegment seg pl crc) s = .next (takeSegment seg pl crc s) :=
  congrArg Host.Outcome.next (if_pos h)

theorem execFuseSegment_of_loaded (h : s.rst.loading = false) (hc : seg ≠ 0xC0 ∨ s.rst.inReset = true) :
    exec (.fuseSegment seg pl crc) s = .next s := by
  have hcommon : ¬(seg = 0xC0#8 ∧ (!s.rst.inReset) = true) := fun ⟨hs, hr⟩ => hc.elim (fun h => h hs) fun h => by simp [h] at hr
  exact congrArg Host.Outcome.next ((if_neg (by simp [h])).trans (if_neg hcommon))

theorem takeCommon_eq (pl : List (BitVec 32)) (crc : BitVec 32) (s : State) : takeCommon pl crc s = { s with rst := { s.rst with
    shadow := if s.rst.common then s.rst.shadow else tput 0xC0 pl s.rst.shadow
    passOn := true
    seenPass := []
    passes := satAdd s.rst.passes 1
    common := s.rst.common || segChecks 0xC0 pl crc } } := by
  unfold takeCommon
  split
  next h => simp [h]
  next h => simp [h, storeSegment]

theorem takeSegment_common (pl : List (BitVec 32)) (crc : BitVec 32) (s : State) : takeSegment 0xC0 pl crc s = takeCommon pl crc s := by
  unfold takeSegment
  exact if_pos rfl

theorem execFuseSegment_common (h : s.rst.loading = true ∨ s.rst.inReset = false) :
    exec (.fuseSegment 0xC0 pl crc) s = .next (takeCommon pl crc s) := by
  cases hl : s.rst.loading with
  | true => exact (execFuseSegment_of_loading hl).trans (congrArg Host.Outcome.next (takeSegment_common pl crc s))
  | false =>
    have hr : s.rst.inReset = false := h.resolve_left (by simp [hl])
    exact congrArg Host.Outcome.next ((if_neg (by simp [hl])).trans (if_pos (by simp [hr])))

/-- A segment of slice `k` that is neither loaded nor disabled, within a pass (R494). -/
theorem takeSegment_slice (hp : s.rst.passOn = true) (hk : seg.toNat < s.gh.slices) (hok : s.segOf seg.toNat ≠ .ok)
    (hd : s.segOf seg.toNat ≠ .disabled) : ∃ u : State, u.rst.segs = s.rst.segs ∧ u.rst.shadow = tput seg.toNat pl s.rst.shadow ∧
      u.rst.spares = s.rst.spares ∧ u.slices = s.slices ∧
      takeSegment seg pl crc s = finishLoading (
        if segChecks seg pl crc then loadSpares seg.toNat pl (u.setSeg seg.toNat .ok) else segFails u seg.toNat) := by
  have hseg : seg ≠ 0xC0#8 := by
    rintro rfl
    revert hk
    cases s.gh <;> decide
  refine ⟨storeSegment seg pl { s with rst := { s.rst with seenPass := seg.toNat :: s.rst.seenPass } }, rfl, rfl, rfl, rfl, ?_⟩
  have hnew : ¬(s.segOf seg.toNat = .ok ∨ s.segOf seg.toNat = .disabled) := by simp [hok, hd]
  exact (if_neg hseg).trans ((if_neg (by simp [hp])).trans ((if_pos hk).trans (if_neg hnew)))

end

@[simp] theorem raise_rst (ev : Ev) (s : State) : (raise ev s).rst = s.rst := by
  have h := congrArg State.rst (raise_frame ev s)
  exact h

theorem State.segOf_raise (ev : Ev) (s : State) (j : Nat) : (raise ev s).segOf j = s.segOf j := by
  rw [State.segOf, raise_rst, State.segOf]

theorem State.segOf_setSeg (s : State) (k j : Nat) (v : SegSt) : (s.setSeg k v).segOf j = if j = k then v else s.segOf j := tget_tput _ _ _ _ _

theorem disableSlice_segOf (k : Nat) (s : State) : (disableSlice k s).segOf k = .disabled := by
  rw [disableSlice, State.segOf_raise]
  exact (State.segOf_setSeg s k k .disabled).trans (if_pos rfl)

theorem disableSlice_st (k : Nat) (s : State) : ((disableSlice k s).slice k).st = .disabled := by
  have hst : (((s.setSeg k .disabled).modSlice k (fun v => { v with st := .disabled })).slice k).st = .disabled := by
    rw [State.slice_modSlice, if_pos rfl]
  rw [disableSlice, slice_raise, State.slice_modSlice]
  split
  next h =>
    rw [← h]
    exact hst
  next => exact hst

theorem disableSlice_buddy (k : Nat) (s : State) : ((disableSlice k s).slice (buddy k)).wt226 = true := by
  rw [disableSlice, slice_raise, State.slice_modSlice, if_pos rfl]

theorem segFails_of_failedOnce {s : State} {k : Nat} (h : s.segOf k = .failedOnce) : segFails s k = disableSlice k s := by
  simp only [segFails, h]

/-- An end segment, which no slice and not the common segment has the number of (R491). -/
theorem takeSegment_end {s : State} (hk : s.gh.slices ≤ 0xC0) (hp : s.rst.passOn = true) (pl : List (BitVec 32)) (crc : BitVec 32) :
    takeSegment 0xFF pl crc s = if segChecks 0xFF pl crc = true then
      finishLoading { ((List.range s.gh.slices).filter (fun k => !(s.rst.seenPass.contains k))).foldl segFails s with
        rst := { (((List.range s.gh.slices).filter (fun k => !(s.rst.seenPass.contains k))).foldl segFails s).rst with passOn := false } }
      else s := by
  have hslice : ¬255 < s.gh.slices := by omega
  simp [takeSegment, hp, hslice]

theorem takeSegment_of_no_pass {s : State} {seg : BitVec 8} (h : seg ≠ 0xC0) (hp : s.rst.passOn = false) (pl : List (BitVec 32)) (crc : BitVec 32) :
    takeSegment seg pl crc s = s :=
  (if_neg h).trans (if_pos (by simp [hp]))

/-! ### The obligation -/

/-- Settles O22: release and what it takes from the straps, MPn_ABORT, and each kind of segment. -/
theorem releaseAndTrim : Obligations.ReleaseAndTrim := by
  unfold Obligations.ReleaseAndTrim
  refine ⟨fun s x l a b fuse => ⟨fun hr hl hx hab => ?release, fun h => execResetRelease_of_disagreed h fuse, rfl, fun hr hc => ?abort⟩,
    fun s seg pl crc => ⟨execFuseSegment_of_loaded, ?common, fun hl hs hp => ?noPass, fun hl hp hk hn hc => ?stored, fun hl hp hk hf hc => ?disabled,
      fun hl hs hk hc => ?badEnd, fun hl hp hs hc hall hk => ?endOfPass⟩⟩
  case release =>
    have hframe := s.released_frame x (rsenseCode a) fuse
    have hexec := execResetRelease_of_agreed hr hl hx hab fuse
    generalize s.released x (rsenseCode a) fuse = t at hframe hexec
    have hinst := congrArg State.inst hframe
    have hslices := congrArg State.slices hframe
    have hrst := congrArg State.rst hframe
    have hrole := congrArg RstSt.role hrst
    have htime := congrArg State.time hframe
    have hpkg := congrArg State.pkg hframe
    refine ⟨t, hexec, congrArg RstSt.inReset hrst, congrArg RstSt.step hrst, congrArg RstSt.loading hrst,
      congrArg RstSt.code hrst, hinst, congrArg State.tmcap hframe, congrArg RstSt.boot hrst, congrArg RstSt.clkmode hrst,
      congrArg RstSt.field hrst, congrArg RstSt.test hrst, hrole.trans (roleOf_eq _ _), ?_, congrArg RstSt.dirtyV hrst,
      congrArg TimeSt.ptc htime, congrArg TimeSt.loaded htime, ?_, hslices⟩
    · exact (congrArg RstSt.bootSrc hrst).trans (by rw [hrole]; rfl)
    · exact (congrArg PkgSt.members hpkg).trans (by rw [hinst]; rfl)
  case abort =>
    refine ⟨_, execMpAbortFall_of_due hr hc, State.each_modMp_frame _ _ s, fun m hm => ?_⟩
    rw [State.mp_each_modMp MemPort.abortFallen_abortFallen, if_pos (List.mem_range.mpr hm)]
    rfl
  case common =>
    rintro h rfl
    rw [execFuseSegment_common h, takeCommon_eq]
  case noPass => rw [execFuseSegment_of_loading hl, takeSegment_of_no_pass hs hp]
  case stored =>
    obtain ⟨u, hsegs, hshadow, hspares, hslices, heq⟩ := takeSegment_slice (pl := pl) (crc := crc) hp hk (by simp [hn]) (by simp [hn])
    have hseg (j : Nat) : u.segOf j = s.segOf j := by rw [State.segOf, hsegs, State.segOf]
    refine ⟨loadSpares seg.toNat pl (u.setSeg seg.toNat .ok), ?_, ?_, hshadow, fun j hj => ?_, hslices, ?_⟩
    · rw [execFuseSegment_of_loading hl, heq, if_pos hc]
    · exact (u.segOf_setSeg _ _ _).trans (if_pos rfl)
    · exact ((u.segOf_setSeg _ _ _).trans (if_neg hj)).trans (hseg j)
    · rw [← hspares]
      rfl
  case disabled =>
    obtain ⟨u, hsegs, _, _, _, heq⟩ := takeSegment_slice (pl := pl) (crc := crc) hp hk (by simp [hf]) (by simp [hf])
    have hseg : u.segOf seg.toNat = .failedOnce := by rw [State.segOf, hsegs]; exact hf
    rw [execFuseSegment_of_loading hl, heq, if_neg (by simp [hc]), segFails_of_failedOnce hseg]
    exact ⟨_, rfl, disableSlice_segOf _ _, disableSlice_st _ _, disableSlice_buddy _ _⟩
  case badEnd =>
    subst hs
    cases hp : s.rst.passOn with
    | true => rw [execFuseSegment_of_loading hl, takeSegment_end hk hp, if_neg (Bool.eq_false_iff.mp hc)]
    | false => rw [execFuseSegment_of_loading hl, takeSegment_of_no_pass (by decide) hp]
  case endOfPass =>
    subst hs
    have hnone : (List.range s.gh.slices).filter (fun k => !(s.rst.seenPass.contains k)) = [] :=
      List.filter_eq_nil_iff.mpr fun j hj => by simp [hall j (List.mem_range.mp hj)]
    rw [execFuseSegment_of_loading hl, takeSegment_end hk hp, if_pos hc, hnone]
    rfl

end Sys2Proof.Machine
end


section
/-! Flits of a ridge link: those received and discarded, negative acknowledgements, replays, and those sent (R297, R302, R303, R304). -/

namespace Sys2Proof.Machine

/-! ### FLIT_RECEIVE -/

/-- Whether the CRC of a flit is the one that its receiver computes (R297). -/
abbrev GoodCrc (b : BitVec 1024) : Prop := flitCrc (b.extractLsb' 0 992) = b.extractLsb' 992 32

section
variable {s : State} {r : Nat} {b : BitVec 1024}

theorem execFlitReceive_of_down (h : (s.link r).st.up = false) : exec (.flitReceive r b) s = .next s :=
  congrArg Host.Outcome.next (if_pos (by rw [h]; rfl))

theorem execFlitReceive_of_up (h : (s.link r).st.up = true) : exec (.flitReceive r b) s = .next (
    if ¬GoodCrc b then s.setLink r ({ (s.link r).reject with crcErr := satAdd (s.link r).crcErr 1 }.count 0x09 1)
    else if (decodeFlit b).ftype = 3 ∨ ((decodeFlit b).ftype = 1 ∧ (decodeFlit b).seq ≠ (s.link r).rxSeq) then s.setLink r (s.link r).reject
    else
      let u := s.setLink r ((s.link r).takeGood s.time.ptc (decodeFlit b))
      drainSnoops r (if (decodeFlit b).ftype = 1 then ((decodeFlit b).desc.zip (decodeFlit b).slots).foldl (takeRxSlot r) u else u)) :=
  congrArg Host.Outcome.next (if_neg (by simp [h]))

end

theorem Ridge.reject_eq (l : Ridge) : l.reject = { l with rxBad := true, nakDue := l.nakDue || !l.rxBad } := by
  unfold Ridge.reject
  split
  next h =>
    cases l
    simp_all
  next h => simp [h]

/-- What an acknowledgement, a stamp and a credit return leave of the receive sequence. -/
theorem Ridge.acked_rxSeq (l : Ridge) (a : BitVec 10) : (l.acked a).rxSeq = l.rxSeq := by
  unfold Ridge.acked
  split <;> rfl

theorem Ridge.takeHalf_rxSeq (l : Ridge) (ptc : W64) (f : Flit) : (l.takeHalf ptc f).rxSeq = l.rxSeq := by
  unfold Ridge.takeHalf
  split_ifs <;> rfl

theorem Ridge.takeGood_rxSeq (l : Ridge) (ptc : W64) {f : Flit} (h : f.ftype = 1) : (l.takeGood ptc f).rxSeq = l.rxSeq + 1 := by
  have hack : (if f.ackv then ({ l with rxBad := false } : Ridge).acked f.ackseq else { l with rxBad := false }).rxSeq = l.rxSeq := by
    split
    · exact Ridge.acked_rxSeq _ _
    · rfl
  simp only [Ridge.takeGood, h]
  exact congrArg (· + 1) ((Ridge.takeHalf_rxSeq _ _ _).trans hack)

/-! ### Replays -/

section
variable {s : State} {r : Nat}

theorem execNakReceive_of_nak {x : BitVec 128} {rest : List (BitVec 128)} (h : (s.link r).ctlIn = x :: rest) (hx : fld x 0 4 = 1) :
    exec (.nakReceive r) s = .next (
      let n : BitVec 10 := x.extractLsb' 4 10
      let u := s.setLink r ({ s.link r with ctlIn := rest }.acked (n - 1))
      if (u.link r).replay.any (fun y => y.1 == n) then startReplay r n u else u) := by
  change execNakReceive r s = _
  simp only [execNakReceive, h, hx, if_true]

theorem execReplayTimeout_of_cons {n : BitVec 10} {f : BitVec 1024} {t : Nat} {rest : List (BitVec 10 × BitVec 1024 × Nat)}
    (h : (s.link r).replay = (n, f, t) :: rest) : exec (.replayTimeout r) s = .next (
      if (s.link r).st.up && (s.link r).replayFrom.isNone && decide (t + 2000 ≤ s.now) then startReplay r n s else s) := by
  change execReplayTimeout r s = _
  simp only [execReplayTimeout, h]

/-- A later replay of an epoch concerns the link alone (R304). -/
theorem startReplay_again {n : BitVec 10} (h : (s.link r).replayedIn = some s.pol.lastB) :
    ∃ v : Ridge, startReplay r n s = s.setLink r v ∧ v.replayFrom = some n := by
  refine ⟨_, if_pos h, rfl⟩

/-! ### FLIT_TRANSMIT -/

theorem execFlitTransmit_of_down (h : (s.link r).st.up = false) : exec (.flitTransmit r) s = .next s :=
  congrArg Host.Outcome.next (if_neg (by simp [h]))

theorem execFlitTransmit_of_up (h : (s.link r).st.up = true) :
    exec (.flitTransmit r) s = .next ((s.setLink r (nextFlit r s).2).emit (.flit r (nextFlit r s).1.bits)) :=
  congrArg Host.Outcome.next (if_pos h)

end

/-- The credit return of a flit takes vacated entries, nothing else. -/
theorem Ridge.takeCret_only (l : Ridge) : ∃ c, l.takeCret.2 = { l with cret := c } := by
  unfold Ridge.takeCret
  split
  · exact ⟨l.cret, rfl⟩
  · exact ⟨_, rfl⟩

/-- The header of a new flit takes the credit return and counts the group and the gap of MGT, nothing else. -/
theorem Ridge.frame_only (l : Ridge) (ptc : W64) (ftype : BitVec 2) (seq : BitVec 10) (slots : List (BitVec 8 × BitVec 128)) :
    ∃ c g m, (l.frame ptc ftype seq none slots).2 = { l with cret := c, txGroup := g, mgtGap := m } := by
  obtain ⟨c, hc⟩ := l.takeCret_only
  unfold Ridge.frame
  dsimp only
  split
  · exact ⟨l.cret, _, _, rfl⟩
  · rw [hc]
    exact ⟨c, _, _, rfl⟩

theorem Ridge.mgtSlot_replay {l : Ridge} {x : (BitVec 8 × BitVec 128) × Ridge} (h : l.mgtSlot = some x) : x.2.replay = l.replay := by
  unfold Ridge.mgtSlot at h
  dsimp only at h
  split at h
  · exact absurd h (by simp)
  · split at h
    · obtain rfl := Option.some.inj h
      rfl
    · obtain ⟨p, _, rfl⟩ := Option.map_eq_some_iff.mp h
      rfl

/-- Filling the slots of a flit leaves the replay buffer as it is. -/
theorem fillSlots_replay (res : Option Nat) (n : Nat) (l : Ridge) : (fillSlots res n l).2.replay = l.replay := by
  induction n generalizing l with
  | zero => rfl
  | succ n ih =>
    have mgt {x : (BitVec 8 × BitVec 128) × Ridge} (hx : l.mgtSlot = some x) := (ih x.2).trans (Ridge.mgtSlot_replay hx)
    unfold fillSlots
    dsimp only
    split
    · split
      next x hx => exact mgt hx
      next => rfl
    · split
      · exact ih _
      · exact ih _
      · split
        next x hx => exact mgt hx
        next =>
          split
          · exact ih _
          · rfl

/-- A packet under way on a JOINED link fills the first slot. -/
theorem fillSlots_of_current {l : Ridge} (hst : l.st = .joined) (hcur : l.txCur ≠ none) (res : Option Nat) (n : Nat) :
    (fillSlots res (n + 1) l).1 ≠ [] := by
  obtain ⟨p, hp⟩ := Option.ne_none_iff_exists'.mp hcur
  simp [fillSlots, hst, hp]

/-- A slot of MGT that is due is the first of a link that carries MGT alone. -/
theorem fillSlots_of_mgt {l : Ridge} (hst : l.st ≠ .joined) {x : (BitVec 8 × BitVec 128) × Ridge} (hx : l.mgtSlot = some x) (res : Option Nat)
    (n : Nat) : (fillSlots res (n + 1) l).1 ≠ [] := by
  simp [fillSlots, hst, hx]

/-- The GT class that the slot of the batten schedule reserves on a link now (R302). -/
def State.reservedGt (s : State) (l : Ridge) : Option Nat :=
  if (s.battenSlot l.bat).getLsbD 4 then some (fld (s.battenSlot l.bat) 0 4) else none

/-- The link and the flit when it sends a record (R300, R302). -/
def Ridge.sendRecord (l : Ridge) (ptc : W64) (x : BitVec 128) : Flit × Ridge :=
  (l.count 0x04 1).frame ptc 2 0 none ((0, x) :: List.replicate 6 (0, 0))

/-- The slots that a link fills now, and what becomes of it (R302). -/
def Ridge.filled (l : Ridge) (s : State) : List (BitVec 8 × BitVec 128) × Ridge := fillSlots (s.reservedGt l) 7 l

/-- The flit of a link that sends the slots `p` it has filled, and what becomes of it (R297, R303). -/
def Ridge.sendSlots (l : Ridge) (s : State) (p : List (BitVec 8 × BitVec 128) × Ridge) : Flit × Ridge :=
  let x := (p.2.countSlots (padSlots p.1)).frame s.time.ptc 1 l.txSeq none (padSlots p.1)
  (x.1, { x.2 with txSeq := l.txSeq + 1, replay := x.2.replay ++ [(l.txSeq, x.1.bits, s.now)] })

section
variable {s : State} {r : Nat} (hn : (s.link r).replayFrom = none)
include hn

theorem nextFlit_of_nak (hd : (s.link r).nakDue = true) : nextFlit r s =
    Ridge.sendRecord { s.link r with nakDue := false } s.time.ptc (pack 128 [(0, 1), (4, (s.link r).rxSeq.toNat)]) := by
  simp only [nextFlit, hn, hd, if_true]
  rfl

theorem nextFlit_of_idle (hd : (s.link r).nakDue = false) (hc : (s.link r).ctlOut = [])
    (h : ((s.link r).st ≠ .joined ∧ (s.link r).st ≠ .linked) ∨ 256 ≤ (s.link r).replay.length) :
    nextFlit r s = ((s.link r).count 0x03 1).frame s.time.ptc 0 0 none (padSlots []) := by
  have hslots : ¬(((s.link r).st = .joined ∨ (s.link r).st = .linked) ∧ (s.link r).replay.length < 256) := by
    rintro ⟨hst, hl⟩
    rcases h with ⟨hj, hk⟩ | h
    · exact hst.elim hj hk
    · omega
  simp [nextFlit, hn, hd, hc, hslots]

theorem nextFlit_of_slots (hd : (s.link r).nakDue = false) (hc : (s.link r).ctlOut = []) (hst : (s.link r).st = .joined ∨ (s.link r).st = .linked)
    (hl : (s.link r).replay.length < 256) (hp : ((s.link r).filled s).1 ≠ []) :
    nextFlit r s = (s.link r).sendSlots s ((s.link r).filled s) := by
  have hfill : ((s.link r).st = .joined ∨ (s.link r).st = .linked) ∧ (s.link r).replay.length < 256 := ⟨hst, hl⟩
  have hsome : ¬((s.link r).filled s).1.isEmpty = true := by simpa using hp
  unfold Ridge.filled State.reservedGt at hsome
  simp only [nextFlit, Ridge.sendSlots, Ridge.filled, State.reservedGt, hn, hd, hc, if_pos hfill]
  rw [if_neg Bool.false_ne_true, if_neg hsome]

end

theorem Ridge.countSlots_replay (l : Ridge) (x : List (BitVec 8 × BitVec 128)) : (l.countSlots x).replay = l.replay := by
  unfold Ridge.countSlots
  dsimp only [Ridge.count]

/-- What is sent anew takes the next sequence number and stays in the replay buffer (R297, R303). -/
theorem Ridge.sendSlots_spec {l : Ridge} {p : List (BitVec 8 × BitVec 128) × Ridge} (hp : p.2.replay = l.replay) (s : State) :
    (l.sendSlots s p).1.ftype = 1 ∧ (l.sendSlots s p).1.seq = l.txSeq ∧ (l.sendSlots s p).2.txSeq = l.txSeq + 1 ∧
      (l.sendSlots s p).2.replay = l.replay ++ [(l.txSeq, (l.sendSlots s p).1.bits, s.now)] := by
  obtain ⟨c, g, m, h⟩ := Ridge.frame_only (p.2.countSlots (padSlots p.1)) s.time.ptc 1 l.txSeq (padSlots p.1)
  have hreplay := congrArg Ridge.replay h
  simp only [Ridge.countSlots_replay, hp] at hreplay
  refine ⟨rfl, rfl, rfl, ?_⟩
  unfold Ridge.sendSlots
  dsimp only
  rw [hreplay]

/-! ### The obligation -/

/-- Settles O44: what is received, discarded, resent and sent, in the order of the branches of each step. -/
theorem flitsAndReplays : Obligations.FlitsAndReplays := by
  unfold Obligations.FlitsAndReplays
  refine fun s r b => ⟨fun h => ⟨execFlitReceive_of_down h, execFlitTransmit_of_down h⟩, fun h hc => ?badCrc, fun h hc hf => ?discarded,
    fun h hc h3 h1 => ?control, fun h hc h1 hs => ?payload, fun x rest h hx => execNakReceive_of_nak h hx, fun n f t rest h hu hn ht => ?timeout,
    fun n f t rest h ht => ?early, fun n h => ?again, execFlitTransmit_of_up, fun hn hd => ?nak, fun hn hd hc h => ?idle,
    fun x hn hd hc hst hl hx => ?mgt, fun hn hd hc hst hl hcur => ?current⟩
  case badCrc =>
    refine ⟨_, by rw [execFlitReceive_of_up h, if_pos hc], ?_⟩
    simp only [State.link_setLink, if_true, Ridge.count, Ridge.reject_eq, State.setLink_frame, true_and, and_true]
    exact fun j hj => if_neg hj
  case discarded => rw [execFlitReceive_of_up h, if_neg (not_not.mpr hc), if_pos hf]
  case control =>
    rw [execFlitReceive_of_up h, if_neg (not_not.mpr hc), if_neg (not_or.mpr ⟨h3, fun hf => h1 hf.1⟩)]
    simp only [if_neg h1]
  case payload =>
    refine ⟨?_, (s.link r).takeGood_rxSeq _ h1⟩
    rw [execFlitReceive_of_up h, if_neg (not_not.mpr hc), if_neg (not_or.mpr ⟨by simp [h1], fun hf => hf.2 hs⟩)]
    simp only [if_pos h1]
  case timeout =>
    rw [execReplayTimeout_of_cons h, if_pos (by simp [hu, hn, ht])]
  case early => rw [execReplayTimeout_of_cons h, if_neg (by simp [ht])]
  case again =>
    obtain ⟨v, hv, hfrom⟩ := startReplay_again (n := n) h
    exact ⟨_, hv, by rw [State.link_setLink, if_pos rfl, hfrom], rfl⟩
  case nak =>
    obtain ⟨c, g, m, hframe⟩ := Ridge.frame_only (({ s.link r with nakDue := false } : Ridge).count 0x04 1) s.time.ptc 2 0
      ((0, pack 128 [(0, 1), (4, (s.link r).rxSeq.toNat)]) :: List.replicate 6 (0, 0))
    rw [nextFlit_of_nak hn hd]
    exact ⟨rfl, congrArg Ridge.nakDue hframe, rfl⟩
  case idle =>
    rw [nextFlit_of_idle hn hd hc h]
    rfl
  case mgt =>
    have hslots := fillSlots_of_mgt (by simp [hst]) hx (s.reservedGt (s.link r)) 6
    rw [nextFlit_of_slots hn hd hc (.inr hst) hl hslots]
    obtain ⟨hft, hseq, htx, _⟩ := Ridge.sendSlots_spec (fillSlots_replay _ _ _) s
    exact ⟨hft, hseq, htx⟩
  case current =>
    have hslots := fillSlots_of_current hst hcur (s.reservedGt (s.link r)) 6
    rw [nextFlit_of_slots hn hd hc (.inl hst) hl hslots]
    exact Ridge.sendSlots_spec (fillSlots_replay _ _ _) s

end Sys2Proof.Machine
end


section
/-! The commands of a ridge port, and the join of two packages (R306, R311, R313, R314, R405, R406, R436). -/

namespace Sys2Proof.Machine

theorem State.link_setLink_self (s : State) (r : Nat) (v : Ridge) : (s.setLink r v).link r = v := by rw [State.link_setLink, if_pos rfl]

/-! ### RIDGE_STATE and RIDGE_TRAIN -/

/-- A link whose training command `c` starts, at the highest rate that it names (R306, R406). -/
def Ridge.trains (l : Ridge) (now rate c : Nat) : Ridge :=
  { l with st := .training, since := now, maxRate := BitVec.ofNat 3 rate, trainCmd := some c, peerV := false }

/-- A link whose use ends by QUIESCE (R306). -/
def Ridge.quiesced (l : Ridge) (now : Nat) : Ridge := { l.enterLinked now with cred := [], joinWanted := false, joinSent := false, joinIn := none }

/-- A link that is switched OFF (R306). -/
def Ridge.switchedOff (l : Ridge) (now : Nat) : Ridge :=
  { l with st := .off, since := now, peerV := false, joinWanted := false, joinSent := false, joinIn := none, theta := none, ctlIn := [], ctlOut := [] }

section
variable {s : State} {c : Nat} {k : Kcp}

theorem execRidgeState_of_new (hk : s.newCmd c 0x48 = some k) : ∃ ws, exec (.ridgeState c) s = .next (finish k stOk 0 ws s) ∧ ws.length = 4 ∧
    ws.head? = some (pack 64 [(0, linkCode (s.link k.tgt).st), (3, (s.link k.tgt).peer.toNat), (6, b2n (s.link k.tgt).peerV),
      (8, (s.link k.tgt).align.toNat), (10, (s.link k.tgt).refuse.toNat), (16, (s.link k.tgt).rate.toNat), (24, (s.link k.tgt).thetaField),
      (48, b2n (s.link k.tgt).theta.isSome)]) :=
  ⟨_, congrArg Host.Outcome.next (runCmd_of_some hk rfl), rfl, rfl⟩

variable (hk : s.newCmd c 0x49 = some k)
include hk

theorem execRidgeTrainTrain_of_op (ho : fld (k.par 0) 0 2 = 0) : exec (.ridgeTrainTrain c) s = .next (
    if ((s.link k.tgt).st = .off ∨ (s.link k.tgt).st = .failed ∨ (s.link k.tgt).st = .duplicate) ∧ s.rst.role ≠ roleFree then
      (s.startCmd k id).setLink k.tgt ((s.link k.tgt).trains s.now (fld (k.par 0) 4 3) k.id)
    else ridgeConflict k s) :=
  congrArg Host.Outcome.next (runCmd_of_some hk (by simp [ho]))

theorem execRidgeTrainQuiesce_of_op (ho : fld (k.par 0) 0 2 = 1) : exec (.ridgeTrainQuiesce c) s = .next (
    if s.canQuiesce k.tgt = true then
      finish k stOk 0 [] (dropCredits (128 + k.tgt) (s.setLink k.tgt ((s.link k.tgt).quiesced s.now)))
    else ridgeConflict k s) :=
  congrArg Host.Outcome.next (runCmd_of_some hk (by simp [ho]))

theorem execRidgeTrainJoin_of_linked (ho : fld (k.par 0) 0 2 = 2) (hst : (s.link k.tgt).st = .linked) : exec (.ridgeTrainJoin c) s = .next (
    if ((s.link k.tgt).peerV && !(s.admitsLink k.tgt (s.link k.tgt).peer)) = true then
      finish k stConflict 0x202 [] (raise (refusedEv k.tgt 7 s) s)
    else if (s.link k.tgt).joinCmd.isSome = true then ridgeConflict k s
    else tryJoin k.tgt ((s.startCmd k id).setLink k.tgt { s.link k.tgt with joinWanted := true, joinCmd := some k.id })) := by
  refine congrArg Host.Outcome.next ((runCmd_of_some hk (by simp [ho])).trans ((if_pos (.inl hst)).trans ?_))
  simp only [hst, linkCode, if_true]

theorem execRidgeTrainOff_of_op (ho : fld (k.par 0) 0 2 = 3) : exec (.ridgeTrainOff c) s = .next (
    if (s.link k.tgt).st = .joined ∨ (s.link k.tgt).st = .retraining then ridgeConflict k s
    else finish k stOk 0 [] (retryBringups (s.setLink k.tgt ((s.link k.tgt).switchedOff s.now)))) :=
  congrArg Host.Outcome.next (runCmd_of_some hk (by simp [ho]))

end

/-! ### A join -/

/-- A join waits until the TIME record of the peer has named it (R306, R313). -/
theorem tryJoin_of_unnamed {s : State} {r : Nat} (h : (s.link r).peerV = false) : tryJoin r s = s :=
  if_neg (by simp [h])

/-- A join whose record is out is decided when the record of the peer is in (R313). -/
theorem tryJoin_of_sent {s : State} {r : Nat} {rec : JoinRec} (hst : (s.link r).st = .linked) (hv : (s.link r).peerV = true)
    (hw : (s.link r).joinWanted = true) (hf : s.rst.fwRun = true) (ht : s.prot.trans = false) (hl : s.err.lost = false)
    (hs : (s.link r).joinSent = true) (hin : (s.link r).joinIn = some rec) :
    tryJoin r s = if s.refusal rec = 0 then joinLink r rec s else refuseJoin r (s.refusal rec) s := by
  have hgo : tryJoin r s = decideJoin r s :=
    (if_pos ⟨hst, hv, hw, hf, by simp [ht], by simp [hl]⟩).trans (if_pos hs)
  rw [hgo]
  simp only [decideJoin, hin]

/-- A link that has taken the join record of the peer. -/
def Ridge.withRecord (l : Ridge) (rec : JoinRec) : Ridge := { l with joinIn := some rec, joinWanted := true }

section
variable {s : State} {r : Nat} {rec : JoinRec}

theorem execJoinRecord_of_linked (hst : (s.link r).st = .linked) (hp : (s.link r).peerV = false ∨ rec.inst = (s.link r).peer) :
    exec (.joinRecord r rec) s = .next (tryJoin r (s.setLink r ((s.link r).withRecord rec))) :=
  congrArg Host.Outcome.next (if_pos ⟨hst, hp.imp_left fun h => by simp [h]⟩)

theorem execJoinRecord_of_joined (hst : (s.link r).st = .joined) :
    exec (.joinRecord r rec) s = .next (if rec.inst = (s.link r).peer then takeMaps rec s else s) := by
  refine congrArg Host.Outcome.next ((if_neg (by simp [hst])).trans ?_)
  simp only [hst, true_and]

theorem execJoinRecord_of_other (hl : (s.link r).st ≠ .linked) (hj : (s.link r).st ≠ .joined) : exec (.joinRecord r rec) s = .next s :=
  congrArg Host.Outcome.next ((if_neg fun h => hl h.1).trans (if_neg fun h => hj h.1))

end

/-! ### Refusals -/

theorem State.refusal_of_version {s : State} {rec : JoinRec} (h : rec.hwver ≠ 0x31) : s.refusal rec = 1 := if_pos h

theorem State.refusal_of_members {s : State} {rec : JoinRec} (h : rec.hwver = 0x31) (hj : s.hasJoined = true) (hn : rec.newcomer = false)
    (hm : rec.members &&& s.pkg.members = 0) : s.refusal rec = 2 :=
  (if_neg (not_not.mpr h)).trans (if_pos (by simp [hj, hn, hm]))

/-- What the other end and this one must meet when nothing refuses the join (R311, R314, R436). -/
theorem State.of_refusal_eq_zero {s : State} {rec : JoinRec} (h : s.refusal rec = 0) :
    rec.hwver = 0x31 ∧ s.flushOk rec.inst = true ∧ rec.flushOk = true ∧ rec.accept = true := by
  unfold State.refusal at h
  dsimp only at h
  split_ifs at h with h1 h2 h3 h4 h5 h6 h7
  simp only [Bool.or_eq_true, Bool.not_eq_true', not_or, Bool.not_eq_false] at h6 h7
  exact ⟨not_not.mp h1, h6.1, h6.2, h7⟩

/-! ### The obligation -/

/-- Settles O46: the commands in and outside their states, the join record by the state of the link, and the order of the refusals. -/
theorem ridgeCommandsAndJoins : Obligations.RidgeCommandsAndJoins := by
  unfold Obligations.RidgeCommandsAndJoins
  refine fun s c k r rec => ⟨execRidgeState_of_new, fun hk ho hst hr => ?train, fun hk ho h => ?noTrain, fun hk ho hq => ?quiesce,
    fun hk ho hq => ?noQuiesce, fun hk ho hst hv ha => ?notAdmitted, fun hk ho hst hv hj => ?joinWaits, fun hk ho hj hr => ?off,
    fun hk ho h => ?noOff, fun hst hv => ?recordWaits,
    fun hst hp hv hs hf ht hl => ?decided, execJoinRecord_of_other, execJoinRecord_of_joined, State.refusal_of_version, State.refusal_of_members,
    State.of_refusal_eq_zero⟩
  case train =>
    refine ⟨_, (execRidgeTrainTrain_of_op hk ho).trans (congrArg _ (if_pos ⟨hst, hr⟩)), ?_, ?_, fun j hj => ?_, rfl⟩
    · rw [State.link_setLink_self, Ridge.trains]
    · rw [State.link_setLink_self, Ridge.trains]
    · rw [State.link_setLink, if_neg hj, State.link_startCmd]
  case noTrain =>
    rw [execRidgeTrainTrain_of_op hk ho, if_neg ?_]
    · rfl
    · rintro ⟨hst, hr⟩
      rcases h with h | h
      · exact hr h
      · rcases hst with hst | hst | hst <;> simp [hst] at h
  case quiesce =>
    refine ⟨s.setLink k.tgt ((s.link k.tgt).quiesced s.now), by rw [execRidgeTrainQuiesce_of_op hk ho, if_pos hq], ?_⟩
    rw [State.link_setLink_self]
    exact ⟨rfl, rfl, rfl, rfl⟩
  case noQuiesce =>
    rw [execRidgeTrainQuiesce_of_op hk ho, if_neg (Bool.eq_false_iff.mp hq)]
    rfl
  case notAdmitted => rw [execRidgeTrainJoin_of_linked hk ho hst, if_pos (by simp [hv, ha])]
  case joinWaits =>
    refine ⟨_, by rw [execRidgeTrainJoin_of_linked hk ho hst, if_neg (by simp [hv]), if_neg (by simp [hj])], ?_⟩
    rw [tryJoin_of_unnamed (by rw [State.link_setLink_self]; exact hv), State.link_setLink_self]
    exact ⟨rfl, rfl, hst, rfl⟩
  case off =>
    refine ⟨s.setLink k.tgt ((s.link k.tgt).switchedOff s.now), by rw [execRidgeTrainOff_of_op hk ho, if_neg (not_or.mpr ⟨hj, hr⟩)], ?_, ?_,
      fun j hj => ?_, rfl⟩
    · rw [State.link_setLink_self]
      rfl
    · rw [State.link_setLink_self]
      rfl
    · rw [State.link_setLink, if_neg hj]
  case noOff =>
    rw [execRidgeTrainOff_of_op hk ho, if_pos h]
    rfl
  case recordWaits =>
    refine ⟨_, execJoinRecord_of_linked hst (.inl hv), ?_⟩
    rw [tryJoin_of_unnamed (by rw [State.link_setLink_self]; exact hv), State.link_setLink_self]
    exact ⟨rfl, rfl, rfl⟩
  case decided =>
    have hrest : ({ s.setLink r ((s.link r).withRecord rec) with rdg := s.rdg } : State) = s := rfl
    have hlink := s.link_setLink_self r ((s.link r).withRecord rec)
    have hstl := (congrArg Ridge.st hlink).trans hst
    have hvl := (congrArg Ridge.peerV hlink).trans hv
    have hsl := (congrArg Ridge.joinSent hlink).trans hs
    have hin := congrArg Ridge.joinIn hlink
    have hw := congrArg Ridge.joinWanted hlink
    refine ⟨_, hrest, hin, (execJoinRecord_of_linked hst (.inr hp)).trans (congrArg _ (tryJoin_of_sent hstl hvl hw hf ht hl hsl hin))⟩

end Sys2Proof.Machine
end


section
/-! Package time: TIME and CAL records, the windows of the calibration, corrections of the count, and PTC_SYNC (R300, R306, R318, R320, R321,
R323, R407). -/

namespace Sys2Proof.Machine

/-! ### TIME records -/

section
variable {s : State} {r : Nat}

theorem execTimeRecordSend_of_due (hu : (s.link r).st.up = true) (ht : (s.link r).timeNext ≤ s.now) : exec (.timeRecordSend r) s =
    .next (s.setLink r { s.link r with ctlOut := (s.link r).ctlOut ++ [3], timeNext := s.now + 100000 }) :=
  congrArg Host.Outcome.next (if_pos (by simp [hu, ht]))

theorem execTimeRecordSend_of_not_due (h : (s.link r).st.up = false ∨ s.now < (s.link r).timeNext) : exec (.timeRecordSend r) s = .next s :=
  congrArg Host.Outcome.next (if_neg (by
    rcases h with h | h
    · simp [h]
    · simp [h]))

/-- A link that has read a record which names its peer (R300, R306). -/
def Ridge.named (l : Ridge) (peer : BitVec 3) (rest : List (BitVec 128)) : Ridge := { l with ctlIn := rest, peer := peer, peerV := true }

variable {x : BitVec 128} {rest : List (BitVec 128)} (h : (s.link r).ctlIn = x :: rest) (hx : fld x 0 4 = 3)
include h hx

theorem execTimeRecord_of_own (hu : (s.link r).st.up = true) (hp : x.extractLsb' 68 3 = s.inst) :
    exec (.timeRecord r) s = .next (failLink r 2 (s.setLink r ((s.link r).named s.inst rest))) := by
  change execTimeRecord r s = _
  simp only [execTimeRecord, h, hx, hu, hp]
  rfl

/-- The state when a TIME record has named a peer with its role and its configuration (R300). -/
def State.peerNamed (s : State) (r : Nat) (x : BitVec 128) (rest : List (BitVec 128)) : State :=
  { s.setLink r ((s.link r).named (x.extractLsb' 68 3) rest) with pkg := { s.pkg with
      roles := tput (x.extractLsb' 68 3).toNat (x.extractLsb' 71 2) s.pkg.roles
      configs := tput (x.extractLsb' 68 3).toNat (x.extractLsb' 82 2) s.pkg.configs } }

omit h hx in
theorem State.link_peerNamed (s : State) (r : Nat) (x : BitVec 128) (rest : List (BitVec 128)) :
    (s.peerNamed r x rest).link r = (s.link r).named (x.extractLsb' 68 3) rest := s.link_setLink_self r _

omit h hx in
theorem offerImage_of_not_linked {s : State} {r : Nat} (h : (s.link r).st ≠ .linked) (peer : BitVec 3) (members : BitVec 8) :
    offerImage r peer members s = s :=
  if_neg (by simp [h])

theorem execTimeRecord_of_other (hu : (s.link r).st.up = true) (hst : (s.link r).st ≠ .linked) (hp : x.extractLsb' 68 3 ≠ s.inst) :
    exec (.timeRecord r) s = .next (offerImage r (x.extractLsb' 68 3) (x.extractLsb' 84 8) (s.peerNamed r x rest)) := by
  have hread : ¬(fld x 0 4 ≠ 3 ∨ (!(s.link r).st.up) = true) := by rw [hx, hu]; decide
  change execTimeRecord r s = _
  simp only [execTimeRecord, h, if_neg hp, if_false, hst, false_and]
  exact congrArg Host.Outcome.next (if_neg hread)

theorem execTimeRecord_of_joined (hst : (s.link r).st = .joined) (hp : x.extractLsb' 68 3 ≠ s.inst) :
    exec (.timeRecord r) s = .next (s.peerNamed r x rest) := by
  have hlinked : (s.link r).st ≠ .linked := by rw [hst]; decide
  rw [execTimeRecord_of_other h hx (by rw [hst]; rfl) hlinked hp, offerImage_of_not_linked (by rw [State.link_peerNamed]; exact hlinked)]

end

/-! ### CAL records -/

/-- The CAL record of the window `win` (R300). -/
def Ridge.calRecord (l : Ridge) (win : BitVec 16) : BitVec 128 :=
  pack 128 [(0, 2), (4, encodeEst l.mean), (28, Nat.min l.num 65535), (44, win.toNat)]

/-- The layout of a CAL record (R300). -/
def Ridge.calFields (l : Ridge) (win : BitVec 16) : List WordField :=
  [⟨0, 4, 2⟩, ⟨4, 24, encodeEst l.mean⟩, ⟨28, 16, Nat.min l.num 65535⟩, ⟨44, 16, win.toNat⟩]

theorem encodeEst_lt (v : Option Int) : encodeEst v < 2 ^ 24 := by
  cases v with
  | none => decide
  | some v => exact BitVec.isLt _

theorem Ridge.calRecord_type (l : Ridge) (win : BitVec 16) : fld (l.calRecord win) 0 4 = 2 := by
  have hnum : Nat.min l.num 65535 < 2 ^ 16 := lt_of_le_of_lt (Nat.min_le_right l.num 65535) (by norm_num)
  have hlaid : LaidOut (l.calFields win) := by
    refine ⟨by simp [calFields], fun x hx => ?_⟩
    fin_cases hx
    exacts [by decide, encodeEst_lt _, hnum, win.isLt]
  have hrec : l.calRecord win = packFields 128 (l.calFields win) := by simp [calRecord, packFields, calFields]
  have hfld := fld_packFields (w := 128) (x := ⟨0, 4, 2⟩) hlaid List.mem_cons_self (by decide)
  rw [hrec]
  exact hfld

/-- A link at the end of the window `win` (R321, R323). -/
def Ridge.windowEnded (l : Ridge) (win : BitVec 16) : Ridge :=
  { l with
    ctlOut := l.ctlOut ++ [l.calRecord win], mIn := l.mean, win := some win, sum := 0, num := 0, noneRun := l.noneRun + 1
    okRun := if l.noneRun = 0 then l.okRun else 0, badRun := if l.noneRun = 0 then l.badRun else 0 }

theorem State.modLink_setLink (s : State) (r : Nat) (v : Ridge) (f : Ridge → Ridge) : (s.setLink r v).modLink r f = s.setLink r (f v) := by
  rw [State.modLink, State.link_setLink_self]
  exact congrArg (fun t => ({ s with rdg := t } : State)) (tput_tput_self r (f v) v s.rdg)

section
variable {s : State} {r : Nat}

theorem execCalWindowEnd_of_due (hu : (s.link r).st.up = true) (hp : s.ptcNow % 2048 = 0)
    (hw : (s.link r).win ≠ some (BitVec.ofNat 16 (s.ptcNow / 2048 - 1))) (hn : (s.link r).noneRun < 8) :
    exec (.calWindowEnd r) s = .next (s.setLink r ((s.link r).windowEnded (BitVec.ofNat 16 (s.ptcNow / 2048 - 1)))) := by
  have hrun : ¬8 < (s.link r).noneRun + 1 := by omega
  refine congrArg Host.Outcome.next ((if_pos (by simp [hu, hp, hw])).trans ?_)
  unfold Ridge.windowEnded
  by_cases h : (s.link r).noneRun = 0
  · simp [h]
    rfl
  · simp [h, hrun]
    rfl

theorem execCalWindowEnd_of_not_due (hp : s.ptcNow % 2048 ≠ 0) : exec (.calWindowEnd r) s = .next s :=
  congrArg Host.Outcome.next (if_neg (by simp [hp]))

/-- A link that has an offset and a latency from the two estimates of a window (R321). -/
def Ridge.aligned (l : Ridge) (a b : Int) (rest : List (BitVec 128)) : Ridge :=
  { l with ctlIn := rest, theta := some ((b - a).tdiv 2), lam := (b + a).tdiv 2 }

variable {x : BitVec 128} {rest : List (BitVec 128)} (h : (s.link r).ctlIn = x :: rest) (hx : fld x 0 4 = 2) (hu : (s.link r).st.up = true)
include h hx hu

theorem execCalRecord_of_both {a b : Int} (ha : (s.link r).mIn = some a) (hb : decodeEst (x.extractLsb' 4 24) = some b)
    (hw : some (x.extractLsb' 44 16) = (s.link r).win) : exec (.calRecord r) s = .next (
      useTheta r ((b - a).tdiv 2) (alignBy r ((b - a).tdiv 2) (s.setLink r ((s.link r).aligned a b rest)))) := by
  have hread : ¬(fld x 0 4 ≠ 2 ∨ (!(s.link r).st.up) = true) := by rw [hx, hu]; decide
  have hlink : (s.setLink r { s.link r with ctlIn := rest }).modLink r (fun l => { l with theta := some ((b - a).tdiv 2), lam := (b + a).tdiv 2 }) =
      s.setLink r ((s.link r).aligned a b rest) :=
    State.modLink_setLink _ _ _ _
  rw [← hlink]
  change execCalRecord r s = _
  simp only [execCalRecord, h, ha, hb, if_pos hw]
  exact congrArg Host.Outcome.next (if_neg hread)

theorem execCalRecord_of_none (ha : (s.link r).mIn = none) : exec (.calRecord r) s = .next (s.setLink r { s.link r with ctlIn := rest }) := by
  change execCalRecord r s = _
  simp only [execCalRecord, h, hx, hu, ha]
  exact congrArg Host.Outcome.next (if_neg (by decide))

end

/-! ### Corrections -/

/-- The clock when a correction adds one tick, or omits the next (R321). -/
def TimeSt.corrected (t : TimeSt) : TimeSt :=
  { t with
    corrN := t.corrN - 1, corrAt := some t.ptc, ptc := if t.corrUp then t.ptc + 1 else t.ptc, omit_ := !t.corrUp || t.omit_ }

theorem execTimeCorrection_of_due {s : State} (hp : s.ptcNow % 1000 = 0) (hn : 0 < s.time.corrN) (ha : s.time.corrAt ≠ some s.time.ptc) :
    exec .timeCorrection s = .next { s with time := s.time.corrected } := by
  refine congrArg Host.Outcome.next ((if_pos ⟨hp, hn, ha⟩).trans ?_)
  unfold TimeSt.corrected
  cases h : s.time.corrUp <;> simp [h]

theorem execTimeCorrection_of_none {s : State} (h : s.time.corrN = 0) : exec .timeCorrection s = .next s :=
  congrArg Host.Outcome.next (if_neg (by simp [h]))

/-! ### PTC_SYNC -/

/-- A link whose alignment a step of the count has made UNCAL (R323). -/
def Ridge.uncalibrated (l : Ridge) : Ridge := { l with align := 0, okRun := 0, badRun := 0 }

theorem stepTo_frame (v : W64) (s : State) : ({ stepTo v s with time := s.time, rdg := s.rdg } : State) = s :=
  congrArg (fun u : State => ({ u with time := s.time } : State)) (State.each_modLink_frame
    ((List.range s.gh.ridgePorts).filter (fun r => (s.link r).align != 0)) (fun _ => Ridge.uncalibrated) s)

theorem stepTo_align (v : W64) {s : State} {r : Nat} (hr : r < s.gh.ridgePorts) : ((stepTo v s).link r).align = 0 := by
  have h := State.link_each_modLink (f := Ridge.uncalibrated) (fun _ => rfl) ((List.range s.gh.ridgePorts).filter (fun r => (s.link r).align != 0)) s r
  refine (congrArg Ridge.align h).trans ?_
  split
  next => rfl
  next hmem => simpa [hr] using hmem

section
variable {s : State} {fr : BitVec 74}

theorem execPtcSyncFrame_of_no_frame (h : s.rst.role ≠ roleMaster ∨ fr.getLsbD 73 = true ∨ fr.getLsbD 0 = false) :
    exec (.ptcSyncFrame fr) s = .next s := by
  refine congrArg Host.Outcome.next (if_pos ?_)
  rcases h with h | h | h
  · exact .inr (.inl h)
  · exact .inr (.inr (.inl h))
  · exact .inr (.inr (.inr (by rw [h]; rfl)))

variable (hr : s.rst.inReset = false) (hm : s.rst.role = roleMaster) (h73 : fr.getLsbD 73 = false) (h0 : fr.getLsbD 0 = true)
include hr hm h73 h0

theorem execPtcSyncFrame_of_frame : exec (.ptcSyncFrame fr) s = .next (
    if crc8 (fr.extractLsb' 9 64) ≠ fr.extractLsb' 1 8 then { s with time := { s.time with syncBad := satAdd s.time.syncBad 1 } }
    else if (!s.time.syncSeen && !s.hasJoined) = true then
      { stepTo (fr.extractLsb' 9 64) s with time := { (stepTo (fr.extractLsb' 9 64) s).time with syncSeen := true, loaded := true } }
    else if fr.extractLsb' 9 64 = s.time.ptc then { s with time := { s.time with syncSeen := true } }
    else
      raise { src := 0x20, detail := .misc 1 (BitVec.ofInt 56 (((fr.extractLsb' 9 64).toNat : Int) - (s.time.ptc.toNat : Int))).toNat, acc := accInt }
        { s with time := { s.time with syncSeen := true } }) :=
  congrArg Host.Outcome.next (if_neg (by rw [hr, hm, h73, h0]; decide))

theorem execPtcSyncFrame_of_bad (hcrc : crc8 (fr.extractLsb' 9 64) ≠ fr.extractLsb' 1 8) :
    exec (.ptcSyncFrame fr) s = .next { s with time := { s.time with syncBad := satAdd s.time.syncBad 1 } } := by
  rw [execPtcSyncFrame_of_frame hr hm h73 h0, if_pos hcrc]

variable (hcrc : crc8 (fr.extractLsb' 9 64) = fr.extractLsb' 1 8)
include hcrc

theorem execPtcSyncFrame_of_first (hn : s.time.syncSeen = false) (hj : s.hasJoined = false) : exec (.ptcSyncFrame fr) s = .next
    { stepTo (fr.extractLsb' 9 64) s with time := { (stepTo (fr.extractLsb' 9 64) s).time with syncSeen := true, loaded := true } } := by
  rw [execPtcSyncFrame_of_frame hr hm h73 h0, if_neg (not_not.mpr hcrc), if_pos (by rw [hn, hj]; rfl)]

theorem execPtcSyncFrame_of_later (hn : s.time.syncSeen = true) (hv : fr.extractLsb' 9 64 ≠ s.time.ptc) : exec (.ptcSyncFrame fr) s = .next (
    raise { src := 0x20, detail := .misc 1 (BitVec.ofInt 56 (((fr.extractLsb' 9 64).toNat : Int) - (s.time.ptc.toNat : Int))).toNat, acc := accInt }
      { s with time := { s.time with syncSeen := true } }) := by
  rw [execPtcSyncFrame_of_frame hr hm h73 h0, if_neg (not_not.mpr hcrc), if_neg (by rw [hn]; exact Bool.false_ne_true), if_neg hv]

end

theorem execPtcStatus_of_cmd {s : State} {c : Nat} {k : Kcp} (hk : s.newCmd c 0x4A = some k) :
    ∃ ws, exec (.ptcStatus c) s = .next (finish k stOk 0 (s.time.ptc :: ws) s) ∧ ws.length = 9 :=
  ⟨_, congrArg Host.Outcome.next (runCmd_of_some hk rfl), rfl⟩

/-- Settles O47: TIME and CAL records name the peer and give offset and latency, and the count takes corrections and PTC_SYNC. -/
theorem timeRecordsAndCorrections : Obligations.TimeRecordsAndCorrections := by
  unfold Obligations.TimeRecordsAndCorrections
  intro s r fr c k
  refine ⟨execTimeRecordSend_of_due, execTimeRecordSend_of_not_due, fun x rest h hx hu hp => ?ownRecord, fun x rest h hx hst hp => ?peerRecord,
    fun hu hp hw hn => ?windowEnd, execCalWindowEnd_of_not_due, fun x rest a b h hx hu ha hb hw => ?bothEstimates,
    fun x rest h hx hu ha => execCalRecord_of_none h hx hu ha, fun hp hn ha => ?correction, execTimeCorrection_of_none,
    execPtcSyncFrame_of_no_frame, fun hr hm h73 h0 => ⟨execPtcSyncFrame_of_bad hr hm h73 h0, fun hcrc hn hj => ?firstFrame,
      fun hcrc hn hv => ⟨{ s with time := { s.time with syncSeen := true } }, rfl, execPtcSyncFrame_of_later hr hm h73 h0 hcrc hn hv⟩⟩,
    execPtcStatus_of_cmd⟩
  case ownRecord =>
    refine ⟨_, execTimeRecord_of_own h hx hu hp, ?_⟩
    rw [State.link_setLink_self]
    exact ⟨rfl, rfl, rfl⟩
  case peerRecord => exact ⟨_, execTimeRecord_of_joined h hx hst hp, State.link_peerNamed s r x rest, rfl, rfl⟩
  case windowEnd =>
    refine ⟨_, execCalWindowEnd_of_due hu hp hw hn, ?_⟩
    rw [State.link_setLink_self]
    exact ⟨rfl, rfl, rfl, rfl, rfl, ⟨_, rfl, Ridge.calRecord_type _ _⟩, rfl⟩
  case bothEstimates =>
    refine ⟨s.setLink r ((s.link r).aligned a b rest), ?_⟩
    rw [State.link_setLink_self]
    exact ⟨rfl, rfl, rfl, execCalRecord_of_both h hx hu ha hb hw⟩
  case correction =>
    refine ⟨_, execTimeCorrection_of_due hp hn ha, rfl, fun hup => if_pos hup, fun hup => ⟨if_neg (Bool.eq_false_iff.mp hup), ?_⟩, rfl⟩
    change (!s.time.corrUp || s.time.omit_) = true
    rw [hup]
    rfl
  case firstFrame =>
    have hframe := stepTo_frame (fr.extractLsb' 9 64) s
    have halign := fun j hj => stepTo_align (fr.extractLsb' 9 64) (s := s) (r := j) hj
    have hptc : (stepTo (fr.extractLsb' 9 64) s).time.ptc = fr.extractLsb' 9 64 := rfl
    have hexec := execPtcSyncFrame_of_first hr hm h73 h0 hcrc hn hj
    generalize stepTo (fr.extractLsb' 9 64) s = t at hframe halign hptc hexec
    exact ⟨_, hexec, hptc, rfl, rfl, halign, hframe⟩

end Sys2Proof.Machine
end

section
/-! Words pushed into a command queue, the end of a partly written command, and commands that come from or go to another instance
(R364, R377, R380, R385). -/

namespace Sys2Proof.Machine

variable {s : State} {w : Window}

/-! ### Pushing words -/

@[simp] theorem pushedWord_answer (v : BitVec 32) (s : State) (e : Bool) (d : BitVec 32) :
    pushedWord w v (s.answer w e d) = v ++ (s.hub.win w).cmdLo := by
  simp [pushedWord, State.win]

theorem pushWord_of_intact (h : s.hub.rebuild = none) (v : W64) (fin : Bool) : pushWord w v fin s =
    { s with hub := if fin then closePacket w (storeWord w v fin s.now s.hub) else storeWord w v fin s.now s.hub } := by
  simp [pushWord, h]

/-- During a rebuild of the free list a pushed word waits (R377). -/
theorem pushWord_of_rebuild (h : s.hub.rebuild ≠ none) (v : W64) (fin : Bool) : pushWord w v fin s =
    { s with hub := { s.hub with waiting := s.hub.waiting ++ [.push w v fin] } } :=
  if_pos (Option.isSome_iff_ne_none.mpr h)

@[simp] theorem State.answer_rebuild (s : State) (w : Window) (e : Bool) (d : BitVec 32) : (s.answer w e d).hub.rebuild = s.hub.rebuild := by
  cases w <;> rfl

section
variable {priv : Bool} (hr : s.rst.inReset = false) (hp : w = .hostp → priv = true)
include hr hp

theorem execCmdDataHi_of_admitted (v : BitVec 32) : exec (.cmdDataHi w v priv) s =
    .next (pushWord w (v ++ (s.hub.win w).cmdLo) false (s.answer w false 0)) :=
  congrArg Host.Outcome.next ((windowWrite_of_admitted _ hr hp).trans (by rw [pushedWord_answer]))

theorem execCmdEndHi_of_admitted (v : BitVec 32) : exec (.cmdEndHi w v priv) s =
    .next (pushWord w (v ++ (s.hub.win w).cmdLo) true (s.answer w false 0)) :=
  congrArg Host.Outcome.next ((windowWrite_of_admitted _ hr hp).trans (by rw [pushedWord_answer]))

end

/-! ### A partly written command that stays behind -/

/-- A reply of R365 takes the priority of the header, or 0 when the header is unusable (R371). -/
theorem checkReply_eq (w : Window) (hdr : W64) (st d : Nat) (h : HubSt) : checkReply w hdr st d h =
    h.writePacket (rplqOf w) (if bit hdr 63 ∧ fld hdr 48 8 ≤ 64 then fld hdr 30 2 else 0) false
      [replyHeader (fld hdr 56 7) 0 (fld hdr 32 16) st d] := by
  simp only [checkReply, checkPrio, Bool.and_eq_true, decide_eq_true_eq]
  rfl

section
variable {o : OpenPkt} (ho : (s.hub.win w).opn = some o) (ht : o.last + 1000000 ≤ s.now)
include ho ht

theorem truncate_of_late : truncate w s =
    if o.collect then
      { s with hub := ((s.hub.setOpen w none).release o.cells).setWin w { ((s.hub.setOpen w none).release o.cells).win w with
        flushCmd := (((s.hub.setOpen w none).release o.cells).win w).flushCmd.map (fun f => { f with truncated := true }) } }
    else { s with hub := checkReply w o.hdr stPoisoned 2 ((s.hub.setOpen w none).release o.cells) } := by
  simp [truncate, State.win, ho, Nat.not_lt.mpr ht]

end

/-! ### Commands of another instance -/

theorem execForwardTimeout_of_late {c t : Nat} {k : Kcp} (hk : s.cmd c = some k) (hf : k.fwd = some t) (ht : t + 10000000 ≤ s.now) :
    exec (.forwardTimeout c) s = .next (finish k stFailed 3 [] s) := by
  simp [exec, execForwardTimeout, hk, hf, ht]

theorem execForwardedReply_of_forwarded {c t : Nat} {k : Kcp} (hk : s.cmd c = some k) (hf : k.fwd = some t) (st : BitVec 8) (d : BitVec 24)
    (ws : List W64) : exec (.forwardedReply c st d ws) s = .next (finish k st.toNat d.toNat ws s) := by
  simp [exec, execForwardedReply, hk, hf]

/-- Whether a command is one of those that R385 forwards, by its header and its first parameter word. -/
theorem forwards_kcpOf (id : Nat) (w : Window) (hd : W64) (ws : List W64) : (kcpOf id w (hd :: ws)).forwards = true ↔
    fld hd 56 7 = 0x27 ∨ fld hd 56 7 = 0x28 ∨ fld hd 56 7 = 0x3B ∨ ((fld hd 56 7 = 0x39 ∨ fld hd 56 7 = 0x3A) ∧ fld (ws.headD 0) 0 8 = 2) := by
  have hop : (kcpOf id w (hd :: ws)).opc = fld hd 56 7 := by
    simp [kcpOf, Kcp.opc, hdrOp, fld]
  have hpar : (kcpOf id w (hd :: ws)).par 0 = ws.headD 0 := by
    cases ws <;> rfl
  simp only [Kcp.forwards, hop, hpar, Bool.or_eq_true, Bool.and_eq_true, beq_iff_eq]
  tauto

/-- Settles O8: the word of an access by the state of the free list, the late packet by who collects it, and the commands of other
instances by their opcode. -/
theorem wordsAndForwardedCommands : Obligations.WordsAndForwardedCommands := by
  unfold Obligations.WordsAndForwardedCommands
  refine ⟨fun s w v priv hr hp => ⟨fun hb => ?intact, fun hb => ?rebuild⟩, fun s w o ho ht => ⟨fun hc => ?answered, fun hc => ?collected⟩,
    fun s c k t st d ws src ref hd => ⟨fun hk hf => execForwardedReply_of_forwarded hk hf st d ws, execForwardTimeout_of_late,
      fun hn => ?ignored, fun hf => ?taken⟩⟩
  case intact =>
    have ha : (s.answer w false 0).hub.rebuild = none := by rw [State.answer_rebuild, hb]
    rw [execCmdDataHi_of_admitted hr hp, execCmdEndHi_of_admitted hr hp, pushWord_of_intact ha, pushWord_of_intact ha]
    exact ⟨rfl, rfl⟩
  case rebuild =>
    have ha : (s.answer w false 0).hub.rebuild ≠ none := by rwa [State.answer_rebuild]
    rw [execCmdDataHi_of_admitted hr hp, execCmdEndHi_of_admitted hr hp, pushWord_of_rebuild ha, pushWord_of_rebuild ha]
    exact ⟨rfl, rfl⟩
  case answered =>
    refine congrArg Host.Outcome.next ((truncate_of_late ho ht).trans ?_)
    rw [hc, checkReply_eq]
    rfl
  case collected =>
    refine congrArg Host.Outcome.next ((truncate_of_late ho ht).trans ?_)
    rw [hc]
    rfl
  case ignored => exact congrArg Host.Outcome.next (if_neg (mt (forwards_kcpOf _ _ hd ws).mp hn))
  case taken => exact congrArg Host.Outcome.next (if_pos ((forwards_kcpOf _ _ hd ws).mpr hf))

end Sys2Proof.Machine
end

section
/-! The owners and the quotas of the queues, the end of a rebuild, and the accesses that are refused (R351, R369, R372, R377, R500). -/

namespace Sys2Proof.Machine

variable {s : State}

/-! ### Owners -/

theorem execQueueOwnerSwitch_evq (s : State) : exec (.queueOwnerSwitch .evq) s =
    .next (if s.hub.evq.begun = none then { s with hub := { s.hub with evqOwn := s.hub.evqWant } } else s) := by
  simp only [exec, execQueueOwnerSwitch, Option.isNone_iff_eq_none]

theorem execQueueOwnerSwitch_loft (s : State) : exec (.queueOwnerSwitch .loft) s =
    .next (if s.hub.loft.begun = none then { s with hub := { s.hub with loftOwn := s.hub.loftWant } } else s) := by
  simp only [exec, execQueueOwnerSwitch, Option.isNone_iff_eq_none]

/-! ### Quotas -/

theorem HubSt.quotaOk_iff (h : HubSt) (q : QCode) (n : Nat) : h.quotaOk q n = true ↔
    n % 64 = 0 ∧ quotaMin q ≤ n ∧ h.quotaSum - (h.queue q).quota.toNat + n ≤ 16384 := by
  simp [HubSt.quotaOk, and_assoc]

@[simp] theorem State.answer_quotaOk (s : State) (w : Window) (e : Bool) (d : BitVec 32) (q : QCode) (n : Nat) :
    (s.answer w e d).hub.quotaOk q n = s.hub.quotaOk q n := by
  cases w <;> cases q <;> rfl

/-- A quota that is written takes effect or is turned away, and what waits for room goes on (R369). -/
theorem execQuotaWrite_mgmtp (hr : s.rst.inReset = false) (q : QCode) (v : BitVec 32) (priv : Bool) :
    exec (.quotaWrite .mgmtp q v priv) s = .next (resume { s.answer .mgmtp false 0 with
      hub := (s.answer .mgmtp false 0).hub.setQueue q (if s.hub.quotaOk q (fld v 0 15) = true
        then { (s.answer .mgmtp false 0).hub.queue q with quota := BitVec.ofNat 15 (fld v 0 15), rej := false }
        else { (s.answer .mgmtp false 0).hub.queue q with rej := true }) }) :=
  congrArg Host.Outcome.next ((mgmtWrite_mgmtp _ hr).trans (by simp only [State.answer_quotaOk]))

/-! ### The end of a rebuild -/

theorem execCellPoolRebuildDone_of_rebuild (h : s.hub.rebuild ≠ none) : exec .cellPoolRebuildDone s =
    .next (drainBacklog (s.hub.waiting.foldl runWaiting { s with hub := { s.hub with rebuild := none, waiting := [] } })) :=
  congrArg Host.Outcome.next (if_pos (Option.isSome_iff_ne_none.mpr h))

theorem execCellPoolRebuildDone_of_intact (h : s.hub.rebuild = none) : exec .cellPoolRebuildDone s = .next s := by
  simp [exec, execCellPoolRebuildDone, h]

/-! ### Refused accesses -/

/-- An access outside the user page is refused during reset, and through HOSTP without privilege (R351, R500). -/
def State.refuses (s : State) (w : Window) (priv : Bool) : Prop := s.rst.inReset = true ∨ (w = .hostp ∧ priv = false)

section
variable {w : Window} {priv : Bool} (h : s.refuses w priv)
include h

theorem State.refuses.or_unprivileged : (s.rst.inReset || unprivileged w priv) = true := by
  rcases h with h | ⟨rfl, rfl⟩
  · rw [h]; rfl
  · exact Bool.or_true _

/-- A refused access is answered with an error and data zero, whatever it would have done (R351, R500). -/
theorem windowWrite_of_refused (f : State → State) : windowWrite w priv f s = s.answer w true 0 := if_pos h.or_unprivileged

theorem mgmtWrite_of_refused (f : State → State) : mgmtWrite w priv f s = s.answer w true 0 := windowWrite_of_refused h _

theorem execPerfCapture_of_refused : exec (.perfCapture w false priv) s = .next (s.answer w true 0) :=
  congrArg Host.Outcome.next ((if_neg Bool.false_ne_true).trans (windowWrite_of_refused h _))

theorem refusedAt_of_refused {off : Nat} (ho : off < 0xF000) : refusedAt s w off priv = true := by
  have hu := h.or_unprivileged
  rw [Bool.or_eq_true] at hu
  simp only [refusedAt, isUser_of_lt w ho, Bool.false_eq_true, if_false, Bool.or_eq_true]
  exact hu.imp_left .inl

theorem execRegisterWrite_of_refused {off : BitVec 16} (ho : off.toNat < 0xF000) (v : BitVec 32) :
    exec (.registerWrite w off v priv) s = .next (s.answer w true 0) :=
  congrArg Host.Outcome.next (if_pos (refusedAt_of_refused h ho))

end

/-- Settles O11: the owners, the quota by `HubSt.quotaOk`, the end of a rebuild, and each access that is refused. -/
theorem ownersQuotasAndRefusals : Obligations.OwnersQuotasAndRefusals := by
  unfold Obligations.OwnersQuotasAndRefusals
  refine ⟨fun s v priv q hr => ⟨?owner, fun h => ?evq, fun h => ?loft, fun h => ?evqBegun, fun h => ?loftBegun, ?quota,
    execCellPoolRebuildDone_of_rebuild, execCellPoolRebuildDone_of_intact⟩, fun s w priv v h => ?refused⟩
  case owner => exact congrArg Host.Outcome.next (mgmtWrite_mgmtp _ hr)
  case evq => rw [execQueueOwnerSwitch_evq, if_pos h]
  case loft => rw [execQueueOwnerSwitch_loft, if_pos h]
  case evqBegun => rw [execQueueOwnerSwitch_evq, if_neg h]
  case loftBegun => rw [execQueueOwnerSwitch_loft, if_neg h]
  case quota =>
    rw [execQuotaWrite_mgmtp hr]
    simp only [HubSt.quotaOk_iff]
    cases q <;> rfl
  case refused =>
    have hw := fun f => congrArg (Host.Outcome.next (φ := Fault) (ρ := Refusal)) (windowWrite_of_refused h f)
    have hm := fun f => congrArg (Host.Outcome.next (φ := Fault) (ρ := Refusal)) (mgmtWrite_of_refused h f)
    exact ⟨hw _, hw _, fun q => hw _, hw _, hw _, hw _, hw _, hm _, fun q => hm _, hw _, fun pq => hm _, hw _, hm _, fun r => hw _,
      execPerfCapture_of_refused h, fun off ho => execRegisterWrite_of_refused h ho v⟩

end Sys2Proof.Machine
end

section
/-! FACTORY_INJECT by the kind of its fault, and the accesses of the DBG port that answer a next state (R352, R353, R421, R475, R476). -/

namespace Sys2Proof.Machine

/-! ### FACTORY_INJECT -/

section
variable {s : State} {c : Nat} {k : Kcp} (hk : s.newCmd c 0x7E = some k)
include hk

/-! Kinds 0 and 1 invert stored bits of a word. -/

section
variable (hkind : fld (k.par 0) 8 2 < 2)
include hkind

theorem execFactoryInject_array_of_no_array (ha : hasArray (fld (k.par 0) 0 6) = false) :
    exec (.factoryInject c) s = .next (finish k stBadParam (badDetail 1 8) [] s) :=
  congrArg Host.Outcome.next ((runCmd_of_some hk rfl).trans ((if_pos hkind).trans (if_pos (by rw [ha]; rfl))))

variable (ha : hasArray (fld (k.par 0) 0 6) = true) (hu : fld (k.par 0) 16 8 < s.gh.slices)
include ha hu

/-- An injection into an array of a slice of the instance looks for its word first (R475, R476). -/
theorem execFactoryInject_array : exec (.factoryInject c) s = .next (
    match injectPlace (fld (k.par 0) 0 6) (fld (k.par 1) 0 32) with
    | none => finish k stBadParam (badDetail 2 0) [] s
    | some x =>
      if injectWords x.1 ≤ x.2 then finish k stBadParam (badDetail 2 0) [] s
      else finish k stOk 0 [] (injectArrayFault x.1 x.2 (fld (k.par 0) 16 8) (if fld (k.par 0) 8 2 = 0 then 1 else 3)
        (raise (injectEv (fld (k.par 0) 0 6) (fld (k.par 0) 8 2)) s))) :=
  congrArg Host.Outcome.next ((runCmd_of_some hk rfl).trans ((if_pos hkind).trans
    ((if_neg (by rw [ha]; exact Bool.false_ne_true)).trans (if_neg (Nat.not_le.mpr hu)))))

theorem execFactoryInject_array_of_word {a i : Nat} (hp : injectPlace (fld (k.par 0) 0 6) (fld (k.par 1) 0 32) = some (a, i))
    (hi : i < injectWords a) : exec (.factoryInject c) s = .next (finish k stOk 0 [] (injectArrayFault a i (fld (k.par 0) 16 8)
      (if fld (k.par 0) 8 2 = 0 then 1 else 3) (raise (injectEv (fld (k.par 0) 0 6) (fld (k.par 0) 8 2)) s))) := by
  rw [execFactoryInject_array hk hkind ha hu, hp]
  exact congrArg Host.Outcome.next (if_neg (Nat.not_le.mpr hi))

theorem execFactoryInject_array_of_no_word
    (hn : ∀ a i, injectPlace (fld (k.par 0) 0 6) (fld (k.par 1) 0 32) = some (a, i) → injectWords a ≤ i) :
    exec (.factoryInject c) s = .next (finish k stBadParam (badDetail 2 0) [] s) := by
  rw [execFactoryInject_array hk hkind ha hu]
  split
  next => rfl
  next x hx => rw [if_pos (hn x.1 x.2 hx)]

end

/-! The other kinds have the fault of the source happen at its unit. -/

section
variable (hkind : 2 ≤ fld (k.par 0) 8 2) {m : Nat} (hm : faultUnits s.gh (fld (k.par 0) 0 6) = some m)
include hkind hm

theorem execFactoryInject_own : exec (.factoryInject c) s = .next (
    if m ≤ fld (k.par 0) 16 8 then finish k stBadParam (badDetail 1 16) [] s
    else if fld (k.par 0) 0 6 = 0x0B ∧ injectWords 6 ≤ fld (k.par 1) 0 32 then finish k stBadParam (badDetail 2 0) [] s
    else finish k stOk 0 [] (ownFault (fld (k.par 0) 0 6) (fld (k.par 0) 16 8) (fld (k.par 1) 0 32)
      (raise (injectEv (fld (k.par 0) 0 6) (fld (k.par 0) 8 2)) s))) := by
  refine congrArg Host.Outcome.next ((runCmd_of_some hk rfl).trans ((if_neg (Nat.not_lt.mpr hkind)).trans ?_))
  simp only [hm]

theorem execFactoryInject_own_of_unit (hu : fld (k.par 0) 16 8 < m)
    (hloc : fld (k.par 0) 0 6 = 0x0B → fld (k.par 1) 0 32 < injectWords 6) :
    exec (.factoryInject c) s = .next (finish k stOk 0 [] (ownFault (fld (k.par 0) 0 6) (fld (k.par 0) 16 8) (fld (k.par 1) 0 32)
      (raise (injectEv (fld (k.par 0) 0 6) (fld (k.par 0) 8 2)) s))) := by
  rw [execFactoryInject_own hk hkind hm, if_neg (Nat.not_le.mpr hu), if_neg (fun h => Nat.not_le.mpr (hloc h.1) h.2)]

theorem execFactoryInject_own_of_no_unit (hu : m ≤ fld (k.par 0) 16 8) :
    exec (.factoryInject c) s = .next (finish k stBadParam (badDetail 1 16) [] s) := by
  rw [execFactoryInject_own hk hkind hm, if_pos hu]

end
end

/-! ### What an injection leaves -/

/-- Inverting bits of a sound word leaves the word with those bits inverted (R476). -/
theorem Slice.flipBits_errs_of_sound {v : Slice} {a i : Nat} {m : BitVec 2} (he : v.errAt a i = none) (hm : m ≠ 0) :
    (v.flipBits a i m).errs = v.errs.filter (fun e => !(e.array == a && e.addr == i)) ++ [{ array := a, addr := i, flip := m }] := by
  have h0 : (0 : BitVec 2) ^^^ m = m := BitVec.zero_xor
  simp only [Slice.flipBits, he, h0, if_neg hm]

/-! ### The DBG port -/

theorem State.idcode_lsb (s : State) : s.idcode.getLsbD 0 = true := by
  rw [State.idcode, pack, BitVec.getLsbD_ofNat, Nat.testBit_zero]
  simp only [lsum, List.map_cons, List.map_nil, List.foldl_cons, List.foldl_nil, Nat.shiftLeft_eq, Bool.and_eq_true, decide_eq_true_eq]
  omega

theorem State.debugOpen_iff (s : State) : s.debugOpen = true ↔ s.prot.dbg = true ∨ s.rst.test = true := Bool.or_eq_true_iff

theorem execTapAccess_read_of_locked {s : State} (ho : s.debugOpen = false) (n : Nat) (d : W64) :
    execTapAccess (.instrument n false d) s = .next { s with tapSel := false, tdo := 0 } := by
  simp [execTapAccess, ho]

/-- The scan of a router that is not drained reads as zero (R283). -/
theorem execTapAccess_read_of_undrained {s : State} {n : Nat} (hd : s.mesh.drained = false) (hn : Config.routerScan n = true) (d : W64) :
    execTapAccess (.instrument n false d) s = .next { s with tapSel := false, tdo := 0 } := by
  simp [execTapAccess, hd, hn]

/-- A read of an open instrument changes what the port shows, and takes a free value (R353). -/
theorem execTapAccess_read_of_open {s : State} {n : Nat} (ho : s.debugOpen = true)
    (hd : ¬(s.mesh.drained = false ∧ Config.routerScan n = true)) (d : W64) :
    execTapAccess (.instrument n false d) s = .next { s.used with tapSel := false, tdo := Config.instrument (n + 1) s.fresh } := by
  have hopen : (s.debugOpen && (s.mesh.drained || !(Config.routerScan n))) = true := by
    rw [ho]
    revert hd
    cases s.mesh.drained <;> cases Config.routerScan n <;> decide
  exact (if_pos hopen).trans (if_neg Bool.false_ne_true)

theorem execTapAccess_read_frame {s : State} (ho : s.debugOpen = true) (n : Nat) (d : W64) :
    ∃ t : State, execTapAccess (.instrument n false d) s = .next t ∧
      ({ t with tdo := s.tdo, tapSel := s.tapSel, fresh := s.fresh } : State) = s ∧
      (s.mesh.drained = false → Config.routerScan n = true → t.tdo = 0) := by
  by_cases h : s.mesh.drained = false ∧ Config.routerScan n = true
  · exact ⟨_, execTapAccess_read_of_undrained h.1 h.2 d, rfl, fun _ _ => rfl⟩
  · exact ⟨_, execTapAccess_read_of_open ho h d, rfl, fun hd hn => absurd ⟨hd, hn⟩ h⟩

/-- Settles O52: the injections by their kind and what they leave, then the accesses of the DBG port. -/
theorem injectionAndDebugPort : Obligations.InjectionAndDebugPort := by
  unfold Obligations.InjectionAndDebugPort
  intro s c k n d tdi
  refine ⟨fun a i hk hkind ha hu => execFactoryInject_array_of_word hk hkind ha hu, execFactoryInject_array_of_no_array,
    execFactoryInject_array_of_no_word, fun m hk hkind hm hu hloc => execFactoryInject_own_of_unit hk hkind hm hu hloc,
    fun m hk hkind hm => execFactoryInject_own_of_no_unit hk hkind hm, fun a i v m => Slice.flipBits_errs_of_sound, fun hs => if_neg hs,
    fun hs => if_pos hs, rfl, rfl, s.idcode_lsb, rfl, rfl,
    fun ho => ⟨execTapAccess_read_of_locked ho n d, execTapAccess_write_of_locked ho n d⟩,
    fun ho => ⟨execTapAccess_read_frame ho n d, execTapAccess_write_of_open ho n d⟩, s.debugOpen_iff⟩

end Sys2Proof.Machine
end

section
/-! The answers of the memory controller, and the timeouts and the self-refresh of a memory port (R341 to R347). -/

namespace Sys2Proof.Machine

variable {s : State} {p : Nat}

/-! ### Chunks of a read -/

section
variable {tag : BitVec 8} {valid poison : BitVec 4} {d : BitVec 512} {err : Bool}

theorem execMemReadChunk_of_failed (hf : (s.mp p).failed = true) : exec (.memReadChunk p tag valid d poison err) s =
    .next (s.setMp p { s.mp p with discards := (s.mp p).discards + chunkCount valid }) :=
  congrArg Host.Outcome.next (if_pos hf)

/-- A port whose controller answers: it is not FAILED, and not under MPn_ABORT. -/
def MemPort.answers (m : MemPort) : Prop := m.failed = false ∧ m.abort = false

theorem execMemReadChunk_of_abort (hf : (s.mp p).failed = false) (ha : (s.mp p).abort = true) :
    exec (.memReadChunk p tag valid d poison err) s = .next s := by
  simp [exec, execMemReadChunk, hf, ha]

theorem execMemReadChunk_of_unknown (hm : (s.mp p).answers) (hc : (s.mp p).outst.find? (fun c => !c.write && c.tag == tag) = none) :
    exec (.memReadChunk p tag valid d poison err) s = .next s := by
  simp [exec, execMemReadChunk, hm.1, hm.2, hc]

/-- The port after a beat of chunks for the read `c`: done at its fourth chunk, else with the chunks noted; those of a failed read are
counted (R341, R343). -/
def MemPort.tookChunks (m : MemPort) (tag : BitVec 8) (c : MemCmd) (valid : BitVec 4) (err : Bool) : MemPort :=
  { m with
    outst := if c.got ||| valid = 15#4 then m.outst.filter (fun x => !(!x.write && x.tag == tag))
      else m.outst.map (fun x => if !x.write && x.tag == tag then { c with got := c.got ||| valid, void := c.void || err } else x)
    discards := if c.void then m.discards + chunkCount (valid &&& ~~~c.got) else m.discards }

/-- What a read has and what a beat adds to it make up what the read has and what the beat holds. -/
theorem or_and_not_self {n : Nat} (g v : BitVec n) : g ||| (v &&& ~~~g) = g ||| v := by
  ext i hi
  cases hg : g[i] <;> simp [hg]

/-- An error counts once: where the read is void already it changes nothing (R343). -/
theorem ite_and_not {α : Type} (err void : Bool) (a b c : α) :
    (if (err && !void) = true then a else if void = true then b else c) = if void = true then b else if err = true then a else c := by
  cases void <;> cases err <;> rfl

theorem execMemReadChunk_of_read {c : MemCmd} (hm : (s.mp p).answers) (hc : (s.mp p).outst.find? (fun c => !c.write && c.tag == tag) = some c) :
    exec (.memReadChunk p tag valid d poison err) s = .next (
      if c.void then s.setMp p ((s.mp p).tookChunks tag c valid err)
      else if err then failRead true c (s.setMp p ((s.mp p).tookChunks tag c valid err))
      else readArrives c (valid &&& ~~~c.got) d poison (s.setMp p ((s.mp p).tookChunks tag c valid err))) := by
  refine congrArg Host.Outcome.next ((if_neg (Bool.eq_false_iff.mp hm.1)).trans ((if_neg (Bool.eq_false_iff.mp hm.2)).trans ?_))
  simp only [hc, or_and_not_self]
  exact ite_and_not err c.void _ _ _

/-! ### Acknowledgements of a write -/

theorem execMemWriteAck_of_failed (hf : (s.mp p).failed = true) :
    exec (.memWriteAck p tag err) s = .next (s.setMp p { s.mp p with discards := (s.mp p).discards + 1 }) :=
  congrArg Host.Outcome.next (if_pos hf)

theorem execMemWriteAck_of_abort (hf : (s.mp p).failed = false) (ha : (s.mp p).abort = true) :
    exec (.memWriteAck p tag err) s = .next s := by
  simp [exec, execMemWriteAck, hf, ha]

theorem execMemWriteAck_of_unknown (hm : (s.mp p).answers) (hc : (s.mp p).outst.find? (fun c => c.write && c.tag == tag) = none) :
    exec (.memWriteAck p tag err) s = .next s := by
  simp [exec, execMemWriteAck, hm.1, hm.2, hc]

theorem execMemWriteAck_of_write {c : MemCmd} (hm : (s.mp p).answers) (hc : (s.mp p).outst.find? (fun c => c.write && c.tag == tag) = some c) :
    exec (.memWriteAck p tag err) s = .next (
      let u := s.setMp p { s.mp p with outst := (s.mp p).outst.filter (fun x => !(x.write && x.tag == tag)) }
      if c.void then u else endWriteThrough c.slice (grantRun c.slice (if err then failWrite c u else ackWrite c u))) := by
  refine congrArg Host.Outcome.next ((if_neg (Bool.eq_false_iff.mp hm.1)).trans ((if_neg (Bool.eq_false_iff.mp hm.2)).trans ?_))
  simp only [hc]

end

/-! ### Timeouts -/

/-- Whether a command has been outstanding for its limit (R344). -/
def MemCmd.late (s : State) (c : MemCmd) : Bool :=
  match c.presented with
  | some t => decide (t + c.limit ≤ s.now)
  | none => false

theorem MemCmd.late_iff {c : MemCmd} : c.late s = true ↔ ∃ t, c.presented = some t ∧ t + c.limit ≤ s.now := by
  unfold MemCmd.late
  split
  next t ht => simp [ht]
  next hn => simp [hn]

theorem execMemTimeout_eq (s : State) (p : Nat) : exec (.memTimeout p) s =
    .next (if !(s.mp p).failed && !(s.mp p).sr && (s.mp p).outst.any (MemCmd.late s) then failPort p 1 s else s) := rfl

theorem execMemTimeout_of_late (hf : (s.mp p).failed = false) (hs : (s.mp p).sr = false)
    (hl : ∃ c ∈ (s.mp p).outst, ∃ t, c.presented = some t ∧ t + c.limit ≤ s.now) : exec (.memTimeout p) s = .next (failPort p 1 s) := by
  obtain ⟨c, hc, ht⟩ := hl
  have hany : (s.mp p).outst.any (MemCmd.late s) = true := List.any_eq_true.mpr ⟨c, hc, MemCmd.late_iff.mpr ht⟩
  rw [execMemTimeout_eq, hf, hs, hany]
  rfl

theorem execMemTimeout_of_in_time (hl : ∀ c ∈ (s.mp p).outst, ∀ t, c.presented = some t → s.now < t + c.limit) :
    exec (.memTimeout p) s = .next s := by
  have hany : ¬(s.mp p).outst.any (MemCmd.late s) = true := by
    intro h
    obtain ⟨c, hc, hlate⟩ := List.any_eq_true.mp h
    obtain ⟨t, ht, hle⟩ := MemCmd.late_iff.mp hlate
    exact Nat.not_le.mpr (hl c hc t ht) hle
  rw [execMemTimeout_eq, Bool.eq_false_iff.mpr hany, Bool.and_false]
  rfl

/-! ### Self-refresh -/

theorem execMemSrExit_of_sr (hs : (s.mp p).sr = true) : exec (.memSrExit p) s = .next (s.setMp p { s.mp p with
    sr := false, wake := false, heldFrom := none
    outst := (s.mp p).outst.map (fun c => { c with presented := c.presented.map (fun t => t + (s.now - (s.mp p).srAt)) }) }) := by
  simp only [exec, execMemSrExit, State.modMp, hs, if_true]

theorem execMemWakeRaise_of_due {t : Nat} (hh : (s.mp p).heldFrom = some t) (hs : (s.mp p).sr = true) (hw : (s.mp p).wake = false)
    (hn : (s.mp p).never = false) (hf : (s.mp p).failed = false) (ht : t + (s.mp p).wakeDelay ≤ s.now) :
    exec (.memWakeRaise p) s = .next (s.setMp p { s.mp p with wake := true, wakeAt := s.now }) := by
  simp [exec, execMemWakeRaise, hh, hs, hw, hn, hf, ht]

theorem execMemWakeRaise_of_never (hn : (s.mp p).never = true) : exec (.memWakeRaise p) s = .next s := by
  simp only [exec, execMemWakeRaise, hn, Bool.not_true, Bool.and_false, Bool.false_and, Bool.false_eq_true, if_false]
  split <;> rfl

theorem execMemWakeDeadline_of_due (hs : (s.mp p).sr = true) (hw : (s.mp p).wake = true) (hf : (s.mp p).failed = false)
    (ht : (s.mp p).wakeAt + 1000000 ≤ s.now) : exec (.memWakeDeadline p) s = .next (failPort p 2 s) := by
  simp [exec, execMemWakeDeadline, hs, hw, hf, ht]

theorem execMemWakeDeadline_of_in_time (ht : s.now < (s.mp p).wakeAt + 1000000) : exec (.memWakeDeadline p) s = .next s := by
  simp [exec, execMemWakeDeadline, Nat.not_le.mpr ht]

/-- Settles O32: each answer by the state of its port and what it finds outstanding, then each timeout and step of self-refresh. -/
theorem memoryAnswersAndFailures : Obligations.MemoryAnswersAndFailures := by
  unfold Obligations.MemoryAnswersAndFailures
  refine ⟨fun s p tag valid poison d err => ⟨fun hf => ⟨execMemReadChunk_of_failed hf, execMemWriteAck_of_failed hf⟩,
      fun hf ha => ⟨execMemReadChunk_of_abort hf ha, execMemWriteAck_of_abort hf ha⟩,
      fun hf ha => execMemReadChunk_of_unknown ⟨hf, ha⟩, fun hf ha => execMemWriteAck_of_unknown ⟨hf, ha⟩,
      fun c hf ha hc => ?chunk, fun c hf ha hc => ?ack⟩,
    fun s p => ⟨execMemTimeout_of_late, execMemTimeout_of_in_time, fun hs => ?enter, fun hs => ?entered, execMemSrExit_of_sr,
      fun t => execMemWakeRaise_of_due, execMemWakeRaise_of_never, execMemWakeDeadline_of_due, execMemWakeDeadline_of_in_time⟩⟩
  case chunk =>
    refine ⟨_, execMemReadChunk_of_read ⟨hf, ha⟩ hc, rfl, fun q hq => (State.mp_setMp ..).trans (if_neg hq), ?_, ?_, ?_⟩ <;>
      rw [State.mp_setMp, if_pos rfl]
    · rfl
    · exact fun h => if_pos h
    · exact fun h => if_neg h
  case ack =>
    have he := execMemWriteAck_of_write (err := err) ⟨hf, ha⟩ hc
    exact ⟨fun hv => he.trans (congrArg _ (if_pos hv)), fun hv => he.trans (congrArg _ (if_neg (Bool.eq_false_iff.mp hv)))⟩
  case enter => exact congrArg Host.Outcome.next (if_neg (Bool.eq_false_iff.mp hs))
  case entered => exact congrArg Host.Outcome.next (if_pos hs)

end Sys2Proof.Machine
end

section
/-! The release of an isolated CA port: the state from which its scans begin, and the command that it marks as running (R338, R394). -/

namespace Sys2Proof.Machine

/-! ### The command that a step marks as running -/

/-- The first element that satisfies a predicate, after it has been changed to one that still does. -/
theorem find?_lmodify {α : Type} {p : α → Bool} {f : α → α} (hf : ∀ x, p (f x) = p x) (l : List α) :
    (lmodify p f l).find? p = (l.find? p).map f := by
  induction l with
  | nil => rfl
  | cons a l ih => by_cases ha : p a = true <;> simp [lmodify, ha, hf, ih]

/-- Starting a command marks the first one in progress that has its number. -/
theorem State.cmd_startCmd (s : State) (k : Kcp) : (s.startCmd k id).cmd k.id = (s.cmd k.id).map (fun x => { x with running := true }) :=
  find?_lmodify (p := fun x : Kcp => x.id == k.id) (f := fun x => { x with running := true }) (fun _ => rfl) s.hub.inProg

/-! ### The release of an isolated CA port -/

@[simp] theorem State.toJoined_hub (s : State) (m : MgtMsg) : (s.toJoined m).hub = s.hub :=
  have h := congrArg State.hub (s.toJoined_frame m)
  h

@[simp] theorem State.toJoined_slices (s : State) (m : MgtMsg) : (s.toJoined m).slices = s.slices :=
  have h := congrArg State.slices (s.toJoined_frame m)
  h

/-- The release of an isolated port is noted there; the first one asks every joined instance for its scan (R338, R394). -/
def State.releaseStarted (s : State) (k : Kcp) : State :=
  let u := (s.startCmd k id).modCa k.tgt (fun c => { c with relCmds := c.relCmds ++ [k.id] })
  if (s.ca k.tgt).relCmds.isEmpty then (u.modCa k.tgt (fun c => { c with scansDue := u.peerMask })).toJoined (.release k.tgt) else u

theorem State.releaseStarted_hub (s : State) (k : Kcp) : (s.releaseStarted k).hub = (s.startCmd k id).hub := by
  unfold State.releaseStarted
  extract_lets u
  split
  · exact State.toJoined_hub _ _
  · rfl

theorem State.releaseStarted_slices (s : State) (k : Kcp) : (s.releaseStarted k).slices = s.slices := by
  unfold State.releaseStarted
  extract_lets u
  split
  · exact State.toJoined_slices _ _
  · rfl

/-- What is in progress under the number of the release is the first command of that number, marked as running. -/
theorem State.releaseStarted_cmd (s : State) (k : Kcp) :
    (s.releaseStarted k).cmd k.id = (s.cmd k.id).map (fun x => { x with running := true }) := by
  rw [← State.cmd_startCmd, State.cmd, State.releaseStarted_hub]
  rfl

theorem execPortResetCaRelease_of_isolated {s : State} {c : Nat} {k : Kcp} (hk : s.newCmd c 0x19 = some k)
    (hform : resetForm true false k = true) (hst : (s.ca k.tgt).st = .isolated) : exec (.portResetCaRelease c) s =
      .next ((s.releaseStarted k).slicesUp.foldl (fun t j => cleanPass ((s.ca k.tgt).agents.map (fun a => a.aid)).contains j t)
        (s.releaseStarted k)) :=
  congrArg Host.Outcome.next ((runCmd_of_some hk hform).trans (if_neg (not_not.mpr hst)))

/-- A slice that no command has changed is clamped, and so answers nothing (R505). -/
theorem State.slicesUp_of_no_slices {s : State} (h : s.slices = []) : s.slicesUp = [] :=
  List.filter_eq_nil_iff.mpr fun k _ => by simp [State.works, State.slice, h, tget, Slice.init]

/-! ### The counterexample -/

/-- A release of CA port 0. -/
def releaseOfPort0 : Kcp := { id := 0, op := 0x19, target := 0, ps := [0] }

/-- An ECHO of the same number. -/
def echoOfSameNumber : Kcp := { id := 0, op := 0x01 }

/-- CA port 0 is isolated; its release waits behind another command that has the same number. `admitCmd` numbers commands in rising order; the
statement speaks of every state, of one with a number given twice too. -/
def State.releasesSharedNumber : State :=
  { State.reset with cas := [(0, { st := .isolated })], hub := { inProg := [echoOfSameNumber, releaseOfPort0] } }

/-- Refutes O18: the statement has the release of an isolated port in progress, as running, under its number, and does not ask that the numbers
of the commands in progress differ; in `State.releasesSharedNumber` an earlier command has that number, and is the one that is marked. -/
theorem not_softResets : ¬ Obligations.SoftResets := by
  unfold Obligations.SoftResets
  intro h
  obtain ⟨-, -, hport⟩ := h
  have hk : State.releasesSharedNumber.newCmd 0 0x19 = some releaseOfPort0 := rfl
  obtain ⟨-, -, hrelease, -⟩ := hport State.releasesSharedNumber 0 releaseOfPort0 hk
  obtain ⟨u, hexec, -, hcmd, -, hslices, -⟩ := hrelease rfl rfl rfl
  have hdone := execPortResetCaRelease_of_isolated hk rfl rfl
  rw [State.slicesUp_of_no_slices (State.releaseStarted_slices _ _)] at hdone
  rw [State.slicesUp_of_no_slices hslices] at hexec
  have hu : u = State.releasesSharedNumber.releaseStarted releaseOfPort0 := Host.Outcome.next.inj (hexec.symm.trans hdone)
  have hmarked : u.cmd 0 = some { echoOfSameNumber with running := true } := by
    rw [hu]
    exact State.releaseStarted_cmd _ releaseOfPort0
  have hop := congrArg (Option.map Kcp.op) (hcmd.symm.trans hmarked)
  exact absurd hop (by decide)

end Sys2Proof.Machine
end

section
/-! What every command keeps, and what a reset leaves: the queue, the configuration, the loss of the instance, and the canonical form of the
stored data (R451, R478, R479). -/

namespace Sys2Proof.Machine

/-- Every command but the two resets keeps what `Keeps` names: the forms of the table one by one. -/
theorem exec_keeps {c : Instr} (hc : isReset c = false) {s₀ s : State} (hk : Keeps s₀ s) : OutKeeps s₀ (exec c s) := by
  cases c with
  | echo => exact execEcho_keeps hk
  | identify => exact execIdentify_keeps hk
  | measureRead => exact execMeasureRead_keeps hk
  | sliceState => exact execSliceState_keeps hk
  | slicePowerUp => exact execSlicePowerUp_keeps hk
  | slicePowerDown => exact execSlicePowerDown_keeps hk
  | sliceResetAssert => exact execSliceResetAssert_keeps hk
  | sliceResetRelease => exact execSliceResetRelease_keeps hk
  | portState => exact execPortState_keeps hk
  | portResetCaAssert => exact execPortResetCaAssert_keeps hk
  | portResetCaRelease => exact execPortResetCaRelease_keeps hk
  | portResetMemAssert => exact execPortResetMemAssert_keeps hk
  | portResetMemRelease => exact execPortResetMemRelease_keeps hk
  | hcInvalidateAll => exact execHcInvalidateAll_keeps hk
  | hcEnable => exact execHcEnable_keeps hk
  | hcDisable => exact execHcDisable_keeps hk
  | invalRange => exact execInvalRange_keeps hk
  | flushRange => exact execFlushRange_keeps hk
  | wayLock => exact execWayLock_keeps hk
  | wayUnlock => exact execWayUnlock_keeps hk
  | lineQuery => exact execLineQuery_keeps hk
  | flushLine => exact execFlushLine_keeps hk
  | shingleQuery => exact execShingleQuery_keeps hk
  | shingleMove => exact execShingleMove_keeps hk
  | bundleMapRead => exact execBundleMapRead_keeps hk
  | policySet => exact execPolicySet_keeps hk
  | policyRead => exact execPolicyRead_keeps hk
  | calibrateNow => exact execCalibrateNow_keeps hk
  | battenLoad => exact execBattenLoad_keeps hk
  | battenCommit => exact execBattenCommit_keeps hk
  | routerDrain => exact execRouterDrain_keeps hk
  | probeSet => exact execProbeSet_keeps hk
  | ridgeState => exact execRidgeState_keeps hk
  | ridgeTrainTrain => exact execRidgeTrainTrain_keeps hk
  | ridgeTrainQuiesce => exact execRidgeTrainQuiesce_keeps hk
  | ridgeTrainJoin => exact execRidgeTrainJoin_keeps hk
  | ridgeTrainOff => exact execRidgeTrainOff_keeps hk
  | ptcStatus => exact execPtcStatus_keeps hk
  | protProposeStage => exact execProtProposeStage_keeps hk
  | protPropose => exact execProtPropose_keeps hk
  | protStatus => exact execProtStatus_keeps hk
  | protWithdraw => exact execProtWithdraw_keeps hk
  | ucodeStage => exact execUcodeStage_keeps hk
  | ucodeActivate => exact execUcodeActivate_keeps hk
  | errSeveritySetThreshold => exact execErrSeveritySetThreshold_keeps hk
  | errSeveritySet => exact execErrSeveritySet_keeps hk
  | errLogRead => exact execErrLogRead_keeps hk
  | ferrClear => exact execFerrClear_keeps hk
  | remapLoad => exact execRemapLoad_keeps hk
  | remapRead => exact execRemapRead_keeps hk
  | salvageStatus => exact execSalvageStatus_keeps hk
  | agentFlushNote => exact execAgentFlushNote_keeps hk
  | scrubConfig => exact execScrubConfig_keeps hk
  | perfConfig => exact execPerfConfig_keeps hk
  | factoryInject => exact execFactoryInject_keeps hk
  | cmdDataHi => exact execCmdDataHi_keeps hk
  | cmdEndHi => exact execCmdEndHi_keeps hk
  | kcpTake => exact execKcpTake_keeps hk
  | forwardedReply => exact execForwardedReply_keeps hk
  | forwardTimeout => exact execForwardTimeout_keeps hk
  | cmdTruncate => exact execCmdTruncate_keeps hk
  | queuePop => exact execQueuePop_keeps hk
  | qFlushCmdq => exact execQFlushCmdq_keeps hk
  | qFlushRplq => exact execQFlushRplq_keeps hk
  | qFlushEvq => exact execQFlushEvq_keeps hk
  | qFlushLoft => exact execQFlushLoft_keeps hk
  | flushComplete => exact execFlushComplete_keeps hk
  | qownerWrite => exact execQownerWrite_keeps hk
  | queueOwnerSwitch => exact execQueueOwnerSwitch_keeps hk
  | quotaWrite => exact execQuotaWrite_keeps hk
  | errOutPulseEnd => exact execErrOutPulseEnd_keeps hk
  | errpinWrite => exact execErrpinWrite_keeps hk
  | regionCommit => exact execRegionCommit_keeps hk
  | regionTableActivate => exact execRegionTableActivate_keeps hk
  | perfCapture => exact execPerfCapture_keeps hk
  | perfctlWrite => exact execPerfctlWrite_keeps hk
  | snpTimeoutWrite => exact execSnpTimeoutWrite_keeps hk
  | halfLatchRead => exact execHalfLatchRead_keeps hk
  | bootPushHi => exact execBootPushHi_keeps hk
  | bootctlDone => exact execBootctlDone_keeps hk
  | bootctlRestart => exact execBootctlRestart_keeps hk
  | registerWrite => exact execRegisterWrite_keeps hk
  | porTaken => cases hc
  | resetNTaken => cases hc
  | resetRelease => exact execResetRelease_keeps hk
  | mpAbortFall => exact execMpAbortFall_keeps hk
  | fuseSegment => exact execFuseSegment_keeps hk
  | bringupStepDone => exact execBringupStepDone_keeps hk
  | bootImageFromPeer => exact execBootImageFromPeer_keeps hk
  | sliceDomainGood => exact execSliceDomainGood_keeps hk
  | slicePowerTimeout => exact execSlicePowerTimeout_keeps hk
  | slicePowerOffDone => exact execSlicePowerOffDone_keeps hk
  | capActiveRise => exact execCapActiveRise_keeps hk
  | adv => exact execAdv_keeps hk
  | advCheck => exact execAdvCheck_keeps hk
  | advack => exact execAdvack_keeps hk
  | capActiveFall => exact execCapActiveFall_keeps hk
  | portQuiesceComplete => exact execPortQuiesceComplete_keeps hk
  | portReleaseScanDone => exact execPortReleaseScanDone_keeps hk
  | agentTableUpdate => exact execAgentTableUpdate_keeps hk
  | caRequest => exact execCaRequest_keeps hk
  | caDatiChunk => exact execCaDatiChunk_keeps hk
  | caRspiMessage => exact execCaRspiMessage_keeps hk
  | ingressSend => exact execIngressSend_keeps hk
  | creditArrive => exact execCreditArrive_keeps hk
  | creditIdleReturn => exact execCreditIdleReturn_keeps hk
  | sliceInputRequest => exact execSliceInputRequest_keeps hk
  | txnActivate => exact execTxnActivate_keeps hk
  | chainHeadActivate => exact execChainHeadActivate_keeps hk
  | admissionRelease => exact execAdmissionRelease_keeps hk
  | bufferAcquire => exact execBufferAcquire_keeps hk
  | sfWayReserve => exact execSfWayReserve_keeps hk
  | snoopIssue => exact execSnoopIssue_keeps hk
  | snoopDeliver => exact execSnoopDeliver_keeps hk
  | snoopResponse => exact execSnoopResponse_keeps hk
  | homeDat => exact execHomeDat_keeps hk
  | cmpack => exact execCmpack_keeps hk
  | writebackArrive => exact execWritebackArrive_keeps hk
  | atomicOperate => exact execAtomicOperate_keeps hk
  | placement => exact execPlacement_keeps hk
  | mirrorUpdate => exact execMirrorUpdate_keeps hk
  | mirrorUpdateAck => exact execMirrorUpdateAck_keeps hk
  | mirrorRefresh => exact execMirrorRefresh_keeps hk
  | txnClose => exact execTxnClose_keeps hk
  | memCmdPresent => exact execMemCmdPresent_keeps hk
  | memCreditReturn => exact execMemCreditReturn_keeps hk
  | memReadChunk => exact execMemReadChunk_keeps hk
  | memWriteAck => exact execMemWriteAck_keeps hk
  | memTimeout => exact execMemTimeout_keeps hk
  | memSrEnter => exact execMemSrEnter_keeps hk
  | memSrExit => exact execMemSrExit_keeps hk
  | memWakeRaise => exact execMemWakeRaise_keeps hk
  | memWakeDeadline => exact execMemWakeDeadline_keeps hk
  | snoopTimeoutCheck => exact execSnoopTimeoutCheck_keeps hk
  | unreachableNotice => exact execUnreachableNotice_keeps hk
  | routerPacket => exact execRouterPacket_keeps hk
  | loftRecord => exact execLoftRecord_keeps hk
  | battenSwitch => exact execBattenSwitch_keeps hk
  | routerDrainEmpty => exact execRouterDrainEmpty_keeps hk
  | fenceMarker => exact execFenceMarker_keeps hk
  | homeMapFlip => exact execHomeMapFlip_keeps hk
  | flipCopyAck => exact execFlipCopyAck_keeps hk
  | movePrepareDone => exact execMovePrepareDone_keeps hk
  | moveDrainDone => exact execMoveDrainDone_keeps hk
  | sfEntryInstall => exact execSfEntryInstall_keeps hk
  | moveCopyDone => exact execMoveCopyDone_keeps hk
  | moveDecisionDeadline => exact execMoveDecisionDeadline_keeps hk
  | epochBoundary => exact execEpochBoundary_keeps hk
  | calibrationDecisions => exact execCalibrationDecisions_keeps hk
  | regroupComputeDone => exact execRegroupComputeDone_keeps hk
  | regroupTimeout => exact execRegroupTimeout_keeps hk
  | regroupMapWritten => exact execRegroupMapWritten_keeps hk
  | genFlip => exact execGenFlip_keeps hk
  | genSweepSet => exact execGenSweepSet_keeps hk
  | regroupDone => exact execRegroupDone_keeps hk
  | forcedRegroup => exact execForcedRegroup_keeps hk
  | gatingPowerDown => exact execGatingPowerDown_keeps hk
  | gatingSwitchOpen => exact execGatingSwitchOpen_keeps hk
  | gatingPowerUp => exact execGatingPowerUp_keeps hk
  | sfScrubVisit => exact execSfScrubVisit_keeps hk
  | hcScrubVisit => exact execHcScrubVisit_keeps hk
  | openLineResolve => exact execOpenLineResolve_keeps hk
  | nruAgeingWalk => exact execNruAgeingWalk_keeps hk
  | flitReceive => exact execFlitReceive_keeps hk
  | nakReceive => exact execNakReceive_keeps hk
  | replayTimeout => exact execReplayTimeout_keeps hk
  | linkRetrainEnter => exact execLinkRetrainEnter_keeps hk
  | phyTrained => exact execPhyTrained_keeps hk
  | trainTimeout => exact execTrainTimeout_keeps hk
  | retrainSuccess => exact execRetrainSuccess_keeps hk
  | retrainTimeout => exact execRetrainTimeout_keeps hk
  | linkFail => exact execLinkFail_keeps hk
  | timeRecord => exact execTimeRecord_keeps hk
  | timeRecordSend => exact execTimeRecordSend_keeps hk
  | calWindowEnd => exact execCalWindowEnd_keeps hk
  | calRecord => exact execCalRecord_keeps hk
  | timeCorrection => exact execTimeCorrection_keeps hk
  | ptcSyncFrame => exact execPtcSyncFrame_keeps hk
  | joinRecord => exact execJoinRecord_keeps hk
  | genPrep => exact execGenPrep_keeps hk
  | genAck => exact execGenAck_keeps hk
  | genAckDeadline => exact execGenAckDeadline_keeps hk
  | genArm => exact execGenArm_keeps hk
  | genAbort => exact execGenAbort_keeps hk
  | genApply => exact execGenApply_keeps hk
  | genLost => exact execGenLost_keeps hk
  | timeSourceChange => exact execTimeSourceChange_keeps hk
  | protExpire => exact execProtExpire_keeps hk
  | protRetry => exact execProtRetry_keeps hk
  | partitionTransitionStart => exact execPartitionTransitionStart_keeps hk
  | partitionSweepReport => exact execPartitionSweepReport_keeps hk
  | partitionActivate => exact execPartitionActivate_keeps hk
  | engineHang => exact execEngineHang_keeps hk
  | sliceFatal => exact execSliceFatal_keeps hk
  | wrapperPacket => exact execWrapperPacket_keeps hk
  | salvageRecord => exact execSalvageRecord_keeps hk
  | salvageRead => exact execSalvageRead_keeps hk
  | mirrorReadDone => exact execMirrorReadDone_keeps hk
  | shingleRehome => exact execShingleRehome_keeps hk
  | lineResolution => exact execLineResolution_keeps hk
  | salvageDecision => exact execSalvageDecision_keeps hk
  | openEavesWbMark => exact execOpenEavesWbMark_keeps hk
  | openEavesExit => exact execOpenEavesExit_keeps hk
  | vddRise => exact execVddRise_keeps hk
  | bankPassDone => exact execBankPassDone_keeps hk
  | rangeScanDone => exact execRangeScanDone_keeps hk
  | wayLockDone => exact execWayLockDone_keeps hk
  | sliceResetInitDone => exact execSliceResetInitDone_keeps hk
  | ucodeSliceSwitch => exact execUcodeSliceSwitch_keeps hk
  | writeThroughScanDone => exact execWriteThroughScanDone_keeps hk
  | linkFailScanDone => exact execLinkFailScanDone_keeps hk
  | partitionSweepDone => exact execPartitionSweepDone_keeps hk
  | forwardedCommand => exact execForwardedCommand_keeps hk
  | agentFlushNoteReceive => exact execAgentFlushNoteReceive_keeps hk
  | agentTableClearAck => exact execAgentTableClearAck_keeps hk
  | cellPoolRebuildDone => exact execCellPoolRebuildDone_keeps hk
  | flitTransmit => exact execFlitTransmit_keeps hk
  | tapAccess => exact execTapAccess_keeps hk

/-- A reset keeps the waiting commands and the configuration, ends the loss of the instance, and leaves every table empty (R478, R479). -/
theorem exec_of_isReset {c : Instr} (hc : isReset c = true) (s : State) :
    ∃ t, exec c s = .next t ∧ t.pending = s.pending ∧ t.gh = s.gh ∧ t.err.lost = false ∧ t.wf = true := by
  cases c with
  | porTaken => exact ⟨porState s, rfl, rfl, rfl, rfl, rfl⟩
  | resetNTaken => exact ⟨pinState s, rfl, rfl, rfl, rfl, rfl⟩
  | _ => cases hc

/-- A reset answers the state of `exec_of_isReset`, and no other. -/
theorem isReset_leaves {c : Instr} (hc : isReset c = true) {s t : State} (h : exec c s = .next t) :
    t.pending = s.pending ∧ t.gh = s.gh ∧ t.err.lost = false ∧ t.wf = true := by
  obtain ⟨u, hu, hleft⟩ := exec_of_isReset hc s
  obtain rfl : u = t := Host.Outcome.next.inj (hu.symm.trans h)
  exact hleft

/-- Every command keeps the waiting commands, the configuration and the canonical form. -/
theorem exec_next_keeps {c : Instr} {s t : State} (h : exec c s = .next t) :
    t.pending = s.pending ∧ t.gh = s.gh ∧ (s.wf = true → t.wf = true) := by
  cases hc : isReset c with
  | true =>
    obtain ⟨hpending, hgh, -, hwf⟩ := isReset_leaves hc h
    exact ⟨hpending, hgh, fun _ => hwf⟩
  | false =>
    have hk : Keeps s t := (exec_keeps hc (.refl s)).keeps t h
    exact ⟨hk.pending, hk.gh, hk.wf⟩

/-! ### The step -/

theorem step_of_pending_nil {s : State} (h : s.pending = []) : step s = .next (tick s) := by simp only [step, h]

theorem step_of_pending_cons {s : State} {c : Instr} {rest : List Instr} (h : s.pending = c :: rest) :
    step s = exec c { s with pending := rest } := by simp only [step, h]

/-- A step takes the front command off the queue, and keeps the configuration and the canonical form. -/
theorem step_next_keeps {s t : State} (h : step s = .next t) :
    t.pending = s.pending.tail ∧ t.gh = s.gh ∧ (s.wf = true → t.wf = true) := by
  cases hp : s.pending with
  | nil =>
    obtain rfl : tick s = t := Host.Outcome.next.inj ((step_of_pending_nil hp).symm.trans h)
    have hk : Keeps s (tick s) := tick_keeps (.refl s)
    exact ⟨hk.pending.trans hp, hk.gh, hk.wf⟩
  | cons c rest => exact exec_next_keeps ((step_of_pending_cons hp).symm.trans h)

/-! ### The obligations -/

/-- Settles O53: a tick keeps the canonical form, and so does every command. -/
theorem stepKeepsWellFormed : Obligations.StepKeepsWellFormed := by
  unfold Obligations.StepKeepsWellFormed
  intro s t hs h
  obtain ⟨-, -, hwf⟩ := step_next_keeps h
  exact hwf hs

/-- Settles O56. -/
theorem queueAndConfigurationStay : Obligations.QueueAndConfigurationStay := by
  unfold Obligations.QueueAndConfigurationStay
  constructor
  · intro c s t h
    obtain ⟨hpending, hgh, -⟩ := exec_next_keeps h
    exact ⟨hpending, hgh⟩
  · intro s t h
    obtain ⟨hpending, hgh, -⟩ := step_next_keeps h
    exact ⟨hpending, hgh⟩

/-- Settles O55: no command but a reset clears the loss, and each reset does. -/
theorem lossOfInstanceIsSticky : Obligations.LossOfInstanceIsSticky := by
  unfold Obligations.LossOfInstanceIsSticky
  refine ⟨fun c s t hc hlost h => ?_, fun s t hp hlost h => ?_, fun c s t hc h => ?_⟩
  · exact ((exec_keeps hc (.refl s)).keeps t h).lost hlost
  · obtain rfl : tick s = t := Host.Outcome.next.inj ((step_of_pending_nil hp).symm.trans h)
    exact (tick_keeps (.refl s)).lost hlost
  · obtain ⟨-, -, hlost, -⟩ := isReset_leaves hc h
    exact hlost

/-- Settles O3: the front command is taken off, then run. -/
theorem stepRunsFrontCommand : Obligations.StepRunsFrontCommand := by
  unfold Obligations.StepRunsFrontCommand
  intro s c rest h
  exact step_of_pending_cons h

/-- Settles O5: no row of the table gives bits. -/
theorem noWordSpellsACommand : Obligations.NoWordSpellsACommand := by
  unfold Obligations.NoWordSpellsACommand
  intro nbits w
  have hnone : decodeTableWord nbits w = none := rfl
  exact ⟨hnone, fun s => by simp only [State.withFetchWord, hnone]⟩

/-- Settles O54: after reset every table is empty. -/
theorem resetStateWellFormed : Obligations.ResetStateWellFormed := by
  unfold Obligations.ResetStateWellFormed
  exact (Keeps.wf_iff _).mpr ⟨rfl, rfl, rfl, rfl, rfl, rfl⟩

end Sys2Proof.Machine
end

section
/-! The commands ECHO and IDENTIFY and those of the error log; SLICE_STATE and PORT_STATE; and the configuration code of a release (R387, R389,
R392, R393, R413 to R415, R484). -/

namespace Sys2Proof.Machine

/-! ### The error log -/

/-- Severities are set word by word, and nothing else of the error reporting changes (R413). -/
theorem foldl_setSev (ws : List W64) (e : ErrSt) : ws.foldl setSev e =
    { e with sev := ws.foldl (fun t v => tset sevDefault (fld v 0 6) (v.extractLsb' 8 3) t) e.sev } := by
  induction ws generalizing e with
  | nil => rfl
  | cons v ws ih => exact ih (setSev e v)

section
variable {s : State} {c : Nat} {k : Kcp} (hk : s.newCmd c 0x62 = some k)
include hk

theorem execFerrClear_of_empty (hv : s.err.ferr.valid = false) : exec (.ferrClear c) s = .next (finish k stOk 0 [0] s) :=
  congrArg Host.Outcome.next ((runCmd_of_some hk rfl).trans (if_pos (by rw [hv]; rfl)))

theorem execFerrClear_of_named (hv : s.err.ferr.valid = true) (hp : s.err.ferr.ptc = k.par 0) : exec (.ferrClear c) s =
    .next (finish k stOk 0 [s.err.ferr.ovf.setWidth 64] { s with err := { s.err with ferr := {} } }) :=
  congrArg Host.Outcome.next ((runCmd_of_some hk rfl).trans ((if_neg (by simp [hv])).trans (if_pos hp)))

theorem execFerrClear_of_other (hv : s.err.ferr.valid = true) (hp : s.err.ferr.ptc ≠ k.par 0) : exec (.ferrClear c) s =
    .next (finish k stConflict (fld s.err.ferr.ptc 0 24) [] s) :=
  congrArg Host.Outcome.next ((runCmd_of_some hk rfl).trans ((if_neg (by simp [hv])).trans (if_neg hp)))

end

/-- Settles O15: each command runs when it is in progress and its form is the one its FLAGS select. -/
theorem echoIdentifyAndErrors : Obligations.EchoIdentifyAndErrors := by
  unfold Obligations.EchoIdentifyAndErrors
  refine ⟨fun s c k => ⟨fun hk => ?echo, fun hk => ?identify⟩, fun s c k => ⟨fun hk hf => ?threshold, fun hk hf => ?severity, fun hk => ?log,
    execFerrClear_of_empty, execFerrClear_of_named, execFerrClear_of_other⟩⟩
  case echo => exact congrArg Host.Outcome.next (runCmd_of_some hk rfl)
  case identify => exact congrArg Host.Outcome.next (runCmd_of_some hk rfl)
  case threshold => exact congrArg Host.Outcome.next (runCmd_of_some hk hf)
  case severity =>
    have hform : (!k.flag 0) = true := by rw [hf]; rfl
    exact congrArg Host.Outcome.next ((runCmd_of_some hk hform).trans (by rw [foldl_setSev]))
  case log => exact congrArg Host.Outcome.next (runCmd_of_some hk rfl)

/-! ### The states of slices and ports -/

/-- Both selected fields of a memory port at once (R392). -/
theorem MemPort.setFields_eq (m : MemPort) (w : W64) : m.setFields w =
    { m with
      timeout := if bit w 0 then fld w 4 24 else m.timeout
      wakeDelay := if bit w 1 then fld w 32 20 else m.wakeDelay
      never := if bit w 1 then bit w 52 else m.never } := by
  unfold MemPort.setFields
  cases bit w 0 <;> cases bit w 1 <;> rfl

section
variable {s : State} {c : Nat} {k : Kcp} (hk : s.newCmd c 0x18 = some k)
include hk

theorem execPortState_ca (hu : k.uclass = 0) : exec (.portState c) s = .next (
    let t := if k.ps = [] then s else setCaFields k.tgt (k.par 0) s
    finish k stOk 0 [(t.ca k.tgt).stateWord] t) := by
  simp only [exec, execPortState, runCmd_of_some hk, hu, if_true, List.isEmpty_iff]

theorem execPortState_mp (hu : k.uclass ≠ 0) : exec (.portState c) s = .next (
    let t := if k.ps = [] then s else s.setMp k.tgt ((s.mp k.tgt).setFields (k.par 0))
    finish k stOk 0 (t.mp k.tgt).stateWords t) := by
  simp only [exec, execPortState, runCmd_of_some hk, if_neg hu, List.isEmpty_iff, State.modMp]

end

/-- Settles O17: SLICE_STATE reads; PORT_STATE sets what its word selects, if it has one, and reads. -/
theorem stateReplies : Obligations.StateReplies := by
  unfold Obligations.StateReplies
  refine ⟨fun s c k hk => ?slice, fun s c k hk => ⟨fun hu => ?memory, fun hu hw => ?read, fun hu hps hb => ?enable⟩⟩
  case slice =>
    refine congrArg Host.Outcome.next ((runCmd_of_some hk rfl).trans ?_)
    unfold targetSlices State.sliceWord slStateCode bankCode
    rfl
  case memory =>
    rw [execPortState_mp hk hu, MemPort.setFields_eq]
    by_cases hps : k.ps = []
    · simp only [if_pos hps]
      exact ⟨_, rfl, rfl⟩
    · simp only [if_neg hps, State.mp_setMp, if_true]
      exact ⟨_, rfl, rfl⟩
  case read =>
    have ht : (if k.ps = [] then s else setCaFields k.tgt (k.par 0) s) = s := by
      rcases hw with hps | hb
      · exact if_pos hps
      · simp [setCaFields, hb]
    rw [execPortState_ca hk hu, ht]
  case enable =>
    rw [execPortState_ca hk hu, if_neg hps, setCaFields, if_pos hb]
    rfl

/-! ### The configuration code -/

/-- The configuration code is ID[3:0], or what the two conversions of RSENSE agree on (R484). -/
theorem releaseState_code (x : StrapSample) (r : Option Nat) (fuse : Bool) (s : State) :
    (x.cfgsrc = false → (releaseState x r fuse s).rst.code = x.id) ∧
      ∀ c, x.cfgsrc = true → r = some c → (releaseState x r fuse s).rst.code = BitVec.ofNat 4 c := by
  refine ⟨fun h => ?_, fun c h hr => ?_⟩
  · simp [releaseState, h]
  · simp [releaseState, h, hr]

/-- Settles O60: nothing that a release reports changes the code it has taken. -/
theorem configurationCodeIsTaken : Obligations.ConfigurationCodeIsTaken := by
  unfold Obligations.ConfigurationCodeIsTaken
  intro s x l a b fuse hr hx hl hab
  have hframe := s.released_frame x (rsenseCode a) fuse
  have hcode := congrArg (fun t : State => t.rst.code) hframe
  have hinst := congrArg State.inst hframe
  have htmcap := congrArg State.tmcap hframe
  obtain ⟨hid, hsense⟩ := releaseState_code x (rsenseCode a) fuse s
  exact ⟨_, execResetRelease_of_agreed hr hl hx hab fuse, fun h => hcode.trans (hid h), fun c h hc => hcode.trans (hsense c h hc),
    hinst.trans (congrArg (BitVec.extractLsb' 0 3) hcode.symm), htmcap.trans (congrArg (fun v : BitVec 4 => v.getLsbD 3) hcode.symm)⟩

end Sys2Proof.Machine
end

section
/-! The queues of the hub: the words of replies, the checks of a packet, how a command is taken, pops, and flushes (R358 to R360, R365 to R382). -/

namespace Sys2Proof.Machine

/-! ### The words of replies -/

/-- The order in which the fields of a layout are given does not matter. -/
theorem packFields_perm {l m : List WordField} (w : Nat) (h : l.Perm m) : packFields w l = packFields w m := by
  rw [packFields_eq, packFields_eq, fieldSum, fieldSum, (h.map _).sum_eq]

theorem bit_of_fld {w : Nat} {v : BitVec w} {i : Nat} {b : Bool} (h : fld v i 1 = b2n b) : bit v i = b := getLsbD_of_fld h

/-- The fields of a reply header, which cover the word (R359). -/
def replyFields (op len tag st d : Nat) : List WordField :=
  [⟨0, 24, d⟩, ⟨24, 8, st⟩, ⟨32, 16, tag⟩, ⟨48, 8, len⟩, ⟨56, 7, op⟩, ⟨63, 1, 1⟩]

section
variable {op len tag st d : Nat} (hop : op < 128) (hlen : len < 256) (htag : tag < 65536) (hst : st < 256) (hd : d < 2 ^ 24)
include hop hlen htag hst hd

theorem replyFields_laidOut : LaidOut (replyFields op len tag st d) where
  apart := by simp [replyFields]
  fits x hx := by
    fin_cases hx
    exacts [hd, hst, htag, hlen, hop, Nat.one_lt_two]

theorem replyHeader_eq : replyHeader op len tag st d = packFields 64 (replyFields op len tag st d) := by
  rw [← packFields_perm 64 (List.reverse_perm (replyFields op len tag st d)), replyHeader, Nat.mod_eq_of_lt hop, Nat.mod_eq_of_lt hlen,
    Nat.mod_eq_of_lt htag, Nat.mod_eq_of_lt hst, Nat.mod_eq_of_lt hd]
  rfl

end

/-- The fields of the second word of a flush reply, the reserved ones zero (R360). -/
def flushFields (f : FlushSt) : List WordField :=
  [⟨0, 16, Nat.min f.pkts 0xFFFF⟩, ⟨16, 16, 0⟩, ⟨32, 1, b2n f.collected⟩, ⟨33, 1, b2n f.truncated⟩, ⟨34, 30, 0⟩]

theorem flushFields_laidOut (f : FlushSt) : LaidOut (flushFields f) where
  apart := by simp [flushFields]
  fits x hx := by
    fin_cases hx
    exacts [Nat.lt_succ_of_le (Nat.min_le_right _ _), Nat.two_pow_pos _, b2n_lt _, b2n_lt _, Nat.two_pow_pos _]

theorem flushReply_eq (q : QCode) (f : FlushSt) : flushReply q f = [replyHeader 0 1 0 stFlushed (qCode q), packFields 64 (flushFields f)] := by
  simp only [flushReply, packFields, pack, flushFields, lsum, List.map_cons, List.map_nil, List.foldl_cons, List.foldl_nil, Nat.zero_shiftLeft,
    Nat.add_zero]

/-- Settles O6: the layouts of the words field by field, and the reply packet as the end of a command writes it. -/
theorem replyHeaderLayout : Obligations.ReplyHeaderLayout := by
  unfold Obligations.ReplyHeaderLayout
  refine ⟨fun op len tag st d hop hlen htag hst hd => ?header, fun s k st d ws hk hr hf ha => ?reply, fun q f => ?flush, fun s => ?opcodes⟩
  case header =>
    have hl := replyFields_laidOut hop hlen htag hst hd
    have field {x : WordField} (hx : x ∈ replyFields op len tag st d) (hw : x.lo + x.width ≤ 64) :
        fld (replyHeader op len tag st d) x.lo x.width = x.val := by
      rw [replyHeader_eq hop hlen htag hst hd, fld_packFields hl hx hw]
    exact ⟨bit_of_fld (field (x := ⟨63, 1, 1⟩) (by simp [replyFields]) (by simp)),
      field (x := ⟨56, 7, op⟩) (by simp [replyFields]) (by simp), field (x := ⟨48, 8, len⟩) (by simp [replyFields]) (by simp),
      field (x := ⟨32, 16, tag⟩) (by simp [replyFields]) (by simp), field (x := ⟨24, 8, st⟩) (by simp [replyFields]) (by simp),
      field (x := ⟨0, 24, d⟩) (by simp [replyFields]) (by simp)⟩
  case reply =>
    obtain ⟨hwritten, -, -⟩ := finishWritesReply s k st d ws
    obtain ⟨h, hfinish, -, ⟨p, hwaiting, -, -, hdata, -, -⟩, -⟩ := hwritten hk hr hf ha
    exact ⟨p, by rw [hfinish]; exact hwaiting, hdata⟩
  case flush =>
    have field {x : WordField} (hx : x ∈ flushFields f) (hw : x.lo + x.width ≤ 64) : fld (packFields 64 (flushFields f)) x.lo x.width = x.val :=
      fld_packFields (flushFields_laidOut f) hx hw
    exact ⟨_, flushReply_eq q f, by cases q <;> decide, field (x := ⟨0, 16, Nat.min f.pkts 0xFFFF⟩) (by simp [flushFields]) (by simp),
      field (x := ⟨16, 16, 0⟩) (by simp [flushFields]) (by simp),
      bit_of_fld (field (x := ⟨32, 1, b2n f.collected⟩) (by simp [flushFields]) (by simp)),
      bit_of_fld (field (x := ⟨33, 1, b2n f.truncated⟩) (by simp [flushFields]) (by simp)),
      field (x := ⟨34, 30, 0⟩) (by simp [flushFields]) (by simp)⟩
  case opcodes => exact ⟨rfl, rfl⟩

/-! ### The checks of a packet -/

section
variable {h : HubSt} {w : Window} {o : OpenPkt} (ho : (h.win w).opn = some o)
include ho

/-- A packet that a flush collects is discarded without a reply (R379). -/
theorem closePacket_of_collected (hc : o.collect = true) : ∃ v : Win, closePacket w h = ((h.setOpen w none).release o.cells).setWin w v := by
  simp only [closePacket, ho, hc, if_true]
  exact ⟨_, rfl⟩

theorem closePacket_of_kept (hc : o.collect = false) : closePacket w h =
    if 64 < hdrLen o.hdr then checkReply w o.hdr stLenExceeds (formDetail o) ((h.setOpen w none).release o.cells)
    else if !(hdrValid o.hdr) || o.count - 1 != hdrLen o.hdr then
      checkReply w o.hdr stMalformed (formDetail o) ((h.setOpen w none).release o.cells)
    else if o.overrun then checkReply w o.hdr stBusy 0x10 ((h.setOpen w none).release o.cells)
    else (h.setOpen w none).enqueue (cmdqOf w) (hdrPrio o.hdr) false o.cells := by
  simp only [closePacket, ho, hc, Bool.false_eq_true, if_false]

end

theorem HubSt.queue_release (h : HubSt) (l : List Cell) (q : QCode) : (h.release l).queue q = h.queue q := by cases q <;> rfl

theorem HubSt.queue_setOpen (h : HubSt) (w : Window) (o : Option OpenPkt) (q : QCode) : (h.setOpen w o).queue q = h.queue q :=
  HubSt.queue_setWin _ _ _ _

/-! ### Taking a command -/

@[simp] theorem HubSt.readCell_data (h : HubSt) (c : Cell) : (h.readCell c).data = c.data := by
  unfold HubSt.readCell
  split <;> rfl

@[simp] theorem HubSt.readCell_fin (h : HubSt) (c : Cell) : (h.readCell c).fin = c.fin := by
  unfold HubSt.readCell
  split <;> rfl

@[simp] theorem HubSt.readCell_ptag (h : HubSt) (c : Cell) : (h.readCell c).ptag = (c.ptag || h.cellBad c) := by
  unfold HubSt.readCell
  cases h.cellBad c <;> simp

/-- A ready sequencer with room takes the best packet of a queue whose list is intact (R370, R374). -/
theorem execKcpTake_of_ready {s : State} {w : Window} {p : QPkt} (hready : s.rst.ready = true) (htake : s.hub.canTake w = true)
    (hlink : s.hub.linkBad ≠ some (cmdqOf w)) (hp : bestPkt (s.hub.queue (cmdqOf w)).waiting = some p) :
    exec (.kcpTake w) s = .next (takePacket w p s) := by
  simp only [exec, execKcpTake, hready, htake, hp, if_neg hlink, Bool.and_self, if_true]

/-- Settles O9: a packet at its end mark by the first check that it fails, and the packet that the sequencer takes. -/
theorem packetsAreCheckedAndTaken : Obligations.PacketsAreCheckedAndTaken := by
  unfold Obligations.PacketsAreCheckedAndTaken
  refine ⟨fun h w o ho => ⟨fun hc hlen => ?length, fun hc hlen hbad => ?malformed, fun hc hlen hv hn => ?whole, fun hc => ?collected⟩,
    fun s w p hready hprog hcells hflush hrebuild hlink hp => ?taken⟩
  case length =>
    rw [closePacket_of_kept ho hc, if_pos (show 64 < hdrLen o.hdr from hlen), checkReply_eq]
    rfl
  case malformed =>
    have hform : (!(hdrValid o.hdr) || o.count - 1 != hdrLen o.hdr) = true := by
      rw [Bool.or_eq_true, Bool.not_eq_true', bne_iff_ne]
      exact hbad
    rw [closePacket_of_kept ho hc, if_neg (show ¬64 < hdrLen o.hdr from Nat.not_lt.mpr hlen), if_pos hform, checkReply_eq]
    rfl
  case whole =>
    have hform : (!(hdrValid o.hdr) || o.count - 1 != hdrLen o.hdr) = false := by
      rw [Bool.or_eq_false_iff, Bool.not_eq_false', bne_eq_false_iff_eq]
      exact ⟨hv, hn⟩
    rw [closePacket_of_kept ho hc, if_neg (show ¬64 < hdrLen o.hdr from Nat.not_lt.mpr hlen), hform, if_neg Bool.false_ne_true, checkReply_eq]
    rfl
  case collected =>
    obtain ⟨v, hv⟩ := closePacket_of_collected ho hc
    simp only [hv, HubSt.queue_setWin, HubSt.queue_release, HubSt.queue_setOpen, and_self]
  case taken =>
    have htake : s.hub.canTake w = true := by
      simp [HubSt.canTake, HubSt.fits, hprog, hcells, hflush, hrebuild]
    rw [execKcpTake_of_ready hready htake hlink hp]
    -- `rfl` is for the match on the checks, which the model and the statement write out each for itself
    simp only [takePacket, admitCmd, List.map_map, List.any_map, Function.comp_def, HubSt.readCell_data, HubSt.readCell_ptag,
      Bool.not_eq_true'] <;> rfl

/-! ### Pops -/

@[simp] theorem State.answer_owns (s : State) (w : Window) (e : Bool) (d : BitVec 32) (q : QSel) :
    (s.answer w e d).hub.owns w q = s.hub.owns w q := by
  cases w <;> cases q <;> rfl

@[simp] theorem State.answer_linkBad (s : State) (w : Window) (e : Bool) (d : BitVec 32) : (s.answer w e d).hub.linkBad = s.hub.linkBad := by
  cases w <;> rfl

@[simp] theorem State.answer_queue (s : State) (w : Window) (e : Bool) (d : BitVec 32) (q : QCode) :
    (s.answer w e d).hub.queue q = s.hub.queue q := State.modWin_queue _ _ _ _

/-- A pop returns the word of its cell, poisoned when its tag says so or its parity fails (R373, R377). -/
theorem popCell_eq (w : Window) (q : QSel) (c : Cell) (rest : List Cell) (s : State) : popCell w q c rest s =
    raiseAll (cellEvents (selQueue w q) s.hub [c]) { s with
      hub := latchPop w q c.data (pack 3 [(0, b2n c.fin), (1, b2n (c.ptag || s.hub.cellBad c))])
        ((s.hub.setQueue (selQueue w q) { s.hub.queue (selQueue w q) with begun := if c.fin then none else some rest }).release [c]) } := by
  simp only [popCell, HubSt.readCell_data, HubSt.readCell_fin, HubSt.readCell_ptag]

section
variable {s : State} {w : Window} {q : QSel}

theorem popWord_of_rebuild (hb : s.hub.rebuild ≠ none) :
    popWord w q s = { s with hub := { s.hub with waiting := s.hub.waiting ++ [.pop w q] } } :=
  if_pos (Option.isSome_iff_ne_none.mpr hb)

section
variable (hb : s.hub.rebuild = none)
include hb

theorem popWord_of_not_owner (ho : s.hub.owns w q = false) : popWord w q s = popIdle w q s := by
  simp [popWord, hb, ho]

section
variable (ho : s.hub.owns w q = true)
include ho

theorem popWord_of_linkBad (hl : s.hub.linkBad = some (selQueue w q)) : popWord w q s = loseQueue (selQueue w q) (popIdle w q s) := by
  simp [popWord, hb, ho, hl]

section
variable (hl : s.hub.linkBad ≠ some (selQueue w q))
include hl

theorem popWord_of_begun {c : Cell} {rest : List Cell} (h : (s.hub.queue (selQueue w q)).begun = some (c :: rest)) :
    popWord w q s = popCell w q c rest s := by
  simp [popWord, hb, ho, hl, h]

theorem popWord_of_waiting {p : QPkt} {c : Cell} {rest : List Cell} (h : (s.hub.queue (selQueue w q)).begun = none)
    (hp : bestPkt (s.hub.queue (selQueue w q)).waiting = some p) (hc : p.cells = c :: rest) :
    popWord w q s = popCell w q c rest { s with hub := beginPacket (selQueue w q) p s.hub } := by
  simp [popWord, hb, ho, hl, h, hp, hc]

theorem popWord_of_empty (h : (s.hub.queue (selQueue w q)).begun = none) (hp : bestPkt (s.hub.queue (selQueue w q)).waiting = none) :
    popWord w q s = popIdle w q s := by
  simp [popWord, hb, ho, hl, h, hp]

end
end
end

/-- With nothing waiting, only what waits for room in EVQ goes on (R468). -/
theorem resume_of_none_waiting (hb : s.hub.rebuild = none) (hw : s.hub.waiting = []) : resume s = drainBacklog s := by
  have hs : ({ s with hub := { s.hub with waiting := [] } } : State) = s := by rw [← hw]
  refine (if_neg (by simp [hb])).trans ?_
  rw [hw]
  exact congrArg drainBacklog hs

end

theorem resume_of_rebuild {s : State} (hb : s.hub.rebuild ≠ none) : resume s = s := if_pos (Option.isSome_iff_ne_none.mpr hb)

section
variable {s : State} {w : Window} {priv : Bool} (hr : s.rst.inReset = false) (hp : w = .hostp → priv = true)
include hr hp

theorem execQueuePop_of_admitted (q : QSel) : exec (.queuePop w q priv) s = .next (resume (popWord w q (s.answer w false 0))) :=
  congrArg Host.Outcome.next (windowWrite_of_admitted _ hr hp)

end

/-! ### Flushes -/

/-- What a flush leaves of the error reporting: the drop count of EVQ or LOFT is cleared (R376). -/
def ErrSt.flushed (e : ErrSt) : FlushSel → ErrSt
  | .evq => { e with evqDrop := 0 }
  | .loft => { e with loftDrop := 0 }
  | .cmdq | .rplq => e

/-- What a flush does that is not yet pending, through a window that reads the queue (R376, R378, R379). -/
theorem flush_of_allowed {s : State} {w : Window} {f : FlushSel} (hf : (s.hub.win w).flushOf f = none) (hm : s.hub.mayFlush w f = true) :
    flush w f s =
      let r := s.hub.discardWaiting (flushQueue w f)
      let v := (r.2.win w).setFlush f (some { pkts := r.1 })
      { s with
        hub := r.2.setWin w (if f = .cmdq then { v with opn := v.opn.map (fun o => { o with collect := true }) } else v)
        err := s.err.flushed f } := by
  have hdue : ¬(((s.win w).flushOf f).isSome || !(s.hub.mayFlush w f)) = true := by simp [State.win, hf, hm]
  unfold flush
  rw [if_neg hdue]
  cases f <;> rfl

@[simp] theorem State.answer_flushOf (s : State) (w : Window) (e : Bool) (d : BitVec 32) (f : FlushSel) :
    ((s.answer w e d).hub.win w).flushOf f = (s.hub.win w).flushOf f := by
  cases w <;> cases f <;> rfl

theorem HubSt.flushReady_of {h : HubSt} {w : Window} {f : FlushSel} (hb : (h.queue (flushQueue w f)).begun = none)
    (ho : f = .cmdq → ∀ o, (h.win w).opn = some o → o.collect = false) : h.flushReady w f = true := by
  cases f with
  | cmdq =>
    cases hopn : (h.win w).opn with
    | none => simp [HubSt.flushReady, hb, hopn]
    | some o => simp [HubSt.flushReady, hb, hopn, ho rfl o hopn]
  | _ => simp [HubSt.flushReady, hb]

theorem execFlushComplete_of_ready {s : State} {w : Window} {f : FlushSel} {x : FlushSt} (hx : (s.hub.win w).flushOf f = some x)
    (hready : s.hub.flushReady w f = true) : exec (.flushComplete w f) s =
      .next { s with hub := (s.hub.setWin w ((s.hub.win w).setFlush f none)).writePacket (rplqOf w) 3 false (flushReply (flushQueue w f) x) } := by
  simp only [exec, execFlushComplete, State.win, hx, hready, if_true]

/-- Settles O10: a pop by what it finds, a flush field by field, and the end of a flush. -/
theorem queuesArePoppedAndFlushed : Obligations.QueuesArePoppedAndFlushed := by
  unfold Obligations.QueuesArePoppedAndFlushed
  refine ⟨fun s w q priv hr hp => ?pop, fun s w priv hr hp => ?flush⟩
  case pop =>
    intro qc a
    rw [execQueuePop_of_admitted hr hp]
    have hrebuild : a.hub.rebuild = s.hub.rebuild := State.answer_rebuild _ _ _ _
    have howns : a.hub.owns w q = s.hub.owns w q := State.answer_owns _ _ _ _ _
    have hlink : a.hub.linkBad = s.hub.linkBad := State.answer_linkBad _ _ _ _
    have hbegun : (a.hub.queue qc).begun = (s.hub.queue qc).begun := congrArg Queue.begun (State.answer_queue _ _ _ _ _)
    have hwaits : (a.hub.queue qc).waiting = (s.hub.queue qc).waiting := congrArg Queue.waiting (State.answer_queue _ _ _ _ _)
    refine ⟨fun hb => ?rebuild, fun hb => ⟨fun ho => ?other, fun ho hl c rest h => ?begun, fun ho hl h p c rest hbest hcells => ?waiting,
      fun ho hl h hnone => ?empty, fun ho hl => ?linkBad⟩, fun t => resume_of_none_waiting⟩
    case rebuild =>
      have hb' : a.hub.rebuild ≠ none := hrebuild.trans_ne hb
      rw [popWord_of_rebuild hb', resume_of_rebuild (by exact hb')]
    case other =>
      rw [popWord_of_not_owner (hrebuild.trans hb) (howns.trans ho)]
      rfl
    case begun =>
      rw [popWord_of_begun (hrebuild.trans hb) (howns.trans ho) (hlink.trans_ne hl) (hbegun.trans h), popCell_eq]
    case waiting =>
      rw [← hwaits] at hbest
      rw [popWord_of_waiting (hrebuild.trans hb) (howns.trans ho) (hlink.trans_ne hl) (hbegun.trans h) hbest hcells, popCell_eq, beginPacket,
        hcells]
    case empty =>
      rw [← hwaits] at hnone
      rw [popWord_of_empty (hrebuild.trans hb) (howns.trans ho) (hlink.trans_ne hl) (hbegun.trans h) hnone]
      rfl
    case linkBad =>
      rw [popWord_of_linkBad (hrebuild.trans hb) (howns.trans ho) (hlink.trans hl)]
      rfl
  case flush =>
    intro a
    have pending (f : FlushSel) : (a.hub.win w).flushOf f = (s.hub.win w).flushOf f := State.answer_flushOf _ _ _ _ _
    have howns (q : QSel) : a.hub.owns w q = s.hub.owns w q := State.answer_owns _ _ _ _ _
    have admitted (f : State → State) := congrArg (Host.Outcome.next (φ := Fault) (ρ := Refusal)) (windowWrite_of_admitted f hr hp)
    refine ⟨fun hf => (admitted _).trans ?cmdq, fun hf => (admitted _).trans ?rplq, fun hf ho => (admitted _).trans ?evq,
      fun hf ho => (admitted _).trans ?loft, fun f x hx hb ho => ?complete⟩
    case cmdq =>
      rw [flush_of_allowed ((pending .cmdq).trans hf) rfl]
      cases w <;> rfl
    case rplq =>
      rw [flush_of_allowed ((pending .rplq).trans hf) rfl]
      cases w <;> rfl
    case evq =>
      rw [flush_of_allowed ((pending .evq).trans hf) ((howns .evq).trans ho)]
      cases w <;> rfl
    case loft =>
      rw [flush_of_allowed ((pending .loft).trans hf) ((howns .loft).trans ho)]
      cases w <;> rfl
    case complete => exact execFlushComplete_of_ready hx (HubSt.flushReady_of hb ho)

end Sys2Proof.Machine
end

section
/-! Dual-party changes: staging, proposals, withdrawal, status, and the expiry of a proposal (R408 to R410, R429 to R433). -/

namespace Sys2Proof.Machine

@[simp] theorem raise_prot (ev : Ev) (s : State) : (raise ev s).prot = s.prot :=
  have h := congrArg State.prot (raise_frame ev s)
  h

/-! ### The expiry of a proposal -/

/-- The block at the deadline of a proposal, before the expiry is reported: its nonce is the expired one (R431, R432). -/
def State.expired (s : State) : State := endPending 2 { s with prot := { s.prot with expNonce := some s.prot.nonce } }

section
variable {s : State}

theorem expire_of_none (hp : s.prot.pend = none) : expire s = s := by
  simp only [expire, hp]

variable {p : Pend} (hp : s.prot.pend = some p)
include hp

theorem expire_of_early (hd : s.now < p.deadline) : expire s = s := by
  simp only [expire, hp, if_neg (Nat.not_le.mpr hd)]

theorem expire_of_late (hd : p.deadline ≤ s.now) : expire s = raise (protEv 2 p.win s.expired) s.expired := by
  simp only [expire, hp, if_pos hd, State.expired]

theorem expire_pend_of_late (hd : p.deadline ≤ s.now) : (expire s).prot.pend = none := by
  rw [expire_of_late hp hd, raise_prot]
  rfl

end

/-! ### Staging -/

/-- The staging buffer of the window of a command, with the words that the command names written into it (R408). -/
def Kcp.staged (k : Kcp) (p : ProtSt) : Stage := (p.stage k.win).write (fld (k.par 0) 0 12) (bit (k.par 0) 12) (bit (k.par 0) 13) (k.ps.drop 1)

section
variable {s : State} {c : Nat} {k : Kcp} (hk : s.newCmd c 0x50 = some k) (hf : k.flag 0 = true)
include hk hf

theorem execProtProposeStage_of_pending {p : Pend} (hp : (expire s).prot.pend = some p) (hw : p.win = k.win) :
    exec (.protProposeStage c) s = .next (finish k stConflict 0 [] (expire s)) := by
  refine congrArg Host.Outcome.next ((runCmd_of_some hk hf).trans ?_)
  simp only [hp, hw, decide_true, if_true]

variable (hp : (expire s).prot.pend = none)
include hp

theorem execProtProposeStage_of_sound (hb : (k.staged (expire s).prot).last = false ∨ blockBad (k.staged (expire s).prot).block = none) :
    exec (.protProposeStage c) s = .next (finish k stOk (k.staged (expire s).prot).len []
      { expire s with prot := (expire s).prot.setStage k.win (k.staged (expire s).prot) }) := by
  have hnone : (if (k.staged (expire s).prot).last then blockBad (k.staged (expire s).prot).block else none) = none := by
    rcases hb with hb | hb <;> simp [hb]
  unfold Kcp.staged at hnone ⊢
  refine congrArg Host.Outcome.next ((runCmd_of_some hk hf).trans ?_)
  simp only [hp, hnone, Bool.false_eq_true, if_false]

theorem execProtProposeStage_of_bad {i : Nat} (hl : (k.staged (expire s).prot).last = true)
    (hb : blockBad (k.staged (expire s).prot).block = some i) :
    exec (.protProposeStage c) s = .next (finish k stFailed (i % 4096 + 0x8000) []
      { expire s with prot := (expire s).prot.setStage k.win { k.staged (expire s).prot with last := false } }) := by
  have hsome : (if (k.staged (expire s).prot).last then blockBad (k.staged (expire s).prot).block else none) = some i := by
    rw [hl, if_pos rfl, hb]
  unfold Kcp.staged at hsome ⊢
  refine congrArg Host.Outcome.next ((runCmd_of_some hk hf).trans ?_)
  simp only [hp, hsome, Bool.false_eq_true, if_false]

end

/-! ### Proposals -/

theorem execProtPropose_of_new {s : State} {c : Nat} {k : Kcp} (hk : s.newCmd c 0x50 = some k) (hf : k.flag 0 = false) :
    exec (.protPropose c) s = .next (propose k s) := by
  have hform : (!k.flag 0) = true := by rw [hf]; rfl
  exact congrArg Host.Outcome.next (runCmd_of_some hk hform)

section
variable {s : State} {k : Kcp}

theorem propose_of_open (hp : s.prot.pend = none) (hb : (s.prot.stage k.win).last = false) : propose k s = finish k stConflict 0 [] s := by
  simp [propose, expire_of_none hp, hp, hb, ProtSt.pendCode]

/-- The first proposal of a closed buffer, check by check (R409). -/
theorem propose_of_first (hp : s.prot.pend = none) (hb : (s.prot.stage k.win).last = true) : propose k s =
    if s.prot.expNonce = some (k.par 0) then finish k stExpired 0 [] s
    else if k.par 0 ≠ s.prot.nonce then denyProposal k 2 5 s
    else if digestJoin (k.ps.drop 1) ≠ digestWords (s.prot.stage k.win).block then denyProposal k 3 6 s
    else finish k stAwaiting ((s.ptcNow + 100000000) % 2 ^ 24) [] { s with prot := { s.prot with
      pend := some { win := k.win, digest := digestJoin (k.ps.drop 1), deadline := s.now + 100000000 } } } := by
  simp only [propose, expire_of_none hp, hp, hb, Bool.not_true, Bool.or_self, Bool.false_eq_true, if_false]

/-- The second proposal, of the other window, that passes every check (R409). -/
theorem propose_of_second {p : Pend} (hp : s.prot.pend = some p) (hd : s.now < p.deadline) (hw : p.win ≠ k.win)
    (hb : (s.prot.stage k.win).last = true) (he : s.prot.expNonce ≠ some (k.par 0)) (hn : k.par 0 = s.prot.nonce)
    (hg : digestJoin (k.ps.drop 1) = digestWords (s.prot.stage k.win).block) : propose k s =
    if p.digest = digestJoin (k.ps.drop 1) then commitBlock k s
    else finish k stDenied 4 [] (raise (protEv 4 k.win (endPending 4 s)) (endPending 4 s)) := by
  simp only [propose, expire_of_early hp hd, hp, hb, decide_eq_false hw, if_neg he, if_neg (not_not.mpr hn), if_neg (not_not.mpr hg), Bool.not_true,
    Bool.or_self, Bool.false_eq_true, if_false]

end

/-! ### Withdrawal and status -/

section
variable {s : State} {c : Nat} {k : Kcp} (hk : s.newCmd c 0x52 = some k)
include hk

theorem execProtWithdraw_of_own {p : Pend} (hp : s.prot.pend = some p) (hd : s.now < p.deadline) (hw : p.win = k.win) :
    exec (.protWithdraw c) s = .next (finish k stOk 0 [] (raise (protEv 3 k.win (endPending 3 s)) (endPending 3 s))) := by
  simp only [exec, execProtWithdraw, runCmd_of_some hk, expire_of_early hp hd, hp, if_pos hw]

theorem execProtWithdraw_of_none (hp : s.prot.pend = none) : exec (.protWithdraw c) s = .next (finish k stConflict 0 [] s) := by
  simp only [exec, execProtWithdraw, runCmd_of_some hk, expire_of_none hp, hp]

end

@[simp] theorem digestSplit_length (d : BitVec 384) : (digestSplit d).length = 6 := by
  rw [digestSplit, wordsDown, List.length_map, List.length_range]

/-- The words of PROT_STATUS are ten, the first two the codes and the nonce (R410). -/
theorem execProtStatus_of_new {s : State} {c : Nat} {k : Kcp} (hk : s.newCmd c 0x51 = some k) : ∃ ws,
    exec (.protStatus c) s = .next (finish k stOk 0 ws s) ∧ ws.length = 10 ∧
      ws.take 2 = [pack 64 [(0, s.prot.pendCode), (4, s.prot.last.toNat), (16, s.prot.commits.toNat)], s.prot.nonce] := by
  refine ⟨_, congrArg Host.Outcome.next (runCmd_of_some hk rfl), ?_, rfl⟩
  cases s.prot.pend <;> simp

/-! ### The obligation -/

/-- Settles O48: staging and proposals by what is pending, each check of a proposal in turn, and the ends of a proposal. -/
theorem proposalsAreDecided : Obligations.ProposalsAreDecided := by
  unfold Obligations.ProposalsAreDecided
  refine fun s c k p => ⟨fun hk hf hp => ?stage, fun hk hf hp hw hd => ?staging, fun hk hf hp hd => ?stageLate, fun hk hf hp => ?first,
    fun hk hf hp hd hw hb he hn hg => ?second, fun hp hd => ?expires, fun h => ?stays, fun hk hp hd hw => ?withdraw,
    fun hk hp => execProtWithdraw_of_none hk hp, execProtStatus_of_new⟩
  case stage =>
    have hnone : (expire s).prot.pend = none := by rw [expire_of_none hp, hp]
    have sound := execProtProposeStage_of_sound hk hf hnone
    have bad {i : Nat} := execProtProposeStage_of_bad (i := i) hk hf hnone
    rw [expire_of_none hp] at sound bad
    exact ⟨fun hl => sound (.inl hl), fun _ hb => sound (.inr hb), fun i hl hb => bad hl hb⟩
  case staging =>
    have hpend : (expire s).prot.pend = some p := by rw [expire_of_early hp hd, hp]
    rw [execProtProposeStage_of_pending hk hf hpend hw, expire_of_early hp hd]
  case stageLate => exact fun hl => execProtProposeStage_of_sound hk hf (expire_pend_of_late hp hd) (.inl hl)
  case first =>
    rw [execProtPropose_of_new hk hf]
    refine ⟨fun hb => by rw [propose_of_open hp hb], fun hb he => ?_, fun hb he hn => ?_, fun hb he hn hg => ?_, fun hb he hn hg => ?_⟩
    all_goals rw [propose_of_first hp hb]
    · rw [if_pos he]
    · rw [if_neg he, if_pos hn]
      rfl
    · rw [if_neg he, if_neg (not_not.mpr hn), if_pos hg]
      rfl
    · rw [if_neg he, if_neg (not_not.mpr hn), if_neg (not_not.mpr hg)]
      exact ⟨_, rfl, rfl, rfl⟩
  case second =>
    rw [execProtPropose_of_new hk hf, propose_of_second hp hd hw hb he hn hg]
    exact ⟨fun h => by rw [if_pos h], fun h => ⟨endPending 4 s, by rw [if_neg h], rfl, rfl, rfl⟩⟩
  case expires => exact ⟨s.expired, congrArg Host.Outcome.next (expire_of_late hp hd), rfl, rfl⟩
  case stays =>
    refine congrArg Host.Outcome.next ?_
    rcases h with hp | ⟨hp, hd⟩
    · exact expire_of_none hp
    · exact expire_of_early hp hd
  case withdraw => exact ⟨endPending 3 s, execProtWithdraw_of_own hk hp hd hw, rfl, rfl, rfl⟩

end Sys2Proof.Machine
end

section
/-! Partition transitions, microcode, and the measurement log: the retry of a waiting block, T_S, the sweep and its reports, T_A, and the
activation of staged microcode (R388, R411, R412, R434 to R441). -/

namespace Sys2Proof.Machine

variable {s : State}

/-! ### The block that is issued (R434) -/

section
variable {b : Blk} {rest : List Blk} (hb : s.prot.blks = b :: rest)
include hb

theorem issueBlock_of_due (hp : b.phase = .waiting) (hr : b.retryAt ≤ s.now) (hh : s.holdOf .partition = none) (ht : s.prot.trans = false) :
    issueBlock s = genIssue { kind := .partition, issuer := s.inst, tick := s.ahead 2000000, payload := .block b.words (digestWords b.words) }
      (s.ahead 2000000 - 5000)
      { s.used with prot := { s.prot with blks := { b with phase := .issued, ts := s.ahead 2000000 } :: rest } } := by
  have hdue : b.phase = .waiting ∧ b.retryAt ≤ s.now ∧ (s.holdOf .partition).isNone ∧ !s.prot.trans :=
    ⟨hp, hr, by rw [hh]; rfl, by rw [ht]; rfl⟩
  simp only [issueBlock, hb]
  rw [if_pos hdue]
  rfl

theorem issueBlock_of_early (hr : s.now < b.retryAt) : issueBlock s = s := by
  simp only [issueBlock, hb]
  exact if_neg fun ⟨_, hdue, _⟩ => Nat.not_le.mpr hr hdue

/-- The first block is the active one once it has been swept here (R434). -/
theorem State.activeBlk_of_reported (hp : b.phase = .reported) : s.activeBlk = some b := by
  simp [State.activeBlk, hb, hp]

end

/-! ### T_S (R435, R438) -/

/-- When the first element that satisfies `p` satisfies `q` too, it is the first that satisfies both. -/
theorem find?_and_of_find? {α : Type} {p q : α → Bool} {a : α} {l : List α} (h : l.find? p = some a) (hq : q a = true) :
    l.find? (fun x => p x && q x) = some a := by
  induction l with
  | nil => cases h
  | cons x l ih =>
    by_cases hx : p x = true
    · rw [List.find?_cons_of_pos hx, Option.some_inj] at h
      subst h
      exact List.find?_cons_of_pos (by rw [hx, hq]; rfl)
    · rw [List.find?_cons_of_neg hx] at h
      rw [List.find?_cons_of_neg (by simp [hx]), ih h]

theorem State.dueHold_of_holdOf {g : GenKind} {h : GenHold} (hh : s.holdOf g = some h) (ha : h.armed = true) (ht : h.chg.tick ≤ s.ptcNow) :
    s.dueHold g = some h :=
  find?_and_of_find? hh (by simp [State.isDue, ha, ht])

theorem execPartitionTransitionStart_of_due {h : GenHold} {ws : List W64} {d : BitVec 384} (hh : s.dueHold .partition = some h)
    (hp : h.chg.payload = .block ws d) : exec .partitionTransitionStart s = .next (startTransition ws h.chg.issuer s) := by
  simp only [exec, execPartitionTransitionStart, hh, hp]

theorem execPartitionTransitionStart_of_none (hh : s.dueHold .partition = none) : exec .partitionTransitionStart s = .next s := by
  simp only [exec, execPartitionTransitionStart, hh]

/-! ### The sweep and its reports (R439, R440) -/

/-- The sweep of a slice without entries has nothing to back-invalidate (R439). -/
theorem execPartitionSweepDone_of_empty {b : Blk} {j : Nat} (hb : s.activeBlk = some b) (hp : b.phase = .sweeping) (hw : s.works j = true)
    (hsf : (s.slice j).sf = []) : exec (.partitionSweepDone j) s =
      let imp := (s.impureBits false, s.impureBits true)
      let u := s.modSlice j (fun v => { v with partSweep := !(s.sweptOf imp j) })
      .next (if u.slicesUp.all (fun i => !(u.slice i).partSweep && u.sweptOf imp i) && u.sweptInMesh imp then reportSweep b u else u) := by
  simp only [exec, execPartitionSweepDone, hb, hsf, List.map_nil, List.foldl_nil]
  rw [if_pos ⟨hp, hw⟩]

/-- The report of another instance is noted in the block; with the last one the engine goes on (R440). -/
theorem execPartitionSweepReport_of_peer {b : Blk} {bs : List Blk} {src : BitVec 3} (hb : s.prot.blks = b :: bs) (hp : b.phase = .reported)
    (hi : b.issuer = s.inst) (hsrc : src ≠ s.inst) :
    let b' : Blk := { b with reports := b.reports ||| (1#8 <<< src.toNat) }
    let u : State := { s with prot := { s.prot with blks := b' :: bs } }
    exec (.partitionSweepReport src) s = .next (if s.pkg.members &&& ~~~b'.reports = 0 then allReported u else u) := by
  intro b' u
  have hnoted : lmodify (fun x : Blk => decide (x.phase = b.phase)) (fun x => if src = s.inst then x else { x with
      reports := x.reports ||| (1#8 <<< src.toNat) }) s.prot.blks = b' :: bs := by
    rw [hb, lmodify, if_pos (decide_eq_true rfl), if_neg hsrc]
  have hactive : u.activeBlk = some b' := State.activeBlk_of_reported (s := u) (rest := bs) (b := b') rfl hp
  simp only [exec, execPartitionSweepReport, State.activeBlk_of_reported hb hp]
  rw [if_pos ⟨hi, .inr hp⟩, hnoted]
  rw [hactive]
  exact congrArg Host.Outcome.next (if_congr (and_iff_right hp) rfl rfl)

/-! ### T_A (R187, R440) -/

section
variable {b : Blk} (hb : s.activeBlk = some b)
include hb

theorem execPartitionActivate_of_named {t : Nat} (hm : s.movesAids = false) (hp : b.phase = .named) (ht : b.ta = some t) :
    exec .partitionActivate s = .next (if t ≤ s.ptcNow then activateTables s else s) := by
  simp only [exec, execPartitionActivate, hb, hm, ht, hp, true_and, Bool.false_eq_true, if_false]

theorem execPartitionActivate_of_member (hm : s.movesAids = false) (hi : b.issuer ≠ s.inst) (hp : b.phase = .reported) (ht : b.ta = none) :
    exec .partitionActivate s = .next (nameTa (s.ahead 0) s.used) := by
  simp only [exec, execPartitionActivate, hb, hm, ht, Bool.false_eq_true, if_false]
  rw [if_pos ⟨hi, hp⟩]

theorem execPartitionActivate_of_flip {m : Tbl (BitVec 6)} (hm : s.movesAids = true) (hf : s.dueFlip = some m) :
    exec .partitionActivate s = .next (flipNow m s) := by
  simp only [exec, execPartitionActivate, hb, hm, hf, if_true]

end

/-- Without a block that is being applied, no step of a transition changes anything (R434). -/
theorem execPartition_of_no_block (hb : s.activeBlk = none) (j : Nat) (src : BitVec 3) :
    exec (.partitionSweepDone j) s = .next s ∧ exec (.partitionSweepReport src) s = .next s ∧ exec .partitionActivate s = .next s := by
  simp only [exec, execPartitionSweepDone, execPartitionSweepReport, execPartitionActivate, hb, and_self]

/-! ### Microcode (R412, R437, R441) -/

/-- A log with room takes the measurement (R441). -/
theorem measure_log (comp : Nat) (ver : BitVec 32) (d : BitVec 384) (hl : s.prot.log.length < 1024) :
    (measure comp ver d s).prot.log.length = s.prot.log.length + 1 := by
  simp [measure, Nat.not_le.mpr hl]

/-- The staged image measured, with its authorisation used up and its version to come (R412, R441). -/
def State.ucodeTaken (s : State) : State :=
  let img := s.prot.ucSt.block
  let t := measure 3 (Config.ucVersion img) (digestWords img) { s with prot := { s.prot with uc := none } }
  { t with prot := { t.prot with ucNew := Config.ucVersion img } }

section
variable {c : Nat} {k : Kcp} (hk : s.newCmd c 0x59 = some k)
include hk

theorem execUcodeActivate_of_open (hl : s.prot.ucSt.last = false) : exec (.ucodeActivate c) s = .next (finish k stConflict 0 [] s) := by
  refine congrArg Host.Outcome.next ((runCmd_of_some hk rfl).trans ?_)
  simp only [hl, Bool.not_false, if_true]

variable (hl : s.prot.ucSt.last = true)
include hl

theorem execUcodeActivate_of_unauthorised (hu : s.prot.uc = none) : exec (.ucodeActivate c) s = .next (finish k stDenied 5 [] s) := by
  refine congrArg Host.Outcome.next ((runCmd_of_some hk rfl).trans ?_)
  simp only [hl, hu, Bool.not_true, Bool.false_eq_true, if_false]

variable {v : BitVec 32} {d : BitVec 384} (hu : s.prot.uc = some (v, d))
include hu

theorem execUcodeActivate_of_other_digest (hd : digestWords s.prot.ucSt.block ≠ d) :
    exec (.ucodeActivate c) s = .next (finish k stDenied 6 [] s) := by
  refine congrArg Host.Outcome.next ((runCmd_of_some hk rfl).trans ?_)
  simp only [hl, hu, Bool.not_true, Bool.false_eq_true, if_false, if_pos hd]

theorem execUcodeActivate_of_authorised (hd : digestWords s.prot.ucSt.block = d) (hlog : s.prot.log.length < 1024)
    (hc : Config.ucodeCheck s.prot.ucSt.block = true) : exec (.ucodeActivate c) s =
      .next (nextSwitch k.id s.ucodeTaken.slicesUp (s.ucodeTaken.startCmd k (fun x => { x with units := s.ucodeTaken.slicesUp }))) := by
  refine congrArg Host.Outcome.next ((runCmd_of_some hk rfl).trans ?_)
  simp only [hl, hu, Bool.not_true, Bool.false_eq_true, if_false, if_neg (not_not.mpr hd), if_neg (Nat.not_le.mpr hlog), hc]
  rfl

end

theorem State.ucodeTaken_prot (hlog : s.prot.log.length < 1024) : s.ucodeTaken.prot.uc = none ∧
    s.ucodeTaken.prot.ucNew = Config.ucVersion s.prot.ucSt.block ∧ s.ucodeTaken.prot.log.length = s.prot.log.length + 1 := by
  refine ⟨?_, rfl, measure_log (s := { s with prot := { s.prot with uc := none } }) _ _ _ hlog⟩
  simp only [State.ucodeTaken, measure]
  split <;> rfl

theorem State.ucodeTaken_slices (s : State) : s.ucodeTaken.slices = s.slices := by
  have h := congrArg State.slices (measure_frame 3 (Config.ucVersion s.prot.ucSt.block) (digestWords s.prot.ucSt.block)
    { s with prot := { s.prot with uc := none } })
  exact h

section
variable {c j t : Nat} (ha : s.prot.ucAct = some (c, j, t)) (hw : s.works j = true)
include ha hw

theorem execUcodeSliceSwitch_of_loaded (hi : (s.slice j).threadsIdle = true) (ht : t + 16384 ≤ s.time.cycles) :
    exec .ucodeSliceSwitch s = .next (nextSwitch c (s.slicesUp.filter (fun i => decide (j < i)))
      (s.modSlice j (fun v => { v with ucSwitch := false, ucVer := s.prot.ucNew }))) := by
  simp only [exec, execUcodeSliceSwitch, ha, hw, hi, decide_eq_true ht, Bool.not_true, Bool.false_eq_true, if_false, Bool.and_self, if_true]

theorem execUcodeSliceSwitch_of_loading (ht : s.time.cycles < t + 16384) : exec .ucodeSliceSwitch s = .next s := by
  simp only [exec, execUcodeSliceSwitch, ha, hw, decide_eq_false (Nat.not_le.mpr ht), Bool.not_true, Bool.false_eq_true, if_false, Bool.and_false]

end

/-! ### The obligation -/

/-- Settles O49: each step of a transition by the block that is active, and UCODE_ACTIVATE check by check. -/
theorem transitionsAndMicrocode : Obligations.TransitionsAndMicrocode := by
  unfold Obligations.TransitionsAndMicrocode
  refine fun s c j k src => ⟨fun b rest hb hp hr hh ht => ?retry, fun b rest hb hr => ?early, fun h ws d hh hp ha ht => ?start, fun h => ?noStart,
    fun b => execPartitionSweepDone_of_empty, fun hb => execPartition_of_no_block hb j src, fun b bs hb hp hi hsrc => ?report,
    fun b t hb => execPartitionActivate_of_named hb, fun b => execPartitionActivate_of_member, fun b m hb => execPartitionActivate_of_flip hb,
    fun hk => ?stage, execUcodeActivate_of_open, execUcodeActivate_of_unauthorised, fun v d hk hl hu => execUcodeActivate_of_other_digest hk hl hu,
    fun v d hk hl hu hd hlog hc => ?activate, fun t => execUcodeSliceSwitch_of_loaded, fun t => execUcodeSliceSwitch_of_loading, fun hk => ?read⟩
  case retry =>
    exact ⟨_, s.ahead 2000000, Nat.le_add_right _ _, rfl, congrArg Host.Outcome.next (issueBlock_of_due hb hp hr hh ht)⟩
  case early => exact congrArg Host.Outcome.next (issueBlock_of_early hb hr)
  case start => exact execPartitionTransitionStart_of_due (State.dueHold_of_holdOf hh ha ht) hp
  case noStart => exact execPartitionTransitionStart_of_none (State.dueHold_eq_none h)
  case report =>
    intro b'
    exact ⟨{ s with prot := { s.prot with blks := b' :: bs } }, rfl, rfl, execPartitionSweepReport_of_peer hb hp hi hsrc⟩
  case stage => exact congrArg Host.Outcome.next (runCmd_of_some hk rfl)
  case activate =>
    obtain ⟨huc, hnew, hlength⟩ := State.ucodeTaken_prot hlog
    exact ⟨s.ucodeTaken, execUcodeActivate_of_authorised hk hl hu hd hlog hc, huc, hnew, hlength, s.ucodeTaken_slices⟩
  case read => exact ⟨_, congrArg Host.Outcome.next (runCmd_of_some hk rfl), rfl⟩

end Sys2Proof.Machine
end

section
/-! The loss of a slice, its closed wrapper, and the salvage of its records, its arrays and its mirror (R454 to R461, R502, R504). -/

namespace Sys2Proof.Machine

variable {s : State} {k : Nat}

/-! ### The loss of a slice -/

/-- A slice that is off, failed, disabled or under reset has nothing left to lose (R389, R454). -/
theorem SlState.losable_eq_false {st : SlState} (h : st = .off ∨ st = .failed ∨ st = .disabled ∨ st = .reset) : st.losable = false := by
  rcases h with rfl | rfl | rfl | rfl <;> rfl

theorem execSliceFatal_of_losable {cause : FatalCause} (hl : (s.slice k).st.losable = true) (hf : cause ≠ .forced) (hi : cause ≠ .injected) :
    exec (.sliceFatal k cause) s = .next (loseSlice k cause 0 0 none s) :=
  congrArg Host.Outcome.next (if_pos (by simp [hl, hf, hi]))

theorem execSliceFatal_of_not_losable (cause : FatalCause) (hl : (s.slice k).st.losable = false) : exec (.sliceFatal k cause) s = .next s :=
  congrArg Host.Outcome.next (if_neg (by simp [hl]))

/-- FORCED and INJECTED come from their own commands alone (R454). -/
theorem execSliceFatal_of_commanded {cause : FatalCause} (hc : cause = .forced ∨ cause = .injected) : exec (.sliceFatal k cause) s = .next s :=
  congrArg Host.Outcome.next (if_neg (by rcases hc with rfl | rfl <;> simp))

section
variable (engine : BitVec 4) (thread : BitVec 2)

theorem execEngineHang_of_hung (hl : (s.slice k).st.losable = true) (hh : (s.slice k).hung s.time.cycles = true) :
    exec (.engineHang k engine thread) s = .next (loseSlice k .engineHang engine.toNat thread.toNat none s) :=
  congrArg Host.Outcome.next (if_pos (by rw [hl, hh]; rfl))

theorem execEngineHang_of_not_losable (hl : (s.slice k).st.losable = false) : exec (.engineHang k engine thread) s = .next s :=
  congrArg Host.Outcome.next (if_neg (by simp [hl]))

theorem Slice.hung_eq_false {v : Slice} {now : Nat} (h : ∀ t ∈ v.txns, now < t.ran + 65536) : v.hung now = false :=
  List.any_eq_false.mpr fun t ht => by simp [Nat.not_le.mpr (h t ht)]

theorem execEngineHang_of_moving (h : ∀ t ∈ (s.slice k).txns, s.time.cycles < t.ran + 65536) : exec (.engineHang k engine thread) s = .next s :=
  congrArg Host.Outcome.next (if_neg (by simp [Slice.hung_eq_false h]))

end

/-! ### The closed wrapper -/

section
variable {vc : VC}

theorem execWrapperPacket_of_open (hw : (s.slice k).wrapper = false) : exec (.wrapperPacket k vc) s = .next s := by
  change execWrapperPacket k vc s = _
  unfold execWrapperPacket
  cases (s.arrived k portSlice vc).head? with
  | none => rfl
  | some p => exact congrArg Host.Outcome.next (if_neg (by simp [hw]))

variable {p : Pkt} (hp : (s.arrived k portSlice vc).head? = some p) (hw : (s.slice k).wrapper = true)
include hp hw

theorem execWrapperPacket_of_request {q : Req} {src : Nat} {cr w : CredKind} (hm : p.msg = .req q src cr w) :
    exec (.wrapperPacket k vc) s = .next ((s.dropArrived k portSlice vc).fromSlice k src (if p.vc = .gt then .gt else .rsp) p.gtc
      (.cmpErr q.aid q.txid 0 (if (s.slice k).st = .failed then rsSliceLost else rsIsolated))) := by
  simp only [exec, execWrapperPacket, hp, hw, hm, if_true]
  rfl

theorem execWrapperPacket_of_response {op : RspOp} {aid : Aid} {h : BitVec 20} {pd wb : Bool} (hm : p.msg = .rsp op aid h pd wb) :
    exec (.wrapperPacket k vc) s =
      .next ((s.dropArrived k portSlice vc).modSlice k (fun v => { v with discards := v.discards + 1 })) := by
  simp only [exec, execWrapperPacket, hp, hw, hm, if_true]

end

/-! ### What a change of a salvage leaves -/

theorem State.salv_modSalv {x : Salv} (h : s.salv k = some x) (f : Salv → Salv) : (s.modSalv k f).salv k = some (f x) := by
  rw [State.salv] at h
  simp only [State.salv, State.modSalv, State.slice_modSlice, if_true, h, Option.map_some]

theorem State.slice_modSalv_of_ne {j : Nat} (hj : j ≠ k) (f : Salv → Salv) : (s.modSalv k f).slice j = s.slice j := by
  rw [State.modSalv, State.slice_modSlice, if_neg hj]

/-- Only what a change makes of the salvage that is there matters. -/
theorem State.modSalv_congr {x : Salv} (h : s.salv k = some x) {f g : Salv → Salv} (hfg : f x = g x) : s.modSalv k f = s.modSalv k g := by
  rw [State.salv] at h
  simp only [State.modSalv, State.modSlice, h, Option.map_some, hfg]

/-- A read of the salvage path that has a word to return is due until the decision (R457). -/
theorem salvageRead_due {x : Salv} {a : SalvArray} {n : Nat} (hst : (s.slice k).st = .failed) (hd : x.decided = false)
    (hr : x.reads (s.slice k) a n = true) :
    ¬((s.slice k).st ≠ .failed ∨ x.decided = true ∨ (!(x.reads (s.slice k) a n)) = true) := by
  simp [hst, hd, hr]

/-! ### The records -/

section
variable {x : Salv} (hx : s.salv k = some x)
include hx

theorem execSalvageRecord_of_read {r : WRec} (hst : (s.slice k).st = .failed) (hr : x.recs = [r])
    (ht : x.good .tracker (htidEntry r.htid) = true) (hb : x.good .buffers (htidEntry r.htid) = true) :
    exec (.salvageRecord k) s = .next (
      let u := s.modSalv k (fun x => { x with recs := [] })
      let t := x.txns.find? (fun t => t.e == htidEntry r.htid)
      if r.q.op.isWb then recWriteback k r t true u else recRequest k r t true u) := by
  have known {a : SalvArray} (h : x.good a (htidEntry r.htid) = true) : x.known a (htidEntry r.htid) = true := by
    rw [Salv.good, Bool.and_eq_true] at h
    rw [Salv.known, h.1, Bool.true_or]
  have hfirst : [r].find? (fun r => x.known .tracker (htidEntry r.htid) && x.known .buffers (htidEntry r.htid)) = some r :=
    List.find?_cons_of_pos (by rw [known ht, known hb]; rfl)
  have hgone : s.modSalv k (fun x => { x with recs := lremove (fun y => y == r) x.recs }) = s.modSalv k (fun x => { x with recs := [] }) :=
    State.modSalv_congr hx (by simp [hr, lremove])
  simp only [exec, execSalvageRecord, hx, hr, hfirst, hst, ht, hb, hgone, ne_eq, not_true, if_true, if_false]

theorem execSalvageRecord_of_unread (hr : x.recs.all (fun r => !(x.known .tracker (htidEntry r.htid)) ||
    !(x.known .buffers (htidEntry r.htid))) = true) : exec (.salvageRecord k) s = .next s := by
  have hnone : x.recs.find? (fun r => x.known .tracker (htidEntry r.htid) && x.known .buffers (htidEntry r.htid)) = none :=
    List.find?_eq_none.mpr fun r h => by
      rw [Bool.not_eq_true, ← Bool.not_eq_true', Bool.not_and]
      exact List.all_eq_true.mp hr r h
  simp only [exec, execSalvageRecord, hx, hnone]

/-! ### The arrays -/

theorem execSalvageRead_of_no_read {a : SalvArray} {n : Nat} (r : SalvRead) (hr : x.reads (s.slice k) a n = false) :
    exec (.salvageRead k a n r) s = .next s := by
  simp only [exec, execSalvageRead, hx, hr, Bool.not_false, or_true, if_true]

theorem execSalvageRead_noWord {a : SalvArray} {n : Nat} (hst : (s.slice k).st = .failed) (hd : x.decided = false)
    (hr : x.reads (s.slice k) a n = true) : exec (.salvageRead k a n .noWord) s = .next (issueLate k (loseArray k a s)) := by
  simp only [exec, execSalvageRead, hx, if_neg (salvageRead_due hst hd hr)]

/-- A word of the tracker is noted, and as lost when it cannot be corrected (R457). -/
theorem execSalvageRead_tracker {n : Nat} {r : SalvRead} (hst : (s.slice k).st = .failed) (hd : x.decided = false)
    (hr : x.reads (s.slice k) .tracker n = true) (hword : r ≠ .noWord) :
    exec (.salvageRead k .tracker n r) s = .next (issueLate k (s.modSalv k (fun x => { x with
      read := x.read ++ [(.tracker, n)]
      lostWords := if r = .uncorrectable then x.lostWords ++ [(.tracker, n)] else x.lostWords }))) := by
  cases r with
  | noWord => exact absurd rfl hword
  | ok | uncorrectable =>
    simp only [exec, execSalvageRead, hx, if_neg (salvageRead_due hst hd hr)]
    rfl

/-! ### The mirror -/

theorem execMirrorReadDone_of_due (hst : (s.slice k).st = .failed) (hm : x.mirrorDone = false)
    (hw : s.works (buddy k) = true ∨ x.mirLines ≠ none) (hc : x.cacheDone (s.slice k) = true) :
    let single := if s.works (buddy k) then ((s.slice (buddy k)).errs.filter (fun e => e.array == 4 && e.single)).map (fun e => e.addr) else []
    let u := single.foldl (fun s a => correctWord (buddy k) 4 a accInt s) s
    let l := ((x.mirLines.getD (u.mirrorLines k)).filter (u.mirrorPoisons k x)).map (fun m => m.1)
    exec (.mirrorReadDone k) s = .next (issueLate k (((l.foldl (poisonNow k true) u).modSlice (buddy k)
      (fun b => { b with mirror := [] })).modSalv k (fun x => { x with mirrorDone := true }))) := by
  have hread : (s.works (buddy k) || x.mirLines.isSome) = true := by rwa [Bool.or_eq_true, Option.isSome_iff_ne_none]
  have hdue : ¬((s.slice k).st ≠ .failed ∨ x.mirrorDone = true ∨ (!(s.works (buddy k) || x.mirLines.isSome)) = true ∨
      (!(x.cacheDone (s.slice k))) = true) := by
    rw [hst, hm, hread, hc]
    simp
  simp only [exec, execMirrorReadDone, hx, if_neg hdue]

end

/-! ### The obligation -/

/-- Settles O50: each command of a lost slice by the state of the slice and of its salvage. -/
theorem slicesAreLost : Obligations.SlicesAreLost := by
  unfold Obligations.SlicesAreLost
  refine fun s k cause engine thread vc a n => ⟨execSliceFatal_of_losable, execEngineHang_of_hung engine thread,
    execEngineHang_of_moving engine thread, fun h => ?unlosable, execSliceFatal_of_commanded, fun p hp hw => ⟨fun q src cr w hm => execWrapperPacket_of_request hp hw hm,
      fun op aid h pd wb hm => execWrapperPacket_of_response hp hw hm⟩, execWrapperPacket_of_open,
    fun x r hx hst hr ht hb => execSalvageRecord_of_read hx hst hr ht hb, fun x hx hr => execSalvageRecord_of_unread hx hr, fun r w hg => ?answer,
    fun x hx hst hd hr => ⟨execSalvageRead_noWord hx hst hd hr, fun ha => ?good, fun ha => ?bad⟩,
    fun x r hx hr => execSalvageRead_of_no_read hx r hr, fun x hx hst hm hw hc => execMirrorReadDone_of_due hx hst hm hw hc⟩
  case unlosable =>
    have hl := SlState.losable_eq_false h
    exact ⟨execSliceFatal_of_not_losable cause hl, execEngineHang_of_not_losable engine thread hl⟩
  case answer => simp only [recLost, recAnswer, hg, Bool.false_eq_true, if_false]
  case good =>
    subst ha
    exact ⟨_, execSalvageRead_tracker hx hst hd hr nofun, State.salv_modSalv hx _, fun j hj => State.slice_modSalv_of_ne hj _, rfl⟩
  case bad =>
    subst ha
    exact ⟨_, execSalvageRead_tracker hx hst hd hr nofun, State.salv_modSalv hx _⟩

end Sys2Proof.Machine
end

section
/-! The messages of the ports: the fields that each encoding spells, and what decoding reads of them (R62, R63, R65 to R67, R69, R299). -/

namespace Sys2Proof.Machine

/-! ### Words spelled by a layout -/

/-- A word holds exactly the fields of a layout, within its width. -/
structure Spells {w : Nat} (v : BitVec w) (l : List WordField) : Prop where
  word : v = packFields w l
  apart : l.Pairwise (fun x y => x.lo + x.width ≤ y.lo)
  fits : ∀ x ∈ l, x.val < 2 ^ x.width
  within : ∀ x ∈ l, x.lo + x.width ≤ w

section
variable {w lo n : Nat} {v : BitVec w} {l : List WordField} (h : Spells v l)
include h

theorem Spells.field {x : Nat} (hx : ⟨lo, n, x⟩ ∈ l) : fld v lo n = x := by
  rw [h.word]
  exact fld_packFields ⟨h.apart, h.fits⟩ hx (h.within _ hx)

theorem Spells.extract {x : BitVec n} (hx : ⟨lo, n, x.toNat⟩ ∈ l) : v.extractLsb' lo n = x := (extract_eq_iff_fld v lo x).mpr (h.field hx)

theorem Spells.bit {b : Bool} (hx : ⟨lo, 1, b2n b⟩ ∈ l) : v.getLsbD lo = b := getLsbD_of_fld (h.field hx)

end

/-! ### The codes of the messages -/

theorem reqOpOf_code (o : ReqOp) : reqOpOf o.code = some o := by cases o <;> rfl
theorem snpOpOf_code (o : SnpOp) : snpOpOf o.code = some o := by cases o <;> rfl
theorem rspOpOf_code (o : RspOp) : rspOpOf o.code = some o := by cases o <;> rfl
theorem grantOf_code (g : Grant) : grantOf g.code = some g := by cases g <;> rfl

theorem ReqOp.code_lt (o : ReqOp) : o.code < 0x20 := by cases o <;> decide
theorem SnpOp.code_bounds (o : SnpOp) : 0x20 ≤ o.code ∧ o.code < 0x2F := by cases o <;> decide
theorem RspOp.code_bounds (o : RspOp) : 0x30 ≤ o.code ∧ o.code < 0x38 := by cases o <;> decide
theorem Grant.code_lt (g : Grant) : g.code < 2 ^ 3 := by cases g <;> decide

/-! ### What each encoding spells -/

theorem Req.encode_spells (q : Req) : Spells q.encode
    [⟨0, 6, q.op.code⟩, ⟨6, 11, q.aid.toNat⟩, ⟨17, 12, q.txid.toNat⟩, ⟨29, 46, q.laddr.toNat⟩, ⟨75, 2, q.cidx.toNat⟩,
      ⟨77, 3, q.widx.toNat⟩, ⟨80, 1, b2n q.stream⟩] where
  word := rfl
  apart := by simp
  fits := List.forall_mem_cons.mpr ⟨q.op.code_lt.trans (by decide : 0x20 < 2 ^ 6),
    by simp only [List.forall_mem_cons, List.not_mem_nil, false_implies, implies_true, BitVec.isLt, b2n_lt, and_self]⟩
  within := by simp

theorem encodeSnp_spells (op : SnpOp) (aid : Aid) (htid : BitVec 20) (l : LAddr) (cidx : BitVec 2) (raid : Aid) (rtxid : BitVec 12) :
    Spells (encodeSnp op aid htid l cidx raid rtxid) [⟨0, 6, op.code⟩, ⟨6, 11, aid.toNat⟩, ⟨17, 20, htid.toNat⟩, ⟨37, 46, l.toNat⟩,
      ⟨83, 2, cidx.toNat⟩, ⟨85, 11, raid.toNat⟩, ⟨96, 12, rtxid.toNat⟩] where
  word := rfl
  apart := by simp
  fits := List.forall_mem_cons.mpr ⟨op.code_bounds.2.trans (by decide : 0x2F < 2 ^ 6),
    by simp only [List.forall_mem_cons, List.not_mem_nil, false_implies, implies_true, BitVec.isLt, and_self]⟩
  within := by simp

theorem encodeRsp_spells (op : RspOp) (aid : Aid) (htid : BitVec 20) (pd wbp : Bool) : Spells (encodeRsp op aid htid pd wbp)
    [⟨0, 6, op.code⟩, ⟨6, 11, aid.toNat⟩, ⟨17, 20, htid.toNat⟩, ⟨37, 1, b2n pd⟩, ⟨38, 1, b2n wbp⟩] where
  word := rfl
  apart := by simp
  fits := List.forall_mem_cons.mpr ⟨op.code_bounds.2.trans (by decide : 0x38 < 2 ^ 6),
    by simp only [List.forall_mem_cons, List.not_mem_nil, false_implies, implies_true, BitVec.isLt, b2n_lt, and_self]⟩
  within := by simp

theorem encodeCmpAck_spells (aid : Aid) (htid : BitVec 20) : Spells (encodeCmpAck aid htid)
    [⟨0, 6, 0x38⟩, ⟨6, 11, aid.toNat⟩, ⟨17, 20, htid.toNat⟩] where
  word := rfl
  apart := by simp
  fits := List.forall_mem_cons.mpr ⟨by decide,
    by simp only [List.forall_mem_cons, List.not_mem_nil, false_implies, implies_true, BitVec.isLt, and_self]⟩
  within := by simp

section
variable (aid : Aid) (txid : BitVec 12) (htid : BitVec 20)

theorem encodeCmp_spells (g : Grant) (data : Bool) (result : W64) : Spells (encodeCmp aid txid htid g data result)
    [⟨0, 6, 0x3C⟩, ⟨6, 11, aid.toNat⟩, ⟨17, 12, txid.toNat⟩, ⟨29, 20, htid.toNat⟩, ⟨49, 3, g.code⟩, ⟨52, 1, b2n data⟩,
      ⟨64, 64, result.toNat⟩] where
  word := rfl
  apart := by simp
  fits := List.forall_mem_cons.mpr ⟨by decide,
    by simp only [List.forall_mem_cons, List.not_mem_nil, false_implies, implies_true, BitVec.isLt, b2n_lt, g.code_lt, and_self]⟩
  within := by simp

theorem encodeCmpErr_spells (reason : BitVec 8) : Spells (encodeCmpErr aid txid htid reason)
    [⟨0, 6, 0x3D⟩, ⟨6, 11, aid.toNat⟩, ⟨17, 12, txid.toNat⟩, ⟨29, 20, htid.toNat⟩, ⟨54, 8, reason.toNat⟩] where
  word := rfl
  apart := by simp
  fits := List.forall_mem_cons.mpr ⟨by decide,
    by simp only [List.forall_mem_cons, List.not_mem_nil, false_implies, implies_true, BitVec.isLt, and_self]⟩
  within := by simp

theorem encodeWbAck_spells (superseded : Bool) : Spells (encodeWbAck aid txid htid superseded)
    [⟨0, 6, 0x3E⟩, ⟨6, 11, aid.toNat⟩, ⟨17, 12, txid.toNat⟩, ⟨29, 20, htid.toNat⟩, ⟨53, 1, b2n superseded⟩] where
  word := rfl
  apart := by simp
  fits := List.forall_mem_cons.mpr ⟨by decide,
    by simp only [List.forall_mem_cons, List.not_mem_nil, false_implies, implies_true, BitVec.isLt, b2n_lt, and_self]⟩
  within := by simp

theorem encodeDat_spells (kind : BitVec 2) (cidx : BitVec 2) (last poison : Bool) (be : BitVec 16) :
    Spells (encodeDat kind aid txid htid cidx last poison be) [⟨0, 1, b2n true⟩, ⟨1, 2, kind.toNat⟩, ⟨3, 11, aid.toNat⟩,
      ⟨14, 12, txid.toNat⟩, ⟨26, 20, htid.toNat⟩, ⟨46, 2, cidx.toNat⟩, ⟨48, 1, b2n last⟩, ⟨49, 1, b2n poison⟩,
      ⟨50, 16, be.toNat⟩] where
  word := rfl
  apart := by simp
  fits := List.forall_mem_cons.mpr ⟨by decide,
    by simp only [List.forall_mem_cons, List.not_mem_nil, false_implies, implies_true, BitVec.isLt, b2n_lt, and_self]⟩
  within := by simp

end

/-! ### What is decoded of an encoding -/

theorem decodeReq_encode (q : Req) : decodeReq q.encode = q := by
  have h := q.encode_spells
  rw [decodeReq, h.field (x := q.op.code) (by simp), reqOpOf_code, h.extract (x := q.aid) (by simp), h.extract (x := q.txid) (by simp),
    h.extract (x := q.laddr) (by simp), h.extract (x := q.cidx) (by simp), h.extract (x := q.widx) (by simp), h.bit (b := q.stream) (by simp)]
  rfl

theorem decodeSnp_encodeSnp (op : SnpOp) (aid : Aid) (htid : BitVec 20) (l : LAddr) (cidx : BitVec 2) (raid : Aid) (rtxid : BitVec 12) :
    decodeSnp (encodeSnp op aid htid l cidx raid rtxid) = some (.snp op aid htid l cidx raid rtxid) := by
  have h := encodeSnp_spells op aid htid l cidx raid rtxid
  rw [decodeSnp, h.field (x := op.code) (by simp), snpOpOf_code, h.extract (x := aid) (by simp), h.extract (x := htid) (by simp),
    h.extract (x := l) (by simp), h.extract (x := cidx) (by simp), h.extract (x := raid) (by simp), h.extract (x := rtxid) (by simp)]
  rfl

theorem decodeRsp_encodeRsp (op : RspOp) (aid : Aid) (htid : BitVec 20) (pd wbp : Bool) :
    decodeRsp (encodeRsp op aid htid pd wbp) = some (.rsp op aid htid pd wbp) := by
  have h := encodeRsp_spells op aid htid pd wbp
  rw [decodeRsp, h.field (x := op.code) (by simp), if_neg (Nat.ne_of_lt op.code_bounds.2), rspOpOf_code, h.extract (x := aid) (by simp),
    h.extract (x := htid) (by simp), h.bit (b := pd) (by simp), h.bit (b := wbp) (by simp)]
  rfl

theorem decodeRsp_encodeCmpAck (aid : Aid) (htid : BitVec 20) : decodeRsp (encodeCmpAck aid htid) = some (.cmpAck aid htid) := by
  have h := encodeCmpAck_spells aid htid
  rw [decodeRsp, if_pos (h.field (by simp)), h.extract (x := aid) (by simp), h.extract (x := htid) (by simp)]

section
variable (aid : Aid) (txid : BitVec 12) (htid : BitVec 20)

theorem decodeCmp_encodeCmp (g : Grant) (data : Bool) (result : W64) :
    decodeCmp (encodeCmp aid txid htid g data result) = some (.cmp aid txid htid g data result) := by
  have h := encodeCmp_spells aid txid htid g data result
  rw [decodeCmp, if_pos (h.field (by simp)), h.field (x := g.code) (by simp), grantOf_code, h.extract (x := aid) (by simp),
    h.extract (x := txid) (by simp), h.extract (x := htid) (by simp), h.bit (b := data) (by simp), h.extract (x := result) (by simp)]
  rfl

theorem decodeCmp_encodeCmpErr (reason : BitVec 8) :
    decodeCmp (encodeCmpErr aid txid htid reason) = some (.cmpErr aid txid htid reason) := by
  have h := encodeCmpErr_spells aid txid htid reason
  rw [decodeCmp, h.field (x := 0x3D) (by simp), if_neg (by decide), if_pos rfl, h.extract (x := aid) (by simp), h.extract (x := txid) (by simp),
    h.extract (x := htid) (by simp), h.extract (x := reason) (by simp)]

theorem decodeCmp_encodeWbAck (superseded : Bool) :
    decodeCmp (encodeWbAck aid txid htid superseded) = some (.wbAck aid txid htid superseded) := by
  have h := encodeWbAck_spells aid txid htid superseded
  rw [decodeCmp, h.field (x := 0x3E) (by simp), if_neg (by decide), if_neg (by decide), if_pos rfl, h.extract (x := aid) (by simp),
    h.extract (x := txid) (by simp), h.extract (x := htid) (by simp), h.bit (b := superseded) (by simp)]

theorem decodeDat_encodeDat (kind : BitVec 2) (cidx : BitVec 2) (last poison : Bool) (be : BitVec 16) (d : BitVec 128) :
    decodeDat (encodeDat kind aid txid htid cidx last poison be) d = some (.dat kind aid txid htid cidx last poison be d) := by
  have h := encodeDat_spells aid txid htid kind cidx last poison be
  rw [decodeDat, if_pos (h.bit (by simp)), h.extract (x := kind) (by simp), h.extract (x := aid) (by simp), h.extract (x := txid) (by simp),
    h.extract (x := htid) (by simp), h.extract (x := cidx) (by simp), h.bit (b := last) (by simp), h.bit (b := poison) (by simp),
    h.extract (x := be) (by simp)]

end

/-! ### The kinds of message on a link slot (R299) -/

theorem decodeSlot_of_req {m : BitVec 128} {op : ReqOp} (h : fld m 0 6 = op.code) : decodeSlot m = some (.req (decodeReq m) 0 .none .none) := by
  simp only [decodeSlot, h, op.code_lt, reqOpOf_code, Option.isSome_some, if_true]

theorem decodeSlot_of_snp {m : BitVec 128} (h : 0x20 ≤ fld m 0 6 ∧ fld m 0 6 < 0x2F) : decodeSlot m = decodeSnp m := by
  rw [decodeSlot, if_neg (by omega), if_neg (by omega), if_pos (by omega)]

theorem decodeSlot_of_rsp {m : BitVec 128} (h : 0x30 ≤ fld m 0 6 ∧ fld m 0 6 < 0x3C) : decodeSlot m = decodeRsp m := by
  rw [decodeSlot, if_neg (by omega), if_neg (by omega), if_neg (by omega), if_pos (by omega)]

theorem decodeSlot_of_cmp {m : BitVec 128} (h : 0x3C ≤ fld m 0 6) : decodeSlot m = decodeCmp m := by
  rw [decodeSlot, if_neg (by omega), if_neg (by omega), if_neg (by omega), if_neg (by omega)]

/-! ### The obligation -/

/-- Settles O57: each message by the fields that its encoding spells, and on a link slot by the range of its code. -/
theorem messagesRoundTrip : Obligations.MessagesRoundTrip := by
  unfold Obligations.MessagesRoundTrip
  intro q aid raid txid htid l cidx b1 b2 w g so ro rs kind be d
  have hreq : fld q.encode 0 6 = q.op.code := q.encode_spells.field (by simp)
  have hsnp : fld (encodeSnp so aid htid l cidx raid txid) 0 6 = so.code := (encodeSnp_spells ..).field (by simp)
  have hrsp : fld (encodeRsp ro aid htid b1 b2) 0 6 = ro.code := (encodeRsp_spells ..).field (by simp)
  have hack : fld (encodeCmpAck aid htid) 0 6 = 0x38 := (encodeCmpAck_spells ..).field (by simp)
  have hcmp : fld (encodeCmp aid txid htid g b1 w) 0 6 = 0x3C := (encodeCmp_spells ..).field (by simp)
  have hso := so.code_bounds
  have hro := ro.code_bounds
  rw [decodeSlot_of_req hreq, decodeSlot_of_snp (by omega), decodeSlot_of_rsp (by omega), decodeSlot_of_rsp (by omega),
    decodeSlot_of_cmp (by omega), decodeReq_encode, decodeSnp_encodeSnp, decodeRsp_encodeRsp, decodeRsp_encodeCmpAck, decodeCmp_encodeCmp,
    decodeCmp_encodeCmpErr, decodeCmp_encodeWbAck, decodeDat_encodeDat]
  simp only [and_self]

end Sys2Proof.Machine
end

section
/-! The messages from the agents at a CA port: requests, data, responses, acknowledgements, and the delivery of snoops (R64, R66, R91, R130, R251,
R289, R326 to R329, R440). -/

namespace Sys2Proof.Machine

/-! ### What an event and a message on RSPO leave -/

@[simp] theorem raise_cas (ev : Ev) (s : State) : (raise ev s).cas = s.cas :=
  have h := congrArg State.cas (raise_frame ev s)
  h

@[simp] theorem ca_raise (ev : Ev) (s : State) (p : Nat) : (raise ev s).ca p = s.ca p := by simp [State.ca]

@[simp] theorem raise_out (ev : Ev) (s : State) : (raise ev s).out = s.out :=
  have h := congrArg State.out (raise_frame ev s)
  h

theorem sendRspo_out (p : Nat) (m : BitVec 128) (s : State) : (sendRspo p m s).out = s.out ++ [.rspo p m] := by
  unfold sendRspo
  split <;> rfl

/-- A request that is answered at its port leaves the requests that wait there, and the slices (R64). -/
theorem refuse_leaves (p : Nat) (reason : BitVec 8) (x : IngEntry) (s : State) :
    ((refuse p reason x s).ca p).ingress = (s.ca p).ingress ∧
    (refuse p reason x s).out = s.out ++ [.rspo p (encodeCmpErr x.q.aid x.q.txid 0 reason)] ∧
    (refuse p reason x s).slices = s.slices := by
  have hca (m : BitVec 128) : ((sendRspo p m s).ca p).ingress = (s.ca p).ingress :=
    have h := congrArg CaPort.ingress (sendRspo_ca p m s p)
    h
  have hsl (m : BitVec 128) : (sendRspo p m s).slices = s.slices :=
    have h := congrArg State.slices (sendRspo_frame p m s)
    h
  simp only [refuse, State.ca_modCa, if_true, State.modCa_out, sendRspo_out, State.modCa_slices, hca, hsl, and_self]

section
variable {s : State} {p : Nat}

/-! ### Isolated ports (R130) -/

/-- A port that has discarded one more message of its agents. -/
def CaPort.discarded (c : CaPort) : CaPort := { c with discards := satAdd c.discards 1 }

theorem discardCa_of_isolated (h : (s.ca p).st = .isolated) : discardCa p s = s.setCa p (s.ca p).discarded := by
  unfold discardCa State.modCa
  dsimp only
  rw [if_pos h]
  rfl

theorem discardCa_twice_of_isolated (h : (s.ca p).st = .isolated) :
    discardCa p (discardCa p s) = (s.setCa p (s.ca p).discarded).setCa p (s.ca p).discarded.discarded := by
  have hca : (s.setCa p (s.ca p).discarded).ca p = (s.ca p).discarded := by rw [State.ca_setCa, if_pos rfl]
  rw [discardCa_of_isolated h, discardCa_of_isolated (by rw [hca]; exact h), hca]

theorem execCaRequest_of_isolated (h : (s.ca p).st = .isolated) (m : BitVec 128) : exec (.caRequest p m) s = .next s := if_pos (.inl h)

theorem execCaRspiMessage_of_isolated (h : (s.ca p).st = .isolated) (m : BitVec 128) :
    exec (.caRspiMessage p m) s = .next (s.setCa p (s.ca p).discarded) :=
  congrArg Host.Outcome.next ((if_pos h).trans (discardCa_of_isolated h))

theorem execCaDatiChunk_of_isolated (h : (s.ca p).st = .isolated) (hdr : BitVec 160) (d : BitVec 256) :
    exec (.caDatiChunk p hdr d) s = .next ((List.range (validLanes hdr)).foldl (fun s _ => discardCa p s) s) :=
  congrArg Host.Outcome.next (if_pos h)

theorem validLanes_of_both {hdr : BitVec 160} (h0 : bit hdr 0 = true) (h1 : bit hdr 80 = true) : validLanes hdr = 2 := by
  rw [validLanes, h0, h1]
  rfl

theorem validLanes_of_one {hdr : BitVec 160} (h : bit hdr 0 ≠ bit hdr 80) : validLanes hdr = 1 := by
  unfold validLanes
  cases h0 : bit hdr 0 <;> cases h1 : bit hdr 80 <;> simp_all [b2n]

/-! ### Requests (R64, R329) -/

/-- An AID is accepted at a port by the agents of the port alone. -/
theorem State.ownAid_setCa {v : CaPort} (h : v.agents = (s.ca p).agents) (a : Aid) : (s.setCa p v).ownAid p a = s.ownAid p a := by
  simp only [State.ownAid, State.ca_setCa, if_true, h]
  rfl

theorem State.reqCheck_setCa {v : CaPort} (h : v.agents = (s.ca p).agents) (m : BitVec 128) : (s.setCa p v).reqCheck p m = s.reqCheck p m := by
  simp only [State.reqCheck, State.ownAid_setCa h]
  rfl

/-- A port that has taken a request: it spends a credit and is counted (R327). -/
def CaPort.requestTaken (c : CaPort) : CaPort := CaPort.count 0x02 1 { c with reqCrd := c.reqCrd - 1 }

theorem execCaRequest_of_passed {m : BitVec 128} (hst : (s.ca p).st ≠ .isolated) (hc : (s.ca p).reqCrd ≠ 0) (hq : s.reqCheck p m = none) :
    exec (.caRequest p m) s = .next ((s.modCa p CaPort.requestTaken).modCa p
      (fun c => { c with ingress := c.ingress ++ [s.ingEntry (decodeReq m)] })) := by
  have hq' : (s.modCa p (fun c => CaPort.count 0x02 1 { c with reqCrd := c.reqCrd - 1 })).reqCheck p m = none :=
    (State.reqCheck_setCa (v := (s.ca p).requestTaken) rfl m).trans hq
  refine (if_neg (not_or.mpr ⟨hst, hc⟩)).trans ?_
  simp only [hq']
  rfl

/-- The entry under which a request is answered at its port: one with an unknown opcode is followed by no data (R64). -/
def State.refusedEntry (s : State) (m : BitVec 128) : IngEntry :=
  let x := s.ingEntry (decodeReq m)
  if (reqOpOf (fld m 0 6)).isSome then x else { x with q := { x.q with op := .evict } }

theorem State.refusedEntry_ids (s : State) (m : BitVec 128) :
    (s.refusedEntry m).q.aid = (decodeReq m).aid ∧ (s.refusedEntry m).q.txid = (decodeReq m).txid := by
  unfold State.refusedEntry
  split <;> exact ⟨rfl, rfl⟩

theorem execCaRequest_of_refused {m : BitVec 128} {reason : BitVec 8} {ev : Option Ev} (hst : (s.ca p).st ≠ .isolated) (hc : (s.ca p).reqCrd ≠ 0)
    (hq : s.reqCheck p m = some (reason, ev)) : exec (.caRequest p m) s = .next (
      let u := refuse p reason (s.refusedEntry m) (s.modCa p CaPort.requestTaken)
      ev.elim u (fun e => raise e u)) := by
  have hq' : (s.modCa p (fun c => CaPort.count 0x02 1 { c with reqCrd := c.reqCrd - 1 })).reqCheck p m = some (reason, ev) :=
    (State.reqCheck_setCa (v := (s.ca p).requestTaken) rfl m).trans hq
  refine (if_neg (not_or.mpr ⟨hst, hc⟩)).trans ?_
  simp only [hq']
  cases ev <;> rfl

/-! ### Data of requests (R328) -/

/-- A chunk of request data in the first lane, wanted by a request that waits; the second lane is empty. -/
theorem execCaDatiChunk_of_wanted {hdr : BitVec 160} {d : BitVec 256} {a : Aid} {t : BitVec 12} {h : BitVec 20} {ci : BitVec 2} {la po : Bool}
    {be : BitVec 16} {dd : BitVec 128} {x : IngEntry} (hst : (s.ca p).st ≠ .isolated) (hf : s.datiFree p ≠ 0)
    (h0 : decodeDat (hdr.extractLsb' 0 80) (d.extractLsb' 0 128) = some (.dat 2 a t h ci la po be dd))
    (h1 : decodeDat (hdr.extractLsb' 80 80) (d.extractLsb' 128 128) = none) (ha : s.ownAid p a = true) (hd : (s.ca p).dataDrop = [])
    (hx : (s.ca p).ingress.find? (fun x => x.wants a t ci) = some x) :
    exec (.caDatiChunk p hdr d) s = .next (s.setCa p { (s.ca p).count 0x0A 1 with
      beats := (s.ca p).beats + 1
      ingress := lmodify (fun x => x.wants a t ci) (fun x => x.takeChunk ci po be dd) (s.ca p).ingress }) := by
  have hw : (s.ca p).ingress.any (fun x => x.wants a t ci) = true := List.any_eq_true.mpr 
    ⟨x, List.mem_of_find?_eq_some hx, by simpa using List.find?_some hx⟩
  have ha' : (s.modCa p (CaPort.count 0x0A 1)).ownAid p a = true := (State.ownAid_setCa (v := (s.ca p).count 0x0A 1) rfl a).trans ha
  have hca : (s.modCa p (CaPort.count 0x0A 1)).ca p = (s.ca p).count 0x0A 1 := by rw [State.ca_modCa, if_pos rfl]
  have lane0 : takeLane p (hdr.extractLsb' 0 80) (d.extractLsb' 0 128) s = s.setCa p { (s.ca p).count 0x0A 1 with
      ingress := lmodify (fun x => x.wants a t ci) (fun x => x.takeChunk ci po be dd) (s.ca p).ingress } := by
    simp only [takeLane, h0, takeReqData, ha', hca, CaPort.count, hd, hw, List.any_nil, Bool.not_true, Bool.false_eq_true, if_true, if_false]
    exact State.setCa_setCa s p _ _
  have lane1 (u : State) : takeLane p (hdr.extractLsb' 80 80) (d.extractLsb' 128 128) u = u := by simp only [takeLane, h1]
  refine congrArg Host.Outcome.next ((if_neg hst).trans ((if_neg hf).trans ?_))
  rw [lane1, lane0, State.modCa, State.ca_setCa, if_pos rfl, State.setCa_setCa]
  rfl

/-! ### Responses and acknowledgements (R66, R251, R440) -/

/-- A port whose agent `a` has answered the delivered snoop `x` (R251). -/
def CaPort.answered (c : CaPort) (a : Aid) (x : SnpDel) (n : Nat) : CaPort := { c.freeSnoop a with snpOut := answerSnoop x n c.snpOut }

theorem execCaRspiMessage_of_taken (m : BitVec 128) (hst : (s.ca p).st ≠ .isolated) (hf : s.rspiFree p ≠ 0)
    {op : RspOp} {a : Aid} {h : BitVec 20} {pd wb : Bool} {x : SnpDel}
    (hm : decodeRsp m = some (.rsp op a h pd wb)) (ha : s.ownAid p a = true)
    (hx : (s.ca p).snpOut.find? (fun x => x.aid == a && x.htid == h && x.due.isNone) = some x) :
    exec (.caRspiMessage p m) s = .next (routeCa p (htidInst h) (htidSlice h, portSlice) (if x.gt then .gt else .rsp) x.gtc none
      (.rsp op a h pd wb) (s.setCa p ((s.ca p).answered a x op.brings))) := by
  refine congrArg Host.Outcome.next ((if_neg hst).trans ((if_neg hf).trans ?_))
  simp only [hm, ha, hx, Bool.not_true, Bool.false_eq_true, if_false]
  rfl

theorem routeCa_own {i : Nat} (hi : i = s.self) (hp : p < 128) (here : Nat × Nat) (vc : VC) (gtc : Nat) (beat : Option Nat) (m : Msg) :
    routeCa p i here vc gtc beat m s = s.inject { vc := vc, dnode := here.1, dport := here.2, snode := p / 2, sport := portCa0 + p % 2
                                                  gtc := gtc, beat := beat, msg := m } := by
  rw [routeCa, if_pos hi, fromCa, State.ingressAt, if_pos hp]

theorem execCaRspiMessage_of_cmpAck (m : BitVec 128) (hst : (s.ca p).st ≠ .isolated) (hf : s.rspiFree p ≠ 0)
    {a : Aid} {h : BitVec 20} (hm : decodeRsp m = some (.cmpAck a h)) (ha : s.ownAid p a = true) :
    exec (.caRspiMessage p m) s = .next (routeCa p (htidInst h) (htidSlice h, portSlice) (if ((s.ca p).ackClass h).1 then .gt else .rsp)
      ((s.ca p).ackClass h).2 none (.cmpAck a h) (s.setCa p { s.ca p with acks := lremove (fun x => x.1 == h) (s.ca p).acks })) := by
  refine congrArg Host.Outcome.next ((if_neg hst).trans ((if_neg hf).trans ?_))
  simp only [hm, ha, Bool.not_true, Bool.false_eq_true, if_false]

/-! ### Snoops that are delivered (R91, R251) -/

/-- A port that has delivered the snoop which it held for an agent. -/
def CaPort.delivered (c : CaPort) (aid : Aid) (del : SnpDel) : CaPort :=
  CaPort.count 0x08 1 { c with snpBuf := lremove (SnpIn.dests aid) c.snpBuf, snpOut := c.snpOut ++ [del], agents := takeFree aid c.agents }

theorem execSnoopDeliver_of_free {aid : Aid} {x : SnpIn} {a : Agent} {op : SnpOp} {h : BitVec 20} {l : LAddr} {ci : BitVec 2}
    {ra : Aid} {rt : BitVec 12}
    (hx : (s.ca p).snpBuf.find? (SnpIn.dests aid) = some x) (ha : (s.ca p).agents.find? (fun a => a.aid == aid) = some a)
    (hm : x.m = .snp op aid h l ci ra rt) (hf : 0 < a.free) (hst : (s.ca p).st = .active ∨ (s.ca p).st = .quiescing) :
    exec (.snoopDeliver p aid) s = .next ((s.setCa p ((s.ca p).delivered aid
      { aid := aid, htid := h, op := op, raid := ra, rtxid := rt, gt := x.gt, gtc := x.gtc })).emit (.snp p (encodeSnp op aid h l ci ra rt))) := by
  refine congrArg Host.Outcome.next ?_
  simp only [hx, ha, hm]
  exact if_pos ⟨hf, hst⟩

end

/-! ### The obligation -/

/-- Settles O25: each message at an isolated port, then at another port by what its checks find. -/
theorem portMessages : Obligations.PortMessages := by
  unfold Obligations.PortMessages
  refine fun s p m hdr d => ⟨fun hst => ⟨execCaRequest_of_isolated hst m, execCaRspiMessage_of_isolated hst m, ?both, ?one⟩, ?passed,
    ?refused, ?data, ?response, fun hst hf a h hm ha => execCaRspiMessage_of_cmpAck m hst hf hm ha, ?deliver⟩
  case both =>
    intro h0 h1
    rw [execCaDatiChunk_of_isolated hst, validLanes_of_both h0 h1]
    exact congrArg Host.Outcome.next (discardCa_twice_of_isolated hst)
  case one =>
    intro h
    rw [execCaDatiChunk_of_isolated hst, validLanes_of_one h]
    exact congrArg Host.Outcome.next (discardCa_of_isolated hst)
  case passed =>
    intro hst hc hq
    have hca : (s.modCa p CaPort.requestTaken).ca p = (s.ca p).requestTaken := by rw [State.ca_modCa, if_pos rfl]
    refine ⟨_, s.ingEntry (decodeReq m), execCaRequest_of_passed hst hc hq, ?_, ?_, rfl, rfl, rfl, rfl⟩
    · rw [State.ca_modCa, if_pos rfl, hca]
      rfl
    · rw [State.ca_modCa, if_pos rfl, hca]
      rfl
  case refused =>
    intro hst hc reason ev hq
    obtain ⟨haid, htxid⟩ := s.refusedEntry_ids m
    obtain ⟨hing, hout, hsl⟩ := refuse_leaves p reason (s.refusedEntry m) (s.modCa p CaPort.requestTaken)
    rw [State.ca_modCa, if_pos rfl] at hing
    rw [haid, htxid] at hout
    have hmem : .rspo p (encodeCmpErr (decodeReq m).aid (decodeReq m).txid 0 reason) ∈
        (refuse p reason (s.refusedEntry m) (s.modCa p CaPort.requestTaken)).out := by simp [hout]
    refine ⟨_, execCaRequest_of_refused hst hc hq, ?_⟩
    cases ev with
    | none => exact ⟨hing, hmem, hsl⟩
    | some e => simpa using ⟨hing, hmem, hsl⟩
  case data =>
    intro hst hf a t h ci la po be dd x h0 h1 ha hd hx
    refine ⟨_, execCaDatiChunk_of_wanted hst hf h0 h1 ha hd hx, ?_, fun q hq => ?_, rfl⟩
    · rw [State.ca_setCa, if_pos rfl]
      rfl
    · rw [State.ca_setCa, if_neg hq]
  case response =>
    intro hst hf op a h pd wb x hm ha hx hi hp
    have hi' : htidInst h = (s.setCa p ((s.ca p).answered a x op.brings)).self := hi
    refine ⟨_, (execCaRspiMessage_of_taken m hst hf hm ha hx).trans (congrArg _ (routeCa_own hi' hp _ _ _ _ _)), rfl, ?_⟩
    rw [State.ca_setCa, if_pos rfl]
    rfl
  case deliver =>
    intro aid x a op h l ci ra rt hx ha hm hf hst
    exact ⟨_, execSnoopDeliver_of_free hx ha hm hf hst, rfl, rfl, rfl, rfl⟩

end Sys2Proof.Machine
end

section
/-! The tracker of a slice: what the shared operations leave of its transactions, and what they leave of the slice (R104, R108, R509 to R511). -/

namespace Sys2Proof.Machine

/-! ### Finding a transaction -/

theorem Slice.e_of_txn {v : Slice} {e : Nat} {t : Txn} (h : v.txn e = some t) : t.e = e := by simpa using List.find?_some h

/-- A transaction after a change that leaves its entry. -/
theorem State.txn_modTxn {f : Txn → Txn} (hf : ∀ t, (f t).e = t.e) (s : State) (k e : Nat) :
    ((s.modTxn k e f).slice k).txn e = ((s.slice k).txn e).map f := by
  rw [Slice.txn, State.modTxn_txns, if_pos rfl]
  exact find?_lmodify (fun x => by rw [hf]) _

/-- A transaction that the tracker holds reads back as it was written. -/
theorem Slice.txn_setTxn {v : Slice} {t u : Txn} (h : v.txn u.e = some t) : (v.setTxn u).txn u.e = some u :=
  find?_lmodify_const (p := fun x : Txn => x.e == u.e) (beq_self_eq_true u.e) h

/-- Two changes that agree on the transaction of an entry are one. -/
theorem State.modTxn_congr {s : State} {k e : Nat} {t : Txn} (h : (s.slice k).txn e = some t) {f g : Txn → Txn} (hfg : f t = g t) :
    s.modTxn k e f = s.modTxn k e g :=
  congrArg (fun l => s.setSlice k { s.slice k with txns := l }) (lmodify_congr h hfg)

/-! ### Counted events and slots -/

/-- Counting events changes the counters of the slice alone (R518). -/
theorem Slice.count_foldl (evs : List Nat) (v : Slice) : ∃ p, evs.foldl (fun v e => v.count e 1) v = { v with perf := p } := by
  induction evs generalizing v with
  | nil => exact ⟨v.perf, rfl⟩
  | cons e evs ih => exact ih (v.count e 1)

/-- A message taken at the input changes the counters and the slots of the slice alone (R509 to R511). -/
theorem takeSlot_slice (k : Nat) (wasted : Bool) (evs : List Nat) (s : State) :
    ∃ p q, (takeSlot k wasted evs s).slice k = { s.slice k with perf := p, slots := q } := by
  obtain ⟨p, hp⟩ := Slice.count_foldl evs ((s.slice k).slot wasted)
  refine ⟨p, (s.slice k).slots ++ [wasted], ?_⟩
  rw [takeSlot, State.slice_modSlice, if_pos rfl, hp]
  rfl

theorem takeSlot_other {k j : Nat} (h : j ≠ k) (wasted : Bool) (evs : List Nat) (s : State) : (takeSlot k wasted evs s).slice j = s.slice j := by
  rw [takeSlot, State.slice_modSlice, if_neg h]

/-- The note of a stale transaction is kept at the port of its requester (R503, R504). -/
theorem noteStale_frame (k e src : Nat) (s : State) : ({ noteStale k e src s with cas := s.cas } : State) = s := by
  unfold noteStale
  split <;> rfl

@[simp] theorem slice_noteStale (k e src : Nat) (s : State) (j : Nat) : (noteStale k e src s).slice j = s.slice j :=
  have h := congrArg (fun t : State => t.slice j) (noteStale_frame k e src s)
  h

@[simp] theorem noteStale_mesh (k e src : Nat) (s : State) : (noteStale k e src s).mesh = s.mesh :=
  have h := congrArg State.mesh (noteStale_frame k e src s)
  h

/-! ### The input of a slice -/

@[simp] theorem State.slice_takeAtSlice (s : State) (k : Nat) (vc : VC) (gt : Bool) (j : Nat) : (s.takeAtSlice k vc gt).slice j = s.slice j := rfl

/-- A packet taken at the input of a slice leaves the younger ones there. -/
theorem State.arrived_takeAtSlice (s : State) (k : Nat) (vc : VC) (gt : Bool) :
    (s.takeAtSlice k vc gt).arrived k portSlice (if gt then .gt else vc) = (s.arrived k portSlice (if gt then .gt else vc)).tail :=
  tget_tput_self _ _ _ _

end Sys2Proof.Machine
end

section
/-! How a request enters the tracker of a slice and becomes active: the input, the lookup, the chain of a line, the admission list of a set, and the
wait for buffers (R88, R103 to R105, R125, R244). -/

namespace Sys2Proof.Machine

/-! ### The input (R103, R105, R125) -/

/-- A request as it enters: in its line's chain, else on the admission list of a full set, else active and counted. -/
def Slice.entered (v : Slice) (t : Txn) : Txn :=
  let t := { t with arr := v.nextArr, act := v.nextArr }
  if v.lineHeld t.l then { t with phase := .chained }
  else if v.setFull (sfSet t.l) then { t with phase := .admission }
  else { t with phase := .ready, counted := true }

theorem Slice.enter_eq (v : Slice) (t : Txn) : v.enter t = { v with txns := v.txns ++ [v.entered t], nextArr := v.nextArr + 1 } := rfl

theorem Slice.freeEntry_wdat (v : Slice) (w : List ReqData) : Slice.freeEntry { v with wdat := w } = v.freeEntry := by
  have h : Slice.usedEntry { v with wdat := w } = v.usedEntry := rfl
  rw [Slice.freeEntry, h, Slice.freeEntry]

theorem Slice.entered_spec (v : Slice) (t : Txn) :
    (∃ p c, v.entered t = { t with arr := v.nextArr, act := v.nextArr, phase := p, counted := c }) ∧
    (v.lineHeld t.l = true → (v.entered t).phase = .chained) ∧
    (v.lineHeld t.l = false → v.setFull (sfSet t.l) = true → (v.entered t).phase = .admission) ∧
    (v.lineHeld t.l = false → v.setFull (sfSet t.l) = false → (v.entered t).phase = .ready ∧ (v.entered t).counted = true) := by
  have hl : ({ t with arr := v.nextArr, act := v.nextArr } : Txn).l = t.l := rfl
  unfold Slice.entered
  simp only [hl]
  refine ⟨?_, fun h => ?_, fun h hf => ?_, fun h hf => ?_⟩
  · split
    · exact ⟨.chained, t.counted, rfl⟩
    · split
      · exact ⟨.admission, t.counted, rfl⟩
      · exact ⟨.ready, true, rfl⟩
  · rw [if_pos h]
  · rw [h, hf]
    rfl
  · rw [h, hf]
    exact ⟨rfl, rfl⟩

/-- The transaction of a request that a slice takes, before it has entered. -/
def Slice.taken (v : Slice) (q : Req) (y : ReqData) (p : Pkt) (gt : Bool) (src : Nat) (cred wbCred : CredKind) : Txn :=
  { e := v.freeEntry, q := q, src := src, isGt := gt, gtc := p.gtc, cred := cred, wbCred := wbCred, wdata := y.d, be := y.be }

theorem Slice.taken_e (v : Slice) (q : Req) (y : ReqData) (p : Pkt) (gt : Bool) (src : Nat) (cred wbCred : CredKind) :
    (v.taken q y p gt src cred wbCred).e = v.freeEntry := by
  simp only [Slice.taken]

section
variable {s : State} {k : Nat} {gt : Bool} {p : Pkt} {q : Req} {src : Nat} {cred wbCred : CredKind}

theorem execSliceInputRequest_of_waiting (hp : s.atSlice k .req gt = some p) (hm : p.msg = .req q src cred wbCred)
    (hd : q.dataIn (s.slice k).wdat = none) : exec (.sliceInputRequest k gt) s = .next s := by
  change execSliceInputRequest k gt s = _
  simp only [execSliceInputRequest, hp, hm, hd]

theorem execSliceInputRequest_of_room {y : ReqData} (hw : s.works k = true) (hp : s.atSlice k .req gt = some p) (hm : p.msg = .req q src cred wbCred)
    (hd : q.dataIn (s.slice k).wdat = some y) (hq : q.op.isWb = false) (hn : (s.slice k).txns.length < 2048) :
    exec (.sliceInputRequest k gt) s = .next (takeRequest k gt p.gtc q y.d y.be src cred wbCred
      ((s.takeAtSlice k .req gt).modSlice k (fun v => { v with wdat := q.dropData v.wdat }))) := by
  change execSliceInputRequest k gt s = _
  simp only [execSliceInputRequest, hp, hm, hd, hw, hq, hn, decide_true, Bool.not_false, Bool.and_self, if_true]

/-- Taking a request changes the slice by its transaction, its counters and its slots, and nothing of the mesh. -/
theorem takeRequest_enters (q : Req) (y : ReqData) (p : Pkt) (gt : Bool) (src : Nat) (cred wbCred : CredKind) (s : State) (k : Nat) :
    let t := takeRequest k gt p.gtc q y.d y.be src cred wbCred s
    (∃ pf sl, t.slice k = { (s.slice k).enter ((s.slice k).taken q y p gt src cred wbCred) with perf := pf, slots := sl }) ∧
    (∀ j, j ≠ k → t.slice j = s.slice j) ∧ t.mesh = s.mesh := by
  obtain ⟨evs, hevs⟩ : ∃ evs, takeRequest k gt p.gtc q y.d y.be src cred wbCred s = takeSlot k ((s.slice k).lineHeld q.laddr) evs
      (noteStale k (s.slice k).freeEntry src (s.setSlice k ((s.slice k).enter ((s.slice k).taken q y p gt src cred wbCred)))) := by
    simp only [takeRequest, Slice.taken]
    exact ⟨_, rfl⟩
  simp only [hevs]
  refine ⟨?_, fun j hj => ?_, noteStale_mesh ..⟩
  · obtain ⟨pf, sl, h⟩ := takeSlot_slice k ((s.slice k).lineHeld q.laddr) evs
      (noteStale k (s.slice k).freeEntry src (s.setSlice k ((s.slice k).enter ((s.slice k).taken q y p gt src cred wbCred))))
    rw [slice_noteStale, State.slice_setSlice, if_pos rfl] at h
    exact ⟨pf, sl, h⟩
  · rw [takeSlot_other hj, slice_noteStale, State.slice_setSlice, if_neg hj]

end

/-! ### The lookup (R104) -/

/-- A slice in which a transaction takes its lookup: in a slot of its own when it had to wait (R511). -/
def State.lookingUp (s : State) (k e : Nat) (t : Txn) : State :=
  let r := s.modTxn k e (fun t => { t with ran := s.time.cycles })
  if t.again = true ∧ (t.kind = .req ∨ t.kind = .wb) then r.modSlice k (fun v => { v with slots := v.slots ++ [false] }) else r

theorem execTxnActivate_of_ready {s : State} {k e : Nat} {t : Txn} (hw : s.works k = true) (ht : (s.slice k).txn e = some t) (hp : t.phase = .ready)
    (hr : t.kind = .backInv ∨ s.readWaits k t.l = false) (hf : s.threadFree k t = true) :
    (t.kind = .req → exec (.txnActivate k e) s = .next (activateReq k e t (s.lookingUp k e t))) ∧
    (t.kind = .backInv → exec (.txnActivate k e) s = .next (activateBack k e t (s.lookingUp k e t))) ∧
    (t.kind ≠ .req → t.kind ≠ .backInv → exec (.txnActivate k e) s = .next (activateFlow k e t (s.lookingUp k e t))) := by
  have hgo : ¬(t.phase ≠ .ready ∨ (!(s.works k)) = true ∨ (t.kind ≠ .backInv ∧ s.readWaits k t.l = true) ∨
      (!(s.threadFree k t)) = true) := by
    rw [hp, hw, hf]
    rcases hr with hr | hr <;> simp [hr]
  have hslot : (if t.again && (t.kind == .req || t.kind == .wb) then
      (s.modTxn k e (fun t => { t with ran := s.time.cycles })).modSlice k (Slice.slot false)
      else s.modTxn k e (fun t => { t with ran := s.time.cycles })) = s.lookingUp k e t := by
    simp only [Bool.and_eq_true, Bool.or_eq_true, beq_iff_eq]
    rfl
  change (_ → Host.Outcome.next (activate k e s) = _) ∧ (_ → Host.Outcome.next (activate k e s) = _) ∧
    (_ → _ → Host.Outcome.next (activate k e s) = _)
  simp only [activate, ht, if_neg hgo, hslot]
  cases t.kind <;> simp

/-! ### The chain of a line (R105, R125) -/

/-- A transaction of a chain that becomes active now. -/
def Slice.turnsActive (v : Slice) (t : Txn) : Slice :=
  { v.setTxn { t with phase := .ready, act := v.nextArr, again := true } with nextArr := v.nextArr + 1 }

section
variable {s : State} {k : Nat} {l : LAddr} {t : Txn} (hw : s.works k = true) (hh : (s.slice k).chainHead l = some t)
include hw hh

/-- The head of a chain with nothing before it, once it is counted or listed (`w`), becomes active when it is counted. -/
theorem execChainHeadActivate_of_free {w : Slice} {x : Txn} (hf : (s.slice k).chainFree l = true)
    (hv : (if t.counted then s.slice k else (s.slice k).admitHead t) = w) (hx : w.txn t.e = some x) :
    exec (.chainHeadActivate k l) s = .next (s.setSlice k (if x.counted then w.turnsActive x else w)) := by
  change execChainHeadActivate k l s = _
  simp only [execChainHeadActivate, hh, hf, hw, Bool.and_self, if_true, hv, hx, Slice.turnsActive]
  split <;> rfl

theorem execChainHeadActivate_of_busy (hf : (s.slice k).chainFree l = false) : exec (.chainHeadActivate k l) s = .next (
    if (s.slice k).pipes l = true ∧ t.kind = .req ∧ t.q.op.isAtomic = true then s.setSlice k ((s.slice k).turnsActive t) else s) := by
  change execChainHeadActivate k l s = _
  simp only [execChainHeadActivate, pipeNext, hh, hf, hw, Bool.false_and, Bool.false_eq_true, if_false, if_true, Bool.and_eq_true, decide_eq_true_eq,
    and_assoc]
  rfl

end

theorem Slice.turnsActive_txn {v : Slice} {t : Txn} (ht : v.txn t.e = some t) :
    (v.turnsActive t).txn t.e = some { t with phase := .ready, act := v.nextArr, again := true } :=
  Slice.txn_setTxn (u := { t with phase := .ready, act := v.nextArr, again := true }) ht

section
variable {v : Slice} {t : Txn} (ht : v.txn t.e = some t)
include ht

/-- The head of a chain in a full set is put on the admission list. -/
theorem Slice.admitHead_full (hf : v.setFull (sfSet t.l) = true) :
    (v.admitHead t).txn t.e = some { t with phase := .admission, act := v.nextArr, again := true } := by
  rw [Slice.admitHead, if_pos hf]
  exact Slice.txn_setTxn (u := { t with phase := .admission, act := v.nextArr, again := true }) ht

/-- In a set with room it is counted. -/
theorem Slice.admitHead_room (hf : v.setFull (sfSet t.l) = false) : (v.admitHead t).txn t.e = some { t with counted := true } := by
  rw [Slice.admitHead, hf, if_neg Bool.false_ne_true]
  exact Slice.txn_setTxn (u := { t with counted := true }) ht

end

/-! ### Admission and buffers (R125, R244) -/

theorem execAdmissionRelease_of_first {s : State} {k set : Nat} {t : Txn} (hw : s.works k = true) (ha : (s.slice k).admissionOf set = [t])
    (hc : (s.slice k).countedIn set < 15) : exec (.admissionRelease k set) s = .next (admitOne k t s) := by
  change execAdmissionRelease k set s = _
  simp only [execAdmissionRelease, ha, List.foldl_cons, List.foldl_nil, hc, hw, decide_true, Bool.and_self, if_true]

/-- What is admitted becomes active when nothing of its line is active, resolved, deferred or chained before it, else it joins the chain. -/
theorem admitOne_eq (k : Nat) (t : Txn) (s : State) : admitOne k t s = s.setSlice k (
    let v := s.slice k
    if t.kind = .openRes then v.setTxn { t with phase := .chained, counted := true }
    else if v.activeOn t.l = [] ∧ v.openOn t.l = false ∧ (∀ w ∈ v.deferred, w.q.laddr ≠ t.l) ∧
        (∀ x ∈ v.txns, x.phase = .chained → x.kind ≠ .openRes → x.l = t.l → t.arr ≤ x.arr) then
      { v.setTxn { t with phase := .ready, counted := true, act := v.nextArr } with nextArr := v.nextArr + 1 }
    else v.setTxn { t with phase := .chained }) := by
  simp only [admitOne, apply_ite (s.setSlice k)]
  refine if_congr Iff.rfl rfl (if_congr ?_ rfl rfl)
  simp only [Bool.and_eq_true, List.isEmpty_iff, Bool.not_eq_true', List.any_eq_false, beq_iff_eq, decide_eq_true_eq, not_and, not_lt, and_assoc]

theorem execBufferAcquire_of_ready {s : State} {k : Nat} {t : Txn} (hw : s.works k = true) (ht : (s.slice k).firstBufWait = some t)
    (hb : s.bufsReady k t.e t.act t.bufs = true) : exec (.bufferAcquire k) s = .next (begin_ k t.e s) := by
  change execBufferAcquire k s = _
  simp only [execBufferAcquire, ht, hb, hw, Bool.and_self, if_true]

/-! ### The obligation -/

/-- Settles O27: the input, the lookup by the kind of transaction, the chain by what stands before its head, the admission list, and the buffers. -/
theorem requestsEnterTheTracker : Obligations.RequestsEnterTheTracker := by
  unfold Obligations.RequestsEnterTheTracker
  refine fun s k e set gt l hw => ⟨fun p q src cred wc hp hm hd => execSliceInputRequest_of_waiting hp hm hd, ?taken,
    fun t ht hp hr hf => execTxnActivate_of_ready hw ht hp hr hf, fun t hh hf => ⟨?counted, ?full, ?room⟩,
    fun t hh hf => execChainHeadActivate_of_busy hw hh hf, fun t ha hc => ?admitted, fun t ht hb => ?buffers⟩
  case taken =>
    intro p q y src cred wc hp hm hd hq hn
    have hv : ((s.takeAtSlice k .req gt).modSlice k (fun v => { v with wdat := q.dropData v.wdat })).slice k =
        { s.slice k with wdat := q.dropData (s.slice k).wdat } := by rw [State.slice_modSlice, if_pos rfl, State.slice_takeAtSlice]
    obtain ⟨⟨pf, sl, hk⟩, hj, hmesh⟩ := takeRequest_enters q y p gt src cred wc
      ((s.takeAtSlice k .req gt).modSlice k (fun v => { v with wdat := q.dropData v.wdat })) k
    rw [hv, Slice.enter_eq] at hk
    obtain ⟨⟨ph, c, hx⟩, hchain, hlist, hready⟩ := Slice.entered_spec { s.slice k with wdat := q.dropData (s.slice k).wdat }
      (Slice.taken { s.slice k with wdat := q.dropData (s.slice k).wdat } q y p gt src cred wc)
    have he := congrArg Txn.e hx
    simp only [Slice.taken_e, Slice.freeEntry_wdat] at he
    refine ⟨_, _, execSliceInputRequest_of_room hw hp hm hd hq hn, by rw [hk], he, congrArg Txn.q hx, congrArg Txn.wdata hx,
      congrArg Txn.be hx, by rw [hk], congrArg Txn.src hx, congrArg Txn.cred hx, congrArg Txn.arr hx, hchain, hlist, hready,
      fun j hj' => ?_, by rw [hk], by rw [hk], ?_⟩
    · rw [hj j hj', State.slice_modSlice, if_neg hj', State.slice_takeAtSlice]
    · rw [State.arrived, hmesh]
      exact s.arrived_takeAtSlice k .req gt
  case counted =>
    intro hc ht
    rw [execChainHeadActivate_of_free hw hh hf (w := s.slice k) (x := t) (if_pos hc) ht, if_pos hc]
    rfl
  case full =>
    intro hc ht hs
    have hx := Slice.admitHead_full ht hs
    have hv : (if t.counted then s.slice k else (s.slice k).admitHead t) = (s.slice k).admitHead t := by rw [hc, if_neg Bool.false_ne_true]
    refine ⟨_, { t with phase := .admission, act := (s.slice k).nextArr, again := true },
      execChainHeadActivate_of_free hw hh hf hv hx, ?_, rfl, hc⟩
    rw [State.slice_setSlice, if_pos rfl, if_neg (by simp [hc])]
    exact hx
  case room =>
    intro hc ht hs
    have hx := Slice.admitHead_room ht hs
    have hv : (if t.counted then s.slice k else (s.slice k).admitHead t) = (s.slice k).admitHead t := by rw [hc, if_neg Bool.false_ne_true]
    refine ⟨_, { t with phase := .ready, counted := true, act := ((s.slice k).admitHead t).nextArr, again := true },
      execChainHeadActivate_of_free hw hh hf hv hx, ?_, rfl, rfl⟩
    rw [State.slice_setSlice, if_pos rfl, if_pos rfl]
    exact Slice.turnsActive_txn (t := { t with counted := true }) hx
  case admitted =>
    rw [execAdmissionRelease_of_first hw ha hc, admitOne_eq]
  case buffers =>
    refine execBufferAcquire_of_ready hw ht ?_
    simpa only [State.bufsReady, Bool.or_eq_true, Bool.and_eq_true, beq_iff_eq, decide_eq_true_eq, Bool.not_eq_true'] using hb

end Sys2Proof.Machine
end

section
/-! What a transaction waits for at its slice: a way of its set, snoops and their answers, chunks of data, and the acknowledgement of its requester
(R65, R77, R83, R127, R130, R145, R159, R160). -/

namespace Sys2Proof.Machine

/-! ### A way is reserved (R145, R156, R159, R160) -/

section
variable {s : State} {k e : Nat} {t : Txn}

theorem execSfWayReserve_of_running (hw : s.works k = true) (ht : (s.slice k).txn e = some t) (hf : t.fresh = true) (hn : t.way = none)
    (hp : t.phase = .running) : exec (.sfWayReserve k e) s = .next ((takeWay k (sfSet t.l) t.l s).elim s
      (fun x => x.2.modTxn k e (fun t => { t with way := some x.1 }))) := by
  change execSfWayReserve k e s = _
  simp only [execSfWayReserve, ht, hf, hn, hp, hw, Option.isNone_none, decide_true, Bool.and_self, if_true]
  cases takeWay k (sfSet t.l) t.l s <;> rfl

theorem takeWay_eq (k set : Nat) (l : LAddr) (s : State) : takeWay k set l s = ((sfParityCheck k set accInt s).wayFor k set).map (fun x => (x.1,
    State.modSlice (if x.2 then startBackInv k set x.1 (sfParityCheck k set accInt s) else sfParityCheck k set accInt s) k
      (fun v => v.reserved set x.1 l))) := by
  rw [takeWay]
  cases (sfParityCheck k set accInt s).wayFor k set <;> rfl

/-! ### A snoop leaves (R127, R251) -/

theorem State.wayTo_modTxn (s : State) (k e : Nat) (f : Txn → Txn) (a : Aid) : (s.modTxn k e f).wayTo a = s.wayTo a := rfl

/-- Which agents are unreachable does not depend on the tracker. -/
theorem State.unreachable_modTxn (s : State) (k e : Nat) (f : Txn → Txn) (a : Aid) : (s.modTxn k e f).unreachable a = s.unreachable a := by
  have hmarks (j : Nat) : ((s.modTxn k e f).slice j).marks = (s.slice j).marks := by
    rw [State.modTxn, State.slice_modSlice]
    split
    · next h => rw [h]
    · rfl
  have hq : (s.modTxn k e f).quiescingAt a = s.quiescingAt a := by
    simp only [State.quiescingAt, hmarks]
    rfl
  simp only [State.unreachable, State.wayTo_modTxn, hq]
  rfl

theorem execSnoopIssue_of_go {p : SnpTodo} (hw : s.works k = true) (ht : (s.slice k).txn e = some t) (hp : t.phase = .running)
    (hg : t.todo.find? (s.snoopGo k t) = some p) :
    let u := s.modTxn k e (fun t => { t with todo := t.todo.filter (fun x => x != p) })
    exec (.snoopIssue k e) s = .next (if s.unreachable p.aid then resolveSnoop k e p u
      else (s.wayTo p.aid).elim (resolveSnoop k e p u) (fun i => sendSnoop k e t p i u)) := by
  have hgo : ¬(t.phase ≠ .running ∨ (!(s.works k)) = true) := by simp [hp, hw]
  change Host.Outcome.next (snoopIssue k e s) = _
  simp only [snoopIssue, ht, if_neg hgo, hg, State.unreachable_modTxn, State.wayTo_modTxn]
  cases s.wayTo p.aid <;> rfl

end

/-! ### Answers arrive (R77, R130) -/

section
variable {s : State} {k : Nat} {gt : Bool} {p : Pkt} (hw : s.works k = true)
include hw

section
variable {op : RspOp} {aid : Aid} {h : BitVec 20} {pd wb : Bool} (hp : s.atSlice k .rsp gt = some p) (hm : p.msg = .rsp op aid h pd wb)
include hp hm

theorem execSnoopResponse_of_unknown (ht : (s.slice k).txn (htidEntry h) = none) :
    exec (.snoopResponse k gt) s = .next (discardAt k true (s.takeAtSlice k .rsp gt)) := by
  change execSnoopResponse k gt s = _
  simp only [execSnoopResponse, hp, hm, hw, ht, Bool.not_true, Bool.false_eq_true, if_false]

variable {t : Txn} (ht : (s.slice k).txn (htidEntry h) = some t)
include ht

theorem execSnoopResponse_of_unasked (ho : t.outs.find? (fun o => o.snp.aid == aid) = none) :
    exec (.snoopResponse k gt) s = .next (discardAt k true (s.takeAtSlice k .rsp gt)) := by
  change execSnoopResponse k gt s = _
  simp only [execSnoopResponse, hp, hm, hw, ht, ho, Bool.not_true, Bool.false_eq_true, if_false]

variable {o : SnpOut} (ho : t.outs.find? (fun o => o.snp.aid == aid) = some o)
include ho

theorem execSnoopResponse_of_breach (ha : snpAllows t.ent.st o.snp op pd wb = false) (hb : t.broadcasts = false) :
    exec (.snoopResponse k gt) s = .next (discardAt k true (s.takeAtSlice k .rsp gt)) := by
  change execSnoopResponse k gt s = _
  simp only [execSnoopResponse, hp, hm, hw, ht, ho, ha, hb, Bool.or_self, Bool.not_true, Bool.false_eq_true, if_false]

theorem execSnoopResponse_of_allowed (ha : snpAllows t.ent.st o.snp op pd wb = true ∨ t.broadcasts = true) :
    let r : Resp := { aid := aid, op := op, pd := pd, wbp := wb }
    ∃ wasted, exec (.snoopResponse k gt) s = .next (takeResp k (htidEntry h) o r
      (freeSnoopBuf k (htidEntry h) t r.brings (openRole k (htidEntry h) t wb (takeSlot k wasted [] (s.takeAtSlice k .rsp gt))))) := by
  refine ⟨(o.snp.attr && op == .rspI && !wb) || (!t.disc && decide (0 < t.ssize) && !o.snp.own), ?_⟩
  change execSnoopResponse k gt s = _
  simp only [execSnoopResponse, hp, hm, hw, ht, ho, Bool.or_eq_true, if_pos ha, Bool.not_true, Bool.false_eq_true, if_false]

end

/-! ### Chunks of data (R65, R77) -/

section
variable {a : Aid} {x : BitVec 12} {h : BitVec 20} {ci : BitVec 2} {la po : Bool} {be : BitVec 16} {d : BitVec 128}
  (hp : s.atSlice k .dat gt = some p)
include hp

theorem execHomeDat_of_request (hm : p.msg = .dat 2#2 a x h ci la po be d) : exec (.homeDat k gt) s =
    .next ((s.takeAtSlice k .dat gt).modSlice k (fun v => { v with wdat := takeReqChunk a x ci po be d v.wdat })) := by
  change execHomeDat k gt s = _
  simp only [execHomeDat, hp, hm, hw, Bool.not_true, Bool.false_eq_true, if_false, if_true]

variable (hm : p.msg = .dat 1#2 a x h ci la po be d)
include hm

theorem execHomeDat_of_response : exec (.homeDat k gt) s = .next (
    let s1 := s.takeAtSlice k .dat gt
    ((s.slice k).txn (htidEntry h)).elim (discardAt k false s1) (fun t =>
      if t.nchunk < t.chunksDue + 4 * t.outs.length then
        advance k (htidEntry h) ((s1.modSlice k (fun v => v.wroteBuf (htidEntry h) [2 * ci.toNat, 2 * ci.toNat + 1])).modTxn k (htidEntry h)
          (fun t => { t with rspd := t.rspd.take ci d po, nchunk := t.nchunk + 1 }))
      else discardAt k false s1)) := by
  have h12 : ¬(1#2 : BitVec 2) = 2#2 := by decide
  change execHomeDat k gt s = _
  simp only [execHomeDat, hp, hm, hw, Bool.not_true, Bool.false_eq_true, if_false, h12, ne_eq, not_true]
  cases (s.slice k).txn (htidEntry h) <;> rfl

end

/-! ### The acknowledgement of the requester (R83, R90) -/

section
variable {a : Aid} {h : BitVec 20} (hp : s.atSlice k .rsp gt = some p) (hm : p.msg = .cmpAck a h)
include hp hm

theorem execCmpack_of_awaited {t : Txn} (ht : (s.slice k).txn (htidEntry h) = some t) (ha : t.ackFrom ≠ none) (hq : t.q.aid = a) :
    exec (.cmpack k gt) s = .next (takeSlot k false [] ((s.takeAtSlice k .rsp gt).modTxn k (htidEntry h) (fun t => { t with ackFrom := none }))) := by
  change execCmpack k gt s = _
  simp only [execCmpack, hp, hm, hw, ht, hq, Option.isSome_iff_ne_none.mpr ha, beq_self_eq_true, Bool.and_self, Bool.not_true,
    Bool.false_eq_true, if_false, if_true]

theorem execCmpack_of_other (ho : ∀ t, (s.slice k).txn (htidEntry h) = some t → t.ackFrom = none ∨ t.q.aid ≠ a) :
    exec (.cmpack k gt) s = .next (discardAt k true (s.takeAtSlice k .rsp gt)) := by
  change execCmpack k gt s = _
  simp only [execCmpack, hp, hm, hw, Bool.not_true, Bool.false_eq_true, if_false]
  cases ht : (s.slice k).txn (htidEntry h) with
  | none => rfl
  | some t =>
    have hno : ¬(t.ackFrom.isSome && t.q.aid == a) = true := by
      rcases ho t ht with hn | hn <;> simp [hn]
    simp only [if_neg hno]

end

end

/-! ### The obligation -/

/-- Settles O28: a reservation and a snoop by the choice that the state gives, and each answer by the transaction that it names. -/
theorem waysSnoopsAndAnswers : Obligations.WaysSnoopsAndAnswers := by
  unfold Obligations.WaysSnoopsAndAnswers
  refine fun s k e gt hw => ⟨fun t ht hf hn hp => ⟨fun hx => ?none, fun w victim hx => ?way⟩,
    fun t p ht hp hg => ⟨fun hu => ?resolved, fun hu i hi => ?sent⟩,
    fun p op aid h pd wb hp hm => ⟨fun ht => execSnoopResponse_of_unknown hw hp hm ht, fun t ht ho => execSnoopResponse_of_unasked hw hp hm ht ho,
      fun t o ht ho ha hb => execSnoopResponse_of_breach hw hp hm ht ho ha hb, fun t o ht ho ha => execSnoopResponse_of_allowed hw hp hm ht ho ha⟩,
    fun p a x h ci la po be d hp hm => execHomeDat_of_request hw hp hm,
    fun p a x h ci la po be d hp hm => ⟨fun ht => ?unknown, fun t ht hc => ?surplus, fun t ht hc => ?due⟩,
    fun p a h hp hm => ⟨fun t ht ha hq => execCmpack_of_awaited hw hp hm ht ha hq, execCmpack_of_other hw hp hm⟩⟩
  case none =>
    rw [execSfWayReserve_of_running hw ht hf hn hp, takeWay_eq, hx]
    rfl
  case way =>
    rw [execSfWayReserve_of_running hw ht hf hn hp, takeWay_eq, hx]
    rfl
  case resolved =>
    rw [execSnoopIssue_of_go hw ht hp hg, if_pos hu]
  case sent =>
    rw [execSnoopIssue_of_go hw ht hp hg, hu, hi, if_neg Bool.false_ne_true]
    rfl
  case unknown =>
    rw [execHomeDat_of_response hw hp hm, ht]
    rfl
  case surplus =>
    rw [execHomeDat_of_response hw hp hm, ht]
    exact congrArg Host.Outcome.next (if_neg (Nat.not_lt.mpr hc))
  case due =>
    rw [execHomeDat_of_response hw hp hm, ht]
    exact congrArg Host.Outcome.next (if_pos hc)

end Sys2Proof.Machine
end

section
/-! The writeback decision table, the words of a line, and what an atomic leaves of them (R87, R114). -/

namespace Sys2Proof.Machine

/-! ### The words of a line (R87) -/

theorem lineOfWords_map (f : Nat → W64) :
    lineOfWords ((List.range 8).map f) = packFields 512 (repeated 0 64 64 BitVec.toNat ((List.range 8).map f)) := rfl

/-- A line reads back the words of which it is built. -/
theorem wordOf_lineOfWords (f : Nat → W64) {j : Nat} (hj : j < 8) : wordOf (lineOfWords ((List.range 8).map f)) j = f j := by
  have hmem : (⟨64 * j, 64, (f j).toNat⟩ : WordField) ∈ repeated 0 64 64 BitVec.toNat ((List.range 8).map f) :=
    mem_repeated.mpr ⟨j, by simpa using hj, by simp⟩
  rw [wordOf, lineOfWords_map, extract_eq_iff_fld]
  exact fld_packFields (repeated_laidOut _ le_rfl BitVec.isLt) hmem (by change 64 * j + 64 ≤ 512; omega)

theorem wordOf_setWord (d : Line) (i : Nat) {j : Nat} (w : W64) (hj : j < 8) : wordOf (setWord d i w) j = if j = i then w else wordOf d j :=
  wordOf_lineOfWords _ hj

/-! ### The writeback decision table (R114) -/

section
variable (p : PolSt) {a : Aid} {ent : SfEnt}

/-- The rows of the table for data: a writeback of the owner and one of another agent. -/
theorem decideWriteback_data {op : ReqOp} (h : op ≠ .evict) : decideWriteback p op a ent =
    if ent.owned = true ∧ ent.own = a then
      if ent.st = stX then { place := true, after := {}, breach := op == .wbOwned }
      else { place := true, after := dropOwner ent, breach := op == .wbDirty }
    else { after := ent, superseded := true } := by
  simp only [decideWriteback, if_neg h, Bool.and_eq_true, beq_iff_eq]

/-- The rows for Evict: of the owner of an SF_X line, of a free entry, of a FINE sharer, and of an agent of a marked bundle. -/
theorem decideWriteback_evict : decideWriteback p .evict a ent =
    if (ent.owned = true ∧ ent.own = a) ∧ ent.st = stX then { after := {} }
    else if ent.owned = false ∧ ent.st = stFree then { after := ent, superseded := true }
    else if ent.isFine = true ∧ a ∈ ent.ptrs ∧ ¬(ent.owned = true ∧ ent.own = a) then { after := removeSharer a ent }
    else if ent.st ≠ stFree ∧ ent.isFine = false ∧ ent.payload.getLsbD (p.bundle ent.gen a.toNat) = true then { after := ent }
    else { after := ent, superseded := true } := by
  simp only [decideWriteback, if_true, Bool.and_eq_true, beq_iff_eq, Bool.not_eq_true', List.contains_eq_mem, decide_eq_true_eq, bne_iff_ne,
    ← Bool.not_eq_true, not_and, and_assoc]

end

/-! ### The buffer of a transaction is read (R453) -/

/-- What a read of data buffers leaves: of the slice all but the errors, the lines in its buffers and the victims; the transaction stays. -/
structure BufRead (k e : Nat) (l : LAddr) (s r : State) : Prop where
  slice : ({ r.slice k with errs := (s.slice k).errs, txns := (s.slice k).txns, victims := (s.slice k).victims } : Slice) = s.slice k
  txn : ∃ y, (r.slice k).txn e = some y ∧ y.l = l

section
variable {k e : Nat} {l : LAddr} {s r : State} (h : BufRead k e l s r)
include h

theorem BufRead.raise (ev : Ev) : BufRead k e l s (raise ev r) where
  slice := by rw [slice_raise]; exact h.slice
  txn := by rw [slice_raise]; exact h.txn

theorem BufRead.modSlice {f : Slice → Slice} (hf : ∀ v : Slice, ({ f v with errs := v.errs, victims := v.victims } : Slice) = v) :
    BufRead k e l s (r.modSlice k f) := by
  have hv := hf (r.slice k)
  have htx := congrArg Slice.txns hv
  have hall := congrArg (fun v : Slice => ({ v with errs := (s.slice k).errs, txns := (s.slice k).txns, victims := (s.slice k).victims } : Slice)) hv
  constructor <;> rw [State.slice_modSlice, if_pos rfl]
  · exact Eq.trans hall h.slice
  · exact Eq.mpr (congrArg (fun l : List Txn => ∃ y, l.find? (fun t => t.e == e) = some y ∧ y.l = _) htx) h.txn

theorem BufRead.heal (a : Nat) : BufRead k e l s (r.modSlice k (fun v => v.heal 6 a)) := h.modSlice fun _ => rfl

theorem BufRead.spoilVictims : BufRead k e l s (r.modSlice k (fun v =>
    { v with victims := lmodify (fun y => y.e == e) (fun y => { y with data := 0, poison := true }) v.victims })) := h.modSlice fun _ => rfl

theorem BufRead.spoil : BufRead k e l s (r.modTxn k e Txn.spoil) := by
  obtain ⟨y, hy, hl⟩ := h.txn
  refine ⟨?_, y.spoil, ?_, hl⟩
  · rw [State.modTxn, State.slice_modSlice, if_pos rfl]
    exact h.slice
  · rw [State.txn_modTxn (f := Txn.spoil) (fun _ => rfl), hy, Option.map_some]

theorem BufRead.word (l' : LAddr) (a : Aid) (acc w : Nat) : BufRead k e l s (readBufWord k e l' a acc r w) := by
  rw [readBufWord]
  split
  · exact h
  · dsimp only
    split
    · exact (h.heal _).raise _
    · exact (h.heal _).spoil.spoilVictims.raise _

theorem BufRead.homeHeld (l' : LAddr) : (r.slice k).homeHeld l' = (s.slice k).homeHeld l' :=
  have hh := congrArg (fun v : Slice => v.homeHeld l') h.slice
  hh

end

/-- A read of the buffers of a transaction leaves it in the tracker. -/
theorem readBuf_bufRead {s : State} {k e : Nat} {t : Txn} (ht : (s.slice k).txn e = some t) (ws : List Nat) :
    BufRead k e t.l s (readBuf k e ws s) := by
  have h0 : BufRead k e t.l s s := ⟨rfl, t, ht, rfl⟩
  rw [readBuf, ht]
  exact State.each_induction (BufRead k e t.l s) ws _ (fun r w h => h.word _ _ _ w) s h0

theorem txn_readBuf {s : State} {k e : Nat} {t : Txn} (ht : (s.slice k).txn e = some t) (ws : List Nat) :
    ((readBuf k e ws s).slice k).txn e = some ((readBuf k e ws s).bufLine k t) := by
  obtain ⟨y, hy, -⟩ := (readBuf_bufRead ht ws).txn
  rw [State.bufLine, Slice.e_of_txn ht, hy, Option.getD_some]

/-! ### An atomic operates (R87) -/

/-- Nothing follows an atomic on its line's chain before the home cache holds the line (R88). -/
theorem pipeNext_of_unheld {k : Nat} {l : LAddr} {s : State} (h : (s.slice k).homeHeld l = false) : pipeNext k l s = s := by
  have hp : (s.slice k).pipes l = false := by simp only [Slice.pipes, h, Bool.and_false, Bool.false_and]
  simp only [pipeNext, hp, Bool.false_and, Bool.false_eq_true, if_false]
  split <;> rfl

/-- A change of a transaction to one that waits for the acknowledgement of its Cmp. -/
def CmpChange (f : Txn → Txn) : Prop := ∀ t, ∃ c a n, f t = { t with cmpSent := c, ackFrom := a, ackLimit := n }

/-- A Cmp that is sent changes of the slice the transaction alone, by the wait for its acknowledgement (R83). -/
theorem sendCmp_slice {k e : Nat} {s : State} {t : Txn} (ht : (s.slice k).txn e = some t) :
    ∃ f, CmpChange f ∧ (sendCmp k e s).slice k = (s.modTxn k e f).slice k := by
  rw [sendCmp, ht]
  exact ⟨_, fun t => ⟨_, _, _, rfl⟩, rfl⟩

/-- A transaction after its atomic: the old word is its result, and the line with the new word is to be placed. -/
def Txn.operatedOn (t y : Txn) (phh : Bool) : Txn :=
  let old := wordOf y.line.data y.q.widx.toNat
  let new := setWord y.line.data y.q.widx.toNat (atomicWord y.q.op old (wordOf y.wdata.data 0) (wordOf y.wdata.data 1))
  { t with operated := true, result := old, what := .dirty, pdata := .whole new false, phh := phh, place := .due }

section
variable {s : State} {k e : Nat}

/-- Of its transaction an atomic leaves all but its result, its placement and the wait for an acknowledgement. -/
theorem operate_txn {y z : Txn} (hz : (s.slice k).txn e = some z) (hn : (s.slice k).homeHeld y.l = false) :
    ∃ phh c a n, ((operate k e y s).slice k).txn e = some { z.operatedOn y phh with cmpSent := c, ackFrom := a, ackLimit := n } := by
  obtain ⟨phh, hphh⟩ : ∃ phh, s.placesAt k y.l (setWord y.line.data y.q.widx.toNat (atomicWord y.q.op (wordOf y.line.data y.q.widx.toNat)
    (wordOf y.wdata.data 0) (wordOf y.wdata.data 1))) = phh := ⟨_, rfl⟩
  obtain ⟨r, hr⟩ : ∃ r, r = (s.modTxn k e (fun t => t.operatedOn y phh)).modSlice k (fun v => v.count 0x38 1) := ⟨_, rfl⟩
  have hrk : r.slice k = ((s.modTxn k e (fun t => t.operatedOn y phh)).slice k).count 0x38 1 := by rw [hr, State.slice_modSlice, if_pos rfl]
  have hrt : (r.slice k).txn e = some (z.operatedOn y phh) := by
    rw [hrk]
    exact (State.txn_modTxn (f := fun t => t.operatedOn y phh) (fun _ => rfl) s k e).trans (congrArg (Option.map _) hz)
  have hrn : (r.slice k).homeHeld y.l = false := by
    rw [hrk, State.modTxn, State.slice_modSlice, if_pos rfl]
    exact hn
  have ho : operate k e y s = pipeNext k y.l (if phh then sendCmp k e r else r) := by
    rw [hr, ← hphh]
    rfl
  refine ⟨phh, ?_⟩
  rw [ho]
  cases phh with
  | false =>
    rw [if_neg Bool.false_ne_true, pipeNext_of_unheld hrn]
    exact ⟨_, _, _, hrt⟩
  | true =>
    obtain ⟨f, hf, hs⟩ := sendCmp_slice hrt
    obtain ⟨c, a, n, hx⟩ := hf (z.operatedOn y true)
    have hfe (t : Txn) : (f t).e = t.e := by
      obtain ⟨c, a, n, h⟩ := hf t
      rw [h]
    have hsn : ((sendCmp k e r).slice k).homeHeld y.l = false := by
      rw [hs, State.modTxn, State.slice_modSlice, if_pos rfl]
      exact hrn
    rw [if_pos rfl, pipeNext_of_unheld hsn, hs, State.txn_modTxn hfe, hrt, Option.map_some, hx]
    exact ⟨c, a, n, rfl⟩

/-- An atomic on the line that its transaction holds: it operates, or answers POISONED and has what the requester's answer brought placed. -/
theorem execAtomicOperate_of_held {t : Txn} (ht : (s.slice k).txn e = some t) (hk : t.kind = .req) (ha : t.q.op.isAtomic = true)
    (hr : t.phase = .running) (hs : t.settled = true) (ho : t.operated = false) (hf : t.failed = false) (hl : t.line.full = true)
    (hw : s.works k = true) :
    let u := readBuf k e (List.range 8) s
    let x := u.bufLine k t
    exec (.atomicOperate k e) s = .next (if x.line.poison = true ∨ x.wdata.poison = true then
      if x.use = .rsp then (sendErr k e rsPoisoned u).modTxn k e (fun t => { t with what := .dirty, pdata := t.line, place := .due })
      else sendErr k e rsPoisoned u
    else operate k e x u) := by
  change execAtomicOperate k e s = _
  simp only [execAtomicOperate, ht, hk, ha, hr, hs, ho, hf, hl, hw, Bool.not_false, and_self, if_true, Bool.or_eq_true]

end

/-! ### The obligation -/

/-- Settles O29: the table by its rows for data and for Evict, the words by the layout of a line, and an atomic by what it leaves of its
transaction. -/
theorem writebackAndAtomicResults : Obligations.WritebackAndAtomicResults := by
  unfold Obligations.WritebackAndAtomicResults
  refine ⟨fun p a ent => ⟨fun ho hx => ?ownsX, fun ho hx => ?ownsO, fun ho => ?other, fun ho hn hf ha => ?sharer, fun ho hx hf => ?owner,
    fun ho hn hf ha => ?stranger, fun ho hn hf => ?bundle, fun ho hn => ?free⟩, fun old a b => ⟨rfl, rfl, rfl, rfl, rfl⟩,
    fun d i j w _ hj => wordOf_setWord d i w hj, fun s k e t ht hk ha hr hs ho hf hl hw hp hd _ hh => ?atomic⟩
  case ownsX =>
    rw [decideWriteback_evict, if_pos ⟨ho, hx⟩, decideWriteback_data p (by decide), if_pos ho, if_pos hx, decideWriteback_data p (by decide),
      if_pos ho, if_pos hx]
    exact ⟨rfl, rfl, rfl⟩
  case ownsO =>
    rw [decideWriteback_data p (by decide), if_pos ho, if_neg hx, decideWriteback_data p (by decide), if_pos ho, if_neg hx]
    exact ⟨rfl, rfl⟩
  case other =>
    rw [decideWriteback_data p (by decide), if_neg ho, decideWriteback_data p (by decide), if_neg ho]
    exact ⟨rfl, rfl⟩
  case sharer =>
    rw [decideWriteback_evict, if_neg (fun h => ho h.1), if_neg hn, if_pos ⟨hf, ha, ho⟩]
  case owner =>
    rw [decideWriteback_evict, if_neg (fun h => hx h.2), if_neg (by simp [ho.1]), if_neg (fun h => h.2.2 ho), if_neg (by simp [hf])]
  case stranger =>
    rw [decideWriteback_evict, if_neg (fun h => ho h.1), if_neg (fun h => hn h.2), if_neg (fun h => ha h.2.1), if_neg (by simp [hf])]
  case bundle =>
    rw [decideWriteback_evict, if_neg (fun h => ho h.1 h.2), if_neg (fun h => hn h.2), if_neg (by simp [hf])]
    cases ent.payload.getLsbD (p.bundle ent.gen a.toNat) with
    | false => exact if_neg (fun h => Bool.false_ne_true h.2.2)
    | true => exact if_pos ⟨hn, hf, rfl⟩
  case free =>
    rw [decideWriteback_evict, if_neg (by simp [ho]), if_pos ⟨ho, hn⟩]
  case atomic =>
    have hb := readBuf_bufRead ht (List.range 8)
    have hy := txn_readBuf ht (List.range 8)
    obtain ⟨y, hyl, hl'⟩ := hb.txn
    obtain rfl := Option.some.inj (hyl.symm.trans hy)
    rw [← hb.homeHeld, ← hl'] at hh
    obtain ⟨phh, c, a, n, hx⟩ := operate_txn hy hh
    refine ⟨_, _, ?_, hx, rfl, rfl, rfl, rfl, rfl⟩
    rw [execAtomicOperate_of_held ht hk ha hr hs ho hf hl hw, if_neg (by simp [hp, hd])]

end Sys2Proof.Machine
end

section
/-! Writebacks and atomics at a slice, the placement of a line, the mirror, and the close of a transaction (R83, R87, R104, R111, R215, R224, R225,
R249). -/

namespace Sys2Proof.Machine

/-! ### Writebacks (R111, R112) -/

section
variable {s : State} {k : Nat} {gt : Bool}

theorem execWritebackArrive_of_room {p : Pkt} {q : Req} {y : ReqData} {src : Nat} {cred wc : CredKind} (hw : s.works k = true)
    (hp : s.atSlice k .req gt = some p) (hm : p.msg = .req q src cred wc) (hd : q.dataIn (s.slice k).wdat = some y) (hq : q.op.isWb = true)
    (hn : (s.slice k).wbEntries < 32) : exec (.writebackArrive k gt) s = .next (takeWriteback k
      { e := (s.slice k).freeEntry, arr := (s.slice k).nextArr, q := q, d := y.d, src := src, cred := wc, gtc := p.gtc, isGt := gt }
      (noteStale k (s.slice k).freeEntry src
        ((s.setSlice k { s.slice k with nextArr := (s.slice k).nextArr + 1, wdat := q.dropData (s.slice k).wdat }).takeAtSlice k .req gt))) := by
  change execWritebackArrive k gt s = _
  simp only [execWritebackArrive, hp, hm, hd, hw, hq, hn, decide_true, Bool.and_self, if_true]

variable {w : WbMsg} (hc : (s.slice k).crossed w.q.laddr w.q.aid = none)
include hc

theorem takeWriteback_of_deferred (hd : (s.slice k).deferred.any (fun x => x.q.laddr == w.q.laddr) = true) :
    takeWriteback k w s = takeSlot k true [0x12, 0x13] (s.modSlice k (fun v => { v with deferred := v.deferred ++ [w] })) := by
  simp only [takeWriteback, hc, hd, if_true]

theorem takeWriteback_of_free (hd : (s.slice k).deferred.any (fun x => x.q.laddr == w.q.laddr) = false) :
    ∃ evs, takeWriteback k w s = activate k w.e (takeSlot k false evs (s.setSlice k ((s.slice k).enterWb w))) := by
  simp only [takeWriteback, hc, hd, Bool.false_eq_true, if_false]
  exact ⟨_, rfl⟩

end

/-! ### Atomics (R87, R89) -/

/-- An answer that is an error leaves the line of the transaction. -/
theorem sendErr_line {s : State} {k e : Nat} {x : Txn} (hx : (s.slice k).txn e = some x) (reason : BitVec 8) :
    ∃ y, ((sendErr k e reason s).slice k).txn e = some y ∧ y.line = x.line := by
  rw [sendErr]
  cases s.err.lost with
  | true => exact ⟨x, hx, rfl⟩
  | false =>
    rw [if_neg Bool.false_ne_true, hx]
    refine ⟨{ x with cmpSent := true, failed := true, ackFrom := none }, ?_, rfl⟩
    exact (State.txn_modTxn (f := fun t => { t with cmpSent := true, failed := true, ackFrom := none }) (fun _ => rfl) s k e).trans
      (congrArg (Option.map _) hx)

/-! ### Placements and the mirror (R215, R224, R225) -/

/-- A placement by its kind: nothing, a fill, a Dirty or Clean line, or a poisoned one. -/
def placeByKind (k e : Nat) (t : Txn) (u : State) : State :=
  match t.what with
  | .nothing => u
  | .fill => placeFill k t u
  | .dirty => if t.pdata.poison then placePoison k e t.l u else placeDirty k e t u
  | .clean => if t.pdata.poison then placePoison k e t.l u else placeClean k e t u
  | .poison => placePoison k e t.l u

theorem execPlacement_of_due {s : State} {k e : Nat} {t : Txn} (hw : s.works k = true) (ht : (s.slice k).txn e = some t) (hd : t.place = .due)
    (hr : t.phase = .running) (hn : (s.slice k).txns.any (fun x => x.e != e && x.phase.active && x.l == t.l && decide (x.act < t.act) &&
      decide (x.place = .due)) = false) (hv : s.victimUse k + s.victimsFor k t ≤ 16 ∨ s.victimsFor k t = 0) (hm : s.mirrorRoom k t = true) :
    let u := readBuf k e (List.range 8) (s.modTxn k e (fun t => { t with place := .busy }))
    exec (.placement k e) s = .next (placementDone k e (placeByKind k e (u.bufLine k t) u)) := by
  have hroom : (decide (s.victimUse k + s.victimsFor k t ≤ 16) || s.victimsFor k t == 0) = true := by simpa using hv
  change Host.Outcome.next (placement k e s) = _
  rw [placement, ht]
  exact congrArg Host.Outcome.next (if_pos ⟨hd, hr, by rw [hn, Bool.not_false], hroom, hm, hw⟩)

section
variable {s : State} {k : Nat} {p : Pkt} (hw : s.works k = true) (hp : s.atSlice k .rsp false = some p)
include hw hp

theorem execMirrorUpdate_of_set {hset x : Nat} {slot : BitVec 5} {ltag : BitVec 35} (hm : p.msg = .mirrorSet hset slot ltag x) :
    exec (.mirrorUpdate k) s = .next (State.sliceToSlice
      ((takeSlot k true [] (s.takeAtSlice k .rsp false)).modSlice k (fun v => v.mirrorPut hset slot ltag)) k (buddy k) .rsp (.mirrorAck x)) := by
  change execMirrorUpdate k s = _
  simp only [execMirrorUpdate, hp, hw, hm, Bool.not_true, Bool.false_eq_true, if_false]

theorem execMirrorUpdate_of_clear {hset : Nat} {slot : BitVec 5} {ltag : BitVec 35} (hm : p.msg = .mirrorClr hset slot ltag) :
    exec (.mirrorUpdate k) s = .next ((takeSlot k true [] (s.takeAtSlice k .rsp false)).modSlice k (fun v => v.mirrorDrop hset slot ltag)) := by
  change execMirrorUpdate k s = _
  simp only [execMirrorUpdate, hp, hw, hm, Bool.not_true, Bool.false_eq_true, if_false]

theorem execMirrorUpdateAck_of_ack {x : Nat} (hm : p.msg = .mirrorAck x) : exec (.mirrorUpdateAck k) s =
    .next (placementDone k x ((s.takeAtSlice k .rsp false).modTxn k x (fun t => { t with mirror := false }))) := by
  change execMirrorUpdateAck k s = _
  simp only [execMirrorUpdateAck, hp, hw, hm, Bool.not_true, Bool.false_eq_true, if_false]

end

/-- An emptied mirror set holds no entry. -/
theorem Slice.mirrorEmptied_mirror (set : Nat) (v : Slice) {i : Nat} (hi : i < 16) :
    tget (fun _ => ({} : MirEnt)) (v.mirrorEmptied set).mirror (set * 16 + i) = {} := by
  have h := get_foldl_of_idempotent (get := fun (m : Slice) j => tget (fun _ => ({} : MirEnt)) m.mirror j)
    (turn := fun (m : Slice) i => { m with mirror := tdel (set * 16 + i) m.mirror }.heal 4 (set * 16 + i)) (key := fun i => set * 16 + i)
    (f := fun _ => {}) (fun _ => rfl) (fun m i j => tget_tdel _ _ j _) (List.range 16) v (set * 16 + i)
  rw [if_pos (List.mem_map_of_mem (List.mem_range.mpr hi))] at h
  dsimp only [Slice.mirrorEmptied]
  exact h

theorem slice_mirrorSet_foldl {α : Type} (k set : Nat) (slot : α → Nat) (ltag : α → BitVec 35) (e : Nat) (l : List α) (s : State) (j : Nat) :
    (l.foldl (fun s x => mirrorSet k set (slot x) (ltag x) e s) s).slice j = s.slice j :=
  List.foldlRecOn (motive := fun w : State => w.slice j = s.slice j) l _ rfl fun _ h _ _ => h

/-! ### The close of a transaction (R83, R104, R249) -/

/-- The entry of a transaction that closes, in its way when it has one. -/
def State.closedEntry (s : State) (k : Nat) (t : Txn) : State :=
  t.way.elim s (fun w => s.modSlice k (fun v => v.setSf (sfSet t.l) w (s.closingEnt k t)))

/-- A slice that has written the entry and counted the events of the close (R518). -/
def State.closedCounted (s : State) (k : Nat) (t : Txn) (p : Tbl Ctr) : State := (s.closedEntry k t).modSlice k (fun v => { v with perf := p })

theorem State.closedCounted_sf (s : State) (k : Nat) {t : Txn} {w : Nat} (hy : t.way = some w) (p : Tbl Ctr) :
    ((s.closedCounted k t p).slice k).sf = tset (fun _ => {}) (sfAddr (sfSet t.l) w) (s.closingEnt k t) (s.slice k).sf := by
  rw [State.closedCounted, State.closedEntry, hy, Option.elim_some, State.slice_modSlice, if_pos rfl, State.slice_modSlice, if_pos rfl]
  rfl

/-- The command whose flush ends with its transaction (R249). -/
def State.flushEnded (r : State) (t : Txn) : State :=
  if t.kind ≠ .flushLine then r else if t.failed then r.endCmd t.cmd stFailed 0x18 [] else r.endCmd t.cmd stOk 0 [t.outcome.setWidth 64]

theorem execTxnClose_of_closable {s : State} {k e : Nat} {t : Txn} (hw : s.works k = true) (ht : (s.slice k).txn e = some t)
    (hc : (s.slice k).closable t = true) : ∃ p, exec (.txnClose k e) s =
      .next (grantRun k (passOn k t.l t.counted ((release k t (s.closedCounted k t p)).flushEnded t))) := by
  have hgo : ¬((!((s.slice k).closable t) || !(s.works k)) = true) := by rw [hc, hw]; exact Bool.false_ne_true
  obtain ⟨evs, hevs⟩ : ∃ evs : List Nat, closeTxn k e s = grantRun k (passOn k t.l t.counted
      ((release k t ((s.closedEntry k t).modSlice k (fun v => evs.foldl (fun v x => v.count x 1) v))).flushEnded t)) := by
    rw [closeTxn, ht]
    simp only [if_neg hgo, State.closedEntry]
    cases t.way <;> exact ⟨_, rfl⟩
  obtain ⟨p, hp⟩ := Slice.count_foldl evs ((s.closedEntry k t).slice k)
  refine ⟨p, congrArg Host.Outcome.next (hevs.trans ?_)⟩
  rw [State.modSlice, hp]
  rfl

/-! ### The obligation -/

/-- Settles O30: a writeback by what stands on its line, an atomic by what it reads, a placement by its kind, and a close by its way. -/
theorem writebacksAtomicsAndClose : Obligations.WritebacksAtomicsAndClose := by
  unfold Obligations.WritebacksAtomicsAndClose
  refine fun s k e set gt hw => ⟨fun p q y src cred wc hp hm hd hq hn => execWritebackArrive_of_room hw hp hm hd hq hn,
    fun w hc => ⟨fun hd => ?deferred, fun hd => takeWriteback_of_free hc hd⟩,
    fun t ht hk ha hr hs ho hf hl => ⟨fun hp hd => ?sound, fun hp => ⟨fun hu => ?poisoned, fun hu => ?answered⟩⟩,
    fun t ht hd hr hn hv hm => execPlacement_of_due hw ht hd hr hn hv hm,
    fun p hset slot ltag x hp => ⟨fun hm => execMirrorUpdate_of_set hw hp hm, fun hm => execMirrorUpdate_of_clear hw hp hm,
      fun hm => execMirrorUpdateAck_of_ack hw hp hm⟩,
    fun hb hr => ?refresh, fun t ht hc hk hn => ?close, fun t w ht hc hk hy => ?closeWay, fun t ht hc hk => ?closeFlush⟩
  case deferred =>
    rw [takeWriteback_of_deferred hc hd]
    obtain ⟨p, q, h⟩ := takeSlot_slice k true [0x12, 0x13] (s.modSlice k (fun v => { v with deferred := v.deferred ++ [w] }))
    rw [State.slice_modSlice, if_pos rfl] at h
    exact ⟨by rw [h], by rw [h]⟩
  case sound =>
    rw [execAtomicOperate_of_held ht hk ha hr hs ho hf hl hw, if_neg (by simp [hp, hd])]
  case poisoned =>
    rw [execAtomicOperate_of_held ht hk ha hr hs ho hf hl hw, if_pos hp, if_neg hu]
  case answered =>
    obtain ⟨y, hy, hl'⟩ := sendErr_line (txn_readBuf ht (List.range 8)) rsPoisoned
    rw [execAtomicOperate_of_held ht hk ha hr hs ho hf hl hw, if_pos hp, if_pos hu]
    refine congrArg Host.Outcome.next (State.modTxn_congr hy ?_)
    rw [hl']
  case refresh =>
    refine ⟨_, execMirrorRefresh_of_asked (List.contains_iff_mem.mpr hr) hw hb, ?_, fun i hi => ?_⟩ <;>
      rw [slice_mirrorSet_foldl, slice_mirrorSet_foldl, State.slice_modSlice, if_pos rfl]
    · rw [Slice.mirrorEmptied_refresh]
      simp
    · exact Slice.mirrorEmptied_mirror set _ hi
  case close =>
    obtain ⟨p, hx⟩ := execTxnClose_of_closable hw ht hc
    rw [State.flushEnded, if_pos hk] at hx
    refine ⟨_, hx, ?_⟩
    rw [State.closedCounted, State.closedEntry, hn, State.slice_modSlice, if_pos rfl]
    exact ⟨rfl, rfl⟩
  case closeWay =>
    obtain ⟨p, hx⟩ := execTxnClose_of_closable hw ht hc
    rw [State.flushEnded, if_pos hk] at hx
    refine ⟨_, hx, ?_, fun n hn => ?_⟩
    · rw [Slice.sfAt, State.closedCounted_sf s k hy, tget_tset_self]
    · rw [State.closedCounted_sf s k hy, tget_tset, if_neg hn]
  case closeFlush =>
    obtain ⟨p, hx⟩ := execTxnClose_of_closable hw ht hc
    rw [State.flushEnded, if_neg (not_not_intro hk)] at hx
    refine ⟨s.closedCounted k t p, hx.trans ?_⟩
    cases t.failed <;> rfl

end Sys2Proof.Machine
end
